-- ==== Sys2Proof/Word.lean ====
section
/-! DEFINITION. The word types and the plainest arithmetic: bytes, 32-bit register words, little-endian byte order (R9),
saturation, rounding. -/
namespace Sys2Proof

/-- A byte of flash, of a bus frame or of a message. -/
abbrev Byte := BitVec 8

/-- A 32-bit word of the register window (R7, R9). -/
abbrev Word := BitVec 32

/-- A signed fixed-point quantity in a two's-complement field of `w` bits, as an integer. -/
def toSigned (w n : Nat) : Int :=
  if n % 2 ^ w < 2 ^ (w - 1) then (n % 2 ^ w : Nat) else ((n % 2 ^ w : Nat) : Int) - (2 ^ w : Nat)

/-- The two's-complement field of `w` bits of an integer. -/
def ofSigned (w : Nat) (i : Int) : Nat := (i % ((2 ^ w : Nat) : Int)).toNat

/-- The nearest integer in a range. -/
def clampInt (lo hi i : Int) : Int := if i < lo then lo else if hi < i then hi else i

/-- A signed value saturated to a field of `w` bits. -/
def satSigned (w : Nat) (i : Int) : Nat :=
  ofSigned w (clampInt (-((2 ^ (w - 1) : Nat) : Int)) (((2 ^ (w - 1) : Nat) : Int) - 1) i)

/-- A count saturated to a field of `w` bits. -/
def satNat (w n : Nat) : Nat := min n (2 ^ w - 1)

/-- A value limited to a range. -/
def clampNat (lo hi n : Nat) : Nat := max lo (min hi n)

/-- Division rounded up. -/
def ceilDiv (a b : Nat) : Nat := (a + b - 1) / b

/-- Division rounded to the nearest integer, halves upward. -/
def roundDiv (a b : Nat) : Nat := (2 * a + b) / (2 * b)

/-- Bit `i` of a number. -/
def bitOf (n i : Nat) : Bool := n / 2 ^ i % 2 == 1

/-- The number with bit `i` set. -/
def setBit (n i : Nat) : Nat := if bitOf n i then n else n + 2 ^ i

/-- The number with bit `i` clear. -/
def clearBit (n i : Nat) : Nat := if bitOf n i then n - 2 ^ i else n

/-- The bits `lo`, …, `lo + w - 1` of a number. -/
def bitsOf (n lo w : Nat) : Nat := n / 2 ^ lo % 2 ^ w

/-- 1 for true, 0 for false: a flag bit in a field. -/
def flag (b : Bool) : Nat := if b then 1 else 0

/-- The number whose bytes, lowest first, are given (R9). -/
def leBytes : List Byte → Nat
  | [] => 0
  | b :: bs => b.toNat + 256 * leBytes bs

/-- The lowest `k` bytes of a number, lowest first (R9). -/
def toLeBytes : Nat → Nat → List Byte
  | 0, _ => []
  | k + 1, n => BitVec.ofNat 8 n :: toLeBytes k (n / 256)

/-- Little-endian words of a byte string, the last one filled up with zeros. -/
def leWords : Nat → List Byte → List Nat
  | 0, _ => []
  | k + 1, bs => leBytes (bs.take 4) :: leWords k (bs.drop 4)

/-- The sum of a list. -/
def sumNat (l : List Nat) : Nat := l.foldl (· + ·) 0

/-- How far two numbers lie apart. -/
def natDist (a b : Nat) : Nat := a - b + (b - a)

/-- The indexes below `n` at which a predicate holds, lowest first. -/
def indexes (n : Nat) (p : Nat → Bool) : List Nat := (List.range n).filter p

/-- How many indexes below `n` meet a predicate. -/
def countBelow (n : Nat) (p : Nat → Bool) : Nat := (indexes n p).length

/-- The bit mask of the indexes below `n` at which a predicate holds. -/
def maskOf (n : Nat) (p : Nat → Bool) : Nat := sumNat ((indexes n p).map (2 ^ ·))

end Sys2Proof
end

