-- ==== Sys2Proof/Syntax.lean ====
section
/-! DEFINITION. The commands: one constructor of `Instr` per row of spec/opcode_table.json, in the table's order, and the
types of their operands. -/
namespace Sys2Proof

/-- A 16-bit master ID of the host fabric, R52. -/
abbrev Master := BitVec 16

/-- A byte offset within the 1 MiB register window, R7. -/
abbrev Offset := BitVec 20

/-- The levels of the nine strap pins, Table 2.7; an open strap reads 0 (R66). -/
structure Straps where
  profileSel : BitVec 3 := 0
  xtalDly    : BitVec 3 := 0
  leader     : Bool := false
  dieId      : BitVec 2 := 0
  deriving DecidableEq, Repr

/-- The revision of the JESD216 Basic Flash Parameter Table that a device provides, R72. -/
inductive SfdpRevision where
  | missing | beforeB | bOrLater
  deriving DecidableEq, Repr

/-- The transfer modes of the flash port, R71. -/
inductive SpiMode where
  | m111 | m114 | m144
  deriving DecidableEq, Repr

/-- A quad read that an SFDP table declares: its transfer mode, fastest clock in kHz, and dummy cycles. -/
structure QuadRead where
  mode   : SpiMode
  maxKHz : Nat
  dummy  : Nat
  deriving DecidableEq, Repr

/-- What the flash device's SFDP tables declare, R72: the revision, 4-byte addressing, density in MiB, the quad reads, whether
4-byte address instructions exist or which method enters 4-byte addressing, and the quad-enable method. -/
structure Sfdp where
  revision  : SfdpRevision := .bOrLater
  fourByte  : Bool
  densityMiB : Nat
  quadReads : List QuadRead
  fourByteInstr : Bool := true
  enter4    : Nat := 0
  quadEnable : Nat := 0
  deriving DecidableEq, Repr

/-- Who writes a register: the host fabric or one of the three processors (Table 1.5). -/
inductive Writer where
  | host | flp | mdp | mgp
  deriving DecidableEq, Repr

/-- The PMBus commands Chaza sends to a bus converter, R55. -/
inductive ConvCmd where
  | readVin | readVout | readIout | readTemperature1 | statusWord
  deriving DecidableEq, Repr

/-- A pulse at FLOW_TACH, R58: the time from the rising edge before it, and its width, in µs. -/
structure TachPulse where
  gap   : Nat
  width : Nat
  deriving DecidableEq, Repr

/-- The three voltages of a diode conversion, in µV, at 16, 64 and 256 µA, R252. -/
structure Diode where
  v1 : Nat
  v2 : Nat
  v3 : Nat
  deriving DecidableEq, Repr


/-- The boundary register, R75: a data cell and an enable cell for each PWM, the two trip outputs, the other digital outputs
and the digital inputs of Table 2.5, in its order. The outputs are CLKMON, SPI_CLK, SPI_CS_N, SPI_IO[0] to [3], PMB_SCL,
PMB_SDA, ALERT_N, BCL_SCL, BCL_SDA, BC_EN[0] to [3], CKO and DO of IDL0 to IDL2 and of PBP; the inputs SYNC_IN, PORST_N,
BRAKE_N, the nine straps, SPI_IO[0] to [3], PMB_SCL, PMB_SDA, BCL_SCL, BCL_SDA, BC_PG, CKI and DI of IDL0 to IDL2 and PBP. -/
structure Boundary where
  pwmData    : List Bool := []
  pwmEnable  : List Bool := []
  thermTripN : Bool := true
  pwrOffReq  : Bool := false
  outputs    : List Bool := []
  inputs     : List Bool := []
  deriving DecidableEq, Repr

/-- A remote-sense voltage of a rail, in 0.25 mV, R148. -/
structure RailSense where
  rail  : Fin 8
  sense : Nat
  deriving DecidableEq, Repr

/-- Who accesses a mailbox channel from outside (Table 14.1): a host master, or the debug port under DBGACC. -/
inductive Party where
  | host (master : Master)
  | dbgacc
  deriving DecidableEq, Repr

/-- A write of DOM_D.HVOTE.RETRY: who writes, and which domain's, R305. -/
structure RetryWrite where
  party  : Party
  domain : Fin 96
  deriving DecidableEq, Repr

/-- An access made through DBGACC, R75. -/
inductive DebugAccess where
  | none
  | read (off : Offset)
  | write (off : Offset) (value : Word)
  deriving DecidableEq, Repr


/-- The commands of the block. -/
inductive Instr where
  /-- COLD_RESET, R93. PORST_N low for a time, then high with the straps at these levels. -/
  | coldReset (lowNs : Nat) (straps : Straps)
  /-- SUPPLY_MONITOR_RESET, R60. V3P3_AUX falls to a voltage, in mV. -/
  | supplyMonitorReset (millivolts : Nat) (straps : Straps)
  /-- WARM_RESET, R129. A write of GCTL.WARM_RESET. -/
  | warmReset (value : Word)
  /-- FABRIC_WARM_RESET, R93. The host fabric's reset. -/
  | fabricWarmReset
  /-- REGISTER_WRITE, R11. A host write of a register. -/
  | registerWrite (master : Master) (off : Offset) (value : Word)
  /-- MISALIGNED_ACCESS, R9. An access that is not one aligned 32-bit word. -/
  | misalignedAccess (off : Offset) (bytes : Nat)
  /-- READ_64_LOW_WORD, R14. A read of the low word of a 64-bit register. -/
  | read64LowWord (master : Master) (off : Offset)
  /-- READ_64_HIGH_WORD, R14. A read of the high word, at this offset. -/
  | read64HighWord (master : Master) (off : Offset)
  /-- WRITE_64_LOW_WORD, R14. A write of the low word of a 64-bit register. -/
  | write64LowWord (master : Master) (off : Offset) (value : Word)
  /-- WRITE_64_HIGH_WORD, R14. A write of the high word, at this offset. -/
  | write64HighWord (master : Master) (off : Offset) (value : Word)
  /-- XTAL_DELAY_END, R76. The stability delay ends. -/
  | xtalDelayEnd
  /-- XTAL_MEASUREMENT_DONE, R76. Crystal cycles counted over 16,384 oscillator cycles. -/
  | xtalMeasurementDone (count : Nat)
  /-- CRYSTAL_MONITOR_WINDOW, R79. Crystal cycles counted over one 64 µs window. -/
  | crystalMonitorWindow (count : Nat)
  /-- CLKMON_WRITE, R83. A write of CLK.CLKMON. -/
  | clkmonWrite (value : Word)
  /-- SYNC_IN_EDGE, R84. A rising edge, in ps after the start of the present beat. -/
  | syncInEdge (at_ : Nat)
  /-- TICK, R84. The next tick, with the remote-sense voltages of rails 0 to 7 in it, 0.25 mV; eight more for each tick that is
  to follow without a TICK of its own, tick 0 of the next beat among them. -/
  | tick (sense : List Nat)
  /-- SYNC_WINDOW_CLOSE, R85. The window of an expected edge closes without one. -/
  | syncWindowClose
  /-- SUBSTITUTE_BEAT_START, R85. The fractional counter ends a substitute beat. -/
  | substituteBeatStart
  /-- SCHEDULED_ACTION, R91. An action scheduled for a beat is due to be looked at. -/
  | scheduledAction (beat : BitVec 48)
  /-- PLL_LOCK, R82. A cluster PLL raises PLL_LOCK. -/
  | pllLock (cluster : Fin 12)
  /-- PLL_LOCK_TIMEOUT, R82. 20 µs pass without PLL_LOCK. -/
  | pllLockTimeout (cluster : Fin 12)
  /-- DIVIDER_RAMP_STEP, R81. 256 output cycles of a divider step have passed. -/
  | dividerRampStep (cluster : Fin 12)
  /-- CLUSTER_FREQ_RETARGET, R183. The CLC compares its target frequency with its PLL. -/
  | clusterFreqRetarget (cluster : Fin 12)
  /-- BOOT_STEP_1, R111. With what the flash device's SFDP tables declare. -/
  | bootStep1 (sfdp : Sfdp)
  /-- BOOT_STEP_2, R97. Boot header. -/
  | bootStep2
  /-- BOOT_STEP_3, R101. Calibration copy. -/
  | bootStep3
  /-- CALIBRATION_APPLY, R254. The tick 0 after a calibration copy is chosen. -/
  | calibrationApply
  /-- BOOT_STEP_4, R78. With whether the system PLL locked within 100 µs. -/
  | bootStep4 (pllLocked : Bool)
  /-- BOOT_STEP_5, R103. Configuration bank. -/
  | bootStep5
  /-- BOOT_STEP_6, R106. Firmware image. -/
  | bootStep6
  /-- BOOT_STEP_7, R120. With whether the event-record region could be read. -/
  | bootStep7 (readable : Bool)
  /-- BOOT_STEP_8, R116. Straps and profile. -/
  | bootStep8
  /-- BOOT_STEP_9, R111. Staging and checks. -/
  | bootStep9
  /-- BOOT_STEP_10, R111. Release. -/
  | bootStep10
  /-- GCTL_ENABLE_WRITE, R124. A write of GCTL.ENABLE. -/
  | gctlEnableWrite (value : Word)
  /-- CONSISTENCY_CHECK_DONE, R124. The check in progress ends. -/
  | consistencyCheckDone
  /-- STAGED_APPLY, R124. The next tick 0 after checks passed. -/
  | stagedApply
  /-- LEADER_IDENTITY_TIMEOUT, R69. 100 ms since link start. -/
  | leaderIdentityTimeout
  /-- IDENTITY_FRAME, R237. A frame received on an IDL port. -/
  | identityFrame (port : Fin 3) (frame : List Byte)
  /-- BC_EN_NEXT, R133. 256 beats after the last BC_EN assertion. -/
  | bcEnNext
  /-- BC_PG_RISE, R133. BC_PG rises. -/
  | bcPgRise
  /-- CONVERTER_READ_DONE, R138. A transaction ends; none is a NACK or PEC error. -/
  | converterReadDone (conv : Fin 4) (cmd : ConvCmd) (result : Option (BitVec 16))
  /-- BC_START_TIMEOUT, R136. 20 ms since the last BC_EN assertion. -/
  | bcStartTimeout
  /-- PGOOD_SET, R135. 16 consecutive beats within UV of the target. -/
  | pgoodSet (rail : Fin 8)
  /-- RAIL_START_TIMEOUT, R136. The ramp time plus 1,000 beats. -/
  | railStartTimeout (rail : Fin 8)
  /-- RAIL_SHUTDOWN_STEP, R137. A tick 0 of a shutdown. -/
  | railShutdownStep
  /-- CONVERTER_POLL, R138. The next scheduled telemetry read. -/
  | converterPoll
  /-- BC_PG_FALL, R138. BC_PG falls. -/
  | bcPgFall
  /-- IMON_CONVERSION, R144. IMON of the rail's phases, in µV above IMREF. -/
  | imonConversion (rail : Fin 8) (microvolts : List Int)
  /-- TMON_CONVERSION, R156. TMON of a phase. -/
  | tmonConversion (phase : Fin 44) (millivolts : Nat)
  /-- SETTLED, R151. Four ticks within BAND. -/
  | settled (rail : Fin 8)
  /-- SEQ_TIMEOUT, R154. SETTLE.TIMEOUT beats without SETTLED. -/
  | seqTimeout (rail : Fin 8)
  /-- RAIL_VSET_WRITE, R155. A write of RAIL.VSET. -/
  | railVsetWrite (writer : Writer) (rail : Fin 8) (value : Word)
  /-- OVERSHOOT_DETECT, R148. The truncation comparator. -/
  | overshootDetect (at_ : RailSense)
  /-- TRUNCATION_RELEASE, R148. Below half the truncation margin. -/
  | truncationRelease (at_ : RailSense)
  /-- OVERVOLTAGE_DETECT, R149. Two consecutive ticks above VLIM.MAX + OV. -/
  | overvoltageDetect (rail : Fin 8)
  /-- UNDERVOLTAGE_DETECT, R149. 64 consecutive beats below. -/
  | undervoltageDetect (rail : Fin 8)
  /-- RAIL_OVER_LIMIT, R159. Four consecutive beats above ILIM_EFF. -/
  | railOverLimit (rail : Fin 8)
  /-- STAGE_HOT, R149. 16 consecutive beats at or above STAGE_TLIM. -/
  | stageHot (phase : Fin 44)
  /-- RAIL_FAULT, R150. An overvoltage has lasted 8 beats. -/
  | railFault (rail : Fin 8)
  /-- PLDRAG_RELEASE, R159. 64 beats at or below 0.9 ILIM_EFF. -/
  | pldragRelease (rail : Fin 8)
  /-- FLP_EVENT_RESPONSE, R163. The FLP answers a raised event bit. -/
  | flpEventResponse (off : Offset) (bit : Fin 32)
  /-- DERATE_EVALUATION, R164. The 100 ms evaluation of a CORE rail. -/
  | derateEvaluation (rail : Fin 4)
  /-- TELEMETRY_SHORT_WINDOW, R166. A short window ends. -/
  | telemetryShortWindow (rail : Fin 8)
  /-- TELEMETRY_LONG_WINDOW, R166. A long window ends. -/
  | telemetryLongWindow (rail : Fin 8)
  /-- TEL_CLEAR_PEAK, R167. A write of TEL.CLR. -/
  | telClearPeak (rail : Fin 8) (value : Word)
  /-- NOTICE_CROSSING, R175. A supply sample, 0.25 mV. -/
  | noticeCrossing (core : Fin 288) (sample : Nat)
  /-- SHOE_CROSSING, R176. A supply sample, 0.25 mV. -/
  | shoeCrossing (core : Fin 288) (sample : Nat)
  /-- HARD_CROSSING, R177. A supply sample, 0.25 mV. -/
  | hardCrossing (core : Fin 288) (sample : Nat)
  /-- SHOE_HOLD_EXPIRY, R176. The shoe hold count reaches 0. -/
  | shoeHoldExpiry (core : Fin 288)
  /-- SHOE_RAMP_STEP, R176. 16 cycles of the shoe ramp. -/
  | shoeRampStep (core : Fin 288)
  /-- HARD_HOLD_EXPIRY, R177. The hard hold ends. -/
  | hardHoldExpiry (core : Fin 288)
  /-- HARD_RAMP_STEP, R177. 16 cycles of the hard rise. -/
  | hardRampStep (core : Fin 288)
  /-- CPA_COUNTER_CLEAR, R175. A write of CPA.CLR. -/
  | cpaCounterClear (core : Fin 288) (value : Word)
  /-- DRAG_OVERRIDE_WRITE, R180. A write of CPA.DRAG_OVR. -/
  | dragOverrideWrite (writer : Writer) (core : Fin 288) (value : Word)
  /-- LOAD_NOTICE, R47. The sequencer offers a notice. -/
  | loadNotice (core : Fin 288) (cls : Fin 16) (density lead : BitVec 8) (engines : BitVec 4)
  /-- CLC_NOTICE_TAKE, R186. The CLC's takes of one tick. -/
  | clcNoticeTake (cluster : Fin 12)
  /-- COUPLING_RAISE_END, R188. CPL.HOLD beats after the last cluster release. -/
  | couplingRaiseEnd (rail : Fin 4)
  /-- ISSUE_WINDOW_START, R190. WIN_START, with what ME0 to ME3 issued in the window that ended. -/
  | issueWindowStart (core : Fin 288) (issued : List Nat)
  /-- DIDT_PERIOD, R191. 32 cluster-clock cycles. -/
  | didtPeriod (cluster : Fin 12)
  /-- FILLER_DECAY, R194. WIN_START of a decaying filler. -/
  | fillerDecay (core : Fin 288)
  /-- METER_INTERVAL, R204. A meter interval of a core ends: the sums of its 16 counters, and the MISSUE issued while FILL_EN was 1. -/
  | meterInterval (core : Fin 288) (counts : List Nat) (fillIssue : Nat)
  /-- RECALIBRATION_PERIOD, R206. A 10 ms period of a CORE rail ends. -/
  | recalibrationPeriod (rail : Fin 4)
  /-- CORE_GRANT_FRAME, R216. Tick 16 of a core-grant frame. -/
  | coreGrantFrame (cluster : Fin 12)
  /-- DIE_BUDGET_FRAME, R227. Tick 16 of a die-budget frame. -/
  | dieBudgetFrame
  /-- FLP_CAP_UPDATE, R213. The FLP computes C. -/
  | flpCapUpdate
  /-- CAP_OVERRIDE_WRITE, R218. A write of PWR.OVR. -/
  | capOverrideWrite (writer : Writer) (value : Word)
  /-- FLP_DIE_BUDGET_WRITE, R234. The leader's FLP writes the die budgets. -/
  | flpDieBudgetWrite
  /-- REPORT_FRAME, R238. A frame received on an IDL port. -/
  | reportFrame (port : Fin 3) (frame : List Byte)
  /-- GRANT_FRAME, R239. A frame received on an IDL port. -/
  | grantFrame (port : Fin 3) (frame : List Byte)
  /-- DIE_LOST, R238. REPORTs of a die missing for REPORT_TO frames. -/
  | dieLost (die : Fin 4)
  /-- LEADER_LOST, R239. No valid GRANT by REPORT_TO frames. -/
  | leaderLost
  /-- PACKAGE_FRAME, R242. Tick 16 of a package frame. -/
  | packageFrame
  /-- FLP_PBP_TX_WRITE, R242. The leader's FLP writes REQ and FLOOR. -/
  | flpPbpTxWrite
  /-- P_FRAME, R243. A frame received on the package budget port. -/
  | pFrame (frame : List Byte)
  /-- PBP_SILENT, R244. QUIET reaches SILENT_TO. -/
  | pbpSilent
  /-- THERMAL_FRAME, R256. A conversion frame ends and the next begins. -/
  | thermalFrame
  /-- BAND_UPD, R292. The tick 0 at which BAND_UPD of a stack is due. -/
  | bandUpd (stack : Fin 6)
  /-- THROTTLE_DIVIDER_STEP, R267. 256 output cycles of the thermal divider have passed. -/
  | throttleDividerStep (cluster : Fin 12)
  /-- DIODE_CONVERSION_DONE, R252. The conversions of a slot, of the two channels of a unit. -/
  | diodeConversionDone (unit_ : Fin 32) (even odd : Diode)
  /-- THERMISTOR_CONVERSION_DONE, R253. A thermistor conversion. -/
  | thermistorConversionDone (ntc : Fin 8) (microvolts : Nat)
  /-- TRIP_FLASH_ABORT_DONE, R272. WIP clears after the software reset. -/
  | tripFlashAbortDone
  /-- TRIP_RECORD_PROGRAM_DONE, R272. The page program of the trip record ends. -/
  | tripRecordProgramDone
  /-- TRIP_RECORD_READBACK_DONE, R271. The read-back ends, this long after THERMTRIP_N. -/
  | tripRecordReadbackDone (good : Bool) (elapsedUs : Nat)
  /-- TRIP_PWR_OFF_TIMEOUT, R271. 5 ms after THERMTRIP_N. -/
  | tripPwrOffTimeout
  /-- MODEL_STEP, R283. Tick 48 of the step interval. -/
  | modelStep
  /-- MODEL_STEP_DONE, R283. The step completes, after some RCLK cycles. -/
  | modelStepDone (cycles : Nat)
  /-- MDP_STEP_RESPONSE, R285. The MDP acts on the completed step. -/
  | mdpStepResponse
  /-- MODEL_LOAD_DONE, R286. The MDP has loaded the engine. -/
  | modelLoadDone
  /-- FLOW_COEFF_REWRITE, R289. With the latest pulses at FLOW_TACH. -/
  | flowCoeffRewrite (tach : List TachPulse)
  /-- FLOW_LOST, R290. The flow has lain on one side of FLOW_MIN for 1 s. -/
  | flowLost (tach : List TachPulse)
  /-- RTH_SAMPLE, R295. A second ends. -/
  | rthSample
  /-- RTH_BASELINE_COPY, R296. The MGP starts the copy that carries a learned baseline. -/
  | rthBaselineCopy
  /-- DOMAIN_ACK, R308. SW_ACK, or RET_ACK, of a domain takes a level. -/
  | domainAck (domain : Fin 96) (ret level : Bool)
  /-- DOMAIN_ACK_TIMEOUT, R310. ACK_TO beats of a step without its acknowledge. -/
  | domainAckTimeout (domain : Fin 96)
  /-- DOMAIN_VOTE_SET, R305. A write of SET. -/
  | domainVoteSet (master : Master) (domain : Fin 96)
  /-- DOMAIN_VOTE_CLEAR, R305. A write of CLR. -/
  | domainVoteClear (master : Master) (domain : Fin 96)
  /-- DOMAIN_RETRY, R310. A write of RETRY. -/
  | domainRetry (write : RetryWrite)
  /-- PARK, R313. The first tick 0 at which all domains are OFF. -/
  | park
  /-- WAKE_RESET, R317. A source completes its debounce; the voltages of WAKE_SENSE and NTC[0] from now on, in µV (R316). -/
  | wakeReset (sense ntc : Nat)
  /-- SYNC_REQUEST_TAKEN, R325. A request of an engine, with SREQ_WORD and SREQ_ARG. -/
  | syncRequestTaken (core : Fin 288) (engine : Fin 7) (word arg : Word)
  /-- READ, R327. The request at the head of the batch is a READ. -/
  | syncRead
  /-- INIT, R324. The request at the head of the batch is an INIT. -/
  | syncInit
  /-- SIGNAL, R329. The request at the head of the batch is a SIGNAL. -/
  | syncSignal
  /-- WAIT, R329. The request at the head of the batch is a WAIT. -/
  | syncWait
  /-- TRY, R327. The request at the head of the batch is a TRY. -/
  | syncTry
  /-- ARRIVE, R332. The request at the head of the batch is an ARRIVE. -/
  | syncArrive
  /-- ARRIVE_NW, R332. The request at the head of the batch is an ARRIVE_NW. -/
  | syncArriveNw
  /-- EV_SET, R331. The request at the head of the batch is an EV_SET. -/
  | syncEvSet
  /-- EV_CLEAR, R327. The request at the head of the batch is an EV_CLEAR. -/
  | syncEvClear
  /-- EV_WAIT, R327. The request at the head of the batch is an EV_WAIT. -/
  | syncEvWait
  /-- EV_TAKE, R327. The request at the head of the batch is an EV_TAKE. -/
  | syncEvTake
  /-- PRODUCE, R338. The request at the head of the batch is a PRODUCE. -/
  | syncProduce
  /-- CONSUME, R338. The request at the head of the batch is a CONSUME. -/
  | syncConsume
  /-- WAIT_DATA, R327. The request at the head of the batch is a WAIT_DATA. -/
  | syncWaitData
  /-- WAIT_SPACE, R327. The request at the head of the batch is a WAIT_SPACE. -/
  | syncWaitSpace
  /-- REALIGN, R339. The request at the head of the batch is a REALIGN. -/
  | syncRealign
  /-- COLLECT, R343. The request at the head of the batch is a COLLECT. -/
  | syncCollect
  /-- COUPLING_NOTICE, R335. Tick T − LEAD of the object's pending release. -/
  | couplingNotice (object : Fin 18432)
  /-- BARRIER_RELEASE, R334. Tick T of the object's pending release. -/
  | barrierRelease (object : Fin 18432)
  /-- CLUSTER_RELEASE, R336. The spread release tick of a cluster. -/
  | clusterRelease (cluster : Fin 12)
  /-- SYNC_POLL_REISSUE, R342. A CPA reissues a refused wait. -/
  | syncPollReissue (core : Fin 288) (engine : Fin 7)
  /-- OPREQ, R347. A message from another die. -/
  | opreq (w0 w1 w2 w3 : Word)
  /-- OPRSP, R346. A message from the leader. -/
  | oprsp (w0 w1 w2 w3 : Word)
  /-- RELEASE, R347. A message from the leader. -/
  | pkgRelease (w0 w1 w2 w3 : Word)
  /-- WITHDRAW, R347. A message from another die. -/
  | pkgWithdraw (w0 w1 w2 w3 : Word)
  /-- RETURN, R347. A message from another die. -/
  | pkgReturn (w0 w1 w2 w3 : Word)
  /-- CREATE, R357. A write of SYNC.CTX_CMD; the argument stands in SYNC.CTX_ARG. -/
  | ctxCreate (ctx : BitVec 10)
  /-- DESTROY, R357. A write of SYNC.CTX_CMD. -/
  | ctxDestroy (ctx : BitVec 10)
  /-- ABORT, R362. A write of SYNC.CTX_CMD. -/
  | ctxAbort (ctx : BitVec 10)
  /-- ABORT_WALK_END, R362. The 1,024 ticks of a context's walk have passed. -/
  | abortWalkEnd (ctx : BitVec 10)
  /-- RESUME, R357. A write of SYNC.CTX_CMD. -/
  | ctxResume (ctx : BitVec 10)
  /-- MAP, R360. A write of SYNC.CTX_CMD; the VPN stands in SYNC.CTX_ARG. -/
  | ctxMap (ctx : BitVec 10)
  /-- UNMAP, R360. A write of SYNC.CTX_CMD; the VPN stands in SYNC.CTX_ARG. -/
  | ctxUnmap (ctx : BitVec 10)
  /-- SET_WD, R357. A write of SYNC.CTX_CMD; the argument stands in SYNC.CTX_ARG. -/
  | ctxSetWd (ctx : BitVec 10)
  /-- CORECTX_WRITE, R355. A write of SYNC.CORECTX. -/
  | corectxWrite (core : Fin 288) (value : Word)
  /-- TRANSLATION_ENTRY_WRITE, R359. A write of entry 128p + e. -/
  | translationEntryWrite (index : Fin 131072) (value : Word)
  /-- WATCHDOG_SWEEP, R364. The sweep of the 1 ms interval. -/
  | watchdogSweep
  /-- WDQ_POP, R365. A write of SYNC.WDQ_POP. -/
  | wdqPop (value : Word)
  /-- MGP_WDQ_REPORT, R365. The MGP pops a report. -/
  | mgpWdqReport
  /-- DEBUG_SELECT, R368. A write of DBG.SEL. -/
  | debugSelect (value : Word)
  /-- DEBUG_SNAPSHOT, R368. The end of the tick after the write of DBG.SEL. -/
  | debugSnapshot
  /-- MAILBOX_WORD_WRITE, R376. A write of a message word. -/
  | mailboxWordWrite (party : Party) (channel : Fin 32) (word : Fin 16) (value : Word)
  /-- MAILBOX_GO, R375. A write of 1 to GO. -/
  | mailboxGo (party : Party) (channel : Fin 32)
  /-- MAILBOX_DONE, R375. A write of 1 to DONE. -/
  | mailboxDone (party : Party) (channel : Fin 32)
  /-- MGP_TAKE_MESSAGE, R384. The MGP takes the next request and checks it. -/
  | mgpTakeMessage
  /-- OUTBOUND_QUEUE_DRAIN, R391. A reply channel is EMPTY and a message waits for it. -/
  | outboundQueueDrain (channel : Fin 32)
  /-- HEARTBEAT_EXPIRY, R392. The tick 0 at which the timer has run out. -/
  | heartbeatExpiry
  /-- OPEN, R388. The request taken is an OPEN. -/
  | sessionOpen
  /-- CLOSE, R388. The request taken is a CLOSE. -/
  | sessionClose
  /-- HEARTBEAT, R392. The request taken is a HEARTBEAT. -/
  | heartbeat
  /-- SET_CAP, R214. The request taken is a SET_CAP. -/
  | setCap
  /-- GET_CAP, R396. The request taken is a GET_CAP. -/
  | getCap
  /-- SELECT_PROFILE, R118. The request taken is a SELECT_PROFILE. -/
  | selectProfile
  /-- GET_PROFILES, R396. The request taken is a GET_PROFILES. -/
  | getProfiles
  /-- ACK_TRIP_RECORD, R121. The request taken is an ACK_TRIP_RECORD. -/
  | ackTripRecord
  /-- SET_MODE, R397. The request taken is a SET_MODE. -/
  | setMode
  /-- MODE_CHANGE, R397. The tick 0 at which a requested mode takes effect. -/
  | modeChange
  /-- GET_MODE, R396. The request taken is a GET_MODE. -/
  | getMode
  /-- CTX_COMMAND, R357. The request taken is a CTX_COMMAND. -/
  | ctxCommand
  /-- GET_SUMMARY, R399. The request taken is a GET_SUMMARY. -/
  | getSummary
  /-- READ_REGS, R399. The request taken is a READ_REGS. -/
  | readRegs
  /-- GET_ABSENCE, R394. The request taken is a GET_ABSENCE. -/
  | getAbsence
  /-- UPDATE_OPEN, R416. The request taken is an UPDATE_OPEN. -/
  | updateOpen
  /-- UPDATE_ERASE_DONE, R416. The erase of the trailer sectors ends, well or not. -/
  | updateEraseDone (ok : Bool)
  /-- UPDATE_WRITE, R417. The request taken is an UPDATE_WRITE; whether its flash operations succeed. -/
  | updateWrite (ok : Bool)
  /-- UPDATE_VERIFY, R418. The request taken is an UPDATE_VERIFY; whether the flash could be read. -/
  | updateVerify (ok : Bool)
  /-- UPDATE_COMMIT, R419. The bank trailer is programmed and the bank read back, well or not. -/
  | updateCommit (ok : Bool)
  /-- UPDATE_SWITCH, R421. The request taken is an UPDATE_SWITCH. -/
  | updateSwitch
  /-- UPDATE_ABORT, R419. The request taken is an UPDATE_ABORT. -/
  | updateAbort
  /-- UPDATE_STATUS, R416. The request taken is an UPDATE_STATUS. -/
  | updateStatus
  /-- FMAX_START, R460. The request taken is an FMAX_START. -/
  | fmaxStart
  /-- FMAX_BEGIN_RECORD_DONE, R461. The FMAX_BEGIN record is programmed. -/
  | fmaxBeginRecordDone
  /-- CLUSTER_OFFLINE, R461. The tick at which the cluster in QUIET has nothing waiting. -/
  | clusterOffline
  /-- FMAX_QUIET_TIMEOUT, R461. 10 s in QUIET. -/
  | fmaxQuietTimeout
  /-- FMAX_STEP_BEGIN, R462. A sweep step may begin. -/
  | fmaxStepBegin
  /-- FMAX_STEP_DONE, R462. DWELL ms of a step have passed; the cores whose path monitor counted nothing late. -/
  | fmaxStepDone (passed : BitVec 24)
  /-- FMAX_STEP_INVALID_TIMEOUT, R461. 10 s of an invalid step. -/
  | fmaxStepInvalidTimeout
  /-- FMAX_COMMIT, R463. The trailer of the new copy is programmed and read back, well or not. -/
  | fmaxCommit (ok : Bool)
  /-- FMAX_END, R464. The tick after END is entered. -/
  | fmaxEnd
  /-- FMAX_ABORT, R464. The request taken is an FMAX_ABORT. -/
  | fmaxAbort
  /-- FMAX_STATUS, R460. The request taken is an FMAX_STATUS. -/
  | fmaxStatus
  /-- RTH_RELEARN, R296. The request taken is an RTH_RELEARN. -/
  | rthRelearn
  /-- HEALTH_READ, R459. The request taken is a HEALTH_READ. -/
  | healthRead
  /-- LOG_READ, R424. The request taken is a LOG_READ. -/
  | logRead
  /-- LOG_STATUS, R423. The request taken is a LOG_STATUS. -/
  | logStatus
  /-- TRACE_MASK, R429. The request taken is a TRACE_MASK. -/
  | traceMask
  /-- EVENT_READ, R428. The request taken is an EVENT_READ. -/
  | eventRead
  /-- VOTE_CLEAR, R398. The request taken is a VOTE_CLEAR. -/
  | voteClear
  /-- VOTE_SET, R398. The request taken is a VOTE_SET. -/
  | voteSet
  /-- BRAKE_DOORBELL_SET, R402. A write of MBX.BRAKE. -/
  | brakeDoorbellSet (value : Word)
  /-- BRAKE_DOORBELL_CLR, R402. A write of MBX.BRAKE. -/
  | brakeDoorbellClr (value : Word)
  /-- BRAKE_N_ASSERT, R63. BRAKE_N has been low for a time. -/
  | brakeNAssert (lowNs : Nat)
  /-- BRAKE_N_RELEASE, R402. BRAKE_N has been high for a time. -/
  | brakeNRelease (highNs : Nat)
  /-- PAGE, R405. PMBus PAGE: a write of a page, with the PEC byte if the controller sends one, or a read. -/
  | pmPage (page pec : Option Byte)
  /-- CLEAR_FAULTS, R405. PMBus CLEAR_FAULTS. -/
  | pmClearFaults (pec : Option Byte)
  /-- CAPABILITY, R405. PMBus CAPABILITY. -/
  | pmCapability
  /-- VOUT_MODE, R405. PMBus VOUT_MODE. -/
  | pmVoutMode
  /-- STATUS_BYTE, R405. PMBus STATUS_BYTE. -/
  | pmStatusByte
  /-- STATUS_WORD, R405. PMBus STATUS_WORD. -/
  | pmStatusWord
  /-- STATUS_VOUT, R405. PMBus STATUS_VOUT. -/
  | pmStatusVout
  /-- STATUS_IOUT, R405. PMBus STATUS_IOUT. -/
  | pmStatusIout
  /-- STATUS_TEMPERATURE, R405. PMBus STATUS_TEMPERATURE. -/
  | pmStatusTemperature
  /-- STATUS_CML, R405. PMBus STATUS_CML. -/
  | pmStatusCml
  /-- STATUS_MFR_SPECIFIC, R408. PMBus STATUS_MFR_SPECIFIC. -/
  | pmStatusMfrSpecific
  /-- READ_VIN, R405. PMBus READ_VIN. -/
  | pmReadVin
  /-- READ_VOUT, R405. PMBus READ_VOUT. -/
  | pmReadVout
  /-- READ_IOUT, R405. PMBus READ_IOUT. -/
  | pmReadIout
  /-- READ_TEMPERATURE_1, R405. PMBus READ_TEMPERATURE_1. -/
  | pmReadTemperature1
  /-- READ_TEMPERATURE_2, R405. PMBus READ_TEMPERATURE_2. -/
  | pmReadTemperature2
  /-- READ_TEMPERATURE_3, R405. PMBus READ_TEMPERATURE_3. -/
  | pmReadTemperature3
  /-- READ_POUT, R405. PMBus READ_POUT. -/
  | pmReadPout
  /-- PMBUS_REVISION, R405. PMBus PMBUS_REVISION. -/
  | pmRevision
  /-- MFR_ID, R405. PMBus MFR_ID. -/
  | pmMfrId
  /-- MFR_MODEL, R405. PMBus MFR_MODEL. -/
  | pmMfrModel
  /-- MFR_REVISION, R405. PMBus MFR_REVISION. -/
  | pmMfrRevision
  /-- NV_FLEET, R406. PMBus NV_FLEET. -/
  | nvFleet
  /-- NV_BRAKE_WRITE, R402. PMBus NV_BRAKE, write word. -/
  | nvBrakeWrite (word : BitVec 16) (pec : Option Byte)
  /-- NV_BRAKE_READ, R406. PMBus NV_BRAKE, read word. -/
  | nvBrakeRead
  /-- NV_BRIDGE_TX, R407. PMBus NV_BRIDGE_TX, with the bytes of the block, whose count is their number. -/
  | nvBridgeTx (bytes : List Byte) (pec : Option Byte)
  /-- NV_BRIDGE_RX, R407. PMBus NV_BRIDGE_RX, read to its end or broken off. -/
  | nvBridgeRx (complete : Bool)
  /-- NV_IDENTITY, R406. PMBus NV_IDENTITY. -/
  | nvIdentity
  /-- ALERT_RESPONSE, R408. A read of the Alert Response Address. -/
  | alertResponse
  /-- PMBUS_UNSUPPORTED_COMMAND, R405. A PMBus command code. -/
  | pmUnsupported (code : Byte)
  /-- SMBUS_SCL_TIMEOUT, R73. SCL has been low for a time. -/
  | smbusSclTimeout (lowUs : Nat)
  /-- EXTEST, R75. The instruction EXTEST, with a boundary scan if one follows. -/
  | jtagExtest (scan : Option Boundary)
  /-- IDCODE, R74. The instruction IDCODE. -/
  | jtagIdcode
  /-- SAMPLE_PRELOAD, R74. The instruction SAMPLE/PRELOAD: the levels of the pins, and the bits shifted in. -/
  | jtagSamplePreload (pins load : Boundary)
  /-- CLAMP, R75. The instruction CLAMP. -/
  | jtagClamp
  /-- HIGHZ, R74. The instruction HIGHZ. -/
  | jtagHighz
  /-- DBGACC, R75. The instruction DBGACC, with an access made through it. -/
  | jtagDbgacc (access : DebugAccess)
  /-- BYPASS, R74. The instruction BYPASS, or an undefined code. -/
  | jtagBypass (code : BitVec 6)
  /-- PROCESSOR_RESTART, R413. A write of FW_P.CTRL. -/
  | processorRestart (writer : Writer) (proc : Fin 3) (value : Word)
  /-- PROCESSOR_RELOAD_DONE, R414. A processor's reload and check end. -/
  | processorReloadDone (proc : Fin 3)
  /-- ALIVE_TIMEOUT, R413. ALIVE unchanged for 100 ms. -/
  | aliveTimeout (proc : Fin 2)
  /-- WDT_KICK, R415. A write of FW.WDT_KICK. -/
  | wdtKick (writer : Writer) (value : Word)
  /-- MGP_WATCHDOG_EXPIRY, R415. The watchdog has run out. -/
  | mgpWatchdogExpiry
  /-- LOG_RECORD_WRITE, R423. The ROM (0), FLP, MDP or MGP writes a log record. -/
  | logRecordWrite (source : Fin 4) (severity : Fin 6) (code : BitVec 16) (d0 d1 d2 d3 : Word)
  /-- LOG_RECORD_SELECT, R424. A write of LOG.RD_SEL. -/
  | logRecordSelect (seq : Word)
  /-- MIRROR_RECORD, R427. The MGP mirrors the next record; whether its flash operations succeed. -/
  | mirrorRecord (ok : Bool)
  /-- SCRUB_READ, R444. The scrubber reads its next word, in which these bits have been upset. -/
  | scrubRead (mem : Fin 8) (upset : BitVec 80)
  /-- ECC_WRITE_BACK, R436. The next free cycle of a memory that owes a write-back. -/
  | eccWriteBack (mem : Fin 8)
  /-- ECC_VERIFY_READ, R437. The verify read of a word written back, with the bits it shows wrong. -/
  | eccVerifyRead (mem : Fin 8) (stuck : BitVec 80)
  /-- MODEL_COEFF_REWRITE, R443. The MDP rewrites the coefficients after MODEL_RESET. -/
  | modelCoeffRewrite
  /-- TEST_RAW_WRITE, R446. A write of MP.TEST_CTL. -/
  | testRawWrite (value : Word)
  /-- TEST_RAW_READ, R446. A write of MP.TEST_CTL. -/
  | testRawRead (value : Word)
  /-- AGEING_MEASUREMENT, R450. The counts of the stressed and of the reference oscillator, by core. -/
  | ageingMeasurement (counts : List (Nat × Nat))
  /-- EM_USAGE_UPDATE, R453. A second ends. -/
  | emUsageUpdate
  /-- LIFE_PREDICTION, R452. An hour ends. -/
  | lifePrediction
  /-- CALIBRATION_PERSIST, R456. 24 hours end. -/
  | calibrationPersist
  /-- CALIBRATION_COPY_COMMIT, R296. The trailer of a calibration copy is programmed and read back, well or not. -/
  | calibrationCopyCommit (ok : Bool)
  /-- ALIVE_INCREMENT, R415. The FLP or the MDP increments its ALIVE. -/
  | aliveIncrement (proc : Fin 2)
  /-- TEST_LOGIC_RESET, R74. TRST_N low, or the TMS reset sequence. -/
  | testLogicReset
  deriving DecidableEq, Repr

end Sys2Proof
end

