-- ==== Sys2Proof/Decode.lean ====
section
/-! DEFINITION. The reading of a table word. The table gives none of its rows any bits: a command of this block is an
event, not a word, so no word spells one (log 70). -/
namespace Sys2Proof

/-- The command a word spells by the table's bits: none, since no row of the table gives bits. -/
def decodeTableWord (_nbits _w : Nat) : Option Instr := none

end Sys2Proof
end

