-- ==== Sys2Proof/Config.lean ====
section
/-! DEFINITION. What an implementation fixes and what the spec leaves open: free values, which have no body, so that no
proof can see what they are, and the cryptographic functions of the boot, which the spec names and does not define. -/
namespace Sys2Proof.Config

/-- A value the spec leaves open, drawn by the step from the counter `State.free` (log 3). -/
opaque freeValue : Nat → Nat

/-- SHA-384 of a byte string, R102, R106: named by the spec, not defined in it (log 8). -/
opaque sha384 : List Byte → Nat

/-- ECDSA P-384: public key bytes, digest, signature bytes, R102 (log 8). -/
opaque ecdsaP384Valid : List Byte → Nat → List Byte → Bool

/-- The SHA-384 hash the ROM holds for a key slot, R102: not given by the spec (log 8). -/
opaque romKeyHash : Nat → Nat

/-- Whether a quotient the spec does not say how to round is taken one up, by the place it arises, its numerator and its
denominator (log 9). -/
opaque roundsUp : Nat → Int → Int → Bool

/-- A quotient whose divisor is zero on data the spec allows, by the place it arises and its numerator (log 9). -/
opaque noQuotient : Nat → Nat → Nat

/-- A quantity that need only be within some per mille of an exact value, by the place it arises (log 13). -/
opaque nearly : Nat → Nat → Nat → Nat

/-- Whether the model engine rounds a multiply-accumulate once, and not after the product as well (log 10). -/
opaque fp32Fused : Bool

/-- An FP32 multiply-accumulate, and 64 times an FP32 word as an integer, where an operand is an infinity or no number:
the spec gives no result (log 10). -/
opaque fp32Mac : Nat → Nat → Nat → Nat
opaque scaledOfFp32 : Nat → Int

/-- The check bits of the data word in which one bit alone is set, R434: the check symbols are a fixed linear function of the data,
which the spec does not give (log 11). -/
opaque checkColumn : Nat → Nat

end Sys2Proof.Config
end

