-- ==== Sys2Proof/Machine/Store.lean ====
section
/-! DEFINITION. Sparse storage by number: a list of (key, value) pairs in one canonical form, keys strictly rising and
no entry equal to what an unlisted key reads as. Register fields, per-unit records, flash bytes, sync objects and
context pages are all held so. -/
namespace Sys2Proof.Machine

/-- Sparse storage: (key, value) pairs, keys strictly rising. -/
abbrev Store (α : Type) := List (Nat × α)

/-- What the store holds at a key; an unlisted key reads as `d` says. -/
def Store.read {α : Type} (d : Nat → α) : Store α → Nat → α
  | [], k => d k
  | (j, v) :: m, k => if k = j then v else Store.read d m k

/-- The store without any entry at a key. -/
def Store.erase {α : Type} : Store α → Nat → Store α
  | [], _ => []
  | (j, v) :: m, k => if k = j then Store.erase m k else (j, v) :: Store.erase m k

/-- The store with an entry put at its place among the keys. -/
def Store.insert {α : Type} : Store α → Nat → α → Store α
  | [], k, w => [(k, w)]
  | (j, v) :: m, k, w =>
    if k < j then (k, w) :: (j, v) :: m
    else if k = j then (k, w) :: m
    else (j, v) :: Store.insert m k w

/-- The store with value `w` at key `k`, in canonical form. -/
def Store.write {α : Type} [DecidableEq α] (d : Nat → α) (m : Store α) (k : Nat) (w : α) : Store α :=
  if w = d k then Store.erase m k else Store.insert m k w

/-- The store with its value at a key changed by a function. -/
def Store.update {α : Type} [DecidableEq α] (d : Nat → α) (m : Store α) (k : Nat) (f : α → α) : Store α :=
  Store.write d m k (f (Store.read d m k))

/-- The canonical form: keys strictly rising, no entry equal to what its key reads as when unlisted. -/
abbrev Store.wf {α : Type} (d : Nat → α) (m : Store α) : Prop :=
  m.Pairwise (fun p q => p.1 < q.1) ∧ ∀ p ∈ m, p.2 ≠ d p.1

end Sys2Proof.Machine
end

