-- ==== Sys2Proof/Machine/Fields.lean ====
section
/-! DEFINITION. The register window of R7 to R15: every field of every register table of the chapters
(Tables 0.7, 3.7, 4.12, 5.8 to 5.10, 6.5 to 6.7, 7.5, 7.6, 8.10, 9.9, 10.7, 11.7, 11.8, 12.7, 13.5 to 13.8, 14.10,
15.14, 15.15, 16.4, 16.5, 17.4), with its offset, bits, access type and reset value. A field's value lives under the
key 32 * offset + lowest bit; reserved bits have no key and read as zero (R11). -/
namespace Sys2Proof.Machine

/-- One field of one register: the register's offset in the window, the field's lowest bit and its width. -/
structure Field where
  off   : Nat
  lo    : Nat
  width : Nat
  deriving DecidableEq, Repr

/-- The key under which the field's value is held. -/
def Field.key (f : Field) : Nat := 32 * f.off + f.lo

/-- The access types of Table 0.5; `staged b` is RW under R123 for the subsystem of GCTL.ENABLE bit `b`. -/
inductive Access where
  | ro | rw | w1c | wo | rwl
  | staged (bit : Nat)
  deriving DecidableEq, Repr

/-- One row of a register table, for every instance: instance (i, j) is at `base + s1 * i + s2 * j`. The reset value is
`reset`, or an entry of `vals` by the index that `dim` names (1 or 2), or `reset + i` where `dim` is 3. -/
structure Row where
  base  : Nat
  s1    : Nat
  n1    : Nat
  s2    : Nat
  n2    : Nat
  lo    : Nat
  width : Nat
  acc   : Access
  reset : Nat
  dim   : Nat
  vals  : List Nat
  deriving DecidableEq, Repr

/-- The instance of the row at an offset, if it has one there. -/
def Row.inst? (r : Row) (off : Nat) : Option (Nat × Nat) :=
  if off < r.base then none
  else
    let d := off - r.base
    if r.s1 = 0 then (if d = 0 then some (0, 0) else none)
    else
      let i := d / r.s1
      let e := d % r.s1
      if r.n1 ≤ i then none
      else if r.s2 = 0 then (if e = 0 then some (i, 0) else none)
      else if e % r.s2 = 0 ∧ e / r.s2 < r.n2 then some (i, e / r.s2) else none

/-- The reset value of an instance of the row. -/
def Row.resetAt (r : Row) (ij : Nat × Nat) : Nat :=
  match r.dim with
  | 1 => r.vals.getD ij.1 r.reset
  | 2 => r.vals.getD ij.2 r.reset
  | 3 => r.reset + ij.1
  | _ => r.reset

/-- Register rows of block Id, offsets 0x00000 to 0x00FFF. -/
def rowsId : List Row := [
  ⟨0x00000, 0, 0, 0, 0, 16, 16, .ro, 0x4E56, 0, []⟩,
  ⟨0x00000, 0, 0, 0, 0, 0, 16, .ro, 0xC4A2, 0, []⟩,
  ⟨0x00004, 0, 0, 0, 0, 24, 8, .ro, 0x2, 0, []⟩,
  ⟨0x00004, 0, 0, 0, 0, 16, 8, .ro, 0x0, 0, []⟩,
  ⟨0x00004, 0, 0, 0, 0, 8, 8, .ro, 0x0, 0, []⟩,
  ⟨0x00008, 0, 0, 0, 0, 25, 2, .ro, 0x0, 0, []⟩,
  ⟨0x00008, 0, 0, 0, 0, 24, 1, .ro, 0x0, 0, []⟩,
  ⟨0x00008, 0, 0, 0, 0, 16, 8, .ro, 0xC, 0, []⟩,
  ⟨0x00008, 0, 0, 0, 0, 0, 16, .ro, 0x120, 0, []⟩,
  ⟨0x0000C, 0, 0, 0, 0, 0, 32, .ro, 0x1FFFF, 0, []⟩]

/-- Register rows of block Gctl, offsets 0x01000 to 0x01FFF. -/
def rowsGctl : List Row := [
  ⟨0x01000, 0, 0, 0, 0, 0, 32, .ro, 0x1207740, 0, []⟩,
  ⟨0x01004, 0, 0, 0, 0, 31, 1, .ro, 0x0, 0, []⟩,
  ⟨0x01004, 0, 0, 0, 0, 30, 1, .ro, 0x0, 0, []⟩,
  ⟨0x01004, 0, 0, 0, 0, 29, 1, .ro, 0x0, 0, []⟩,
  ⟨0x01004, 0, 0, 0, 0, 28, 1, .ro, 0x0, 0, []⟩,
  ⟨0x01004, 0, 0, 0, 0, 27, 1, .ro, 0x0, 0, []⟩,
  ⟨0x01004, 0, 0, 0, 0, 26, 1, .ro, 0x0, 0, []⟩,
  ⟨0x01004, 0, 0, 0, 0, 25, 1, .ro, 0x0, 0, []⟩,
  ⟨0x01004, 0, 0, 0, 0, 24, 1, .ro, 0x0, 0, []⟩,
  ⟨0x01004, 0, 0, 0, 0, 23, 1, .ro, 0x0, 0, []⟩,
  ⟨0x01004, 0, 0, 0, 0, 22, 1, .ro, 0x0, 0, []⟩,
  ⟨0x01004, 0, 0, 0, 0, 21, 1, .ro, 0x0, 0, []⟩,
  ⟨0x01004, 0, 0, 0, 0, 16, 4, .ro, 0x0, 0, []⟩,
  ⟨0x01004, 0, 0, 0, 0, 8, 3, .ro, 0x0, 0, []⟩,
  ⟨0x01004, 0, 0, 0, 0, 0, 8, .ro, 0x0, 0, []⟩,
  ⟨0x01008, 0, 0, 0, 0, 16, 16, .ro, 0x0, 0, []⟩,
  ⟨0x01008, 0, 0, 0, 0, 4, 3, .ro, 0x0, 0, []⟩,
  ⟨0x01008, 0, 0, 0, 0, 0, 3, .ro, 0x0, 0, []⟩,
  ⟨0x0100C, 0, 0, 0, 0, 16, 16, .wo, 0x0, 0, []⟩,
  ⟨0x0100C, 0, 0, 0, 0, 0, 1, .wo, 0x0, 0, []⟩,
  ⟨0x01010, 0, 0, 0, 0, 0, 7, .rw, 0x0, 0, []⟩,
  ⟨0x01014, 0, 0, 0, 0, 24, 3, .ro, 0x0, 0, []⟩,
  ⟨0x01014, 0, 0, 0, 0, 16, 8, .ro, 0x0, 0, []⟩,
  ⟨0x01014, 0, 0, 0, 0, 8, 3, .ro, 0x0, 0, []⟩,
  ⟨0x01014, 0, 0, 0, 0, 0, 3, .ro, 0x0, 0, []⟩,
  ⟨0x01018, 0, 0, 0, 0, 0, 32, .ro, 0x0, 0, []⟩,
  ⟨0x0101C, 0, 0, 0, 0, 24, 8, .ro, 0x0, 0, []⟩,
  ⟨0x0101C, 0, 0, 0, 0, 16, 8, .ro, 0x0, 0, []⟩,
  ⟨0x0101C, 0, 0, 0, 0, 0, 16, .ro, 0x0, 0, []⟩,
  ⟨0x01020, 0, 0, 0, 0, 8, 4, .ro, 0x0, 0, []⟩,
  ⟨0x01020, 0, 0, 0, 0, 4, 2, .ro, 0x0, 0, []⟩,
  ⟨0x01020, 0, 0, 0, 0, 0, 2, .ro, 0x0, 0, []⟩,
  ⟨0x01024, 0, 0, 0, 0, 31, 1, .ro, 0x0, 0, []⟩,
  ⟨0x01024, 0, 0, 0, 0, 0, 18, .ro, 0x0, 0, []⟩,
  ⟨0x01028, 0, 0, 0, 0, 0, 32, .ro, 0x0, 0, []⟩,
  ⟨0x0102C, 0, 0, 0, 0, 3, 1, .w1c, 0x0, 0, []⟩,
  ⟨0x0102C, 0, 0, 0, 0, 2, 1, .w1c, 0x0, 0, []⟩,
  ⟨0x0102C, 0, 0, 0, 0, 1, 1, .w1c, 0x0, 0, []⟩,
  ⟨0x0102C, 0, 0, 0, 0, 0, 1, .w1c, 0x0, 0, []⟩,
  ⟨0x01030, 0, 0, 0, 0, 0, 4, .rw, 0xF, 0, []⟩]

/-- Register rows of block Clk, offsets 0x02000 to 0x03FFF. -/
def rowsClk : List Row := [
  ⟨0x02000, 0, 0, 0, 0, 0, 32, .ro, 0x220F530, 0, []⟩,
  ⟨0x02004, 0, 0, 0, 0, 3, 1, .ro, 0x0, 0, []⟩,
  ⟨0x02004, 0, 0, 0, 0, 2, 1, .ro, 0x0, 0, []⟩,
  ⟨0x02004, 0, 0, 0, 0, 1, 1, .ro, 0x0, 0, []⟩,
  ⟨0x02004, 0, 0, 0, 0, 0, 1, .ro, 0x0, 0, []⟩,
  ⟨0x02008, 0, 0, 0, 0, 0, 16, .ro, 0x0, 0, []⟩,
  ⟨0x0200C, 0, 0, 0, 0, 24, 4, .rwl, 0x8, 0, []⟩,
  ⟨0x0200C, 0, 0, 0, 0, 16, 8, .rwl, 0x4, 0, []⟩,
  ⟨0x0200C, 0, 0, 0, 0, 8, 8, .rwl, 0x5, 0, []⟩,
  ⟨0x0200C, 0, 0, 0, 0, 0, 8, .rwl, 0x4, 0, []⟩,
  ⟨0x02010, 0, 0, 0, 0, 31, 1, .rw, 0x0, 0, []⟩,
  ⟨0x02010, 0, 0, 0, 0, 27, 4, .rw, 0x0, 0, []⟩,
  ⟨0x02010, 0, 0, 0, 0, 23, 4, .rw, 0x0, 0, []⟩,
  ⟨0x02010, 0, 0, 0, 0, 14, 9, .rw, 0x0, 0, []⟩,
  ⟨0x02010, 0, 0, 0, 0, 0, 12, .rw, 0x0, 0, []⟩,
  ⟨0x02020, 0, 0, 0, 0, 0, 32, .ro, 0x0, 0, []⟩,
  ⟨0x02024, 0, 0, 0, 0, 0, 16, .ro, 0x0, 0, []⟩,
  ⟨0x02028, 0, 0, 0, 0, 0, 16, .ro, 0x0, 0, []⟩,
  ⟨0x0202C, 0, 0, 0, 0, 16, 16, .ro, 0x0, 0, []⟩,
  ⟨0x0202C, 0, 0, 0, 0, 0, 16, .ro, 0x3E8, 0, []⟩,
  ⟨0x02030, 0, 0, 0, 0, 16, 16, .ro, 0x0, 0, []⟩,
  ⟨0x02030, 0, 0, 0, 0, 8, 8, .ro, 0x0, 0, []⟩,
  ⟨0x02030, 0, 0, 0, 0, 4, 1, .w1c, 0x0, 0, []⟩,
  ⟨0x02030, 0, 0, 0, 0, 3, 1, .ro, 0x1, 0, []⟩,
  ⟨0x02030, 0, 0, 0, 0, 2, 1, .ro, 0x0, 0, []⟩,
  ⟨0x02030, 0, 0, 0, 0, 1, 1, .ro, 0x1, 0, []⟩,
  ⟨0x02030, 0, 0, 0, 0, 0, 1, .ro, 0x1, 0, []⟩,
  ⟨0x02034, 0, 0, 0, 0, 0, 1, .rw, 0x1, 0, []⟩,
  ⟨0x02040, 0, 0, 0, 0, 16, 16, .ro, 0x0, 0, []⟩,
  ⟨0x02040, 0, 0, 0, 0, 0, 4, .ro, 0x1, 0, []⟩,
  ⟨0x02044, 0, 0, 0, 0, 16, 8, .ro, 0x0, 0, []⟩,
  ⟨0x02044, 0, 0, 0, 0, 8, 8, .ro, 0x0, 0, []⟩,
  ⟨0x02044, 0, 0, 0, 0, 0, 8, .ro, 0x0, 0, []⟩]

/-- Register rows of block Dom, offsets 0x04000 to 0x07FFF. -/
def rowsDom : List Row := [
  ⟨0x04000, 0, 0, 0, 0, 0, 32, .ro, 0x32060F4, 0, []⟩,
  ⟨0x04004, 0, 0, 0, 0, 31, 1, .ro, 0x0, 0, []⟩,
  ⟨0x04004, 0, 0, 0, 0, 30, 1, .w1c, 0x0, 0, []⟩,
  ⟨0x04004, 0, 0, 0, 0, 16, 8, .ro, 0x0, 0, []⟩,
  ⟨0x04004, 0, 0, 0, 0, 8, 8, .ro, 0x0, 0, []⟩,
  ⟨0x04004, 0, 0, 0, 0, 0, 8, .ro, 0x0, 0, []⟩,
  ⟨0x04008, 0, 0, 0, 0, 0, 3, .w1c, 0x0, 0, []⟩,
  ⟨0x0400C, 0, 0, 0, 0, 0, 3, .rw, 0x7, 0, []⟩,
  ⟨0x04010, 0, 0, 0, 0, 16, 16, .ro, 0x0, 0, []⟩,
  ⟨0x04010, 0, 0, 0, 0, 1, 1, .ro, 0x0, 0, []⟩,
  ⟨0x04010, 0, 0, 0, 0, 0, 1, .ro, 0x0, 0, []⟩,
  ⟨0x04014, 0, 0, 0, 0, 0, 32, .ro, 0x0, 0, []⟩,
  ⟨0x04020, 0, 0, 0, 0, 31, 1, .staged 6, 0x1, 0, []⟩,
  ⟨0x04020, 0, 0, 0, 0, 30, 1, .staged 6, 0x0, 0, []⟩,
  ⟨0x04020, 0, 0, 0, 0, 29, 1, .staged 6, 0x0, 0, []⟩,
  ⟨0x04020, 0, 0, 0, 0, 28, 1, .staged 6, 0x0, 0, []⟩,
  ⟨0x04020, 0, 0, 0, 0, 16, 8, .staged 6, 0x80, 0, []⟩,
  ⟨0x04020, 0, 0, 0, 0, 8, 8, .staged 6, 0x80, 0, []⟩,
  ⟨0x04020, 0, 0, 0, 0, 0, 8, .staged 6, 0x10, 0, []⟩,
  ⟨0x04024, 0, 0, 0, 0, 0, 11, .staged 6, 0x40, 0, []⟩,
  ⟨0x04028, 4, 3, 0, 0, 0, 32, .staged 6, 0x0, 0, []⟩,
  ⟨0x04040, 4, 11, 0, 0, 31, 1, .staged 6, 0x0, 0, []⟩,
  ⟨0x04040, 4, 11, 0, 0, 24, 4, .staged 6, 0x0, 0, []⟩,
  ⟨0x04040, 4, 11, 0, 0, 0, 16, .staged 6, 0x0, 0, []⟩,
  ⟨0x04100, 16, 96, 0, 0, 29, 3, .ro, 0x0, 0, []⟩,
  ⟨0x04100, 16, 96, 0, 0, 28, 1, .w1c, 0x0, 0, []⟩,
  ⟨0x04100, 16, 96, 0, 0, 27, 1, .ro, 0x0, 0, []⟩,
  ⟨0x04100, 16, 96, 0, 0, 26, 1, .ro, 0x0, 0, []⟩,
  ⟨0x04100, 16, 96, 0, 0, 25, 1, .ro, 0x0, 0, []⟩,
  ⟨0x04100, 16, 96, 0, 0, 0, 16, .ro, 0x0, 0, []⟩,
  ⟨0x04104, 16, 96, 0, 0, 0, 16, .ro, 0x0, 0, []⟩,
  ⟨0x04108, 16, 96, 0, 0, 2, 1, .wo, 0x0, 0, []⟩,
  ⟨0x04108, 16, 96, 0, 0, 1, 1, .wo, 0x0, 0, []⟩,
  ⟨0x04108, 16, 96, 0, 0, 0, 1, .wo, 0x0, 0, []⟩]

/-- Register rows of block Rail, offsets 0x08000 to 0x0BFFF. -/
def rowsRailA : List Row := [
  ⟨0x08000, 1024, 8, 0, 0, 0, 32, .ro, 0x4200800, 1, [69208064, 69212168, 69216272, 69220376, 69223456, 69227556, 69231144, 69235242]⟩,
  ⟨0x08004, 1024, 8, 0, 0, 31, 1, .ro, 0x0, 0, []⟩,
  ⟨0x08004, 1024, 8, 0, 0, 30, 1, .ro, 0x0, 0, []⟩,
  ⟨0x08004, 1024, 8, 0, 0, 29, 1, .ro, 0x0, 0, []⟩,
  ⟨0x08004, 1024, 8, 0, 0, 28, 1, .ro, 0x0, 0, []⟩,
  ⟨0x08004, 1024, 8, 0, 0, 27, 1, .ro, 0x0, 0, []⟩,
  ⟨0x08004, 1024, 8, 0, 0, 26, 1, .ro, 0x0, 0, []⟩,
  ⟨0x08004, 1024, 8, 0, 0, 25, 1, .ro, 0x0, 0, []⟩,
  ⟨0x08004, 1024, 8, 0, 0, 24, 1, .ro, 0x0, 0, []⟩,
  ⟨0x08004, 1024, 8, 0, 0, 23, 1, .ro, 0x0, 0, []⟩,
  ⟨0x08004, 1024, 8, 0, 0, 22, 1, .ro, 0x0, 0, []⟩,
  ⟨0x08004, 1024, 8, 0, 0, 21, 1, .ro, 0x0, 0, []⟩,
  ⟨0x08004, 1024, 8, 0, 0, 16, 3, .ro, 0x0, 0, []⟩,
  ⟨0x08004, 1024, 8, 0, 0, 0, 16, .ro, 0x0, 0, []⟩,
  ⟨0x08008, 1024, 8, 0, 0, 24, 8, .ro, 0x0, 0, []⟩,
  ⟨0x08008, 1024, 8, 0, 0, 16, 8, .ro, 0x0, 0, []⟩,
  ⟨0x08008, 1024, 8, 0, 0, 8, 8, .ro, 0x0, 0, []⟩,
  ⟨0x08008, 1024, 8, 0, 0, 0, 8, .ro, 0x0, 0, []⟩,
  ⟨0x0800C, 1024, 8, 0, 0, 0, 10, .w1c, 0x0, 0, []⟩,
  ⟨0x08010, 1024, 8, 0, 0, 0, 10, .rw, 0x3FF, 0, []⟩,
  ⟨0x08014, 1024, 8, 0, 0, 16, 16, .staged 2, 0x0, 1, [3800, 3800, 3800, 3800, 3600, 5000, 10800, 3600]⟩,
  ⟨0x08014, 1024, 8, 0, 0, 0, 16, .staged 2, 0x0, 1, [2000, 2000, 2000, 2000, 2400, 4000, 6800, 2400]⟩,
  ⟨0x08018, 1024, 8, 0, 0, 16, 8, .rw, 0x0, 0, []⟩,
  ⟨0x08018, 1024, 8, 0, 0, 0, 16, .rw, 0x0, 1, [3000, 3000, 3000, 3000, 3000, 4400, 10000, 3000]⟩,
  ⟨0x0801C, 1024, 8, 0, 0, 24, 8, .ro, 0x0, 0, []⟩,
  ⟨0x0801C, 1024, 8, 0, 0, 16, 8, .ro, 0x0, 0, []⟩,
  ⟨0x0801C, 1024, 8, 0, 0, 8, 8, .ro, 0x0, 0, []⟩,
  ⟨0x0801C, 1024, 8, 0, 0, 0, 8, .ro, 0x0, 0, []⟩,
  ⟨0x08020, 1024, 8, 0, 0, 16, 16, .ro, 0x0, 0, []⟩,
  ⟨0x08020, 1024, 8, 0, 0, 0, 16, .ro, 0x0, 0, []⟩,
  ⟨0x08024, 1024, 8, 0, 0, 16, 16, .ro, 0x0, 0, []⟩,
  ⟨0x08024, 1024, 8, 0, 0, 0, 16, .ro, 0x0, 0, []⟩,
  ⟨0x08028, 1024, 8, 0, 0, 0, 10, .staged 2, 0x0, 0, []⟩,
  ⟨0x0802C, 1024, 8, 0, 0, 8, 8, .staged 2, 0x27, 0, []⟩,
  ⟨0x0802C, 1024, 8, 0, 0, 0, 8, .staged 2, 0x27, 0, []⟩,
  ⟨0x08030, 1024, 8, 0, 0, 0, 16, .staged 2, 0x0, 1, [1920, 1920, 1920, 1920, 960, 960, 480, 480]⟩,
  ⟨0x08034, 1024, 8, 0, 0, 0, 16, .ro, 0x0, 0, []⟩,
  ⟨0x08038, 1024, 8, 0, 0, 24, 8, .staged 2, 0x28, 0, []⟩,
  ⟨0x08038, 1024, 8, 0, 0, 16, 8, .staged 2, 0x32, 0, []⟩,
  ⟨0x08038, 1024, 8, 0, 0, 8, 8, .staged 2, 0x3C, 0, []⟩]

/-- Register rows of block Rail, offsets 0x08000 to 0x0BFFF. -/
def rowsRailB : List Row := [
  ⟨0x08038, 1024, 8, 0, 0, 0, 8, .staged 2, 0x7D, 0, []⟩,
  ⟨0x0803C, 1024, 8, 0, 0, 0, 6, .staged 2, 0x14, 0, []⟩,
  ⟨0x08040, 1024, 8, 0, 0, 8, 1, .staged 2, 0x0, 0, []⟩,
  ⟨0x08040, 1024, 8, 0, 0, 4, 4, .staged 2, 0x0, 0, []⟩,
  ⟨0x08040, 1024, 8, 0, 0, 0, 4, .staged 2, 0x0, 0, []⟩,
  ⟨0x08044, 1024, 8, 0, 0, 16, 16, .staged 2, 0xC8, 0, []⟩,
  ⟨0x08044, 1024, 8, 0, 0, 0, 16, .staged 2, 0x50, 0, []⟩,
  ⟨0x08048, 1024, 8, 0, 0, 0, 10, .staged 2, 0x0, 1, [0, 32, 64, 96, 16, 144, 80, 208]⟩,
  ⟨0x0804C, 1024, 8, 0, 0, 24, 8, .staged 2, 0x0, 0, []⟩,
  ⟨0x0804C, 1024, 8, 0, 0, 16, 8, .staged 2, 0x0, 0, []⟩,
  ⟨0x0804C, 1024, 8, 0, 0, 8, 8, .staged 2, 0x0, 0, []⟩,
  ⟨0x0804C, 1024, 8, 0, 0, 0, 8, .staged 2, 0x0, 0, []⟩,
  ⟨0x08050, 1024, 8, 0, 0, 16, 16, .staged 2, 0x100, 0, []⟩,
  ⟨0x08050, 1024, 8, 0, 0, 0, 8, .staged 2, 0x14, 0, []⟩,
  ⟨0x08054, 1024, 8, 0, 0, 24, 8, .ro, 0x0, 0, []⟩,
  ⟨0x08054, 1024, 8, 0, 0, 16, 8, .ro, 0x0, 0, []⟩,
  ⟨0x08054, 1024, 8, 0, 0, 0, 16, .ro, 0x0, 0, []⟩,
  ⟨0x08058, 1024, 8, 4, 3, 16, 11, .ro, 0x0, 0, []⟩,
  ⟨0x08058, 1024, 8, 4, 3, 0, 11, .ro, 0x0, 0, []⟩,
  ⟨0x08080, 1024, 8, 4, 8, 29, 3, .ro, 0x0, 0, []⟩,
  ⟨0x08080, 1024, 8, 4, 8, 0, 16, .ro, 0x0, 0, []⟩,
  ⟨0x080A0, 1024, 8, 4, 8, 0, 16, .ro, 0x8000, 0, []⟩,
  ⟨0x0A000, 0, 0, 0, 0, 16, 4, .ro, 0x0, 0, []⟩,
  ⟨0x0A000, 0, 0, 0, 0, 12, 1, .ro, 0x0, 0, []⟩,
  ⟨0x0A000, 0, 0, 0, 0, 8, 4, .ro, 0x0, 0, []⟩,
  ⟨0x0A000, 0, 0, 0, 0, 4, 4, .ro, 0x0, 0, []⟩,
  ⟨0x0A000, 0, 0, 0, 0, 0, 4, .ro, 0x0, 0, []⟩,
  ⟨0x0A004, 0, 0, 0, 0, 9, 1, .w1c, 0x0, 0, []⟩,
  ⟨0x0A004, 0, 0, 0, 0, 8, 1, .w1c, 0x0, 0, []⟩,
  ⟨0x0A004, 0, 0, 0, 0, 4, 4, .w1c, 0x0, 0, []⟩,
  ⟨0x0A004, 0, 0, 0, 0, 0, 4, .w1c, 0x0, 0, []⟩,
  ⟨0x0A008, 0, 0, 0, 0, 0, 10, .rw, 0x3FF, 0, []⟩,
  ⟨0x0A00C, 0, 0, 0, 0, 24, 8, .ro, 0x0, 0, []⟩,
  ⟨0x0A00C, 0, 0, 0, 0, 16, 8, .ro, 0x0, 0, []⟩,
  ⟨0x0A00C, 0, 0, 0, 0, 8, 8, .ro, 0x0, 0, []⟩,
  ⟨0x0A00C, 0, 0, 0, 0, 0, 8, .ro, 0x0, 0, []⟩,
  ⟨0x0A010, 4, 4, 0, 0, 0, 5, .ro, 0x10, 0, []⟩]

/-- All register rows of block Rail. -/
def rowsRail : List Row := rowsRailA ++ rowsRailB

/-- Register rows of block Thm, offsets 0x0C000 to 0x0DFFF. -/
def rowsThmA : List Row := [
  ⟨0x0C000, 0, 0, 0, 0, 0, 32, .ro, 0x5204083, 0, []⟩,
  ⟨0x0C004, 0, 0, 0, 0, 31, 1, .ro, 0x0, 0, []⟩,
  ⟨0x0C004, 0, 0, 0, 0, 30, 1, .ro, 0x0, 0, []⟩,
  ⟨0x0C004, 0, 0, 0, 0, 28, 2, .ro, 0x0, 0, []⟩,
  ⟨0x0C004, 0, 0, 0, 0, 27, 1, .ro, 0x0, 0, []⟩,
  ⟨0x0C004, 0, 0, 0, 0, 16, 5, .ro, 0x0, 0, []⟩,
  ⟨0x0C004, 0, 0, 0, 0, 8, 8, .ro, 0x0, 0, []⟩,
  ⟨0x0C004, 0, 0, 0, 0, 0, 5, .ro, 0x0, 0, []⟩,
  ⟨0x0C008, 0, 0, 0, 0, 0, 8, .w1c, 0x0, 0, []⟩,
  ⟨0x0C00C, 0, 0, 0, 0, 0, 8, .rw, 0xFF, 0, []⟩,
  ⟨0x0C010, 0, 0, 0, 0, 16, 16, .ro, 0x1A40, 0, []⟩,
  ⟨0x0C010, 0, 0, 0, 0, 0, 16, .ro, 0x1D80, 0, []⟩,
  ⟨0x0C014, 0, 0, 0, 0, 16, 16, .ro, 0x1A40, 0, []⟩,
  ⟨0x0C014, 0, 0, 0, 0, 0, 16, .ro, 0x1B80, 0, []⟩,
  ⟨0x0C018, 0, 0, 0, 0, 16, 16, .staged 1, 0x80, 0, []⟩,
  ⟨0x0C018, 0, 0, 0, 0, 0, 16, .staged 1, 0xC0, 0, []⟩,
  ⟨0x0C01C, 0, 0, 0, 0, 24, 8, .staged 1, 0x64, 0, []⟩,
  ⟨0x0C01C, 0, 0, 0, 0, 16, 8, .staged 1, 0x8, 0, []⟩,
  ⟨0x0C01C, 0, 0, 0, 0, 0, 11, .staged 1, 0xC8, 0, []⟩,
  ⟨0x0C020, 0, 0, 0, 0, 16, 16, .staged 1, 0x140, 0, []⟩,
  ⟨0x0C020, 0, 0, 0, 0, 0, 11, .staged 1, 0x320, 0, []⟩,
  ⟨0x0C024, 0, 0, 0, 0, 24, 8, .staged 1, 0x14, 0, []⟩,
  ⟨0x0C024, 0, 0, 0, 0, 16, 8, .staged 1, 0x4, 0, []⟩,
  ⟨0x0C024, 0, 0, 0, 0, 8, 8, .staged 1, 0x10, 0, []⟩,
  ⟨0x0C028, 0, 0, 0, 0, 24, 8, .staged 1, 0x8, 0, []⟩,
  ⟨0x0C02C, 0, 0, 0, 0, 0, 8, .staged 1, 0xFF, 0, []⟩,
  ⟨0x0C030, 0, 0, 0, 0, 0, 32, .staged 1, 0xFFFFFF, 0, []⟩,
  ⟨0x0C034, 0, 0, 0, 0, 0, 32, .staged 1, 0x0, 0, []⟩,
  ⟨0x0C038, 0, 0, 0, 0, 0, 32, .staged 1, 0xFFFFFFFF, 0, []⟩,
  ⟨0x0C03C, 0, 0, 0, 0, 0, 32, .staged 1, 0xFFFFFFFF, 0, []⟩,
  ⟨0x0C180, 4, 8, 0, 0, 16, 16, .staged 1, 0x7FFF, 0, []⟩,
  ⟨0x0C180, 4, 8, 0, 0, 0, 16, .staged 1, 0x7FFF, 0, []⟩,
  ⟨0x0C1A0, 4, 8, 0, 0, 16, 16, .staged 1, 0x7FFF, 0, []⟩,
  ⟨0x0C1A0, 4, 8, 0, 0, 0, 16, .staged 1, 0x7FFF, 0, []⟩,
  ⟨0x0C200, 4, 64, 0, 0, 30, 2, .ro, 0x1, 0, []⟩,
  ⟨0x0C200, 4, 64, 0, 0, 29, 1, .ro, 0x0, 0, []⟩,
  ⟨0x0C200, 4, 64, 0, 0, 28, 1, .ro, 0x0, 0, []⟩,
  ⟨0x0C200, 4, 64, 0, 0, 0, 16, .ro, 0x8000, 0, []⟩,
  ⟨0x0C300, 4, 8, 0, 0, 30, 2, .ro, 0x1, 0, []⟩,
  ⟨0x0C300, 4, 8, 0, 0, 0, 16, .ro, 0x8000, 0, []⟩]

/-- Register rows of block Thm, offsets 0x0C000 to 0x0DFFF. -/
def rowsThmB : List Row := [
  ⟨0x0C320, 0, 0, 0, 0, 0, 16, .ro, 0x0, 0, []⟩,
  ⟨0x0C340, 4, 18, 0, 0, 29, 3, .ro, 0x5, 0, []⟩,
  ⟨0x0C340, 4, 18, 0, 0, 28, 1, .ro, 0x0, 0, []⟩,
  ⟨0x0C340, 4, 18, 0, 0, 20, 8, .ro, 0x0, 0, []⟩,
  ⟨0x0C340, 4, 18, 0, 0, 0, 16, .ro, 0x8000, 0, []⟩,
  ⟨0x0C3A0, 4, 18, 0, 0, 16, 16, .ro, 0x8000, 0, []⟩,
  ⟨0x0C3A0, 4, 18, 0, 0, 0, 16, .ro, 0x8000, 0, []⟩,
  ⟨0x0C400, 4, 12, 0, 0, 31, 1, .ro, 0x0, 0, []⟩,
  ⟨0x0C400, 4, 12, 0, 0, 29, 2, .ro, 0x0, 0, []⟩,
  ⟨0x0C400, 4, 12, 0, 0, 27, 2, .ro, 0x0, 0, []⟩,
  ⟨0x0C400, 4, 12, 0, 0, 16, 11, .ro, 0x640, 0, []⟩,
  ⟨0x0C400, 4, 12, 0, 0, 0, 11, .ro, 0x640, 0, []⟩,
  ⟨0x0C440, 4, 6, 0, 0, 31, 1, .ro, 0x0, 0, []⟩,
  ⟨0x0C440, 4, 6, 0, 0, 16, 2, .ro, 0x2, 0, []⟩,
  ⟨0x0C440, 4, 6, 0, 0, 0, 16, .ro, 0x8000, 0, []⟩,
  ⟨0x0C480, 0, 0, 0, 0, 30, 2, .ro, 0x0, 0, []⟩,
  ⟨0x0C480, 0, 0, 0, 0, 16, 8, .ro, 0x0, 0, []⟩,
  ⟨0x0C480, 0, 0, 0, 0, 15, 1, .ro, 0x0, 0, []⟩,
  ⟨0x0C480, 0, 0, 0, 0, 14, 1, .ro, 0x0, 0, []⟩,
  ⟨0x0C484, 0, 0, 0, 0, 16, 16, .ro, 0x8000, 0, []⟩,
  ⟨0x0C484, 0, 0, 0, 0, 0, 16, .ro, 0x0, 0, []⟩,
  ⟨0x0C488, 0, 0, 0, 0, 0, 18, .ro, 0x0, 0, []⟩,
  ⟨0x0C48C, 0, 0, 0, 0, 16, 16, .ro, 0x0, 0, []⟩,
  ⟨0x0C48C, 0, 0, 0, 0, 0, 16, .ro, 0xFFFF, 0, []⟩]

/-- All register rows of block Thm. -/
def rowsThm : List Row := rowsThmA ++ rowsThmB

/-- Register rows of block Model, offsets 0x0E000 to 0x0FFFF. -/
def rowsModelA : List Row := [
  ⟨0x0E000, 0, 0, 0, 0, 29, 3, .ro, 0x0, 0, []⟩,
  ⟨0x0E000, 0, 0, 0, 0, 28, 1, .ro, 0x0, 0, []⟩,
  ⟨0x0E000, 0, 0, 0, 0, 27, 1, .ro, 0x0, 0, []⟩,
  ⟨0x0E000, 0, 0, 0, 0, 26, 1, .ro, 0x0, 0, []⟩,
  ⟨0x0E000, 0, 0, 0, 0, 0, 8, .ro, 0x0, 0, []⟩,
  ⟨0x0E004, 0, 0, 0, 0, 0, 5, .w1c, 0x0, 0, []⟩,
  ⟨0x0E008, 0, 0, 0, 0, 0, 5, .rw, 0x1F, 0, []⟩,
  ⟨0x0E00C, 0, 0, 0, 0, 16, 16, .ro, 0x0, 0, []⟩,
  ⟨0x0E00C, 0, 0, 0, 0, 8, 8, .ro, 0x0, 0, []⟩,
  ⟨0x0E00C, 0, 0, 0, 0, 0, 8, .ro, 0x0, 0, []⟩,
  ⟨0x0E010, 0, 0, 0, 0, 0, 32, .ro, 0x0, 0, []⟩,
  ⟨0x0E014, 0, 0, 0, 0, 16, 16, .ro, 0x0, 0, []⟩,
  ⟨0x0E014, 0, 0, 0, 0, 0, 16, .ro, 0x0, 0, []⟩,
  ⟨0x0E018, 0, 0, 0, 0, 31, 1, .staged 1, 0x1, 0, []⟩,
  ⟨0x0E018, 0, 0, 0, 0, 0, 5, .staged 1, 0x8, 0, []⟩,
  ⟨0x0E01C, 0, 0, 0, 0, 24, 8, .staged 1, 0xA, 0, []⟩,
  ⟨0x0E01C, 0, 0, 0, 0, 16, 8, .staged 1, 0x2, 0, []⟩,
  ⟨0x0E01C, 0, 0, 0, 0, 8, 8, .staged 1, 0xA, 0, []⟩,
  ⟨0x0E01C, 0, 0, 0, 0, 0, 8, .staged 1, 0x5, 0, []⟩,
  ⟨0x0E020, 0, 0, 0, 0, 16, 11, .staged 1, 0x190, 0, []⟩,
  ⟨0x0E020, 0, 0, 0, 0, 0, 8, .staged 1, 0x14, 0, []⟩,
  ⟨0x0E024, 0, 0, 0, 0, 31, 1, .staged 1, 0x0, 0, []⟩,
  ⟨0x0E024, 0, 0, 0, 0, 16, 15, .staged 1, 0x0, 0, []⟩,
  ⟨0x0E024, 0, 0, 0, 0, 0, 16, .staged 1, 0x0, 0, []⟩,
  ⟨0x0E028, 0, 0, 0, 0, 16, 16, .staged 1, 0x320, 0, []⟩,
  ⟨0x0E028, 0, 0, 0, 0, 8, 8, .staged 1, 0xF, 0, []⟩,
  ⟨0x0E028, 0, 0, 0, 0, 0, 8, .staged 1, 0xA, 0, []⟩,
  ⟨0x0E02C, 0, 0, 0, 0, 0, 16, .staged 1, 0x3C, 0, []⟩,
  ⟨0x0E030, 0, 0, 0, 0, 16, 16, .ro, 0x1000, 0, []⟩,
  ⟨0x0E030, 0, 0, 0, 0, 0, 16, .ro, 0x0, 0, []⟩,
  ⟨0x0E034, 0, 0, 0, 0, 16, 16, .ro, 0x0, 0, []⟩,
  ⟨0x0E034, 0, 0, 0, 0, 0, 16, .ro, 0x0, 0, []⟩,
  ⟨0x0E038, 0, 0, 0, 0, 16, 16, .ro, 0x0, 0, []⟩,
  ⟨0x0E038, 0, 0, 0, 0, 0, 12, .ro, 0x0, 0, []⟩,
  ⟨0x0E03C, 0, 0, 0, 0, 0, 16, .ro, 0x0, 0, []⟩,
  ⟨0x0E040, 4, 6, 0, 0, 29, 3, .ro, 0x3, 0, []⟩,
  ⟨0x0E040, 4, 6, 0, 0, 28, 1, .ro, 0x1, 0, []⟩,
  ⟨0x0E040, 4, 6, 0, 0, 22, 2, .ro, 0x2, 0, []⟩,
  ⟨0x0E040, 4, 6, 0, 0, 19, 3, .ro, 0x0, 0, []⟩,
  ⟨0x0E040, 4, 6, 0, 0, 16, 3, .ro, 0x0, 0, []⟩]

/-- Register rows of block Model, offsets 0x0E000 to 0x0FFFF. -/
def rowsModelB : List Row := [
  ⟨0x0E040, 4, 6, 0, 0, 0, 16, .ro, 0x0, 0, []⟩,
  ⟨0x0E060, 4, 5, 0, 0, 8, 2, .ro, 0x0, 1, [0, 0, 1, 2, 2]⟩,
  ⟨0x0E060, 4, 5, 0, 0, 4, 3, .staged 1, 0x0, 1, [1, 0, 0, 0, 2]⟩,
  ⟨0x0E060, 4, 5, 0, 0, 0, 3, .staged 1, 0x0, 1, [1, 0, 0, 0, 0]⟩,
  ⟨0x0E080, 4, 64, 0, 0, 16, 16, .ro, 0x8000, 0, []⟩,
  ⟨0x0E080, 4, 64, 0, 0, 0, 16, .ro, 0x8000, 0, []⟩,
  ⟨0x0E180, 4, 12, 0, 0, 16, 11, .ro, 0x640, 0, []⟩,
  ⟨0x0E180, 4, 12, 0, 0, 0, 16, .ro, 0x0, 0, []⟩]

/-- All register rows of block Model. -/
def rowsModel : List Row := rowsModelA ++ rowsModelB

/-- Register rows of block Cpa, offsets 0x10000 to 0x17FFF. -/
def rowsCpa : List Row := [
  ⟨0x10000, 64, 288, 0, 0, 0, 32, .ro, 0x6200000, 3, []⟩,
  ⟨0x10004, 64, 288, 0, 0, 26, 6, .ro, 0x20, 0, []⟩,
  ⟨0x10004, 64, 288, 0, 0, 23, 3, .ro, 0x0, 0, []⟩,
  ⟨0x10004, 64, 288, 0, 0, 19, 1, .ro, 0x0, 0, []⟩,
  ⟨0x10004, 64, 288, 0, 0, 18, 1, .ro, 0x0, 0, []⟩,
  ⟨0x10004, 64, 288, 0, 0, 17, 1, .ro, 0x0, 0, []⟩,
  ⟨0x10004, 64, 288, 0, 0, 16, 1, .ro, 0x0, 0, []⟩,
  ⟨0x10004, 64, 288, 0, 0, 0, 6, .ro, 0x0, 0, []⟩,
  ⟨0x10008, 64, 288, 0, 0, 16, 16, .ro, 0x0, 0, []⟩,
  ⟨0x10008, 64, 288, 0, 0, 0, 16, .ro, 0x0, 0, []⟩,
  ⟨0x1000C, 64, 288, 0, 0, 16, 16, .ro, 0x0, 0, []⟩,
  ⟨0x1000C, 64, 288, 0, 0, 0, 8, .ro, 0x0, 0, []⟩,
  ⟨0x10010, 64, 288, 0, 0, 0, 1, .wo, 0x0, 0, []⟩,
  ⟨0x10014, 64, 288, 0, 0, 0, 6, .rw, 0x20, 0, []⟩,
  ⟨0x10018, 64, 288, 0, 0, 16, 11, .ro, 0x0, 0, []⟩,
  ⟨0x10018, 64, 288, 0, 0, 0, 11, .ro, 0x0, 0, []⟩,
  ⟨0x1001C, 64, 288, 0, 0, 16, 6, .ro, 0x0, 0, []⟩,
  ⟨0x1001C, 64, 288, 0, 0, 0, 16, .ro, 0x0, 0, []⟩,
  ⟨0x10020, 64, 288, 0, 0, 16, 16, .ro, 0x0, 0, []⟩,
  ⟨0x10020, 64, 288, 0, 0, 0, 16, .ro, 0x0, 0, []⟩,
  ⟨0x10024, 64, 288, 0, 0, 16, 16, .ro, 0x0, 0, []⟩,
  ⟨0x10024, 64, 288, 0, 0, 0, 16, .ro, 0x0, 0, []⟩,
  ⟨0x10028, 64, 288, 0, 0, 16, 16, .ro, 0xFFFF, 0, []⟩,
  ⟨0x10028, 64, 288, 0, 0, 0, 6, .ro, 0x20, 0, []⟩,
  ⟨0x1002C, 64, 288, 0, 0, 16, 8, .ro, 0x0, 0, []⟩,
  ⟨0x1002C, 64, 288, 0, 0, 0, 16, .ro, 0x0, 0, []⟩,
  ⟨0x10030, 64, 288, 0, 0, 0, 32, .ro, 0x0, 0, []⟩,
  ⟨0x10034, 64, 288, 0, 0, 0, 32, .ro, 0x0, 0, []⟩,
  ⟨0x10038, 64, 288, 0, 0, 0, 32, .ro, 0x0, 0, []⟩,
  ⟨0x1003C, 64, 288, 0, 0, 28, 4, .rw, 0x0, 0, []⟩,
  ⟨0x1003C, 64, 288, 0, 0, 0, 24, .ro, 0x0, 0, []⟩]

/-- Register rows of block Clc, offsets 0x18000 to 0x1FFFF. -/
def rowsClc : List Row := [
  ⟨0x18000, 0, 0, 0, 0, 0, 32, .ro, 0x7200C18, 0, []⟩,
  ⟨0x18004, 0, 0, 0, 0, 24, 8, .staged 3, 0x8, 0, []⟩,
  ⟨0x18004, 0, 0, 0, 0, 16, 8, .staged 3, 0x37, 0, []⟩,
  ⟨0x18004, 0, 0, 0, 0, 8, 8, .staged 3, 0x23, 0, []⟩,
  ⟨0x18004, 0, 0, 0, 0, 0, 8, .staged 3, 0x14, 0, []⟩,
  ⟨0x18008, 0, 0, 0, 0, 16, 6, .staged 3, 0xC, 0, []⟩,
  ⟨0x18008, 0, 0, 0, 0, 8, 4, .staged 3, 0x0, 0, []⟩,
  ⟨0x18008, 0, 0, 0, 0, 0, 4, .staged 3, 0x8, 0, []⟩,
  ⟨0x1800C, 0, 0, 0, 0, 16, 6, .staged 3, 0x8, 0, []⟩,
  ⟨0x1800C, 0, 0, 0, 0, 0, 10, .staged 3, 0x30, 0, []⟩,
  ⟨0x18010, 0, 0, 0, 0, 24, 8, .staged 3, 0x10, 0, []⟩,
  ⟨0x18010, 0, 0, 0, 0, 20, 4, .staged 3, 0xC, 0, []⟩,
  ⟨0x18010, 0, 0, 0, 0, 8, 8, .staged 3, 0x20, 0, []⟩,
  ⟨0x18010, 0, 0, 0, 0, 0, 8, .staged 3, 0x32, 0, []⟩,
  ⟨0x18014, 0, 0, 0, 0, 8, 8, .staged 3, 0x8, 0, []⟩,
  ⟨0x18014, 0, 0, 0, 0, 0, 8, .staged 3, 0x14, 0, []⟩,
  ⟨0x18018, 0, 0, 0, 0, 16, 8, .staged 3, 0x40, 0, []⟩,
  ⟨0x18018, 0, 0, 0, 0, 0, 1, .staged 3, 0x1, 0, []⟩,
  ⟨0x1801C, 0, 0, 0, 0, 0, 16, .staged 3, 0x20, 0, []⟩,
  ⟨0x18020, 4, 4, 0, 0, 0, 8, .staged 3, 0x0, 0, []⟩,
  ⟨0x18020, 4, 4, 0, 0, 8, 8, .staged 3, 0x0, 0, []⟩,
  ⟨0x18020, 4, 4, 0, 0, 16, 8, .staged 3, 0x0, 0, []⟩,
  ⟨0x18020, 4, 4, 0, 0, 24, 8, .staged 3, 0x0, 0, []⟩,
  ⟨0x18030, 0, 0, 0, 0, 0, 12, .staged 3, 0xFFF, 0, []⟩,
  ⟨0x18034, 0, 0, 0, 0, 0, 12, .w1c, 0x0, 0, []⟩,
  ⟨0x18040, 4, 4, 0, 0, 16, 16, .ro, 0x0, 0, []⟩,
  ⟨0x18040, 4, 4, 0, 0, 0, 16, .ro, 0x0, 0, []⟩,
  ⟨0x18100, 64, 12, 0, 0, 16, 11, .staged 0, 0x190, 0, []⟩,
  ⟨0x18100, 64, 12, 0, 0, 0, 11, .ro, 0x190, 0, []⟩,
  ⟨0x18104, 64, 12, 0, 0, 0, 11, .ro, 0x640, 0, []⟩,
  ⟨0x18108, 64, 12, 0, 0, 16, 16, .ro, 0x0, 0, []⟩,
  ⟨0x18108, 64, 12, 0, 0, 8, 5, .ro, 0x0, 0, []⟩,
  ⟨0x18108, 64, 12, 0, 0, 0, 8, .ro, 0x0, 0, []⟩,
  ⟨0x1810C, 64, 12, 0, 0, 24, 5, .ro, 0x0, 0, []⟩,
  ⟨0x1810C, 64, 12, 0, 0, 16, 5, .ro, 0x0, 0, []⟩,
  ⟨0x1810C, 64, 12, 0, 0, 0, 16, .ro, 0x0, 0, []⟩,
  ⟨0x18110, 64, 12, 0, 0, 16, 16, .ro, 0x0, 0, []⟩,
  ⟨0x18110, 64, 12, 0, 0, 0, 16, .ro, 0x0, 0, []⟩,
  ⟨0x18114, 64, 12, 0, 0, 0, 5, .ro, 0x0, 0, []⟩]

/-- Register rows of block Pwr, offsets 0x20000 to 0x20FFF. -/
def rowsPwrA : List Row := [
  ⟨0x20000, 0, 0, 0, 0, 0, 32, .ro, 0x8201040, 0, []⟩,
  ⟨0x20004, 0, 0, 0, 0, 31, 1, .ro, 0x0, 0, []⟩,
  ⟨0x20004, 0, 0, 0, 0, 30, 1, .ro, 0x0, 0, []⟩,
  ⟨0x20004, 0, 0, 0, 0, 29, 1, .ro, 0x0, 0, []⟩,
  ⟨0x20004, 0, 0, 0, 0, 28, 1, .ro, 0x0, 0, []⟩,
  ⟨0x20004, 0, 0, 0, 0, 26, 2, .ro, 0x0, 0, []⟩,
  ⟨0x20004, 0, 0, 0, 0, 16, 8, .ro, 0x0, 0, []⟩,
  ⟨0x20008, 0, 0, 0, 0, 16, 16, .ro, 0x0, 0, []⟩,
  ⟨0x20008, 0, 0, 0, 0, 0, 16, .ro, 0x0, 0, []⟩,
  ⟨0x2000C, 0, 0, 0, 0, 16, 16, .ro, 0x0, 0, []⟩,
  ⟨0x2000C, 0, 0, 0, 0, 0, 16, .ro, 0x0, 0, []⟩,
  ⟨0x20010, 0, 0, 0, 0, 16, 16, .ro, 0x0, 0, []⟩,
  ⟨0x20010, 0, 0, 0, 0, 0, 16, .ro, 0x0, 0, []⟩,
  ⟨0x20014, 0, 0, 0, 0, 16, 8, .ro, 0x0, 0, []⟩,
  ⟨0x20014, 0, 0, 0, 0, 0, 16, .ro, 0x0, 0, []⟩,
  ⟨0x20018, 0, 0, 0, 0, 16, 16, .ro, 0x0, 0, []⟩,
  ⟨0x20018, 0, 0, 0, 0, 0, 16, .ro, 0x0, 0, []⟩,
  ⟨0x2001C, 0, 0, 0, 0, 16, 16, .ro, 0x0, 0, []⟩,
  ⟨0x2001C, 0, 0, 0, 0, 0, 16, .ro, 0x0, 0, []⟩,
  ⟨0x20020, 0, 0, 0, 0, 16, 16, .ro, 0x0, 0, []⟩,
  ⟨0x20020, 0, 0, 0, 0, 0, 16, .ro, 0x0, 0, []⟩,
  ⟨0x20024, 0, 0, 0, 0, 16, 16, .ro, 0x0, 0, []⟩,
  ⟨0x20024, 0, 0, 0, 0, 0, 16, .ro, 0x0, 0, []⟩,
  ⟨0x20028, 0, 0, 0, 0, 16, 16, .ro, 0x0, 0, []⟩,
  ⟨0x20028, 0, 0, 0, 0, 0, 16, .ro, 0xFFFF, 0, []⟩,
  ⟨0x2002C, 0, 0, 0, 0, 0, 7, .w1c, 0x0, 0, []⟩,
  ⟨0x20030, 0, 0, 0, 0, 0, 7, .rw, 0x7F, 0, []⟩,
  ⟨0x20034, 0, 0, 0, 0, 0, 6, .rw, 0x20, 0, []⟩,
  ⟨0x20038, 0, 0, 0, 0, 0, 32, .ro, 0x0, 0, []⟩,
  ⟨0x2003C, 0, 0, 0, 0, 0, 32, .ro, 0x0, 0, []⟩,
  ⟨0x20040, 0, 0, 0, 0, 0, 16, .staged 4, 0x0, 0, []⟩,
  ⟨0x20044, 0, 0, 0, 0, 16, 8, .staged 4, 0x10, 0, []⟩,
  ⟨0x20044, 0, 0, 0, 0, 8, 4, .staged 4, 0xC, 0, []⟩,
  ⟨0x20048, 0, 0, 0, 0, 16, 16, .staged 4, 0x3B0, 0, []⟩,
  ⟨0x20048, 0, 0, 0, 0, 0, 6, .staged 4, 0x2, 0, []⟩,
  ⟨0x2004C, 0, 0, 0, 0, 16, 8, .staged 4, 0x19, 0, []⟩,
  ⟨0x2004C, 0, 0, 0, 0, 0, 8, .staged 4, 0x30, 0, []⟩,
  ⟨0x20050, 0, 0, 0, 0, 31, 1, .staged 4, 0x1, 0, []⟩,
  ⟨0x20050, 0, 0, 0, 0, 0, 4, .staged 4, 0x3, 0, []⟩,
  ⟨0x20060, 4, 4, 0, 0, 16, 12, .ro, 0xFA, 0, []⟩]

/-- Register rows of block Pwr, offsets 0x20000 to 0x20FFF. -/
def rowsPwrB : List Row := [
  ⟨0x20060, 4, 4, 0, 0, 0, 12, .staged 4, 0xFA, 0, []⟩,
  ⟨0x20070, 4, 4, 0, 0, 16, 16, .ro, 0x0, 0, []⟩,
  ⟨0x20070, 4, 4, 0, 0, 8, 8, .ro, 0x0, 0, []⟩,
  ⟨0x20070, 4, 4, 0, 0, 0, 8, .ro, 0x0, 0, []⟩,
  ⟨0x20100, 64, 4, 4, 16, 16, 12, .ro, 0x0, 2, [256, 128, 32, 512, 96, 128, 64, 64, 96, 256, 192, 192, 32, 32, 128, 768]⟩,
  ⟨0x20100, 64, 4, 4, 16, 0, 12, .staged 4, 0x0, 2, [256, 128, 32, 512, 96, 128, 64, 64, 96, 256, 192, 192, 32, 32, 128, 768]⟩]

/-- All register rows of block Pwr. -/
def rowsPwr : List Row := rowsPwrA ++ rowsPwrB

/-- Register rows of block Bud, offsets 0x21000 to 0x2FFFF. -/
def rowsBudA : List Row := [
  ⟨0x21000, 0, 0, 0, 0, 31, 1, .ro, 0x0, 0, []⟩,
  ⟨0x21000, 0, 0, 0, 0, 30, 1, .ro, 0x0, 0, []⟩,
  ⟨0x21000, 0, 0, 0, 0, 28, 2, .ro, 0x0, 0, []⟩,
  ⟨0x21000, 0, 0, 0, 0, 24, 3, .ro, 0x0, 0, []⟩,
  ⟨0x21000, 0, 0, 0, 0, 20, 4, .ro, 0x0, 0, []⟩,
  ⟨0x21004, 0, 0, 0, 0, 0, 8, .w1c, 0x0, 0, []⟩,
  ⟨0x21008, 0, 0, 0, 0, 0, 8, .rw, 0xFF, 0, []⟩,
  ⟨0x2100C, 0, 0, 0, 0, 16, 16, .ro, 0x0, 0, []⟩,
  ⟨0x2100C, 0, 0, 0, 0, 0, 16, .ro, 0x0, 0, []⟩,
  ⟨0x21010, 0, 0, 0, 0, 16, 16, .ro, 0x0, 0, []⟩,
  ⟨0x21010, 0, 0, 0, 0, 0, 16, .ro, 0x0, 0, []⟩,
  ⟨0x21014, 0, 0, 0, 0, 16, 16, .ro, 0x0, 0, []⟩,
  ⟨0x21014, 0, 0, 0, 0, 0, 16, .ro, 0x0, 0, []⟩,
  ⟨0x21018, 0, 0, 0, 0, 0, 16, .ro, 0x0, 0, []⟩,
  ⟨0x21020, 0, 0, 0, 0, 31, 1, .staged 4, 0x0, 0, []⟩,
  ⟨0x21020, 0, 0, 0, 0, 8, 4, .staged 4, 0x3, 0, []⟩,
  ⟨0x21020, 0, 0, 0, 0, 0, 8, .staged 4, 0x3, 0, []⟩,
  ⟨0x21024, 0, 0, 0, 0, 16, 16, .staged 4, 0x1900, 0, []⟩,
  ⟨0x21024, 0, 0, 0, 0, 0, 16, .staged 4, 0x1F40, 0, []⟩,
  ⟨0x21028, 0, 0, 0, 0, 28, 4, .staged 4, 0xF, 0, []⟩,
  ⟨0x21028, 0, 0, 0, 0, 0, 16, .staged 4, 0x40, 0, []⟩,
  ⟨0x2102C, 0, 0, 0, 0, 0, 32, .staged 4, 0x10101010, 0, []⟩,
  ⟨0x21040, 4, 12, 0, 0, 16, 16, .ro, 0x0, 0, []⟩,
  ⟨0x21040, 4, 12, 0, 0, 0, 16, .ro, 0x0, 0, []⟩,
  ⟨0x21080, 8, 4, 0, 0, 16, 16, .ro, 0x0, 0, []⟩,
  ⟨0x21080, 8, 4, 0, 0, 0, 16, .ro, 0x0, 0, []⟩,
  ⟨0x21084, 8, 4, 0, 0, 16, 16, .ro, 0x0, 0, []⟩,
  ⟨0x21084, 8, 4, 0, 0, 0, 16, .ro, 0x0, 0, []⟩,
  ⟨0x210A0, 4, 4, 0, 0, 30, 2, .ro, 0x0, 0, []⟩,
  ⟨0x210A0, 4, 4, 0, 0, 29, 1, .ro, 0x0, 0, []⟩,
  ⟨0x210A0, 4, 4, 0, 0, 26, 3, .ro, 0x0, 0, []⟩,
  ⟨0x210A0, 4, 4, 0, 0, 16, 8, .ro, 0x0, 0, []⟩,
  ⟨0x210A0, 4, 4, 0, 0, 0, 16, .ro, 0x0, 0, []⟩,
  ⟨0x210C0, 0, 0, 0, 0, 16, 16, .ro, 0x0, 0, []⟩,
  ⟨0x210C0, 0, 0, 0, 0, 0, 16, .ro, 0x0, 0, []⟩,
  ⟨0x210C4, 0, 0, 0, 0, 16, 16, .ro, 0x0, 0, []⟩,
  ⟨0x210C4, 0, 0, 0, 0, 0, 16, .ro, 0x0, 0, []⟩,
  ⟨0x210C8, 0, 0, 0, 0, 16, 16, .ro, 0xFFFF, 0, []⟩,
  ⟨0x210C8, 0, 0, 0, 0, 0, 16, .ro, 0x0, 0, []⟩,
  ⟨0x210CC, 0, 0, 0, 0, 24, 8, .ro, 0x0, 0, []⟩]

/-- Register rows of block Bud, offsets 0x21000 to 0x2FFFF. -/
def rowsBudB : List Row := [
  ⟨0x210CC, 0, 0, 0, 0, 16, 8, .ro, 0x0, 0, []⟩,
  ⟨0x210CC, 0, 0, 0, 0, 8, 8, .ro, 0x0, 0, []⟩,
  ⟨0x210CC, 0, 0, 0, 0, 0, 8, .ro, 0x0, 0, []⟩,
  ⟨0x210D0, 0, 0, 0, 0, 16, 16, .ro, 0x0, 0, []⟩,
  ⟨0x210D0, 0, 0, 0, 0, 8, 8, .ro, 0x0, 0, []⟩,
  ⟨0x210D0, 0, 0, 0, 0, 0, 8, .ro, 0x0, 0, []⟩,
  ⟨0x210E0, 4, 3, 0, 0, 16, 16, .ro, 0x0, 0, []⟩,
  ⟨0x210E0, 4, 3, 0, 0, 15, 1, .ro, 0x0, 0, []⟩,
  ⟨0x210E0, 4, 3, 0, 0, 13, 2, .ro, 0x0, 0, []⟩,
  ⟨0x210E0, 4, 3, 0, 0, 12, 1, .ro, 0x0, 0, []⟩,
  ⟨0x210E0, 4, 3, 0, 0, 0, 8, .ro, 0x0, 0, []⟩]

/-- All register rows of block Bud. -/
def rowsBud : List Row := rowsBudA ++ rowsBudB

/-- Register rows of block Mbx, offsets 0x30000 to 0x3FFFF. -/
def rowsMbxA : List Row := [
  ⟨0x30000, 0, 0, 0, 0, 0, 32, .ro, 0x9202010, 0, []⟩,
  ⟨0x30004, 0, 0, 0, 0, 31, 1, .ro, 0x1, 0, []⟩,
  ⟨0x30004, 0, 0, 0, 0, 30, 1, .ro, 0x0, 0, []⟩,
  ⟨0x30004, 0, 0, 0, 0, 29, 1, .ro, 0x0, 0, []⟩,
  ⟨0x30004, 0, 0, 0, 0, 0, 5, .ro, 0x0, 0, []⟩,
  ⟨0x30008, 0, 0, 0, 0, 16, 12, .w1c, 0x0, 0, []⟩,
  ⟨0x30008, 0, 0, 0, 0, 0, 16, .w1c, 0x0, 0, []⟩,
  ⟨0x3000C, 0, 0, 0, 0, 0, 28, .rw, 0xFFFFFF, 0, []⟩,
  ⟨0x30010, 0, 0, 0, 0, 0, 4, .w1c, 0x0, 0, []⟩,
  ⟨0x30014, 0, 0, 0, 0, 0, 4, .rw, 0xF, 0, []⟩,
  ⟨0x30020, 0, 0, 0, 0, 31, 1, .ro, 0x0, 0, []⟩,
  ⟨0x30020, 0, 0, 0, 0, 30, 1, .ro, 0x0, 0, []⟩,
  ⟨0x30020, 0, 0, 0, 0, 0, 16, .ro, 0x0, 0, []⟩,
  ⟨0x30024, 0, 0, 0, 0, 0, 16, .ro, 0x1388, 0, []⟩,
  ⟨0x30028, 0, 0, 0, 0, 0, 32, .ro, 0x0, 0, []⟩,
  ⟨0x3002C, 0, 0, 0, 0, 0, 32, .ro, 0x0, 0, []⟩,
  ⟨0x30030, 0, 0, 0, 0, 0, 32, .ro, 0x0, 0, []⟩,
  ⟨0x30034, 0, 0, 0, 0, 16, 16, .ro, 0x0, 0, []⟩,
  ⟨0x30034, 0, 0, 0, 0, 0, 7, .ro, 0x0, 0, []⟩,
  ⟨0x30038, 0, 0, 0, 0, 7, 1, .ro, 0x0, 0, []⟩,
  ⟨0x30038, 0, 0, 0, 0, 6, 1, .ro, 0x0, 0, []⟩,
  ⟨0x30038, 0, 0, 0, 0, 5, 1, .ro, 0x0, 0, []⟩,
  ⟨0x30038, 0, 0, 0, 0, 4, 1, .ro, 0x0, 0, []⟩,
  ⟨0x30038, 0, 0, 0, 0, 3, 1, .ro, 0x0, 0, []⟩,
  ⟨0x30038, 0, 0, 0, 0, 2, 1, .ro, 0x0, 0, []⟩,
  ⟨0x30038, 0, 0, 0, 0, 1, 1, .ro, 0x0, 0, []⟩,
  ⟨0x30038, 0, 0, 0, 0, 0, 1, .ro, 0x0, 0, []⟩,
  ⟨0x3003C, 0, 0, 0, 0, 0, 8, .rw, 0xFF, 0, []⟩,
  ⟨0x30100, 4, 32, 0, 0, 31, 1, .wo, 0x0, 0, []⟩,
  ⟨0x30100, 4, 32, 0, 0, 30, 1, .wo, 0x0, 0, []⟩,
  ⟨0x30100, 4, 32, 0, 0, 29, 1, .ro, 0x0, 0, []⟩,
  ⟨0x30100, 4, 32, 0, 0, 28, 1, .ro, 0x0, 0, []⟩,
  ⟨0x30100, 4, 32, 0, 0, 16, 8, .ro, 0x0, 0, []⟩,
  ⟨0x30100, 4, 32, 0, 0, 0, 16, .ro, 0xFFFF, 0, []⟩,
  ⟨0x30180, 8, 16, 0, 0, 31, 1, .ro, 0x0, 0, []⟩,
  ⟨0x30180, 8, 16, 0, 0, 24, 5, .ro, 0x0, 0, []⟩,
  ⟨0x30180, 8, 16, 0, 0, 20, 4, .ro, 0x0, 0, []⟩,
  ⟨0x30180, 8, 16, 0, 0, 0, 8, .ro, 0x0, 0, []⟩,
  ⟨0x30184, 8, 16, 0, 0, 0, 16, .ro, 0xFFFF, 0, []⟩,
  ⟨0x30200, 4, 32, 0, 0, 16, 16, .ro, 0xFFFF, 0, []⟩]

/-- Register rows of block Mbx, offsets 0x30000 to 0x3FFFF. -/
def rowsMbxB : List Row := [
  ⟨0x30200, 4, 32, 0, 0, 0, 16, .ro, 0xFFFF, 0, []⟩,
  ⟨0x30280, 0, 0, 0, 0, 31, 1, .ro, 0x0, 0, []⟩,
  ⟨0x30280, 0, 0, 0, 0, 30, 1, .ro, 0x0, 0, []⟩,
  ⟨0x30300, 0, 0, 0, 0, 16, 16, .wo, 0x0, 0, []⟩,
  ⟨0x30300, 0, 0, 0, 0, 1, 1, .wo, 0x0, 0, []⟩,
  ⟨0x30300, 0, 0, 0, 0, 0, 1, .wo, 0x0, 0, []⟩,
  ⟨0x30304, 0, 0, 0, 0, 31, 1, .ro, 0x0, 0, []⟩,
  ⟨0x30304, 0, 0, 0, 0, 30, 1, .ro, 0x0, 0, []⟩,
  ⟨0x30304, 0, 0, 0, 0, 29, 1, .ro, 0x0, 0, []⟩,
  ⟨0x30304, 0, 0, 0, 0, 28, 1, .ro, 0x0, 0, []⟩,
  ⟨0x30304, 0, 0, 0, 0, 0, 16, .ro, 0x0, 0, []⟩,
  ⟨0x30308, 0, 0, 0, 0, 0, 32, .ro, 0x0, 0, []⟩,
  ⟨0x3030C, 0, 0, 0, 0, 0, 6, .staged 4, 0x4, 0, []⟩,
  ⟨0x31000, 64, 32, 4, 16, 0, 32, .rw, 0x0, 0, []⟩]

/-- All register rows of block Mbx. -/
def rowsMbx : List Row := rowsMbxA ++ rowsMbxB

/-- Register rows of block Sync, offsets 0x40000 to 0x403FF. -/
def rowsSync : List Row := [
  ⟨0x40000, 0, 0, 0, 0, 0, 32, .ro, 0xA204444, 0, []⟩,
  ⟨0x40004, 0, 0, 0, 0, 31, 1, .ro, 0x0, 0, []⟩,
  ⟨0x40004, 0, 0, 0, 0, 30, 1, .ro, 0x0, 0, []⟩,
  ⟨0x40004, 0, 0, 0, 0, 29, 1, .ro, 0x0, 0, []⟩,
  ⟨0x40004, 0, 0, 0, 0, 0, 17, .ro, 0x0, 0, []⟩,
  ⟨0x40008, 0, 0, 0, 0, 0, 17, .ro, 0x0, 0, []⟩,
  ⟨0x4000C, 0, 0, 0, 0, 0, 6, .w1c, 0x0, 0, []⟩,
  ⟨0x40010, 0, 0, 0, 0, 0, 6, .rw, 0x3F, 0, []⟩,
  ⟨0x40014, 0, 0, 0, 0, 16, 16, .ro, 0x0, 0, []⟩,
  ⟨0x40014, 0, 0, 0, 0, 0, 16, .ro, 0x0, 0, []⟩,
  ⟨0x40018, 0, 0, 0, 0, 0, 32, .ro, 0x0, 0, []⟩,
  ⟨0x4001C, 0, 0, 0, 0, 16, 16, .ro, 0x0, 0, []⟩,
  ⟨0x4001C, 0, 0, 0, 0, 0, 16, .ro, 0x0, 0, []⟩,
  ⟨0x40020, 0, 0, 0, 0, 31, 1, .ro, 0x0, 0, []⟩,
  ⟨0x40020, 0, 0, 0, 0, 28, 3, .ro, 0x0, 0, []⟩,
  ⟨0x40020, 0, 0, 0, 0, 0, 15, .ro, 0x0, 0, []⟩,
  ⟨0x40024, 0, 0, 0, 0, 16, 16, .ro, 0x0, 0, []⟩,
  ⟨0x40024, 0, 0, 0, 0, 0, 16, .ro, 0x0, 0, []⟩,
  ⟨0x40028, 0, 0, 0, 0, 16, 16, .ro, 0x0, 0, []⟩,
  ⟨0x40028, 0, 0, 0, 0, 0, 16, .ro, 0x0, 0, []⟩,
  ⟨0x40030, 0, 0, 0, 0, 0, 32, .rw, 0x0, 0, []⟩,
  ⟨0x40034, 0, 0, 0, 0, 0, 32, .wo, 0x0, 0, []⟩,
  ⟨0x40038, 0, 0, 0, 0, 31, 1, .ro, 0x0, 0, []⟩,
  ⟨0x40038, 0, 0, 0, 0, 30, 1, .ro, 0x0, 0, []⟩,
  ⟨0x40038, 0, 0, 0, 0, 0, 8, .ro, 0x0, 0, []⟩,
  ⟨0x4003C, 0, 0, 0, 0, 0, 32, .ro, 0x0, 0, []⟩,
  ⟨0x40040, 0, 0, 0, 0, 16, 4, .staged 5, 0x2, 0, []⟩,
  ⟨0x40040, 0, 0, 0, 0, 0, 10, .staged 5, 0x60, 0, []⟩,
  ⟨0x40044, 0, 0, 0, 0, 0, 5, .staged 5, 0x18, 0, []⟩,
  ⟨0x40048, 0, 0, 0, 0, 0, 8, .staged 5, 0x10, 0, []⟩,
  ⟨0x4004C, 0, 0, 0, 0, 1, 1, .staged 5, 0x0, 0, []⟩,
  ⟨0x4004C, 0, 0, 0, 0, 0, 1, .staged 5, 0x0, 0, []⟩]

/-- Register rows of block Ctx, offsets 0x40400 to 0x4FFFF. -/
def rowsCtx : List Row := [
  ⟨0x40400, 0, 0, 0, 0, 0, 32, .rw, 0x0, 0, []⟩,
  ⟨0x40404, 0, 0, 0, 0, 28, 4, .wo, 0x0, 0, []⟩,
  ⟨0x40404, 0, 0, 0, 0, 0, 10, .wo, 0x0, 0, []⟩,
  ⟨0x40408, 0, 0, 0, 0, 31, 1, .ro, 0x0, 0, []⟩,
  ⟨0x40408, 0, 0, 0, 0, 30, 1, .ro, 0x0, 0, []⟩,
  ⟨0x40408, 0, 0, 0, 0, 8, 16, .ro, 0x0, 0, []⟩,
  ⟨0x40408, 0, 0, 0, 0, 0, 8, .ro, 0x0, 0, []⟩,
  ⟨0x40410, 0, 0, 0, 0, 31, 1, .staged 5, 0x0, 0, []⟩,
  ⟨0x40410, 0, 0, 0, 0, 0, 16, .staged 5, 0x7D0, 0, []⟩,
  ⟨0x40414, 0, 0, 0, 0, 16, 16, .ro, 0x0, 0, []⟩,
  ⟨0x40414, 0, 0, 0, 0, 8, 8, .ro, 0x0, 0, []⟩,
  ⟨0x40414, 0, 0, 0, 0, 0, 5, .ro, 0x0, 0, []⟩,
  ⟨0x40418, 0, 0, 0, 0, 0, 3, .w1c, 0x0, 0, []⟩,
  ⟨0x4041C, 0, 0, 0, 0, 0, 3, .rw, 0x7, 0, []⟩,
  ⟨0x40420, 0, 0, 0, 0, 16, 16, .ro, 0x0, 0, []⟩,
  ⟨0x40420, 0, 0, 0, 0, 0, 11, .ro, 0x400, 0, []⟩,
  ⟨0x40430, 0, 0, 0, 0, 31, 1, .ro, 0x0, 0, []⟩,
  ⟨0x40430, 0, 0, 0, 0, 30, 1, .ro, 0x0, 0, []⟩,
  ⟨0x40430, 0, 0, 0, 0, 29, 1, .ro, 0x0, 0, []⟩,
  ⟨0x40430, 0, 0, 0, 0, 19, 10, .ro, 0x0, 0, []⟩,
  ⟨0x40430, 0, 0, 0, 0, 0, 15, .ro, 0x0, 0, []⟩,
  ⟨0x40434, 0, 0, 0, 0, 23, 9, .ro, 0x0, 0, []⟩,
  ⟨0x40434, 0, 0, 0, 0, 20, 3, .ro, 0x0, 0, []⟩,
  ⟨0x40434, 0, 0, 0, 0, 15, 5, .ro, 0x0, 0, []⟩,
  ⟨0x40434, 0, 0, 0, 0, 0, 15, .ro, 0x0, 0, []⟩,
  ⟨0x40438, 0, 0, 0, 0, 0, 32, .ro, 0x0, 0, []⟩,
  ⟨0x4043C, 0, 0, 0, 0, 0, 1, .wo, 0x0, 0, []⟩,
  ⟨0x40800, 4, 288, 0, 0, 0, 10, .rw, 0x0, 0, []⟩,
  ⟨0x41000, 4, 1024, 0, 0, 31, 1, .ro, 0x0, 0, []⟩,
  ⟨0x41000, 4, 1024, 0, 0, 20, 10, .ro, 0x0, 0, []⟩,
  ⟨0x41000, 4, 1024, 0, 0, 0, 15, .ro, 0x0, 0, []⟩,
  ⟨0x44000, 16, 1024, 0, 0, 29, 3, .ro, 0x0, 0, []⟩,
  ⟨0x44000, 16, 1024, 0, 0, 28, 1, .ro, 0x0, 0, []⟩,
  ⟨0x44000, 16, 1024, 0, 0, 26, 2, .ro, 0x0, 0, []⟩,
  ⟨0x44000, 16, 1024, 0, 0, 0, 11, .ro, 0x0, 0, []⟩,
  ⟨0x44004, 16, 1024, 0, 0, 17, 9, .ro, 0x0, 0, []⟩,
  ⟨0x44004, 16, 1024, 0, 0, 0, 17, .ro, 0x0, 0, []⟩,
  ⟨0x44008, 16, 1024, 0, 0, 16, 16, .ro, 0x0, 0, []⟩,
  ⟨0x44008, 16, 1024, 0, 0, 0, 16, .ro, 0x0, 0, []⟩]

/-- Register rows of block Dbg, offsets 0x50000 to 0x5FFFF. -/
def rowsDbg : List Row := [
  ⟨0x50000, 0, 0, 0, 0, 0, 32, .ro, 0xB201404, 0, []⟩,
  ⟨0x50004, 0, 0, 0, 0, 0, 15, .rw, 0x0, 0, []⟩,
  ⟨0x50008, 0, 0, 0, 0, 31, 1, .ro, 0x0, 0, []⟩,
  ⟨0x50008, 0, 0, 0, 0, 30, 1, .ro, 0x0, 0, []⟩,
  ⟨0x50008, 0, 0, 0, 0, 29, 1, .ro, 0x0, 0, []⟩,
  ⟨0x50008, 0, 0, 0, 0, 0, 15, .ro, 0x0, 0, []⟩,
  ⟨0x5000C, 0, 0, 0, 0, 0, 32, .ro, 0x0, 0, []⟩,
  ⟨0x50010, 0, 0, 0, 0, 0, 32, .ro, 0x0, 0, []⟩,
  ⟨0x50014, 0, 0, 0, 0, 0, 31, .ro, 0x0, 0, []⟩,
  ⟨0x50018, 0, 0, 0, 0, 0, 31, .ro, 0x0, 0, []⟩,
  ⟨0x5001C, 0, 0, 0, 0, 16, 16, .ro, 0x0, 0, []⟩,
  ⟨0x5001C, 0, 0, 0, 0, 0, 16, .ro, 0x0, 0, []⟩,
  ⟨0x50020, 0, 0, 0, 0, 0, 17, .ro, 0x0, 0, []⟩,
  ⟨0x50024, 0, 0, 0, 0, 30, 2, .ro, 0x0, 0, []⟩,
  ⟨0x50024, 0, 0, 0, 0, 21, 9, .ro, 0x0, 0, []⟩,
  ⟨0x50024, 0, 0, 0, 0, 18, 3, .ro, 0x0, 0, []⟩,
  ⟨0x50024, 0, 0, 0, 0, 0, 6, .ro, 0x0, 0, []⟩,
  ⟨0x50028, 0, 0, 0, 0, 0, 32, .ro, 0x0, 0, []⟩,
  ⟨0x5002C, 0, 0, 0, 0, 0, 16, .ro, 0x0, 0, []⟩,
  ⟨0x50030, 12, 4, 0, 0, 31, 1, .ro, 0x0, 0, []⟩,
  ⟨0x50030, 12, 4, 0, 0, 22, 9, .ro, 0x0, 0, []⟩,
  ⟨0x50030, 12, 4, 0, 0, 19, 3, .ro, 0x0, 0, []⟩,
  ⟨0x50030, 12, 4, 0, 0, 14, 5, .ro, 0x0, 0, []⟩,
  ⟨0x50030, 12, 4, 0, 0, 13, 1, .ro, 0x0, 0, []⟩,
  ⟨0x50030, 12, 4, 0, 0, 12, 1, .ro, 0x0, 0, []⟩,
  ⟨0x50030, 12, 4, 0, 0, 0, 10, .ro, 0x0, 0, []⟩,
  ⟨0x50034, 12, 4, 0, 0, 0, 32, .ro, 0x0, 0, []⟩,
  ⟨0x50038, 12, 4, 0, 0, 0, 31, .ro, 0x0, 0, []⟩]

/-- Register rows of block Mp, offsets 0x60000 to 0x67FFF. -/
def rowsMp : List Row := [
  ⟨0x60000, 0, 0, 0, 0, 0, 32, .ro, 0xC200808, 0, []⟩,
  ⟨0x60004, 0, 0, 0, 0, 24, 8, .w1c, 0x0, 0, []⟩,
  ⟨0x60004, 0, 0, 0, 0, 16, 8, .w1c, 0x0, 0, []⟩,
  ⟨0x60004, 0, 0, 0, 0, 8, 8, .w1c, 0x0, 0, []⟩,
  ⟨0x60004, 0, 0, 0, 0, 0, 8, .w1c, 0x0, 0, []⟩,
  ⟨0x60008, 0, 0, 0, 0, 0, 32, .rw, 0xFFFFFF00, 0, []⟩,
  ⟨0x6000C, 0, 0, 0, 0, 0, 32, .rw, 0x0, 0, []⟩,
  ⟨0x60010, 0, 0, 0, 0, 0, 32, .rw, 0x0, 0, []⟩,
  ⟨0x60014, 0, 0, 0, 0, 0, 16, .ro, 0x0, 0, []⟩,
  ⟨0x60020, 0, 0, 0, 0, 31, 1, .wo, 0x0, 0, []⟩,
  ⟨0x60020, 0, 0, 0, 0, 30, 1, .wo, 0x0, 0, []⟩,
  ⟨0x60020, 0, 0, 0, 0, 24, 3, .wo, 0x0, 0, []⟩,
  ⟨0x60020, 0, 0, 0, 0, 0, 17, .wo, 0x0, 0, []⟩,
  ⟨0x60024, 0, 0, 0, 0, 0, 32, .rw, 0x0, 0, []⟩,
  ⟨0x60028, 0, 0, 0, 0, 0, 32, .rw, 0x0, 0, []⟩,
  ⟨0x6002C, 0, 0, 0, 0, 31, 1, .ro, 0x0, 0, []⟩,
  ⟨0x6002C, 0, 0, 0, 0, 30, 1, .ro, 0x0, 0, []⟩,
  ⟨0x6002C, 0, 0, 0, 0, 0, 16, .rw, 0x0, 0, []⟩,
  ⟨0x60100, 128, 8, 0, 0, 31, 1, .rw, 0x1, 0, []⟩,
  ⟨0x60100, 128, 8, 0, 0, 30, 1, .rw, 0x0, 0, []⟩,
  ⟨0x60100, 128, 8, 0, 0, 0, 16, .rw, 0x400, 0, []⟩,
  ⟨0x60104, 128, 8, 0, 0, 0, 18, .ro, 0x0, 0, []⟩,
  ⟨0x60108, 128, 8, 0, 0, 0, 32, .ro, 0x0, 0, []⟩,
  ⟨0x6010C, 128, 8, 0, 0, 16, 16, .ro, 0x0, 0, []⟩,
  ⟨0x6010C, 128, 8, 0, 0, 0, 16, .ro, 0x0, 0, []⟩,
  ⟨0x60110, 128, 8, 0, 0, 31, 1, .ro, 0x0, 0, []⟩,
  ⟨0x60110, 128, 8, 0, 0, 30, 1, .ro, 0x0, 0, []⟩,
  ⟨0x60110, 128, 8, 0, 0, 20, 5, .ro, 0x0, 0, []⟩,
  ⟨0x60110, 128, 8, 0, 0, 0, 17, .ro, 0x0, 0, []⟩,
  ⟨0x60114, 128, 8, 0, 0, 31, 1, .ro, 0x0, 0, []⟩,
  ⟨0x60114, 128, 8, 0, 0, 30, 1, .ro, 0x0, 0, []⟩,
  ⟨0x60114, 128, 8, 0, 0, 0, 17, .ro, 0x0, 0, []⟩,
  ⟨0x60118, 128, 8, 0, 0, 16, 16, .ro, 0x0, 0, []⟩,
  ⟨0x60118, 128, 8, 0, 0, 0, 16, .ro, 0x0, 0, []⟩,
  ⟨0x6011C, 128, 8, 0, 0, 0, 4, .ro, 0x0, 0, []⟩,
  ⟨0x60120, 128, 8, 4, 8, 31, 1, .ro, 0x0, 0, []⟩,
  ⟨0x60120, 128, 8, 4, 8, 30, 1, .ro, 0x0, 0, []⟩,
  ⟨0x60120, 128, 8, 4, 8, 0, 17, .ro, 0x0, 0, []⟩,
  ⟨0x60140, 128, 8, 0, 0, 0, 18, .ro, 0x0, 1, [73728, 131072, 65536, 16384, 32768, 65536, 8192, 16384]⟩]

/-- Register rows of block Tel, offsets 0x68000 to 0x683FF. -/
def rowsTel : List Row := [
  ⟨0x68000, 0, 0, 0, 0, 0, 32, .ro, 0xD200804, 0, []⟩,
  ⟨0x68100, 64, 8, 0, 0, 16, 4, .staged 2, 0xA, 0, []⟩,
  ⟨0x68100, 64, 8, 0, 0, 0, 12, .staged 2, 0x40, 0, []⟩,
  ⟨0x68104, 64, 8, 0, 0, 16, 16, .ro, 0x0, 0, []⟩,
  ⟨0x68104, 64, 8, 0, 0, 0, 16, .ro, 0x0, 0, []⟩,
  ⟨0x68108, 64, 8, 0, 0, 16, 16, .ro, 0x0, 0, []⟩,
  ⟨0x68108, 64, 8, 0, 0, 0, 16, .ro, 0x0, 0, []⟩,
  ⟨0x6810C, 64, 8, 0, 0, 16, 16, .ro, 0x0, 0, []⟩,
  ⟨0x6810C, 64, 8, 0, 0, 0, 16, .ro, 0x0, 0, []⟩,
  ⟨0x68110, 64, 8, 0, 0, 16, 16, .ro, 0x0, 0, []⟩,
  ⟨0x68110, 64, 8, 0, 0, 0, 16, .ro, 0xFFFF, 0, []⟩,
  ⟨0x68114, 64, 8, 0, 0, 16, 16, .ro, 0x0, 0, []⟩,
  ⟨0x68114, 64, 8, 0, 0, 0, 16, .ro, 0x0, 0, []⟩,
  ⟨0x68118, 64, 8, 0, 0, 16, 16, .ro, 0x8000, 0, []⟩,
  ⟨0x68118, 64, 8, 0, 0, 0, 16, .ro, 0x8000, 0, []⟩,
  ⟨0x6811C, 64, 8, 0, 0, 0, 32, .ro, 0x0, 0, []⟩,
  ⟨0x68120, 64, 8, 0, 0, 0, 32, .ro, 0x0, 0, []⟩,
  ⟨0x68124, 64, 8, 0, 0, 0, 32, .ro, 0x0, 0, []⟩,
  ⟨0x68128, 64, 8, 0, 0, 0, 1, .wo, 0x0, 0, []⟩,
  ⟨0x68300, 16, 4, 0, 0, 16, 16, .ro, 0x0, 0, []⟩,
  ⟨0x68300, 16, 4, 0, 0, 0, 16, .ro, 0x0, 0, []⟩,
  ⟨0x68304, 16, 4, 0, 0, 16, 16, .ro, 0x8000, 0, []⟩,
  ⟨0x68304, 16, 4, 0, 0, 0, 16, .ro, 0x0, 0, []⟩,
  ⟨0x68308, 16, 4, 0, 0, 0, 16, .ro, 0x0, 0, []⟩,
  ⟨0x6830C, 16, 4, 0, 0, 0, 32, .ro, 0x0, 0, []⟩]

/-- Register rows of block Hlth, offsets 0x68400 to 0x6FFFF. -/
def rowsHlth : List Row := [
  ⟨0x68400, 0, 0, 0, 0, 31, 1, .ro, 0x0, 0, []⟩,
  ⟨0x68400, 0, 0, 0, 0, 12, 9, .ro, 0x0, 0, []⟩,
  ⟨0x68400, 0, 0, 0, 0, 8, 3, .ro, 0x0, 0, []⟩,
  ⟨0x68400, 0, 0, 0, 0, 0, 8, .ro, 0x0, 0, []⟩,
  ⟨0x68404, 0, 0, 0, 0, 0, 4, .w1c, 0x0, 0, []⟩,
  ⟨0x68408, 0, 0, 0, 0, 0, 4, .rw, 0xF, 0, []⟩,
  ⟨0x6840C, 0, 0, 0, 0, 21, 11, .rw, 0x5A0, 0, []⟩,
  ⟨0x6840C, 0, 0, 0, 0, 15, 6, .rw, 0x10, 0, []⟩,
  ⟨0x6840C, 0, 0, 0, 0, 0, 15, .rw, 0x16D, 0, []⟩,
  ⟨0x68410, 0, 0, 0, 0, 24, 8, .rw, 0x10, 0, []⟩,
  ⟨0x68410, 0, 0, 0, 0, 16, 8, .rw, 0x8, 0, []⟩,
  ⟨0x68410, 0, 0, 0, 0, 0, 16, .rw, 0x2EE, 0, []⟩,
  ⟨0x68420, 0, 0, 0, 0, 29, 3, .ro, 0x0, 0, []⟩,
  ⟨0x68420, 0, 0, 0, 0, 20, 4, .ro, 0x0, 0, []⟩,
  ⟨0x68420, 0, 0, 0, 0, 8, 12, .ro, 0x0, 0, []⟩,
  ⟨0x68420, 0, 0, 0, 0, 0, 8, .ro, 0x0, 0, []⟩,
  ⟨0x68424, 0, 0, 0, 0, 21, 11, .ro, 0x0, 0, []⟩,
  ⟨0x68424, 0, 0, 0, 0, 0, 8, .ro, 0x0, 0, []⟩,
  ⟨0x68428, 0, 0, 0, 0, 0, 32, .ro, 0x0, 0, []⟩,
  ⟨0x6842C, 0, 0, 0, 0, 16, 16, .ro, 0x0, 0, []⟩,
  ⟨0x6842C, 0, 0, 0, 0, 0, 16, .ro, 0x0, 0, []⟩,
  ⟨0x68440, 0, 0, 0, 0, 31, 1, .ro, 0x0, 0, []⟩,
  ⟨0x68440, 0, 0, 0, 0, 27, 4, .ro, 0x0, 0, []⟩,
  ⟨0x68440, 0, 0, 0, 0, 16, 11, .ro, 0x0, 0, []⟩,
  ⟨0x68444, 0, 0, 0, 0, 0, 24, .ro, 0x0, 0, []⟩,
  ⟨0x68800, 8, 288, 0, 0, 21, 11, .ro, 0x0, 0, []⟩,
  ⟨0x68800, 8, 288, 0, 0, 20, 1, .ro, 0x0, 0, []⟩,
  ⟨0x68800, 8, 288, 0, 0, 0, 20, .ro, 0x0, 0, []⟩,
  ⟨0x68804, 8, 288, 0, 0, 0, 32, .ro, 0xFFFFFFFF, 0, []⟩,
  ⟨0x69100, 4, 288, 0, 0, 0, 32, .ro, 0x0, 0, []⟩,
  ⟨0x69600, 16, 8, 0, 0, 0, 32, .ro, 0x0, 0, []⟩,
  ⟨0x69604, 16, 8, 0, 0, 0, 32, .ro, 0x0, 0, []⟩,
  ⟨0x69608, 16, 8, 0, 0, 0, 32, .ro, 0xFFFFFFFF, 0, []⟩,
  ⟨0x69700, 8, 44, 0, 0, 0, 32, .ro, 0x0, 0, []⟩,
  ⟨0x69704, 8, 44, 0, 0, 0, 32, .ro, 0x0, 0, []⟩]

/-- Register rows of block Log, offsets 0x70000 to 0x77FFF. -/
def rowsLog : List Row := [
  ⟨0x70000, 0, 0, 0, 0, 0, 32, .ro, 0xE202810, 0, []⟩,
  ⟨0x70004, 0, 0, 0, 0, 0, 32, .ro, 0x0, 0, []⟩,
  ⟨0x70008, 0, 0, 0, 0, 0, 32, .ro, 0x0, 0, []⟩,
  ⟨0x7000C, 0, 0, 0, 0, 0, 32, .rw, 0x0, 0, []⟩,
  ⟨0x70010, 0, 0, 0, 0, 28, 4, .rw, 0x3, 0, []⟩,
  ⟨0x70010, 0, 0, 0, 0, 24, 4, .rw, 0x4, 0, []⟩,
  ⟨0x70010, 0, 0, 0, 0, 0, 11, .rw, 0x400, 0, []⟩,
  ⟨0x70014, 0, 0, 0, 0, 0, 5, .w1c, 0x0, 0, []⟩,
  ⟨0x70018, 0, 0, 0, 0, 0, 5, .rw, 0x1F, 0, []⟩,
  ⟨0x7001C, 0, 0, 0, 0, 16, 16, .ro, 0x0, 0, []⟩,
  ⟨0x7001C, 0, 0, 0, 0, 0, 16, .ro, 0x0, 0, []⟩,
  ⟨0x70020, 0, 0, 0, 0, 16, 16, .ro, 0x0, 0, []⟩,
  ⟨0x70020, 0, 0, 0, 0, 8, 8, .ro, 0x0, 0, []⟩,
  ⟨0x70020, 0, 0, 0, 0, 0, 8, .ro, 0x0, 0, []⟩,
  ⟨0x70024, 0, 0, 0, 0, 31, 1, .ro, 0x0, 0, []⟩,
  ⟨0x70024, 0, 0, 0, 0, 0, 18, .ro, 0x0, 0, []⟩,
  ⟨0x70040, 0, 0, 0, 0, 0, 32, .rw, 0x0, 0, []⟩,
  ⟨0x70044, 0, 0, 0, 0, 31, 1, .ro, 0x0, 0, []⟩,
  ⟨0x70044, 0, 0, 0, 0, 30, 1, .ro, 0x0, 0, []⟩,
  ⟨0x70048, 4, 8, 0, 0, 0, 32, .ro, 0x0, 0, []⟩,
  ⟨0x70080, 0, 0, 0, 0, 16, 10, .ro, 0x0, 0, []⟩,
  ⟨0x70080, 0, 0, 0, 0, 0, 16, .ro, 0x0, 0, []⟩,
  ⟨0x70084, 0, 0, 0, 0, 0, 1, .rw, 0x0, 0, []⟩,
  ⟨0x70088, 0, 0, 0, 0, 0, 16, .ro, 0x0, 0, []⟩,
  ⟨0x7008C, 0, 0, 0, 0, 0, 10, .rw, 0x0, 0, []⟩,
  ⟨0x70090, 4, 4, 0, 0, 0, 32, .ro, 0x0, 0, []⟩,
  ⟨0x70100, 4, 32, 0, 0, 0, 32, .rw, 0x0, 1, [1]⟩]

/-- Register rows of block Fw, offsets 0x78000 to 0x7FFFF. -/
def rowsFw : List Row := [
  ⟨0x78000, 0, 0, 0, 0, 0, 32, .ro, 0xF200308, 0, []⟩,
  ⟨0x78004, 0, 0, 0, 0, 29, 3, .ro, 0x0, 0, []⟩,
  ⟨0x78004, 0, 0, 0, 0, 16, 8, .ro, 0x0, 0, []⟩,
  ⟨0x78004, 0, 0, 0, 0, 8, 8, .ro, 0x0, 0, []⟩,
  ⟨0x78004, 0, 0, 0, 0, 0, 8, .ro, 0xFF, 0, []⟩,
  ⟨0x78008, 0, 0, 0, 0, 0, 32, .ro, 0x0, 0, []⟩,
  ⟨0x7800C, 0, 0, 0, 0, 0, 16, .ro, 0x1F4, 0, []⟩,
  ⟨0x78010, 0, 0, 0, 0, 16, 16, .wo, 0x0, 0, []⟩,
  ⟨0x78014, 0, 0, 0, 0, 0, 16, .ro, 0x0, 0, []⟩,
  ⟨0x78100, 32, 3, 0, 0, 29, 3, .ro, 0x0, 0, []⟩,
  ⟨0x78100, 32, 3, 0, 0, 28, 1, .ro, 0x0, 0, []⟩,
  ⟨0x78100, 32, 3, 0, 0, 24, 4, .ro, 0x0, 0, []⟩,
  ⟨0x78104, 32, 3, 0, 0, 16, 16, .wo, 0x0, 0, []⟩,
  ⟨0x78104, 32, 3, 0, 0, 0, 1, .wo, 0x0, 0, []⟩,
  ⟨0x78108, 32, 3, 0, 0, 0, 32, .ro, 0x0, 0, []⟩,
  ⟨0x7810C, 32, 3, 0, 0, 0, 32, .ro, 0x0, 0, []⟩,
  ⟨0x78110, 32, 3, 0, 0, 0, 16, .ro, 0x0, 0, []⟩,
  ⟨0x78114, 32, 3, 0, 0, 16, 16, .ro, 0x0, 1, [128, 256, 512]⟩,
  ⟨0x78114, 32, 3, 0, 0, 0, 16, .ro, 0x0, 0, []⟩]

/-- Register rows of block Xlt, offsets 0x80000 to 0xFFFFF. -/
def rowsXlt : List Row := [
  ⟨0x80000, 512, 1024, 4, 128, 31, 1, .rw, 0x0, 0, []⟩,
  ⟨0x80000, 512, 1024, 4, 128, 0, 15, .rw, 0x0, 0, []⟩]

/-- The rows of the block that decodes an offset (Table 0.4). -/
def rowsOf (off : Nat) : List Row :=
  if off < 0x01000 then rowsId
  else if off < 0x02000 then rowsGctl
  else if off < 0x04000 then rowsClk
  else if off < 0x08000 then rowsDom
  else if off < 0x0C000 then rowsRail
  else if off < 0x0E000 then rowsThm
  else if off < 0x10000 then rowsModel
  else if off < 0x18000 then rowsCpa
  else if off < 0x20000 then rowsClc
  else if off < 0x21000 then rowsPwr
  else if off < 0x30000 then rowsBud
  else if off < 0x40000 then rowsMbx
  else if off < 0x40400 then rowsSync
  else if off < 0x50000 then rowsCtx
  else if off < 0x60000 then rowsDbg
  else if off < 0x68000 then rowsMp
  else if off < 0x68400 then rowsTel
  else if off < 0x70000 then rowsHlth
  else if off < 0x78000 then rowsLog
  else if off < 0x80000 then rowsFw
  else if off < 0x100000 then rowsXlt
  else []

/-- The row and instance that hold a key. -/
def rowAt (key : Nat) : Option (Row × (Nat × Nat)) :=
  (rowsOf (key / 32)).findSome? (fun r =>
    if r.lo = key % 32 then (r.inst? (key / 32)).map (fun ij => (r, ij)) else none)

/-- The reset value under a key: the table's, and 0 where no field has the key. -/
def resetOf (key : Nat) : Nat :=
  match rowAt key with
  | some (r, ij) => r.resetAt ij
  | none => 0

/-- The rows with an instance at an offset: the fields of the register there. -/
def fieldsAt (off : Nat) : List (Row × (Nat × Nat)) :=
  (rowsOf off).filterMap (fun r => (r.inst? off).map (fun ij => (r, ij)))

/-- The offsets of the instances of a row. -/
def Row.offs (r : Row) : List Nat :=
  (List.range (max r.n1 1)).flatMap (fun i => (List.range (max r.n2 1)).map (fun j => r.base + r.s1 * i + r.s2 * j))

/-- The keys of the staged fields of a subsystem (R123). -/
def stagedKeys (bit : Nat) : List Nat :=
  let rows := match bit with
    | 0 => rowsClc | 1 => rowsThm ++ rowsModel | 2 => rowsRail ++ rowsTel | 3 => rowsClc
    | 4 => rowsPwr ++ rowsBud ++ rowsMbx | 5 => rowsSync ++ rowsCtx | 6 => rowsDom | _ => []
  (rows.filter (fun r => r.acc = .staged bit)).flatMap (fun r => r.offs.map (fun o => 32 * o + r.lo))

namespace F

/-- ID.VENDOR.CODE, Table 0.7. -/
abbrev idVendorCode : Field := ⟨0x00000, 16, 16⟩
/-- ID.VENDOR.BLOCK, Table 0.7. -/
abbrev idVendorBlock : Field := ⟨0x00000, 0, 16⟩
/-- ID.VERSION.ARCH_MAJOR, Table 0.7. -/
abbrev idVersionArchMajor : Field := ⟨0x00004, 24, 8⟩
/-- ID.VERSION.ARCH_MINOR, Table 0.7. -/
abbrev idVersionArchMinor : Field := ⟨0x00004, 16, 8⟩
/-- ID.VERSION.STEPPING, Table 0.7. -/
abbrev idVersionStepping : Field := ⟨0x00004, 8, 8⟩
/-- ID.CONFIG.DIE_ID, Table 0.7. -/
abbrev idConfigDieId : Field := ⟨0x00008, 25, 2⟩
/-- ID.CONFIG.LEADER, Table 0.7. -/
abbrev idConfigLeader : Field := ⟨0x00008, 24, 1⟩
/-- ID.CONFIG.CLUSTERS, Table 0.7. -/
abbrev idConfigClusters : Field := ⟨0x00008, 16, 8⟩
/-- ID.CONFIG.CORES, Table 0.7. -/
abbrev idConfigCores : Field := ⟨0x00008, 0, 16⟩
/-- ID.BLOCKS, Table 0.7. -/
abbrev idBlocks : Field := ⟨0x0000C, 0, 32⟩
/-- CLK.CAP, Table 3.7. -/
abbrev clkCap : Field := ⟨0x02000, 0, 32⟩
/-- CLK.STATUS.XTAL_FAIL, Table 3.7. -/
abbrev clkStatusXtalFail : Field := ⟨0x02004, 3, 1⟩
/-- CLK.STATUS.ON_XTAL, Table 3.7. -/
abbrev clkStatusOnXtal : Field := ⟨0x02004, 2, 1⟩
/-- CLK.STATUS.XTAL_OK, Table 3.7. -/
abbrev clkStatusXtalOk : Field := ⟨0x02004, 1, 1⟩
/-- CLK.STATUS.PLL_LOCK, Table 3.7. -/
abbrev clkStatusPllLock : Field := ⟨0x02004, 0, 1⟩
/-- CLK.XTAL_MEAS.FREQ, Table 3.7. -/
abbrev clkXtalMeasFreq : Field := ⟨0x02008, 0, 16⟩
/-- CLK.BUSDIV.FDIV, Table 3.7. -/
abbrev clkBusdivFdiv : Field := ⟨0x0200C, 24, 4⟩
/-- CLK.BUSDIV.SDIV, Table 3.7. -/
abbrev clkBusdivSdiv : Field := ⟨0x0200C, 16, 8⟩
/-- CLK.BUSDIV.RDIV, Table 3.7. -/
abbrev clkBusdivRdiv : Field := ⟨0x0200C, 8, 8⟩
/-- CLK.BUSDIV.PDIV, Table 3.7. -/
abbrev clkBusdivPdiv : Field := ⟨0x0200C, 0, 8⟩
/-- CLK.CLKMON.EN, Table 3.7. -/
abbrev clkClkmonEn : Field := ⟨0x02010, 31, 1⟩
/-- CLK.CLKMON.SEL, Table 3.7. -/
abbrev clkClkmonSel : Field := ⟨0x02010, 27, 4⟩
/-- CLK.CLKMON.CLUSTER, Table 3.7. -/
abbrev clkClkmonCluster : Field := ⟨0x02010, 23, 4⟩
/-- CLK.CLKMON.CORE, Table 3.7. -/
abbrev clkClkmonCore : Field := ⟨0x02010, 14, 9⟩
/-- CLK.CLKMON.DIV, Table 3.7. -/
abbrev clkClkmonDiv : Field := ⟨0x02010, 0, 12⟩
/-- TB.BEAT_LO.COUNT, Table 3.7. -/
abbrev tbBeatLoCount : Field := ⟨0x02020, 0, 32⟩
/-- TB.BEAT_HI.COUNT, Table 3.7. -/
abbrev tbBeatHiCount : Field := ⟨0x02024, 0, 16⟩
/-- TB.ERA.COUNT, Table 3.7. -/
abbrev tbEraCount : Field := ⟨0x02028, 0, 16⟩
/-- TB.SYNC_FREQ.MEAS, Table 3.7. -/
abbrev tbSyncFreqMeas : Field := ⟨0x0202C, 16, 16⟩
/-- TB.SYNC_FREQ.USED, Table 3.7. -/
abbrev tbSyncFreqUsed : Field := ⟨0x0202C, 0, 16⟩
/-- TB.STATUS.IGNORED, Table 3.7. -/
abbrev tbStatusIgnored : Field := ⟨0x02030, 16, 16⟩
/-- TB.STATUS.SUBST_COUNT, Table 3.7. -/
abbrev tbStatusSubstCount : Field := ⟨0x02030, 8, 8⟩
/-- TB.STATUS.SUBST_SEEN, Table 3.7. -/
abbrev tbStatusSubstSeen : Field := ⟨0x02030, 4, 1⟩
/-- TB.STATUS.ON_OSC, Table 3.7. -/
abbrev tbStatusOnOsc : Field := ⟨0x02030, 3, 1⟩
/-- TB.STATUS.FLYWHEEL, Table 3.7. -/
abbrev tbStatusFlywheel : Field := ⟨0x02030, 2, 1⟩
/-- TB.STATUS.QUALIFYING, Table 3.7. -/
abbrev tbStatusQualifying : Field := ⟨0x02030, 1, 1⟩
/-- TB.STATUS.SUBST, Table 3.7. -/
abbrev tbStatusSubst : Field := ⟨0x02030, 0, 1⟩
/-- TB.CTRL.SUBST_IE, Table 3.7. -/
abbrev tbCtrlSubstIe : Field := ⟨0x02034, 0, 1⟩
/-- RST.LAST.COUNT, Table 3.7. -/
abbrev rstLastCount : Field := ⟨0x02040, 16, 16⟩
/-- RST.LAST.KIND, Table 3.7. -/
abbrev rstLastKind : Field := ⟨0x02040, 0, 4⟩
/-- RST.PROC.MGP, Table 3.7. -/
abbrev rstProcMgp : Field := ⟨0x02044, 16, 8⟩
/-- RST.PROC.MDP, Table 3.7. -/
abbrev rstProcMdp : Field := ⟨0x02044, 8, 8⟩
/-- RST.PROC.FLP, Table 3.7. -/
abbrev rstProcFlp : Field := ⟨0x02044, 0, 8⟩
/-- GCTL.CAP, Table 4.12. -/
abbrev gctlCap : Field := ⟨0x01000, 0, 32⟩
/-- GCTL.STATUS.BOOT_DONE, Table 4.12. -/
abbrev gctlStatusBootDone : Field := ⟨0x01004, 31, 1⟩
/-- GCTL.STATUS.HALT, Table 4.12. -/
abbrev gctlStatusHalt : Field := ⟨0x01004, 30, 1⟩
/-- GCTL.STATUS.CHECK_BUSY, Table 4.12. -/
abbrev gctlStatusCheckBusy : Field := ⟨0x01004, 29, 1⟩
/-- GCTL.STATUS.TRIP_PENDING, Table 4.12. -/
abbrev gctlStatusTripPending : Field := ⟨0x01004, 28, 1⟩
/-- GCTL.STATUS.PROFILE_FALLBACK, Table 4.12. -/
abbrev gctlStatusProfileFallback : Field := ⟨0x01004, 27, 1⟩
/-- GCTL.STATUS.STRAP_FAULT, Table 4.12. -/
abbrev gctlStatusStrapFault : Field := ⟨0x01004, 26, 1⟩
/-- GCTL.STATUS.DEBUG_EN, Table 4.12. -/
abbrev gctlStatusDebugEn : Field := ⟨0x01004, 25, 1⟩
/-- GCTL.STATUS.FALLBACK, Table 4.12. -/
abbrev gctlStatusFallback : Field := ⟨0x01004, 24, 1⟩
/-- GCTL.STATUS.IMAGE, Table 4.12. -/
abbrev gctlStatusImage : Field := ⟨0x01004, 23, 1⟩
/-- GCTL.STATUS.BANK, Table 4.12. -/
abbrev gctlStatusBank : Field := ⟨0x01004, 22, 1⟩
/-- GCTL.STATUS.CAL_COPY, Table 4.12. -/
abbrev gctlStatusCalCopy : Field := ⟨0x01004, 21, 1⟩
/-- GCTL.STATUS.STEP, Table 4.12. -/
abbrev gctlStatusStep : Field := ⟨0x01004, 16, 4⟩
/-- GCTL.STATUS.LAST_CHECK, Table 4.12. -/
abbrev gctlStatusLastCheck : Field := ⟨0x01004, 8, 3⟩
/-- GCTL.STATUS.REASON, Table 4.12. -/
abbrev gctlStatusReason : Field := ⟨0x01004, 0, 8⟩
/-- GCTL.MODE.CHANGES, Table 4.12. -/
abbrev gctlModeChanges : Field := ⟨0x01008, 16, 16⟩
/-- GCTL.MODE.PREVIOUS, Table 4.12. -/
abbrev gctlModePrevious : Field := ⟨0x01008, 4, 3⟩
/-- GCTL.MODE.CURRENT, Table 4.12. -/
abbrev gctlModeCurrent : Field := ⟨0x01008, 0, 3⟩
/-- GCTL.WARM_RESET.KEY, Table 4.12. -/
abbrev gctlWarmResetKey : Field := ⟨0x0100C, 16, 16⟩
/-- GCTL.WARM_RESET.GO, Table 4.12. -/
abbrev gctlWarmResetGo : Field := ⟨0x0100C, 0, 1⟩
/-- GCTL.ENABLE.DOM, SYNC, CAP, DROOP, RAIL, THERM, CLK, Table 4.12. -/
abbrev gctlEnable : Field := ⟨0x01010, 0, 7⟩
/-- GCTL.PROFILE.COOLEST, Table 4.12. -/
abbrev gctlProfileCoolest : Field := ⟨0x01014, 24, 3⟩
/-- GCTL.PROFILE.PRESENT, Table 4.12. -/
abbrev gctlProfilePresent : Field := ⟨0x01014, 16, 8⟩
/-- GCTL.PROFILE.STRAP, Table 4.12. -/
abbrev gctlProfileStrap : Field := ⟨0x01014, 8, 3⟩
/-- GCTL.PROFILE.ACTIVE, Table 4.12. -/
abbrev gctlProfileActive : Field := ⟨0x01014, 0, 3⟩
/-- GCTL.BANK_SEQ.SEQ, Table 4.12. -/
abbrev gctlBankSeqSeq : Field := ⟨0x01018, 0, 32⟩
/-- GCTL.FW_VER.MAJOR, Table 4.12. -/
abbrev gctlFwVerMajor : Field := ⟨0x0101C, 24, 8⟩
/-- GCTL.FW_VER.MINOR, Table 4.12. -/
abbrev gctlFwVerMinor : Field := ⟨0x0101C, 16, 8⟩
/-- GCTL.FW_VER.PATCH, Table 4.12. -/
abbrev gctlFwVerPatch : Field := ⟨0x0101C, 0, 16⟩
/-- GCTL.KEYS.REVOKED, Table 4.12. -/
abbrev gctlKeysRevoked : Field := ⟨0x01020, 8, 4⟩
/-- GCTL.KEYS.IMAGE_SLOT, Table 4.12. -/
abbrev gctlKeysImageSlot : Field := ⟨0x01020, 4, 2⟩
/-- GCTL.KEYS.BANK_SLOT, Table 4.12. -/
abbrev gctlKeysBankSlot : Field := ⟨0x01020, 0, 2⟩
/-- GCTL.TRIP_REC.VALID, Table 4.12. -/
abbrev gctlTripRecValid : Field := ⟨0x01024, 31, 1⟩
/-- GCTL.TRIP_REC.OFFSET, Table 4.12. -/
abbrev gctlTripRecOffset : Field := ⟨0x01024, 0, 18⟩
/-- GCTL.BOOT_TIME.BEAT, Table 4.12. -/
abbrev gctlBootTimeBeat : Field := ⟨0x01028, 0, 32⟩
/-- GCTL.ERR.LOAD_FAIL, Table 4.12. -/
abbrev gctlErrLoadFail : Field := ⟨0x0102C, 3, 1⟩
/-- GCTL.ERR.START_FAIL, Table 4.12. -/
abbrev gctlErrStartFail : Field := ⟨0x0102C, 2, 1⟩
/-- GCTL.ERR.STRAP_FAULT, Table 4.12. -/
abbrev gctlErrStrapFault : Field := ⟨0x0102C, 1, 1⟩
/-- GCTL.ERR.XTAL_FAIL, Table 4.12. -/
abbrev gctlErrXtalFail : Field := ⟨0x0102C, 0, 1⟩
/-- GCTL.ERR_IE.IE, Table 4.12. -/
abbrev gctlErrIeIe : Field := ⟨0x01030, 0, 4⟩
/-- RAIL.CAP, Table 5.8. -/
abbrev railCap (i : Nat) : Field := ⟨0x08000 + 0x400 * i, 0, 32⟩
/-- RAIL.STATUS.ON, Table 5.8. -/
abbrev railStatusOn (i : Nat) : Field := ⟨0x08004 + 0x400 * i, 31, 1⟩
/-- RAIL.STATUS.PGOOD, Table 5.8. -/
abbrev railStatusPgood (i : Nat) : Field := ⟨0x08004 + 0x400 * i, 30, 1⟩
/-- RAIL.STATUS.SLEWING, Table 5.8. -/
abbrev railStatusSlewing (i : Nat) : Field := ⟨0x08004 + 0x400 * i, 29, 1⟩
/-- RAIL.STATUS.SETTLED, Table 5.8. -/
abbrev railStatusSettled (i : Nat) : Field := ⟨0x08004 + 0x400 * i, 28, 1⟩
/-- RAIL.STATUS.TRUNC, Table 5.8. -/
abbrev railStatusTrunc (i : Nat) : Field := ⟨0x08004 + 0x400 * i, 27, 1⟩
/-- RAIL.STATUS.OV_HOLD, Table 5.8. -/
abbrev railStatusOvHold (i : Nat) : Field := ⟨0x08004 + 0x400 * i, 26, 1⟩
/-- RAIL.STATUS.PLDRAG, Table 5.8. -/
abbrev railStatusPldrag (i : Nat) : Field := ⟨0x08004 + 0x400 * i, 25, 1⟩
/-- RAIL.STATUS.BELOW_MIN, Table 5.8. -/
abbrev railStatusBelowMin (i : Nat) : Field := ⟨0x08004 + 0x400 * i, 24, 1⟩
/-- RAIL.STATUS.NO_SENSE, Table 5.8. -/
abbrev railStatusNoSense (i : Nat) : Field := ⟨0x08004 + 0x400 * i, 23, 1⟩
/-- RAIL.STATUS.RAIL_FAULT, Table 5.8. -/
abbrev railStatusRailFault (i : Nat) : Field := ⟨0x08004 + 0x400 * i, 22, 1⟩
/-- RAIL.STATUS.START_FAIL, Table 5.8. -/
abbrev railStatusStartFail (i : Nat) : Field := ⟨0x08004 + 0x400 * i, 21, 1⟩
/-- RAIL.STATUS.SEQ_STATE, Table 5.8. -/
abbrev railStatusSeqState (i : Nat) : Field := ⟨0x08004 + 0x400 * i, 16, 3⟩
/-- RAIL.STATUS.TRUNC_BEATS, Table 5.8. -/
abbrev railStatusTruncBeats (i : Nat) : Field := ⟨0x08004 + 0x400 * i, 0, 16⟩
/-- RAIL.PHASES.PRESENT, Table 5.8. -/
abbrev railPhasesPresent (i : Nat) : Field := ⟨0x08008 + 0x400 * i, 24, 8⟩
/-- RAIL.PHASES.ENABLED, Table 5.8. -/
abbrev railPhasesEnabled (i : Nat) : Field := ⟨0x08008 + 0x400 * i, 16, 8⟩
/-- RAIL.PHASES.FAILED, Table 5.8. -/
abbrev railPhasesFailed (i : Nat) : Field := ⟨0x08008 + 0x400 * i, 8, 8⟩
/-- RAIL.PHASES.SENSE_EST, Table 5.8. -/
abbrev railPhasesSenseEst (i : Nat) : Field := ⟨0x08008 + 0x400 * i, 0, 8⟩
/-- RAIL.EVT.STAGE_HOT, RAIL_FAULT, OV, UV, FAIL_OPEN, SENSE_FAIL, IMBAL, PLDRAG, SEQ_TIMEOUT, BELOW_MIN, Table 5.8. -/
abbrev railEvt (i : Nat) : Field := ⟨0x0800C + 0x400 * i, 0, 10⟩
/-- RAIL.EVT_IE.IE, Table 5.8. -/
abbrev railEvtIeIe (i : Nat) : Field := ⟨0x08010 + 0x400 * i, 0, 10⟩
/-- RAIL.VLIM.MAX, Table 5.8. -/
abbrev railVlimMax (i : Nat) : Field := ⟨0x08014 + 0x400 * i, 16, 16⟩
/-- RAIL.VLIM.MIN, Table 5.8. -/
abbrev railVlimMin (i : Nat) : Field := ⟨0x08014 + 0x400 * i, 0, 16⟩
/-- RAIL.VSET.TAG, Table 5.8. -/
abbrev railVsetTag (i : Nat) : Field := ⟨0x08018 + 0x400 * i, 16, 8⟩
/-- RAIL.VSET.TARGET, Table 5.8. -/
abbrev railVsetTarget (i : Nat) : Field := ⟨0x08018 + 0x400 * i, 0, 16⟩
/-- RAIL.VCMD.PREV_TAG, Table 5.8. -/
abbrev railVcmdPrevTag (i : Nat) : Field := ⟨0x0801C + 0x400 * i, 24, 8⟩
/-- RAIL.VCMD.TAG, Table 5.8. -/
abbrev railVcmdTag (i : Nat) : Field := ⟨0x0801C + 0x400 * i, 16, 8⟩
/-- RAIL.VCMD.PREV_STATUS, Table 5.8. -/
abbrev railVcmdPrevStatus (i : Nat) : Field := ⟨0x0801C + 0x400 * i, 8, 8⟩
/-- RAIL.VCMD.STATUS, Table 5.8. -/
abbrev railVcmdStatus (i : Nat) : Field := ⟨0x0801C + 0x400 * i, 0, 8⟩
/-- RAIL.VPOS.CMD, Table 5.8. -/
abbrev railVposCmd (i : Nat) : Field := ⟨0x08020 + 0x400 * i, 16, 16⟩
/-- RAIL.VPOS.POSITION, Table 5.8. -/
abbrev railVposPosition (i : Nat) : Field := ⟨0x08020 + 0x400 * i, 0, 16⟩
/-- RAIL.VTGT.SENSE, Table 5.8. -/
abbrev railVtgtSense (i : Nat) : Field := ⟨0x08024 + 0x400 * i, 16, 16⟩
/-- RAIL.VTGT.TARGET, Table 5.8. -/
abbrev railVtgtTarget (i : Nat) : Field := ⟨0x08024 + 0x400 * i, 0, 16⟩
/-- RAIL.LOADLINE.RLL, Table 5.8. -/
abbrev railLoadlineRll (i : Nat) : Field := ⟨0x08028 + 0x400 * i, 0, 10⟩
/-- RAIL.SLEW.UP, Table 5.8. -/
abbrev railSlewUp (i : Nat) : Field := ⟨0x0802C + 0x400 * i, 8, 8⟩
/-- RAIL.SLEW.DOWN, Table 5.8. -/
abbrev railSlewDown (i : Nat) : Field := ⟨0x0802C + 0x400 * i, 0, 8⟩
/-- RAIL.ILIM.LIMIT, Table 5.8. -/
abbrev railIlimLimit (i : Nat) : Field := ⟨0x08030 + 0x400 * i, 0, 16⟩
/-- RAIL.ILIM_EFF.LIMIT, Table 5.8. -/
abbrev railIlimEffLimit (i : Nat) : Field := ⟨0x08034 + 0x400 * i, 0, 16⟩
/-- RAIL.PROT.TRUNC, Table 5.8. -/
abbrev railProtTrunc (i : Nat) : Field := ⟨0x08038 + 0x400 * i, 24, 8⟩
/-- RAIL.PROT.OV, Table 5.8. -/
abbrev railProtOv (i : Nat) : Field := ⟨0x08038 + 0x400 * i, 16, 8⟩
/-- RAIL.PROT.UV, Table 5.8. -/
abbrev railProtUv (i : Nat) : Field := ⟨0x08038 + 0x400 * i, 8, 8⟩
/-- RAIL.PROT.STAGE_TLIM, Table 5.8. -/
abbrev railProtStageTlim (i : Nat) : Field := ⟨0x08038 + 0x400 * i, 0, 8⟩
/-- RAIL.PLDRAG.SLOTS, Table 5.8. -/
abbrev railPldragSlots (i : Nat) : Field := ⟨0x0803C + 0x400 * i, 0, 6⟩
/-- RAIL.CFG.SHED_EN, Table 5.8. -/
abbrev railCfgShedEn (i : Nat) : Field := ⟨0x08040 + 0x400 * i, 8, 1⟩
/-- RAIL.CFG.MIN_ON, Table 5.8. -/
abbrev railCfgMinOn (i : Nat) : Field := ⟨0x08040 + 0x400 * i, 4, 4⟩
/-- RAIL.CFG.BC_MASK, Table 5.8. -/
abbrev railCfgBcMask (i : Nat) : Field := ⟨0x08040 + 0x400 * i, 0, 4⟩
/-- RAIL.SHED.ADD_I, Table 5.8. -/
abbrev railShedAddI (i : Nat) : Field := ⟨0x08044 + 0x400 * i, 16, 16⟩
/-- RAIL.SHED.SHED_I, Table 5.8. -/
abbrev railShedShedI (i : Nat) : Field := ⟨0x08044 + 0x400 * i, 0, 16⟩
/-- RAIL.PHASE_BASE.BASE, Table 5.8. -/
abbrev railPhaseBaseBase (i : Nat) : Field := ⟨0x08048 + 0x400 * i, 0, 10⟩
/-- RAIL.COMP.KP, Table 5.8. -/
abbrev railCompKp (i : Nat) : Field := ⟨0x0804C + 0x400 * i, 24, 8⟩
/-- RAIL.COMP.KI, Table 5.8. -/
abbrev railCompKi (i : Nat) : Field := ⟨0x0804C + 0x400 * i, 16, 8⟩
/-- RAIL.COMP.KD, Table 5.8. -/
abbrev railCompKd (i : Nat) : Field := ⟨0x0804C + 0x400 * i, 8, 8⟩
/-- RAIL.COMP.KS, Table 5.8. -/
abbrev railCompKs (i : Nat) : Field := ⟨0x0804C + 0x400 * i, 0, 8⟩
/-- RAIL.SETTLE.TIMEOUT, Table 5.8. -/
abbrev railSettleTimeout (i : Nat) : Field := ⟨0x08050 + 0x400 * i, 16, 16⟩
/-- RAIL.SETTLE.BAND, Table 5.8. -/
abbrev railSettleBand (i : Nat) : Field := ⟨0x08050 + 0x400 * i, 0, 8⟩
/-- RAIL.SEQ.SUPERSEDED, Table 5.8. -/
abbrev railSeqSuperseded (i : Nat) : Field := ⟨0x08054 + 0x400 * i, 24, 8⟩
/-- RAIL.SEQ.REVERSALS, Table 5.8. -/
abbrev railSeqReversals (i : Nat) : Field := ⟨0x08054 + 0x400 * i, 16, 8⟩
/-- RAIL.SEQ.START, Table 5.8. -/
abbrev railSeqStart (i : Nat) : Field := ⟨0x08054 + 0x400 * i, 0, 16⟩
/-- RAIL.FPERM.REQ, Table 5.8. -/
abbrev railFpermReq (i j : Nat) : Field := ⟨0x08058 + 0x400 * i + 0x4 * j, 16, 11⟩
/-- RAIL.FPERM.PERM, Table 5.8. -/
abbrev railFpermPerm (i j : Nat) : Field := ⟨0x08058 + 0x400 * i + 0x4 * j, 0, 11⟩
/-- RAIL.PHASE_I.STATE, Table 5.8. -/
abbrev railPhaseIState (i j : Nat) : Field := ⟨0x08080 + 0x400 * i + 0x4 * j, 29, 3⟩
/-- RAIL.PHASE_I.CURRENT, Table 5.8. -/
abbrev railPhaseICurrent (i j : Nat) : Field := ⟨0x08080 + 0x400 * i + 0x4 * j, 0, 16⟩
/-- RAIL.PHASE_T.TEMP, Table 5.8. -/
abbrev railPhaseTTemp (i j : Nat) : Field := ⟨0x080A0 + 0x400 * i + 0x4 * j, 0, 16⟩
/-- RAILC.BC_STATUS.EN, Table 5.9. -/
abbrev railcBcStatusEn : Field := ⟨0x0A000, 16, 4⟩
/-- RAILC.BC_STATUS.PG, Table 5.9. -/
abbrev railcBcStatusPg : Field := ⟨0x0A000, 12, 1⟩
/-- RAILC.BC_STATUS.FITTED, Table 5.9. -/
abbrev railcBcStatusFitted : Field := ⟨0x0A000, 8, 4⟩
/-- RAILC.BC_STATUS.STALE, Table 5.9. -/
abbrev railcBcStatusStale : Field := ⟨0x0A000, 4, 4⟩
/-- RAILC.BC_STATUS.FAULT, Table 5.9. -/
abbrev railcBcStatusFault : Field := ⟨0x0A000, 0, 4⟩
/-- RAILC.BC_EVT.PG_TIMEOUT, Table 5.9. -/
abbrev railcBcEvtPgTimeout : Field := ⟨0x0A004, 9, 1⟩
/-- RAILC.BC_EVT.PG_LOST, Table 5.9. -/
abbrev railcBcEvtPgLost : Field := ⟨0x0A004, 8, 1⟩
/-- RAILC.BC_EVT.STALE, Table 5.9. -/
abbrev railcBcEvtStale : Field := ⟨0x0A004, 4, 4⟩
/-- RAILC.BC_EVT.FAULT, Table 5.9. -/
abbrev railcBcEvtFault : Field := ⟨0x0A004, 0, 4⟩
/-- RAILC.BC_IE.IE, Table 5.9. -/
abbrev railcBcIeIe : Field := ⟨0x0A008, 0, 10⟩
/-- RAILC.SUMMARY.FAILED, Table 5.9. -/
abbrev railcSummaryFailed : Field := ⟨0x0A00C, 24, 8⟩
/-- RAILC.SUMMARY.SENSE_EST, Table 5.9. -/
abbrev railcSummarySenseEst : Field := ⟨0x0A00C, 16, 8⟩
/-- RAILC.SUMMARY.SHED, Table 5.9. -/
abbrev railcSummaryShed : Field := ⟨0x0A00C, 8, 8⟩
/-- RAILC.SUMMARY.RAILS_ON, Table 5.9. -/
abbrev railcSummaryRailsOn : Field := ⟨0x0A00C, 0, 8⟩
/-- RAILC.DERATE_K.FRAC, Table 5.9. -/
abbrev railcDerateKFrac (i : Nat) : Field := ⟨0x0A010 + 0x4 * i, 0, 5⟩
/-- TEL.CAP, Table 5.10. -/
abbrev telCap : Field := ⟨0x68000, 0, 32⟩
/-- TEL.WIN.LONG, Table 5.10. -/
abbrev telWinLong (i : Nat) : Field := ⟨0x68100 + 0x40 * i, 16, 4⟩
/-- TEL.WIN.SHORT, Table 5.10. -/
abbrev telWinShort (i : Nat) : Field := ⟨0x68100 + 0x40 * i, 0, 12⟩
/-- TEL.V.LONG, Table 5.10. -/
abbrev telVLong (i : Nat) : Field := ⟨0x68104 + 0x40 * i, 16, 16⟩
/-- TEL.V.SHORT, Table 5.10. -/
abbrev telVShort (i : Nat) : Field := ⟨0x68104 + 0x40 * i, 0, 16⟩
/-- TEL.I.LONG, Table 5.10. -/
abbrev telILong (i : Nat) : Field := ⟨0x68108 + 0x40 * i, 16, 16⟩
/-- TEL.I.SHORT, Table 5.10. -/
abbrev telIShort (i : Nat) : Field := ⟨0x68108 + 0x40 * i, 0, 16⟩
/-- TEL.P.LONG, Table 5.10. -/
abbrev telPLong (i : Nat) : Field := ⟨0x6810C + 0x40 * i, 16, 16⟩
/-- TEL.P.SHORT, Table 5.10. -/
abbrev telPShort (i : Nat) : Field := ⟨0x6810C + 0x40 * i, 0, 16⟩
/-- TEL.V_PEAK.MAX, Table 5.10. -/
abbrev telVPeakMax (i : Nat) : Field := ⟨0x68110 + 0x40 * i, 16, 16⟩
/-- TEL.V_PEAK.MIN, Table 5.10. -/
abbrev telVPeakMin (i : Nat) : Field := ⟨0x68110 + 0x40 * i, 0, 16⟩
/-- TEL.IP_PEAK.I_MAX, Table 5.10. -/
abbrev telIpPeakIMax (i : Nat) : Field := ⟨0x68114 + 0x40 * i, 16, 16⟩
/-- TEL.IP_PEAK.P_MAX, Table 5.10. -/
abbrev telIpPeakPMax (i : Nat) : Field := ⟨0x68114 + 0x40 * i, 0, 16⟩
/-- TEL.TEMP.PEAK, Table 5.10. -/
abbrev telTempPeak (i : Nat) : Field := ⟨0x68118 + 0x40 * i, 16, 16⟩
/-- TEL.TEMP.NOW, Table 5.10. -/
abbrev telTempNow (i : Nat) : Field := ⟨0x68118 + 0x40 * i, 0, 16⟩
/-- TEL.ENERGY_LO.UJ, Table 5.10. -/
abbrev telEnergyLoUj (i : Nat) : Field := ⟨0x6811C + 0x40 * i, 0, 32⟩
/-- TEL.ENERGY_HI.UJ, Table 5.10. -/
abbrev telEnergyHiUj (i : Nat) : Field := ⟨0x68120 + 0x40 * i, 0, 32⟩
/-- TEL.STAMP.BEAT, Table 5.10. -/
abbrev telStampBeat (i : Nat) : Field := ⟨0x68124 + 0x40 * i, 0, 32⟩
/-- TEL.CLR.PEAK, Table 5.10. -/
abbrev telClrPeak (i : Nat) : Field := ⟨0x68128 + 0x40 * i, 0, 1⟩
/-- TEL.BC_V.VIN, Table 5.10. -/
abbrev telBcVVin (i : Nat) : Field := ⟨0x68300 + 0x10 * i, 16, 16⟩
/-- TEL.BC_V.VOUT, Table 5.10. -/
abbrev telBcVVout (i : Nat) : Field := ⟨0x68300 + 0x10 * i, 0, 16⟩
/-- TEL.BC_IT.TEMP, Table 5.10. -/
abbrev telBcItTemp (i : Nat) : Field := ⟨0x68304 + 0x10 * i, 16, 16⟩
/-- TEL.BC_IT.IOUT, Table 5.10. -/
abbrev telBcItIout (i : Nat) : Field := ⟨0x68304 + 0x10 * i, 0, 16⟩
/-- TEL.BC_STAT.WORD, Table 5.10. -/
abbrev telBcStatWord (i : Nat) : Field := ⟨0x68308 + 0x10 * i, 0, 16⟩
/-- TEL.BC_STAMP.BEAT, Table 5.10. -/
abbrev telBcStampBeat (i : Nat) : Field := ⟨0x6830C + 0x10 * i, 0, 32⟩
/-- CPA.CAP, Table 6.5. -/
abbrev cpaCap (i : Nat) : Field := ⟨0x10000 + 0x40 * i, 0, 32⟩
/-- CPA.STATUS.CEIL, Table 6.5. -/
abbrev cpaStatusCeil (i : Nat) : Field := ⟨0x10004 + 0x40 * i, 26, 6⟩
/-- CPA.STATUS.SRC, Table 6.5. -/
abbrev cpaStatusSrc (i : Nat) : Field := ⟨0x10004 + 0x40 * i, 23, 3⟩
/-- CPA.STATUS.SHOE, Table 6.5. -/
abbrev cpaStatusShoe (i : Nat) : Field := ⟨0x10004 + 0x40 * i, 19, 1⟩
/-- CPA.STATUS.HARD, Table 6.5. -/
abbrev cpaStatusHard (i : Nat) : Field := ⟨0x10004 + 0x40 * i, 18, 1⟩
/-- CPA.STATUS.NOTICE, Table 6.5. -/
abbrev cpaStatusNotice (i : Nat) : Field := ⟨0x10004 + 0x40 * i, 17, 1⟩
/-- CPA.STATUS.FILL, Table 6.5. -/
abbrev cpaStatusFill (i : Nat) : Field := ⟨0x10004 + 0x40 * i, 16, 1⟩
/-- CPA.STATUS.ISSUE, Table 6.5. -/
abbrev cpaStatusIssue (i : Nat) : Field := ⟨0x10004 + 0x40 * i, 0, 6⟩
/-- CPA.CNT_A.NOTICE, Table 6.5. -/
abbrev cpaCntANotice (i : Nat) : Field := ⟨0x10008 + 0x40 * i, 16, 16⟩
/-- CPA.CNT_A.SHOE, Table 6.5. -/
abbrev cpaCntAShoe (i : Nat) : Field := ⟨0x10008 + 0x40 * i, 0, 16⟩
/-- CPA.CNT_B.HARD, Table 6.5. -/
abbrev cpaCntBHard (i : Nat) : Field := ⟨0x1000C + 0x40 * i, 16, 16⟩
/-- CPA.CNT_B.DEEPEST, Table 6.5. -/
abbrev cpaCntBDeepest (i : Nat) : Field := ⟨0x1000C + 0x40 * i, 0, 8⟩
/-- CPA.CLR.CNT, Table 6.5. -/
abbrev cpaClrCnt (i : Nat) : Field := ⟨0x10010 + 0x40 * i, 0, 1⟩
/-- CPA.DRAG_OVR.SLOTS, Table 6.5. -/
abbrev cpaDragOvrSlots (i : Nat) : Field := ⟨0x10014 + 0x40 * i, 0, 6⟩
/-- CPA.FREQ.FMAX, Table 6.5. -/
abbrev cpaFreqFmax (i : Nat) : Field := ⟨0x10018 + 0x40 * i, 16, 11⟩
/-- CPA.FREQ.EFF, Table 6.5. -/
abbrev cpaFreqEff (i : Nat) : Field := ⟨0x10018 + 0x40 * i, 0, 11⟩
/-- CPA.FILL.SLOTS, Table 6.5. -/
abbrev cpaFillSlots (i : Nat) : Field := ⟨0x1001C + 0x40 * i, 16, 6⟩
/-- CPA.FILL.WINDOWS, Table 6.5. -/
abbrev cpaFillWindows (i : Nat) : Field := ⟨0x1001C + 0x40 * i, 0, 16⟩
/-- CLC.CAP, Table 6.6. -/
abbrev clcCap : Field := ⟨0x18000, 0, 32⟩
/-- CLC.THRESH.REF_SLEW, Table 6.6. -/
abbrev clcThreshRefSlew : Field := ⟨0x18004, 24, 8⟩
/-- CLC.THRESH.HARD, Table 6.6. -/
abbrev clcThreshHard : Field := ⟨0x18004, 16, 8⟩
/-- CLC.THRESH.SHOE, Table 6.6. -/
abbrev clcThreshShoe : Field := ⟨0x18004, 8, 8⟩
/-- CLC.THRESH.NOTICE, Table 6.6. -/
abbrev clcThreshNotice : Field := ⟨0x18004, 0, 8⟩
/-- CLC.SHOE.SLOTS, Table 6.6. -/
abbrev clcShoeSlots : Field := ⟨0x18008, 16, 6⟩
/-- CLC.SHOE.HOLD, Table 6.6. -/
abbrev clcShoeHold : Field := ⟨0x18008, 8, 4⟩
/-- CLC.SHOE.HARD_KEEP, Table 6.6. -/
abbrev clcShoeHardKeep : Field := ⟨0x18008, 0, 4⟩
/-- CLC.DIDT.CPL_START, Table 6.6. -/
abbrev clcDidtCplStart : Field := ⟨0x1800C, 16, 6⟩
/-- CLC.DIDT.BUDGET, Table 6.6. -/
abbrev clcDidtBudget : Field := ⟨0x1800C, 0, 10⟩
/-- CLC.PREPOS.LEAD, Table 6.6. -/
abbrev clcPreposLead : Field := ⟨0x18010, 24, 8⟩
/-- CLC.PREPOS.FRAC, Table 6.6. -/
abbrev clcPreposFrac : Field := ⟨0x18010, 20, 4⟩
/-- CLC.PREPOS.HOLD, Table 6.6. -/
abbrev clcPreposHold : Field := ⟨0x18010, 8, 8⟩
/-- CLC.PREPOS.MAX, Table 6.6. -/
abbrev clcPreposMax : Field := ⟨0x18010, 0, 8⟩
/-- CLC.CPL.HOLD, Table 6.6. -/
abbrev clcCplHold : Field := ⟨0x18014, 8, 8⟩
/-- CLC.CPL.RAISE, Table 6.6. -/
abbrev clcCplRaise : Field := ⟨0x18014, 0, 8⟩
/-- CLC.FF.DFLOOR, Table 6.6. -/
abbrev clcFfDfloor : Field := ⟨0x18018, 16, 8⟩
/-- CLC.FF.EN, Table 6.6. -/
abbrev clcFfEn : Field := ⟨0x18018, 0, 1⟩
/-- CLC.FILL.DECAY, Table 6.6. -/
abbrev clcFillDecay : Field := ⟨0x1801C, 0, 16⟩
/-- CLC.CLASS_I class 4m+0, Table 6.6. -/
abbrev clcClassI0 (i : Nat) : Field := ⟨0x18020 + 0x4 * i, 0, 8⟩
/-- CLC.CLASS_I class 4m+1, Table 6.6. -/
abbrev clcClassI1 (i : Nat) : Field := ⟨0x18020 + 0x4 * i, 8, 8⟩
/-- CLC.CLASS_I class 4m+2, Table 6.6. -/
abbrev clcClassI2 (i : Nat) : Field := ⟨0x18020 + 0x4 * i, 16, 8⟩
/-- CLC.CLASS_I class 4m+3, Table 6.6. -/
abbrev clcClassI3 (i : Nat) : Field := ⟨0x18020 + 0x4 * i, 24, 8⟩
/-- CLC.EVT_IE.PLL_FAIL, Table 6.6. -/
abbrev clcEvtIePllFail : Field := ⟨0x18030, 0, 12⟩
/-- CLC.EVT.PLL_FAIL, Table 6.6. -/
abbrev clcEvtPllFail : Field := ⟨0x18034, 0, 12⟩
/-- CLC.RAISE_K.CPL, Table 6.6. -/
abbrev clcRaiseKCpl (i : Nat) : Field := ⟨0x18040 + 0x4 * i, 16, 16⟩
/-- CLC.RAISE_K.PP, Table 6.6. -/
abbrev clcRaiseKPp (i : Nat) : Field := ⟨0x18040 + 0x4 * i, 0, 16⟩
/-- CLC_C.FREQ.LIMIT, Table 6.7. -/
abbrev clcCFreqLimit (i : Nat) : Field := ⟨0x18100 + 0x40 * i, 16, 11⟩
/-- CLC_C.FREQ.RUN, Table 6.7. -/
abbrev clcCFreqRun (i : Nat) : Field := ⟨0x18100 + 0x40 * i, 0, 11⟩
/-- CLC_C.THERM.LIMIT, Table 6.7. -/
abbrev clcCThermLimit (i : Nat) : Field := ⟨0x18104 + 0x40 * i, 0, 11⟩
/-- CLC_C.FC.NEXT, Table 6.7. -/
abbrev clcCFcNext (i : Nat) : Field := ⟨0x18108 + 0x40 * i, 16, 16⟩
/-- CLC_C.FC.ENTRIES, Table 6.7. -/
abbrev clcCFcEntries (i : Nat) : Field := ⟨0x18108 + 0x40 * i, 8, 5⟩
/-- CLC_C.FC.MERGED, Table 6.7. -/
abbrev clcCFcMerged (i : Nat) : Field := ⟨0x18108 + 0x40 * i, 0, 8⟩
/-- CLC_C.DROOP.SHOE_NOW, Table 6.7. -/
abbrev clcCDroopShoeNow (i : Nat) : Field := ⟨0x1810C + 0x40 * i, 24, 5⟩
/-- CLC_C.DROOP.HARD_NOW, Table 6.7. -/
abbrev clcCDroopHardNow (i : Nat) : Field := ⟨0x1810C + 0x40 * i, 16, 5⟩
/-- CLC_C.DROOP.SHOE_EVT, Table 6.7. -/
abbrev clcCDroopShoeEvt (i : Nat) : Field := ⟨0x1810C + 0x40 * i, 0, 16⟩
/-- CLC_C.LN.ACCEPTED, Table 6.7. -/
abbrev clcCLnAccepted (i : Nat) : Field := ⟨0x18110 + 0x40 * i, 16, 16⟩
/-- CLC_C.LN.REFUSED, Table 6.7. -/
abbrev clcCLnRefused (i : Nat) : Field := ⟨0x18110 + 0x40 * i, 0, 16⟩
/-- CLC_C.RAMP.RAMPING, Table 6.7. -/
abbrev clcCRampRamping (i : Nat) : Field := ⟨0x18114 + 0x40 * i, 0, 5⟩
/-- CPA.PWR.LEAK, Table 7.5. -/
abbrev cpaPwrLeak (i : Nat) : Field := ⟨0x10020 + 0x40 * i, 16, 16⟩
/-- CPA.PWR.TOTAL, Table 7.5. -/
abbrev cpaPwrTotal (i : Nat) : Field := ⟨0x10020 + 0x40 * i, 0, 16⟩
/-- CPA.PWR_DYN.MAT, Table 7.5. -/
abbrev cpaPwrDynMat (i : Nat) : Field := ⟨0x10024 + 0x40 * i, 16, 16⟩
/-- CPA.PWR_DYN.OTHER, Table 7.5. -/
abbrev cpaPwrDynOther (i : Nat) : Field := ⟨0x10024 + 0x40 * i, 0, 16⟩
/-- CPA.GRANT.G, Table 7.5. -/
abbrev cpaGrantG (i : Nat) : Field := ⟨0x10028 + 0x40 * i, 16, 16⟩
/-- CPA.GRANT.CEIL, Table 7.5. -/
abbrev cpaGrantCeil (i : Nat) : Field := ⟨0x10028 + 0x40 * i, 0, 6⟩
/-- CPA.SLOT.UAVG, Table 7.5. -/
abbrev cpaSlotUavg (i : Nat) : Field := ⟨0x1002C + 0x40 * i, 16, 8⟩
/-- CPA.SLOT.PSLOT, Table 7.5. -/
abbrev cpaSlotPslot (i : Nat) : Field := ⟨0x1002C + 0x40 * i, 0, 16⟩
/-- CPA.E_LO.UJ, Table 7.5. -/
abbrev cpaELoUj (i : Nat) : Field := ⟨0x10030 + 0x40 * i, 0, 32⟩
/-- CPA.E_HI.UJ, Table 7.5. -/
abbrev cpaEHiUj (i : Nat) : Field := ⟨0x10034 + 0x40 * i, 0, 32⟩
/-- CPA.E_FILL.UJ, Table 7.5. -/
abbrev cpaEFillUj (i : Nat) : Field := ⟨0x10038 + 0x40 * i, 0, 32⟩
/-- CPA.ACT.SEL, Table 7.5. -/
abbrev cpaActSel (i : Nat) : Field := ⟨0x1003C + 0x40 * i, 28, 4⟩
/-- CPA.ACT.COUNT, Table 7.5. -/
abbrev cpaActCount (i : Nat) : Field := ⟨0x1003C + 0x40 * i, 0, 24⟩
/-- PWR.CAP, Table 7.6. -/
abbrev pwrCap : Field := ⟨0x20000, 0, 32⟩
/-- PWR.STATUS.LAW, Table 7.6. -/
abbrev pwrStatusLaw : Field := ⟨0x20004, 31, 1⟩
/-- PWR.STATUS.HOST_ABSENT, Table 7.6. -/
abbrev pwrStatusHostAbsent : Field := ⟨0x20004, 30, 1⟩
/-- PWR.STATUS.LIMITING, Table 7.6. -/
abbrev pwrStatusLimiting : Field := ⟨0x20004, 29, 1⟩
/-- PWR.STATUS.ELEC_BIND, Table 7.6. -/
abbrev pwrStatusElecBind : Field := ⟨0x20004, 28, 1⟩
/-- PWR.STATUS.PEAK_STATE, Table 7.6. -/
abbrev pwrStatusPeakState : Field := ⟨0x20004, 26, 2⟩
/-- PWR.STATUS.PEAK_COUNT, Table 7.6. -/
abbrev pwrStatusPeakCount : Field := ⟨0x20004, 16, 8⟩
/-- PWR.CAPNOW.HOST, Table 7.6. -/
abbrev pwrCapnowHost : Field := ⟨0x20008, 16, 16⟩
/-- PWR.CAPNOW.FORCE, Table 7.6. -/
abbrev pwrCapnowForce : Field := ⟨0x20008, 0, 16⟩
/-- PWR.PROF_A.CAP_MAX, Table 7.6. -/
abbrev pwrProfACapMax : Field := ⟨0x2000C, 16, 16⟩
/-- PWR.PROF_A.CAP_MIN, Table 7.6. -/
abbrev pwrProfACapMin : Field := ⟨0x2000C, 0, 16⟩
/-- PWR.PROF_B.ELEC_LIMIT, Table 7.6. -/
abbrev pwrProfBElecLimit : Field := ⟨0x20010, 16, 16⟩
/-- PWR.PROF_B.HOST_ABSENT_CAP, Table 7.6. -/
abbrev pwrProfBHostAbsentCap : Field := ⟨0x20010, 0, 16⟩
/-- PWR.PROF_C.TAU, Table 7.6. -/
abbrev pwrProfCTau : Field := ⟨0x20014, 16, 8⟩
/-- PWR.PROF_C.COOL_CAP, Table 7.6. -/
abbrev pwrProfCCoolCap : Field := ⟨0x20014, 0, 16⟩
/-- PWR.WIN_E.PKG, Table 7.6. -/
abbrev pwrWinEPkg : Field := ⟨0x20018, 16, 16⟩
/-- PWR.WIN_E.DIE, Table 7.6. -/
abbrev pwrWinEDie : Field := ⟨0x20018, 0, 16⟩
/-- PWR.WIN_ELEC.PKG, Table 7.6. -/
abbrev pwrWinElecPkg : Field := ⟨0x2001C, 16, 16⟩
/-- PWR.WIN_ELEC.DIE, Table 7.6. -/
abbrev pwrWinElecDie : Field := ⟨0x2001C, 0, 16⟩
/-- PWR.IVL.PKG, Table 7.6. -/
abbrev pwrIvlPkg : Field := ⟨0x20020, 16, 16⟩
/-- PWR.IVL.DIE, Table 7.6. -/
abbrev pwrIvlDie : Field := ⟨0x20020, 0, 16⟩
/-- PWR.LIM_A.P_CAP, Table 7.6. -/
abbrev pwrLimAPCap : Field := ⟨0x20024, 16, 16⟩
/-- PWR.LIM_A.P_ELEC, Table 7.6. -/
abbrev pwrLimAPElec : Field := ⟨0x20024, 0, 16⟩
/-- PWR.LIM_B.P_LIM, Table 7.6. -/
abbrev pwrLimBPLim : Field := ⟨0x20028, 16, 16⟩
/-- PWR.LIM_B.P_GRANT, Table 7.6. -/
abbrev pwrLimBPGrant : Field := ⟨0x20028, 0, 16⟩
/-- PWR.EVT.CAP_CHANGED, LIMIT_ON, ELEC_BIND, ELEC_OVER, E_OVER, GRANT_FLOOR, CAL_CLIP, Table 7.6. -/
abbrev pwrEvt : Field := ⟨0x2002C, 0, 7⟩
/-- PWR.EVT_IE.IE, Table 7.6. -/
abbrev pwrEvtIeIe : Field := ⟨0x20030, 0, 7⟩
/-- PWR.OVR.SLOTS, Table 7.6. -/
abbrev pwrOvrSlots : Field := ⟨0x20034, 0, 6⟩
/-- PWR.FILL_LO.UJ, Table 7.6. -/
abbrev pwrFillLoUj : Field := ⟨0x20038, 0, 32⟩
/-- PWR.FILL_HI.UJ, Table 7.6. -/
abbrev pwrFillHiUj : Field := ⟨0x2003C, 0, 32⟩
/-- PWR.HOSTCAP.CAP, Table 7.6. -/
abbrev pwrHostcapCap : Field := ⟨0x20040, 0, 16⟩
/-- PWR.CAPCTL.BOOST, Table 7.6. -/
abbrev pwrCapctlBoost : Field := ⟨0x20044, 16, 8⟩
/-- PWR.CAPCTL.FLOOR, Table 7.6. -/
abbrev pwrCapctlFloor : Field := ⟨0x20044, 8, 4⟩
/-- PWR.GRANT.SLOT_DEFAULT, Table 7.6. -/
abbrev pwrGrantSlotDefault : Field := ⟨0x20048, 16, 16⟩
/-- PWR.GRANT.MIN_SLOTS, Table 7.6. -/
abbrev pwrGrantMinSlots : Field := ⟨0x20048, 0, 6⟩
/-- PWR.LKG.TDBL, Table 7.6. -/
abbrev pwrLkgTdbl : Field := ⟨0x2004C, 16, 8⟩
/-- PWR.LKG.VEXP, Table 7.6. -/
abbrev pwrLkgVexp : Field := ⟨0x2004C, 0, 8⟩
/-- PWR.CALCTL.CAL_EN, Table 7.6. -/
abbrev pwrCalctlCalEn : Field := ⟨0x20050, 31, 1⟩
/-- PWR.CALCTL.SHIFT, Table 7.6. -/
abbrev pwrCalctlShift : Field := ⟨0x20050, 0, 4⟩
/-- PWR.LKB_K.LIVE, Table 7.6. -/
abbrev pwrLkbKLive (i : Nat) : Field := ⟨0x20060 + 0x4 * i, 16, 12⟩
/-- PWR.LKB_K.STAGE, Table 7.6. -/
abbrev pwrLkbKStage (i : Nat) : Field := ⟨0x20060 + 0x4 * i, 0, 12⟩
/-- PWR.CAL_K.RATIO, Table 7.6. -/
abbrev pwrCalKRatio (i : Nat) : Field := ⟨0x20070 + 0x4 * i, 16, 16⟩
/-- PWR.CAL_K.SKIPPED, Table 7.6. -/
abbrev pwrCalKSkipped (i : Nat) : Field := ⟨0x20070 + 0x4 * i, 8, 8⟩
/-- PWR.CAL_K.CLIPPED, Table 7.6. -/
abbrev pwrCalKClipped (i : Nat) : Field := ⟨0x20070 + 0x4 * i, 0, 8⟩
/-- PWR.W_KI.LIVE, Table 7.6. -/
abbrev pwrWKiLive (i j : Nat) : Field := ⟨0x20100 + 0x40 * i + 0x4 * j, 16, 12⟩
/-- PWR.W_KI.STAGE, Table 7.6. -/
abbrev pwrWKiStage (i j : Nat) : Field := ⟨0x20100 + 0x40 * i + 0x4 * j, 0, 12⟩
/-- BUD.STATUS.LEADER, Table 8.10. -/
abbrev budStatusLeader : Field := ⟨0x21000, 31, 1⟩
/-- BUD.STATUS.AUTONOMOUS, Table 8.10. -/
abbrev budStatusAutonomous : Field := ⟨0x21000, 30, 1⟩
/-- BUD.STATUS.PBP_STATE, Table 8.10. -/
abbrev budStatusPbpState : Field := ⟨0x21000, 28, 2⟩
/-- BUD.STATUS.LINK_UP, Table 8.10. -/
abbrev budStatusLinkUp : Field := ⟨0x21000, 24, 3⟩
/-- BUD.STATUS.DIES_LIVE, Table 8.10. -/
abbrev budStatusDiesLive : Field := ⟨0x21000, 20, 4⟩
/-- BUD.EVT.LEADER_LOST, LEADER_BACK, DIE_LOST, DIE_BACK, PBP_SILENT, PBP_LIVE, GRANT_UNDER, CLAIM_UNDER, Table 8.10. -/
abbrev budEvt : Field := ⟨0x21004, 0, 8⟩
/-- BUD.EVT_IE.IE, Table 8.10. -/
abbrev budEvtIeIe : Field := ⟨0x21008, 0, 8⟩
/-- BUD.DIEB.RECEIVED, Table 8.10. -/
abbrev budDiebReceived : Field := ⟨0x2100C, 16, 16⟩
/-- BUD.DIEB.FORCE, Table 8.10. -/
abbrev budDiebForce : Field := ⟨0x2100C, 0, 16⟩
/-- BUD.DIEREP_A.WANT, Table 8.10. -/
abbrev budDierepAWant : Field := ⟨0x21010, 16, 16⟩
/-- BUD.DIEREP_A.LIMIT, Table 8.10. -/
abbrev budDierepALimit : Field := ⟨0x21010, 0, 16⟩
/-- BUD.DIEREP_B.FLOOR, Table 8.10. -/
abbrev budDierepBFloor : Field := ⟨0x21014, 16, 16⟩
/-- BUD.DIEREP_B.P_NC, Table 8.10. -/
abbrev budDierepBPNc : Field := ⟨0x21014, 0, 16⟩
/-- BUD.AUTO.LIMIT, Table 8.10. -/
abbrev budAutoLimit : Field := ⟨0x21018, 0, 16⟩
/-- BUD.CFG.PBP_EN, Table 8.10. -/
abbrev budCfgPbpEn : Field := ⟨0x21020, 31, 1⟩
/-- BUD.CFG.REPORT_TO, Table 8.10. -/
abbrev budCfgReportTo : Field := ⟨0x21020, 8, 4⟩
/-- BUD.CFG.SILENT_TO, Table 8.10. -/
abbrev budCfgSilentTo : Field := ⟨0x21020, 0, 8⟩
/-- BUD.PBP_CFG.SILENT_GRANT, Table 8.10. -/
abbrev budPbpCfgSilentGrant : Field := ⟨0x21024, 16, 16⟩
/-- BUD.PBP_CFG.CLAIM, Table 8.10. -/
abbrev budPbpCfgClaim : Field := ⟨0x21024, 0, 16⟩
/-- BUD.MARGIN.RAIL_FRAC, Table 8.10. -/
abbrev budMarginRailFrac : Field := ⟨0x21028, 28, 4⟩
/-- BUD.MARGIN.NC_MARGIN, Table 8.10. -/
abbrev budMarginNcMargin : Field := ⟨0x21028, 0, 16⟩
/-- BUD.DIE_W.W3, W2, W1, W0, Table 8.10. -/
abbrev budDieW : Field := ⟨0x2102C, 0, 32⟩
/-- BUD.CLB.BUDGET, Table 8.10. -/
abbrev budClbBudget (i : Nat) : Field := ⟨0x21040 + 0x4 * i, 16, 16⟩
/-- BUD.CLB.WANT, Table 8.10. -/
abbrev budClbWant (i : Nat) : Field := ⟨0x21040 + 0x4 * i, 0, 16⟩
/-- BUD.LD_A.POWER, Table 8.10. -/
abbrev budLdAPower (i : Nat) : Field := ⟨0x21080 + 0x8 * i, 16, 16⟩
/-- BUD.LD_A.WANT, Table 8.10. -/
abbrev budLdAWant (i : Nat) : Field := ⟨0x21080 + 0x8 * i, 0, 16⟩
/-- BUD.LD_B.GRANT, Table 8.10. -/
abbrev budLdBGrant (i : Nat) : Field := ⟨0x21084 + 0x8 * i, 16, 16⟩
/-- BUD.LD_B.LIMIT, Table 8.10. -/
abbrev budLdBLimit (i : Nat) : Field := ⟨0x21084 + 0x8 * i, 0, 16⟩
/-- BUD.LD_S.STATE, Table 8.10. -/
abbrev budLdSState (i : Nat) : Field := ⟨0x210A0 + 0x4 * i, 30, 2⟩
/-- BUD.LD_S.TRIP, Table 8.10. -/
abbrev budLdSTrip (i : Nat) : Field := ⟨0x210A0 + 0x4 * i, 29, 1⟩
/-- BUD.LD_S.MODE, Table 8.10. -/
abbrev budLdSMode (i : Nat) : Field := ⟨0x210A0 + 0x4 * i, 26, 3⟩
/-- BUD.LD_S.MISSED, Table 8.10. -/
abbrev budLdSMissed (i : Nat) : Field := ⟨0x210A0 + 0x4 * i, 16, 8⟩
/-- BUD.LD_S.FLOOR, Table 8.10. -/
abbrev budLdSFloor (i : Nat) : Field := ⟨0x210A0 + 0x4 * i, 0, 16⟩
/-- BUD.PBP_TX.REQ, Table 8.10. -/
abbrev budPbpTxReq : Field := ⟨0x210C0, 16, 16⟩
/-- BUD.PBP_TX.FLOOR, Table 8.10. -/
abbrev budPbpTxFloor : Field := ⟨0x210C0, 0, 16⟩
/-- BUD.PBP_TX2.USED, Table 8.10. -/
abbrev budPbpTx2Used : Field := ⟨0x210C4, 16, 16⟩
/-- BUD.PBP_TX2.LIMIT, Table 8.10. -/
abbrev budPbpTx2Limit : Field := ⟨0x210C4, 0, 16⟩
/-- BUD.PBP_RX.GRANT, Table 8.10. -/
abbrev budPbpRxGrant : Field := ⟨0x210C8, 16, 16⟩
/-- BUD.PBP_RX.PROC_USED, Table 8.10. -/
abbrev budPbpRxProcUsed : Field := ⟨0x210C8, 0, 16⟩
/-- BUD.PBP_SEQ.TX_SEQ, Table 8.10. -/
abbrev budPbpSeqTxSeq : Field := ⟨0x210CC, 24, 8⟩
/-- BUD.PBP_SEQ.RX_SEQ, Table 8.10. -/
abbrev budPbpSeqRxSeq : Field := ⟨0x210CC, 16, 8⟩
/-- BUD.PBP_SEQ.RX_ACK, Table 8.10. -/
abbrev budPbpSeqRxAck : Field := ⟨0x210CC, 8, 8⟩
/-- BUD.PBP_SEQ.QUIET, Table 8.10. -/
abbrev budPbpSeqQuiet : Field := ⟨0x210CC, 0, 8⟩
/-- BUD.PBP_ERR.CRC, Table 8.10. -/
abbrev budPbpErrCrc : Field := ⟨0x210D0, 16, 16⟩
/-- BUD.PBP_ERR.BAD_VER, Table 8.10. -/
abbrev budPbpErrBadVer : Field := ⟨0x210D0, 8, 8⟩
/-- BUD.PBP_ERR.BAD_LEN, Table 8.10. -/
abbrev budPbpErrBadLen : Field := ⟨0x210D0, 0, 8⟩
/-- BUD.IDL_P.CRC, Table 8.10. -/
abbrev budIdlPCrc (i : Nat) : Field := ⟨0x210E0 + 0x4 * i, 16, 16⟩
/-- BUD.IDL_P.UP, Table 8.10. -/
abbrev budIdlPUp (i : Nat) : Field := ⟨0x210E0 + 0x4 * i, 15, 1⟩
/-- BUD.IDL_P.PEER_ID, Table 8.10. -/
abbrev budIdlPPeerId (i : Nat) : Field := ⟨0x210E0 + 0x4 * i, 13, 2⟩
/-- BUD.IDL_P.PEER_LEADER, Table 8.10. -/
abbrev budIdlPPeerLeader (i : Nat) : Field := ⟨0x210E0 + 0x4 * i, 12, 1⟩
/-- BUD.IDL_P.BAD, Table 8.10. -/
abbrev budIdlPBad (i : Nat) : Field := ⟨0x210E0 + 0x4 * i, 0, 8⟩
/-- THM.CAP, Table 9.9. -/
abbrev thmCap : Field := ⟨0x0C000, 0, 32⟩
/-- THM.STATUS.TRIP, Table 9.9. -/
abbrev thmStatusTrip : Field := ⟨0x0C004, 31, 1⟩
/-- THM.STATUS.PWR_OFF, Table 9.9. -/
abbrev thmStatusPwrOff : Field := ⟨0x0C004, 30, 1⟩
/-- THM.STATUS.REC, Table 9.9. -/
abbrev thmStatusRec : Field := ⟨0x0C004, 28, 2⟩
/-- THM.STATUS.CAL_APPLIED, Table 9.9. -/
abbrev thmStatusCalApplied : Field := ⟨0x0C004, 27, 1⟩
/-- THM.STATUS.PRIV_COUNT, Table 9.9. -/
abbrev thmStatusPrivCount : Field := ⟨0x0C004, 16, 5⟩
/-- THM.STATUS.BROKEN_COUNT, Table 9.9. -/
abbrev thmStatusBrokenCount : Field := ⟨0x0C004, 8, 8⟩
/-- THM.STATUS.DISAGREE_COUNT, Table 9.9. -/
abbrev thmStatusDisagreeCount : Field := ⟨0x0C004, 0, 5⟩
/-- THM.EVT.THROTTLE, DRAM_HOT, NEAR, NTC_WARN, DISAGREE, BROKEN, BLIND, TRIP, Table 9.9. -/
abbrev thmEvt : Field := ⟨0x0C008, 0, 8⟩
/-- THM.EVT_IE.IE, Table 9.9. -/
abbrev thmEvtIeIe : Field := ⟨0x0C00C, 0, 8⟩
/-- THM.LIM_A.LOGIC_THROTTLE, Table 9.9. -/
abbrev thmLimALogicThrottle : Field := ⟨0x0C010, 16, 16⟩
/-- THM.LIM_A.LOGIC_TRIP, Table 9.9. -/
abbrev thmLimALogicTrip : Field := ⟨0x0C010, 0, 16⟩
/-- THM.LIM_B.DRAM_THROTTLE, Table 9.9. -/
abbrev thmLimBDramThrottle : Field := ⟨0x0C014, 16, 16⟩
/-- THM.LIM_B.DRAM_TRIP, Table 9.9. -/
abbrev thmLimBDramTrip : Field := ⟨0x0C014, 0, 16⟩
/-- THM.PAIR.SINGLE_ADD, Table 9.9. -/
abbrev thmPairSingleAdd : Field := ⟨0x0C018, 16, 16⟩
/-- THM.PAIR.TOL, Table 9.9. -/
abbrev thmPairTol : Field := ⟨0x0C018, 0, 16⟩
/-- THM.THR_CFG.STEP, Table 9.9. -/
abbrev thmThrCfgStep : Field := ⟨0x0C01C, 24, 8⟩
/-- THM.THR_CFG.HYST, Table 9.9. -/
abbrev thmThrCfgHyst : Field := ⟨0x0C01C, 16, 8⟩
/-- THM.THR_CFG.FLOOR, Table 9.9. -/
abbrev thmThrCfgFloor : Field := ⟨0x0C01C, 0, 11⟩
/-- THM.DRAM_CFG.L5_ADD, Table 9.9. -/
abbrev thmDramCfgL5Add : Field := ⟨0x0C020, 16, 16⟩
/-- THM.DRAM_CFG.BLIND_FREQ, Table 9.9. -/
abbrev thmDramCfgBlindFreq : Field := ⟨0x0C020, 0, 11⟩
/-- THM.PLAUS.RATE, Table 9.9. -/
abbrev thmPlausRate : Field := ⟨0x0C024, 24, 8⟩
/-- THM.PLAUS.BROKEN_N, Table 9.9. -/
abbrev thmPlausBrokenN : Field := ⟨0x0C024, 16, 8⟩
/-- THM.PLAUS.RECOVER_N, Table 9.9. -/
abbrev thmPlausRecoverN : Field := ⟨0x0C024, 8, 8⟩
/-- THM.PRIV.BAND, Table 9.9. -/
abbrev thmPrivBand : Field := ⟨0x0C028, 24, 8⟩
/-- THM.NTC_EN.MASK, Table 9.9. -/
abbrev thmNtcEnMask : Field := ⟨0x0C02C, 0, 8⟩
/-- THM.PRIV_ELIG_LO.MASK, Table 9.9. -/
abbrev thmPrivEligLoMask : Field := ⟨0x0C030, 0, 32⟩
/-- THM.PRIV_ELIG_HI.MASK, Table 9.9. -/
abbrev thmPrivEligHiMask : Field := ⟨0x0C034, 0, 32⟩
/-- THM.CH_EN_LO.MASK, Table 9.9. -/
abbrev thmChEnLoMask : Field := ⟨0x0C038, 0, 32⟩
/-- THM.CH_EN_HI.MASK, Table 9.9. -/
abbrev thmChEnHiMask : Field := ⟨0x0C03C, 0, 32⟩
/-- THM.SPARE_J.WARN, Table 9.9. -/
abbrev thmSpareJWarn (i : Nat) : Field := ⟨0x0C180 + 0x4 * i, 16, 16⟩
/-- THM.SPARE_J.TRIP, Table 9.9. -/
abbrev thmSpareJTrip (i : Nat) : Field := ⟨0x0C180 + 0x4 * i, 0, 16⟩
/-- THM.NTC_N.WARN, Table 9.9. -/
abbrev thmNtcNWarn (i : Nat) : Field := ⟨0x0C1A0 + 0x4 * i, 16, 16⟩
/-- THM.NTC_N.TRIP, Table 9.9. -/
abbrev thmNtcNTrip (i : Nat) : Field := ⟨0x0C1A0 + 0x4 * i, 0, 16⟩
/-- THM.CH.STATE, Table 9.9. -/
abbrev thmChState (i : Nat) : Field := ⟨0x0C200 + 0x4 * i, 30, 2⟩
/-- THM.CH.PRIV, Table 9.9. -/
abbrev thmChPriv (i : Nat) : Field := ⟨0x0C200 + 0x4 * i, 29, 1⟩
/-- THM.CH.SEEN_BROKEN, Table 9.9. -/
abbrev thmChSeenBroken (i : Nat) : Field := ⟨0x0C200 + 0x4 * i, 28, 1⟩
/-- THM.CH.READING, Table 9.9. -/
abbrev thmChReading (i : Nat) : Field := ⟨0x0C200 + 0x4 * i, 0, 16⟩
/-- THM.NTC_R.STATE, Table 9.9. -/
abbrev thmNtcRState (i : Nat) : Field := ⟨0x0C300 + 0x4 * i, 30, 2⟩
/-- THM.NTC_R.READING, Table 9.9. -/
abbrev thmNtcRReading (i : Nat) : Field := ⟨0x0C300 + 0x4 * i, 0, 16⟩
/-- THM.FLOW.FREQ, Table 9.9. -/
abbrev thmFlowFreq : Field := ⟨0x0C320, 0, 16⟩
/-- THM.PAIR_S.CASE, Table 9.9. -/
abbrev thmPairSCase (i : Nat) : Field := ⟨0x0C340 + 0x4 * i, 29, 3⟩
/-- THM.PAIR_S.DISAGREE, Table 9.9. -/
abbrev thmPairSDisagree (i : Nat) : Field := ⟨0x0C340 + 0x4 * i, 28, 1⟩
/-- THM.PAIR_S.EPISODES, Table 9.9. -/
abbrev thmPairSEpisodes (i : Nat) : Field := ⟨0x0C340 + 0x4 * i, 20, 8⟩
/-- THM.PAIR_S.CONTROL, Table 9.9. -/
abbrev thmPairSControl (i : Nat) : Field := ⟨0x0C340 + 0x4 * i, 0, 16⟩
/-- THM.PAIR_P.EST, Table 9.9. -/
abbrev thmPairPEst (i : Nat) : Field := ⟨0x0C3A0 + 0x4 * i, 16, 16⟩
/-- THM.PAIR_P.PROT, Table 9.9. -/
abbrev thmPairPProt (i : Nat) : Field := ⟨0x0C3A0 + 0x4 * i, 0, 16⟩
/-- THM.CLT.ACTIVE, Table 9.9. -/
abbrev thmCltActive (i : Nat) : Field := ⟨0x0C400 + 0x4 * i, 31, 1⟩
/-- THM.CLT.CAUSE, Table 9.9. -/
abbrev thmCltCause (i : Nat) : Field := ⟨0x0C400 + 0x4 * i, 29, 2⟩
/-- THM.CLT.DIV, Table 9.9. -/
abbrev thmCltDiv (i : Nat) : Field := ⟨0x0C400 + 0x4 * i, 27, 2⟩
/-- THM.CLT.F_HW, Table 9.9. -/
abbrev thmCltFHw (i : Nat) : Field := ⟨0x0C400 + 0x4 * i, 16, 11⟩
/-- THM.CLT.MDP_LIM, Table 9.9. -/
abbrev thmCltMdpLim (i : Nat) : Field := ⟨0x0C400 + 0x4 * i, 0, 11⟩
/-- THM.STK.THROTTLE, Table 9.9. -/
abbrev thmStkThrottle (i : Nat) : Field := ⟨0x0C440 + 0x4 * i, 31, 1⟩
/-- THM.STK.SRC, Table 9.9. -/
abbrev thmStkSrc (i : Nat) : Field := ⟨0x0C440 + 0x4 * i, 16, 2⟩
/-- THM.STK.PROT, Table 9.9. -/
abbrev thmStkProt (i : Nat) : Field := ⟨0x0C440 + 0x4 * i, 0, 16⟩
/-- THM.TRIP.SRC_TYPE, Table 9.9. -/
abbrev thmTripSrcType : Field := ⟨0x0C480, 30, 2⟩
/-- THM.TRIP.SRC_INDEX, Table 9.9. -/
abbrev thmTripSrcIndex : Field := ⟨0x0C480, 16, 8⟩
/-- THM.TRIP.FLASH_ABORT, Table 9.9. -/
abbrev thmTripFlashAbort : Field := ⟨0x0C480, 15, 1⟩
/-- THM.TRIP.RELOCATED, Table 9.9. -/
abbrev thmTripRelocated : Field := ⟨0x0C480, 14, 1⟩
/-- THM.TRIP_AT.READING, Table 9.9. -/
abbrev thmTripAtReading : Field := ⟨0x0C484, 16, 16⟩
/-- THM.TRIP_AT.LIMIT, Table 9.9. -/
abbrev thmTripAtLimit : Field := ⟨0x0C484, 0, 16⟩
/-- THM.TRIP_REC.OFFSET, Table 9.9. -/
abbrev thmTripRecOffset : Field := ⟨0x0C488, 0, 18⟩
/-- THM.TRIP_TIME.PWR_OFF, Table 9.9. -/
abbrev thmTripTimePwrOff : Field := ⟨0x0C48C, 16, 16⟩
/-- THM.TRIP_TIME.REC, Table 9.9. -/
abbrev thmTripTimeRec : Field := ⟨0x0C48C, 0, 16⟩
/-- MODEL.STATUS.STATE, Table 10.7. -/
abbrev modelStatusState : Field := ⟨0x0E000, 29, 3⟩
/-- MODEL.STATUS.COOL_DEG, Table 10.7. -/
abbrev modelStatusCoolDeg : Field := ⟨0x0E000, 28, 1⟩
/-- MODEL.STATUS.FLOW_LOST, Table 10.7. -/
abbrev modelStatusFlowLost : Field := ⟨0x0E000, 27, 1⟩
/-- MODEL.STATUS.BASELINE, Table 10.7. -/
abbrev modelStatusBaseline : Field := ⟨0x0E000, 26, 1⟩
/-- MODEL.STATUS.SETTLE_LEFT, Table 10.7. -/
abbrev modelStatusSettleLeft : Field := ⟨0x0E000, 0, 8⟩
/-- MODEL.EVT.COOL_DEG, COOL_OK, FLOW_LOST, OVERRUN, MODEL_RESET, Table 10.7. -/
abbrev modelEvt : Field := ⟨0x0E004, 0, 5⟩
/-- MODEL.EVT_IE.IE, Table 10.7. -/
abbrev modelEvtIeIe : Field := ⟨0x0E008, 0, 5⟩
/-- MODEL.SHAPE.N, Table 10.7. -/
abbrev modelShapeN : Field := ⟨0x0E00C, 16, 16⟩
/-- MODEL.SHAPE.M, Table 10.7. -/
abbrev modelShapeM : Field := ⟨0x0E00C, 8, 8⟩
/-- MODEL.SHAPE.Q, Table 10.7. -/
abbrev modelShapeQ : Field := ⟨0x0E00C, 0, 8⟩
/-- MODEL.STEPS.COUNT, Table 10.7. -/
abbrev modelStepsCount : Field := ⟨0x0E010, 0, 32⟩
/-- MODEL.TIMING.OVERRUNS, Table 10.7. -/
abbrev modelTimingOverruns : Field := ⟨0x0E014, 16, 16⟩
/-- MODEL.TIMING.CYCLES, Table 10.7. -/
abbrev modelTimingCycles : Field := ⟨0x0E014, 0, 16⟩
/-- MODEL.CFG.MODEL_EN, Table 10.7. -/
abbrev modelCfgModelEn : Field := ⟨0x0E018, 31, 1⟩
/-- MODEL.CFG.HORIZON, Table 10.7. -/
abbrev modelCfgHorizon : Field := ⟨0x0E018, 0, 5⟩
/-- MODEL.LAW.KDOWN, Table 10.7. -/
abbrev modelLawKdown : Field := ⟨0x0E01C, 24, 8⟩
/-- MODEL.LAW.KUP, Table 10.7. -/
abbrev modelLawKup : Field := ⟨0x0E01C, 16, 8⟩
/-- MODEL.LAW.RISE_MAX, Table 10.7. -/
abbrev modelLawRiseMax : Field := ⟨0x0E01C, 8, 8⟩
/-- MODEL.LAW.DRAM_MARGIN, Table 10.7. -/
abbrev modelLawDramMargin : Field := ⟨0x0E01C, 0, 8⟩
/-- MODEL.LAW2.FLOOR, Table 10.7. -/
abbrev modelLaw2Floor : Field := ⟨0x0E020, 16, 11⟩
/-- MODEL.LAW2.SETTLE, Table 10.7. -/
abbrev modelLaw2Settle : Field := ⟨0x0E020, 0, 8⟩
/-- MODEL.FLOW_CFG.TACH_EN, Table 10.7. -/
abbrev modelFlowCfgTachEn : Field := ⟨0x0E024, 31, 1⟩
/-- MODEL.FLOW_CFG.FLOW_MIN, Table 10.7. -/
abbrev modelFlowCfgFlowMin : Field := ⟨0x0E024, 16, 15⟩
/-- MODEL.FLOW_CFG.K, Table 10.7. -/
abbrev modelFlowCfgK : Field := ⟨0x0E024, 0, 16⟩
/-- MODEL.RTH_CFG.P_MIN, Table 10.7. -/
abbrev modelRthCfgPMin : Field := ⟨0x0E028, 16, 16⟩
/-- MODEL.RTH_CFG.WARN_PCT, Table 10.7. -/
abbrev modelRthCfgWarnPct : Field := ⟨0x0E028, 8, 8⟩
/-- MODEL.RTH_CFG.CLEAR_PCT, Table 10.7. -/
abbrev modelRthCfgClearPct : Field := ⟨0x0E028, 0, 8⟩
/-- MODEL.RTH_CFG2.DWELL, Table 10.7. -/
abbrev modelRthCfg2Dwell : Field := ⟨0x0E02C, 0, 16⟩
/-- MODEL.FLOW.SCALE, Table 10.7. -/
abbrev modelFlowScale : Field := ⟨0x0E030, 16, 16⟩
/-- MODEL.FLOW.FLOW, Table 10.7. -/
abbrev modelFlowFlow : Field := ⟨0x0E030, 0, 16⟩
/-- MODEL.RTH.NOW, Table 10.7. -/
abbrev modelRthNow : Field := ⟨0x0E034, 16, 16⟩
/-- MODEL.RTH.BASE, Table 10.7. -/
abbrev modelRthBase : Field := ⟨0x0E034, 0, 16⟩
/-- MODEL.RTH_S.RATIO, Table 10.7. -/
abbrev modelRthSRatio : Field := ⟨0x0E038, 16, 16⟩
/-- MODEL.RTH_S.LEARN, Table 10.7. -/
abbrev modelRthSLearn : Field := ⟨0x0E038, 0, 12⟩
/-- MODEL.RTH_S2.RUN, Table 10.7. -/
abbrev modelRthS2Run : Field := ⟨0x0E03C, 0, 16⟩
/-- MODEL.BAND_S.BAND, Table 10.7. -/
abbrev modelBandSBand (i : Nat) : Field := ⟨0x0E040 + 0x4 * i, 29, 3⟩
/-- MODEL.BAND_S.FORCED, Table 10.7. -/
abbrev modelBandSForced (i : Nat) : Field := ⟨0x0E040 + 0x4 * i, 28, 1⟩
/-- MODEL.BAND_S.REF, Table 10.7. -/
abbrev modelBandSRef (i : Nat) : Field := ⟨0x0E040 + 0x4 * i, 22, 2⟩
/-- MODEL.BAND_S.TMG, Table 10.7. -/
abbrev modelBandSTmg (i : Nat) : Field := ⟨0x0E040 + 0x4 * i, 19, 3⟩
/-- MODEL.BAND_S.DRV, Table 10.7. -/
abbrev modelBandSDrv (i : Nat) : Field := ⟨0x0E040 + 0x4 * i, 16, 3⟩
/-- MODEL.BAND_S.CHANGES, Table 10.7. -/
abbrev modelBandSChanges (i : Nat) : Field := ⟨0x0E040 + 0x4 * i, 0, 16⟩
/-- MODEL.BCODE_B.REF, Table 10.7. -/
abbrev modelBcodeBRef (i : Nat) : Field := ⟨0x0E060 + 0x4 * i, 8, 2⟩
/-- MODEL.BCODE_B.TMG, Table 10.7. -/
abbrev modelBcodeBTmg (i : Nat) : Field := ⟨0x0E060 + 0x4 * i, 4, 3⟩
/-- MODEL.BCODE_B.DRV, Table 10.7. -/
abbrev modelBcodeBDrv (i : Nat) : Field := ⟨0x0E060 + 0x4 * i, 0, 3⟩
/-- MODEL.OUT_Q.FORECAST, Table 10.7. -/
abbrev modelOutQForecast (i : Nat) : Field := ⟨0x0E080 + 0x4 * i, 16, 16⟩
/-- MODEL.OUT_Q.NOW, Table 10.7. -/
abbrev modelOutQNow (i : Nat) : Field := ⟨0x0E080 + 0x4 * i, 0, 16⟩
/-- MODEL.LIM_C.LIM, Table 10.7. -/
abbrev modelLimCLim (i : Nat) : Field := ⟨0x0E180 + 0x4 * i, 16, 11⟩
/-- MODEL.LIM_C.ERR, Table 10.7. -/
abbrev modelLimCErr (i : Nat) : Field := ⟨0x0E180 + 0x4 * i, 0, 16⟩
/-- DOM.CAP, Table 11.7. -/
abbrev domCap : Field := ⟨0x04000, 0, 32⟩
/-- DOM.STATUS.PARKED, Table 11.7. -/
abbrev domStatusParked : Field := ⟨0x04004, 31, 1⟩
/-- DOM.STATUS.WAKE_FLAG, Table 11.7. -/
abbrev domStatusWakeFlag : Field := ⟨0x04004, 30, 1⟩
/-- DOM.STATUS.ON_COUNT, Table 11.7. -/
abbrev domStatusOnCount : Field := ⟨0x04004, 16, 8⟩
/-- DOM.STATUS.RET_COUNT, Table 11.7. -/
abbrev domStatusRetCount : Field := ⟨0x04004, 8, 8⟩
/-- DOM.STATUS.FAILED_COUNT, Table 11.7. -/
abbrev domStatusFailedCount : Field := ⟨0x04004, 0, 8⟩
/-- DOM.EVT.ACK_TIMEOUT, LATE_ACK, UNMAPPED, Table 11.7. -/
abbrev domEvt : Field := ⟨0x04008, 0, 3⟩
/-- DOM.EVT_IE.IE, Table 11.7. -/
abbrev domEvtIeIe : Field := ⟨0x0400C, 0, 3⟩
/-- DOM.LAST_WAKE.COUNT, Table 11.7. -/
abbrev domLastWakeCount : Field := ⟨0x04010, 16, 16⟩
/-- DOM.LAST_WAKE.NTC, Table 11.7. -/
abbrev domLastWakeNtc : Field := ⟨0x04010, 1, 1⟩
/-- DOM.LAST_WAKE.SENSE, Table 11.7. -/
abbrev domLastWakeSense : Field := ⟨0x04010, 0, 1⟩
/-- DOM.WAKE_TIME.BEAT, Table 11.7. -/
abbrev domWakeTimeBeat : Field := ⟨0x04014, 0, 32⟩
/-- DOM.WAKE_CFG.WS_EN, Table 11.7. -/
abbrev domWakeCfgWsEn : Field := ⟨0x04020, 31, 1⟩
/-- DOM.WAKE_CFG.WS_POL, Table 11.7. -/
abbrev domWakeCfgWsPol : Field := ⟨0x04020, 30, 1⟩
/-- DOM.WAKE_CFG.NTC_EN, Table 11.7. -/
abbrev domWakeCfgNtcEn : Field := ⟨0x04020, 29, 1⟩
/-- DOM.WAKE_CFG.NTC_POL, Table 11.7. -/
abbrev domWakeCfgNtcPol : Field := ⟨0x04020, 28, 1⟩
/-- DOM.WAKE_CFG.NTC_THR, Table 11.7. -/
abbrev domWakeCfgNtcThr : Field := ⟨0x04020, 16, 8⟩
/-- DOM.WAKE_CFG.WS_THR, Table 11.7. -/
abbrev domWakeCfgWsThr : Field := ⟨0x04020, 8, 8⟩
/-- DOM.WAKE_CFG.DEBOUNCE, Table 11.7. -/
abbrev domWakeCfgDebounce : Field := ⟨0x04020, 0, 8⟩
/-- DOM.CFG.ACK_TO, Table 11.7. -/
abbrev domCfgAckTo : Field := ⟨0x04024, 0, 11⟩
/-- DOM.LOW_M.MASK, Table 11.7. -/
abbrev domLowMMask (i : Nat) : Field := ⟨0x04028 + 0x4 * i, 0, 32⟩
/-- DOM.HVMAP_J.VALID, Table 11.7. -/
abbrev domHvmapJValid (i : Nat) : Field := ⟨0x04040 + 0x4 * i, 31, 1⟩
/-- DOM.HVMAP_J.VOTER, Table 11.7. -/
abbrev domHvmapJVoter (i : Nat) : Field := ⟨0x04040 + 0x4 * i, 24, 4⟩
/-- DOM.HVMAP_J.MASTER_ID, Table 11.7. -/
abbrev domHvmapJMasterId (i : Nat) : Field := ⟨0x04040 + 0x4 * i, 0, 16⟩
/-- DOM_D.STATUS.STATE, Table 11.8. -/
abbrev domDStatusState (i : Nat) : Field := ⟨0x04100 + 0x10 * i, 29, 3⟩
/-- DOM_D.STATUS.FROM_RET, Table 11.8. -/
abbrev domDStatusFromRet (i : Nat) : Field := ⟨0x04100 + 0x10 * i, 28, 1⟩
/-- DOM_D.STATUS.WAIT_RAIL, Table 11.8. -/
abbrev domDStatusWaitRail (i : Nat) : Field := ⟨0x04100 + 0x10 * i, 27, 1⟩
/-- DOM_D.STATUS.WAIT_PARENT, Table 11.8. -/
abbrev domDStatusWaitParent (i : Nat) : Field := ⟨0x04100 + 0x10 * i, 26, 1⟩
/-- DOM_D.STATUS.HELD, Table 11.8. -/
abbrev domDStatusHeld (i : Nat) : Field := ⟨0x04100 + 0x10 * i, 25, 1⟩
/-- DOM_D.STATUS.TRANSITIONS, Table 11.8. -/
abbrev domDStatusTransitions (i : Nat) : Field := ⟨0x04100 + 0x10 * i, 0, 16⟩
/-- DOM_D.VOTE.MASK, Table 11.8. -/
abbrev domDVoteMask (i : Nat) : Field := ⟨0x04104 + 0x10 * i, 0, 16⟩
/-- DOM_D.HVOTE.RETRY, Table 11.8. -/
abbrev domDHvoteRetry (i : Nat) : Field := ⟨0x04108 + 0x10 * i, 2, 1⟩
/-- DOM_D.HVOTE.SET, Table 11.8. -/
abbrev domDHvoteSet (i : Nat) : Field := ⟨0x04108 + 0x10 * i, 1, 1⟩
/-- DOM_D.HVOTE.CLR, Table 11.8. -/
abbrev domDHvoteClr (i : Nat) : Field := ⟨0x04108 + 0x10 * i, 0, 1⟩
/-- SYNC.CAP, Table 12.7. -/
abbrev syncCap : Field := ⟨0x40000, 0, 32⟩
/-- SYNC.STATUS.ACTIVE, Table 12.7. -/
abbrev syncStatusActive : Field := ⟨0x40004, 31, 1⟩
/-- SYNC.STATUS.PKG_HOST, Table 12.7. -/
abbrev syncStatusPkgHost : Field := ⟨0x40004, 30, 1⟩
/-- SYNC.STATUS.PKG_LINK, Table 12.7. -/
abbrev syncStatusPkgLink : Field := ⟨0x40004, 29, 1⟩
/-- SYNC.STATUS.RECORDS_USED, Table 12.7. -/
abbrev syncStatusRecordsUsed : Field := ⟨0x40004, 0, 17⟩
/-- SYNC.RECPEAK.PEAK, Table 12.7. -/
abbrev syncRecpeakPeak : Field := ⟨0x40008, 0, 17⟩
/-- SYNC.EVT.OBJ_FAULT, REC_FAULT, FULL, OVERFLOW, DOUBLE_SET, PAIR_LIMIT, Table 12.7. -/
abbrev syncEvt : Field := ⟨0x4000C, 0, 6⟩
/-- SYNC.EVT_IE.IE, Table 12.7. -/
abbrev syncEvtIeIe : Field := ⟨0x40010, 0, 6⟩
/-- SYNC.FULL.REFUSED, Table 12.7. -/
abbrev syncFullRefused : Field := ⟨0x40014, 16, 16⟩
/-- SYNC.FULL.POLLS, Table 12.7. -/
abbrev syncFullPolls : Field := ⟨0x40014, 0, 16⟩
/-- SYNC.OPS.COUNT, Table 12.7. -/
abbrev syncOpsCount : Field := ⟨0x40018, 0, 32⟩
/-- SYNC.REL.BARRIER, Table 12.7. -/
abbrev syncRelBarrier : Field := ⟨0x4001C, 16, 16⟩
/-- SYNC.REL.COUPLED, Table 12.7. -/
abbrev syncRelCoupled : Field := ⟨0x4001C, 0, 16⟩
/-- SYNC.LAST_FAULT.VALID, Table 12.7. -/
abbrev syncLastFaultValid : Field := ⟨0x40020, 31, 1⟩
/-- SYNC.LAST_FAULT.SOURCE, Table 12.7. -/
abbrev syncLastFaultSource : Field := ⟨0x40020, 28, 3⟩
/-- SYNC.LAST_FAULT.OBJECT, Table 12.7. -/
abbrev syncLastFaultObject : Field := ⟨0x40020, 0, 15⟩
/-- SYNC.PKG_LAT.MAX, Table 12.7. -/
abbrev syncPkgLatMax : Field := ⟨0x40024, 16, 16⟩
/-- SYNC.PKG_LAT.LAST, Table 12.7. -/
abbrev syncPkgLatLast : Field := ⟨0x40024, 0, 16⟩
/-- SYNC.PKG_ERR.RETURNS, Table 12.7. -/
abbrev syncPkgErrReturns : Field := ⟨0x40028, 16, 16⟩
/-- SYNC.PKG_ERR.FAULTED, Table 12.7. -/
abbrev syncPkgErrFaulted : Field := ⟨0x40028, 0, 16⟩
/-- SYNC.HOP_ARG.ARG, Table 12.7. -/
abbrev syncHopArgArg : Field := ⟨0x40030, 0, 32⟩
/-- SYNC.HOP_WORD.WORD, Table 12.7. -/
abbrev syncHopWordWord : Field := ⟨0x40034, 0, 32⟩
/-- SYNC.HOP_RES.DONE, Table 12.7. -/
abbrev syncHopResDone : Field := ⟨0x40038, 31, 1⟩
/-- SYNC.HOP_RES.BUSY, Table 12.7. -/
abbrev syncHopResBusy : Field := ⟨0x40038, 30, 1⟩
/-- SYNC.HOP_RES.STATUS, Table 12.7. -/
abbrev syncHopResStatus : Field := ⟨0x40038, 0, 8⟩
/-- SYNC.HOP_VAL.VALUE, Table 12.7. -/
abbrev syncHopValValue : Field := ⟨0x4003C, 0, 32⟩
/-- SYNC.CPL.SPREAD, Table 12.7. -/
abbrev syncCplSpread : Field := ⟨0x40040, 16, 4⟩
/-- SYNC.CPL.LEAD, Table 12.7. -/
abbrev syncCplLead : Field := ⟨0x40040, 0, 10⟩
/-- SYNC.PAIRCFG.REALIGN_EXP, Table 12.7. -/
abbrev syncPaircfgRealignExp : Field := ⟨0x40044, 0, 5⟩
/-- SYNC.POLL.INTERVAL, Table 12.7. -/
abbrev syncPollInterval : Field := ⟨0x40048, 0, 8⟩
/-- SYNC.PKG.HOST, Table 12.7. -/
abbrev syncPkgHost : Field := ⟨0x4004C, 1, 1⟩
/-- SYNC.PKG.USE, Table 12.7. -/
abbrev syncPkgUse : Field := ⟨0x4004C, 0, 1⟩
/-- SYNC.CTX_ARG.ARG, Table 13.5. -/
abbrev syncCtxArgArg : Field := ⟨0x40400, 0, 32⟩
/-- SYNC.CTX_CMD.CMD, Table 13.5. -/
abbrev syncCtxCmdCmd : Field := ⟨0x40404, 28, 4⟩
/-- SYNC.CTX_CMD.CTX, Table 13.5. -/
abbrev syncCtxCmdCtx : Field := ⟨0x40404, 0, 10⟩
/-- SYNC.CTX_RES.DONE, Table 13.5. -/
abbrev syncCtxResDone : Field := ⟨0x40408, 31, 1⟩
/-- SYNC.CTX_RES.BUSY, Table 13.5. -/
abbrev syncCtxResBusy : Field := ⟨0x40408, 30, 1⟩
/-- SYNC.CTX_RES.VALUE, Table 13.5. -/
abbrev syncCtxResValue : Field := ⟨0x40408, 8, 16⟩
/-- SYNC.CTX_RES.STATUS, Table 13.5. -/
abbrev syncCtxResStatus : Field := ⟨0x40408, 0, 8⟩
/-- SYNC.WDCFG.CTX0_AF, Table 13.5. -/
abbrev syncWdcfgCtx0Af : Field := ⟨0x40410, 31, 1⟩
/-- SYNC.WDCFG.DEFAULT_MS, Table 13.5. -/
abbrev syncWdcfgDefaultMs : Field := ⟨0x40410, 0, 16⟩
/-- SYNC.WDSTAT.FIRED, Table 13.5. -/
abbrev syncWdstatFired : Field := ⟨0x40414, 16, 16⟩
/-- SYNC.WDSTAT.LOST, Table 13.5. -/
abbrev syncWdstatLost : Field := ⟨0x40414, 8, 8⟩
/-- SYNC.WDSTAT.QDEPTH, Table 13.5. -/
abbrev syncWdstatQdepth : Field := ⟨0x40414, 0, 5⟩
/-- SYNC.CEVT.WD_FIRED, WDQ_LOST, CTX_FAULT, Table 13.5. -/
abbrev syncCevt : Field := ⟨0x40418, 0, 3⟩
/-- SYNC.CEVT_IE.IE, Table 13.5. -/
abbrev syncCevtIeIe : Field := ⟨0x4041C, 0, 3⟩
/-- SYNC.XLT.MISS, Table 13.5. -/
abbrev syncXltMiss : Field := ⟨0x40420, 16, 16⟩
/-- SYNC.XLT.PAGES_FREE, Table 13.5. -/
abbrev syncXltPagesFree : Field := ⟨0x40420, 0, 11⟩
/-- SYNC.WDQ_A.VALID, Table 13.5. -/
abbrev syncWdqAValid : Field := ⟨0x40430, 31, 1⟩
/-- SYNC.WDQ_A.AUTO, Table 13.5. -/
abbrev syncWdqAAuto : Field := ⟨0x40430, 30, 1⟩
/-- SYNC.WDQ_A.POLLED, Table 13.5. -/
abbrev syncWdqAPolled : Field := ⟨0x40430, 29, 1⟩
/-- SYNC.WDQ_A.CTX, Table 13.5. -/
abbrev syncWdqACtx : Field := ⟨0x40430, 19, 10⟩
/-- SYNC.WDQ_A.OBJECT, Table 13.5. -/
abbrev syncWdqAObject : Field := ⟨0x40430, 0, 15⟩
/-- SYNC.WDQ_B.CORE, Table 13.5. -/
abbrev syncWdqBCore : Field := ⟨0x40434, 23, 9⟩
/-- SYNC.WDQ_B.ENG, Table 13.5. -/
abbrev syncWdqBEng : Field := ⟨0x40434, 20, 3⟩
/-- SYNC.WDQ_B.OP, Table 13.5. -/
abbrev syncWdqBOp : Field := ⟨0x40434, 15, 5⟩
/-- SYNC.WDQ_B.COUNT, Table 13.5. -/
abbrev syncWdqBCount : Field := ⟨0x40434, 0, 15⟩
/-- SYNC.WDQ_C.BEAT, Table 13.5. -/
abbrev syncWdqCBeat : Field := ⟨0x40438, 0, 32⟩
/-- SYNC.WDQ_POP.POP, Table 13.5. -/
abbrev syncWdqPopPop : Field := ⟨0x4043C, 0, 1⟩
/-- SYNC.CORECTX.CTX, Table 13.5. -/
abbrev syncCorectxCtx (i : Nat) : Field := ⟨0x40800 + 0x4 * i, 0, 10⟩
/-- SYNC.PAGE_P.MAPPED, Table 13.5. -/
abbrev syncPagePMapped (i : Nat) : Field := ⟨0x41000 + 0x4 * i, 31, 1⟩
/-- SYNC.PAGE_P.CTX, Table 13.5. -/
abbrev syncPagePCtx (i : Nat) : Field := ⟨0x41000 + 0x4 * i, 20, 10⟩
/-- SYNC.PAGE_P.VPN, Table 13.5. -/
abbrev syncPagePVpn (i : Nat) : Field := ⟨0x41000 + 0x4 * i, 0, 15⟩
/-- SYNC.CTX_A.STATE, Table 13.6. -/
abbrev syncCtxAState (i : Nat) : Field := ⟨0x44000 + 0x10 * i, 29, 3⟩
/-- SYNC.CTX_A.AUTO_FAULT, Table 13.6. -/
abbrev syncCtxAAutoFault (i : Nat) : Field := ⟨0x44000 + 0x10 * i, 28, 1⟩
/-- SYNC.CTX_A.CAUSE, Table 13.6. -/
abbrev syncCtxACause (i : Nat) : Field := ⟨0x44000 + 0x10 * i, 26, 2⟩
/-- SYNC.CTX_A.PAGES, Table 13.6. -/
abbrev syncCtxAPages (i : Nat) : Field := ⟨0x44000 + 0x10 * i, 0, 11⟩
/-- SYNC.CTX_B.BOUND, Table 13.6. -/
abbrev syncCtxBBound (i : Nat) : Field := ⟨0x44004 + 0x10 * i, 17, 9⟩
/-- SYNC.CTX_B.RECORDS, Table 13.6. -/
abbrev syncCtxBRecords (i : Nat) : Field := ⟨0x44004 + 0x10 * i, 0, 17⟩
/-- SYNC.CTX_C.WD_MS, Table 13.6. -/
abbrev syncCtxCWdMs (i : Nat) : Field := ⟨0x44008 + 0x10 * i, 16, 16⟩
/-- SYNC.CTX_C.WD_FIRED, Table 13.6. -/
abbrev syncCtxCWdFired (i : Nat) : Field := ⟨0x44008 + 0x10 * i, 0, 16⟩
/-- DBG.CAP, Table 13.7. -/
abbrev dbgCap : Field := ⟨0x50000, 0, 32⟩
/-- DBG.SEL.OBJECT, Table 13.7. -/
abbrev dbgSelObject : Field := ⟨0x50004, 0, 15⟩
/-- DBG.STATUS.VALID, Table 13.7. -/
abbrev dbgStatusValid : Field := ⟨0x50008, 31, 1⟩
/-- DBG.STATUS.BUSY, Table 13.7. -/
abbrev dbgStatusBusy : Field := ⟨0x50008, 30, 1⟩
/-- DBG.STATUS.NOOBJ, Table 13.7. -/
abbrev dbgStatusNoobj : Field := ⟨0x50008, 29, 1⟩
/-- DBG.STATUS.OBJECT, Table 13.7. -/
abbrev dbgStatusObject : Field := ⟨0x50008, 0, 15⟩
/-- DBG.REMOTE.D3, D2, D1, D0, Table 13.7. -/
abbrev dbgRemote : Field := ⟨0x5000C, 0, 32⟩
/-- DBG.STATE.WORD, Table 13.7. -/
abbrev dbgStateWord : Field := ⟨0x50010, 0, 32⟩
/-- DBG.VALUE.VALUE, Table 13.7. -/
abbrev dbgValueValue : Field := ⟨0x50014, 0, 31⟩
/-- DBG.VALUE2.VALUE2, Table 13.7. -/
abbrev dbgValue2Value2 : Field := ⟨0x50018, 0, 31⟩
/-- DBG.PARTS.PARTS, Table 13.7. -/
abbrev dbgPartsParts : Field := ⟨0x5001C, 16, 16⟩
/-- DBG.PARTS.REL_GEN, Table 13.7. -/
abbrev dbgPartsRelGen : Field := ⟨0x5001C, 0, 16⟩
/-- DBG.WAITERS.COUNT, Table 13.7. -/
abbrev dbgWaitersCount : Field := ⟨0x50020, 0, 17⟩
/-- DBG.LAST_A.DIE, Table 13.7. -/
abbrev dbgLastADie : Field := ⟨0x50024, 30, 2⟩
/-- DBG.LAST_A.CORE, Table 13.7. -/
abbrev dbgLastACore : Field := ⟨0x50024, 21, 9⟩
/-- DBG.LAST_A.ENG, Table 13.7. -/
abbrev dbgLastAEng : Field := ⟨0x50024, 18, 3⟩
/-- DBG.LAST_A.TICK, Table 13.7. -/
abbrev dbgLastATick : Field := ⟨0x50024, 0, 6⟩
/-- DBG.LAST_B.BEAT_LO, Table 13.7. -/
abbrev dbgLastBBeatLo : Field := ⟨0x50028, 0, 32⟩
/-- DBG.LAST_C.BEAT_HI, Table 13.7. -/
abbrev dbgLastCBeatHi : Field := ⟨0x5002C, 0, 16⟩
/-- DBG.W_A.VALID, Table 13.7. -/
abbrev dbgWAValid (i : Nat) : Field := ⟨0x50030 + 0xC * i, 31, 1⟩
/-- DBG.W_A.CORE, Table 13.7. -/
abbrev dbgWACore (i : Nat) : Field := ⟨0x50030 + 0xC * i, 22, 9⟩
/-- DBG.W_A.ENG, Table 13.7. -/
abbrev dbgWAEng (i : Nat) : Field := ⟨0x50030 + 0xC * i, 19, 3⟩
/-- DBG.W_A.OP, Table 13.7. -/
abbrev dbgWAOp (i : Nat) : Field := ⟨0x50030 + 0xC * i, 14, 5⟩
/-- DBG.W_A.POSTED, Table 13.7. -/
abbrev dbgWAPosted (i : Nat) : Field := ⟨0x50030 + 0xC * i, 13, 1⟩
/-- DBG.W_A.FIRED, Table 13.7. -/
abbrev dbgWAFired (i : Nat) : Field := ⟨0x50030 + 0xC * i, 12, 1⟩
/-- DBG.W_A.CTX, Table 13.7. -/
abbrev dbgWACtx (i : Nat) : Field := ⟨0x50030 + 0xC * i, 0, 10⟩
/-- DBG.W_B.BEAT, Table 13.7. -/
abbrev dbgWBBeat (i : Nat) : Field := ⟨0x50034 + 0xC * i, 0, 32⟩
/-- DBG.W_C.ARG, Table 13.7. -/
abbrev dbgWCArg (i : Nat) : Field := ⟨0x50038 + 0xC * i, 0, 31⟩
/-- XLT.ENTRY.VALID, Table 13.8. -/
abbrev xltEntryValid (i j : Nat) : Field := ⟨0x80000 + 0x200 * i + 0x4 * j, 31, 1⟩
/-- XLT.ENTRY.FLAT, Table 13.8. -/
abbrev xltEntryFlat (i j : Nat) : Field := ⟨0x80000 + 0x200 * i + 0x4 * j, 0, 15⟩
/-- MBX.CAP, Table 14.10. -/
abbrev mbxCap : Field := ⟨0x30000, 0, 32⟩
/-- MBX.STATUS.MGR_ON, Table 14.10. -/
abbrev mbxStatusMgrOn : Field := ⟨0x30004, 31, 1⟩
/-- MBX.STATUS.BIND_LOCK, Table 14.10. -/
abbrev mbxStatusBindLock : Field := ⟨0x30004, 30, 1⟩
/-- MBX.STATUS.SERVING, Table 14.10. -/
abbrev mbxStatusServing : Field := ⟨0x30004, 29, 1⟩
/-- MBX.STATUS.SESSIONS, Table 14.10. -/
abbrev mbxStatusSessions : Field := ⟨0x30004, 0, 5⟩
/-- MBX.HEVT.FULL, Table 14.10. -/
abbrev mbxHevtFull : Field := ⟨0x30008, 16, 12⟩
/-- MBX.HEVT.EMPTY, Table 14.10. -/
abbrev mbxHevtEmpty : Field := ⟨0x30008, 0, 16⟩
/-- MBX.HEVT_IE.IE, Table 14.10. -/
abbrev mbxHevtIeIe : Field := ⟨0x3000C, 0, 28⟩
/-- MBX.MEVT.QUEUE_DROP, SESSIONS_LOST, MGP_DOWN, BIND_REJECT, Table 14.10. -/
abbrev mbxMevt : Field := ⟨0x30010, 0, 4⟩
/-- MBX.MEVT_IE.IE, Table 14.10. -/
abbrev mbxMevtIeIe : Field := ⟨0x30014, 0, 4⟩
/-- MBX.HOST.ABSENT, Table 14.10. -/
abbrev mbxHostAbsent : Field := ⟨0x30020, 31, 1⟩
/-- MBX.HOST.BY_CLOSE, Table 14.10. -/
abbrev mbxHostByClose : Field := ⟨0x30020, 30, 1⟩
/-- MBX.HOST.COUNT, Table 14.10. -/
abbrev mbxHostCount : Field := ⟨0x30020, 0, 16⟩
/-- MBX.HB.TO_MS, Table 14.10. -/
abbrev mbxHbToMs : Field := ⟨0x30024, 0, 16⟩
/-- MBX.HB_LEFT.BEATS, Table 14.10. -/
abbrev mbxHbLeftBeats : Field := ⟨0x30028, 0, 32⟩
/-- MBX.ABS_START.BEAT, Table 14.10. -/
abbrev mbxAbsStartBeat : Field := ⟨0x3002C, 0, 32⟩
/-- MBX.ABS_END.BEAT, Table 14.10. -/
abbrev mbxAbsEndBeat : Field := ⟨0x30030, 0, 32⟩
/-- MBX.QUEUE.DROPPED, Table 14.10. -/
abbrev mbxQueueDropped : Field := ⟨0x30034, 16, 16⟩
/-- MBX.QUEUE.DEPTH, Table 14.10. -/
abbrev mbxQueueDepth : Field := ⟨0x30034, 0, 7⟩
/-- MBX.FLEET.BOOT_HALT, Table 14.10. -/
abbrev mbxFleetBootHalt : Field := ⟨0x30038, 7, 1⟩
/-- MBX.FLEET.PHASE_LOST, Table 14.10. -/
abbrev mbxFleetPhaseLost : Field := ⟨0x30038, 6, 1⟩
/-- MBX.FLEET.STRAP_FAULT, Table 14.10. -/
abbrev mbxFleetStrapFault : Field := ⟨0x30038, 5, 1⟩
/-- MBX.FLEET.HOST_ABSENT, Table 14.10. -/
abbrev mbxFleetHostAbsent : Field := ⟨0x30038, 4, 1⟩
/-- MBX.FLEET.TRIP_PENDING, Table 14.10. -/
abbrev mbxFleetTripPending : Field := ⟨0x30038, 3, 1⟩
/-- MBX.FLEET.HEALTH, Table 14.10. -/
abbrev mbxFleetHealth : Field := ⟨0x30038, 2, 1⟩
/-- MBX.FLEET.FLOW_LOST, Table 14.10. -/
abbrev mbxFleetFlowLost : Field := ⟨0x30038, 1, 1⟩
/-- MBX.FLEET.COOL_DEG, Table 14.10. -/
abbrev mbxFleetCoolDeg : Field := ⟨0x30038, 0, 1⟩
/-- MBX.FLEET_MASK.MASK, Table 14.10. -/
abbrev mbxFleetMaskMask : Field := ⟨0x3003C, 0, 8⟩
/-- MBX_CH.CTL.GO, Table 14.10. -/
abbrev mbxChCtlGo (i : Nat) : Field := ⟨0x30100 + 0x4 * i, 31, 1⟩
/-- MBX_CH.CTL.DONE, Table 14.10. -/
abbrev mbxChCtlDone (i : Nat) : Field := ⟨0x30100 + 0x4 * i, 30, 1⟩
/-- MBX_CH.CTL.STATE, Table 14.10. -/
abbrev mbxChCtlState (i : Nat) : Field := ⟨0x30100 + 0x4 * i, 29, 1⟩
/-- MBX_CH.CTL.MIXED, Table 14.10. -/
abbrev mbxChCtlMixed (i : Nat) : Field := ⟨0x30100 + 0x4 * i, 28, 1⟩
/-- MBX_CH.CTL.REJECTS, Table 14.10. -/
abbrev mbxChCtlRejects (i : Nat) : Field := ⟨0x30100 + 0x4 * i, 16, 8⟩
/-- MBX_CH.CTL.STAMP, Table 14.10. -/
abbrev mbxChCtlStamp (i : Nat) : Field := ⟨0x30100 + 0x4 * i, 0, 16⟩
/-- MBX_SES_A.OPEN, Table 14.10. -/
abbrev mbxSesAOpen (i : Nat) : Field := ⟨0x30180 + 0x8 * i, 31, 1⟩
/-- MBX_SES_A.REPLY, Table 14.10. -/
abbrev mbxSesAReply (i : Nat) : Field := ⟨0x30180 + 0x8 * i, 24, 5⟩
/-- MBX_SES_A.MINOR, Table 14.10. -/
abbrev mbxSesAMinor (i : Nat) : Field := ⟨0x30180 + 0x8 * i, 20, 4⟩
/-- MBX_SES_A.CLASSES, Table 14.10. -/
abbrev mbxSesAClasses (i : Nat) : Field := ⟨0x30180 + 0x8 * i, 0, 8⟩
/-- MBX_SES_B.MASTER, Table 14.10. -/
abbrev mbxSesBMaster (i : Nat) : Field := ⟨0x30184 + 0x8 * i, 0, 16⟩
/-- MBX_CH.BIND.MASTER_B, Table 14.10. -/
abbrev mbxChBindMasterB (i : Nat) : Field := ⟨0x30200 + 0x4 * i, 16, 16⟩
/-- MBX_CH.BIND.MASTER_A, Table 14.10. -/
abbrev mbxChBindMasterA (i : Nat) : Field := ⟨0x30200 + 0x4 * i, 0, 16⟩
/-- MBX.BIND_CTL.LOCK, Table 14.10. -/
abbrev mbxBindCtlLock : Field := ⟨0x30280, 31, 1⟩
/-- MBX.BIND_CTL.USED, Table 14.10. -/
abbrev mbxBindCtlUsed : Field := ⟨0x30280, 30, 1⟩
/-- MBX.BRAKE.KEY, Table 14.10. -/
abbrev mbxBrakeKey : Field := ⟨0x30300, 16, 16⟩
/-- MBX.BRAKE.CLR, Table 14.10. -/
abbrev mbxBrakeClr : Field := ⟨0x30300, 1, 1⟩
/-- MBX.BRAKE.SET, Table 14.10. -/
abbrev mbxBrakeSet : Field := ⟨0x30300, 0, 1⟩
/-- MBX.BRAKE_STAT.ACTIVE, Table 14.10. -/
abbrev mbxBrakeStatActive : Field := ⟨0x30304, 31, 1⟩
/-- MBX.BRAKE_STAT.DOORBELL, Table 14.10. -/
abbrev mbxBrakeStatDoorbell : Field := ⟨0x30304, 30, 1⟩
/-- MBX.BRAKE_STAT.PIN, Table 14.10. -/
abbrev mbxBrakeStatPin : Field := ⟨0x30304, 29, 1⟩
/-- MBX.BRAKE_STAT.PMBUS, Table 14.10. -/
abbrev mbxBrakeStatPmbus : Field := ⟨0x30304, 28, 1⟩
/-- MBX.BRAKE_STAT.ASSERTS, Table 14.10. -/
abbrev mbxBrakeStatAsserts : Field := ⟨0x30304, 0, 16⟩
/-- MBX.BRAKE_TIME.BEAT, Table 14.10. -/
abbrev mbxBrakeTimeBeat : Field := ⟨0x30308, 0, 32⟩
/-- MBX.BRAKE_CFG.SLOTS, Table 14.10. -/
abbrev mbxBrakeCfgSlots : Field := ⟨0x3030C, 0, 6⟩
/-- MBX_MSG.WORD, Table 14.10. -/
abbrev mbxMsgWord (i j : Nat) : Field := ⟨0x31000 + 0x40 * i + 0x4 * j, 0, 32⟩
/-- LOG.CAP, Table 15.14. -/
abbrev logCap : Field := ⟨0x70000, 0, 32⟩
/-- LOG.HEAD.SEQ, Table 15.14. -/
abbrev logHeadSeq : Field := ⟨0x70004, 0, 32⟩
/-- LOG.TAIL.SEQ, Table 15.14. -/
abbrev logTailSeq : Field := ⟨0x70008, 0, 32⟩
/-- LOG.RD_PTR.SEQ, Table 15.14. -/
abbrev logRdPtrSeq : Field := ⟨0x7000C, 0, 32⟩
/-- LOG.CFG.MIRROR_SEV, Table 15.14. -/
abbrev logCfgMirrorSev : Field := ⟨0x70010, 28, 4⟩
/-- LOG.CFG.INT_SEV, Table 15.14. -/
abbrev logCfgIntSev : Field := ⟨0x70010, 24, 4⟩
/-- LOG.CFG.WATERMARK, Table 15.14. -/
abbrev logCfgWatermark : Field := ⟨0x70010, 0, 11⟩
/-- LOG.EVT.MIRROR_FAIL, DISCARD, OVERWRITE, WATERMARK, NEW, Table 15.14. -/
abbrev logEvt : Field := ⟨0x70014, 0, 5⟩
/-- LOG.EVT_IE.IE, Table 15.14. -/
abbrev logEvtIeIe : Field := ⟨0x70018, 0, 5⟩
/-- LOG.STAT.OVERWRITTEN, Table 15.14. -/
abbrev logStatOverwritten : Field := ⟨0x7001C, 16, 16⟩
/-- LOG.STAT.DISCARDED, Table 15.14. -/
abbrev logStatDiscarded : Field := ⟨0x7001C, 0, 16⟩
/-- LOG.MIRROR.MIRRORED, Table 15.14. -/
abbrev logMirrorMirrored : Field := ⟨0x70020, 16, 16⟩
/-- LOG.MIRROR.SKIPPED, Table 15.14. -/
abbrev logMirrorSkipped : Field := ⟨0x70020, 8, 8⟩
/-- LOG.MIRROR.FAILED, Table 15.14. -/
abbrev logMirrorFailed : Field := ⟨0x70020, 0, 8⟩
/-- LOG.EVT_NEXT.VALID, Table 15.14. -/
abbrev logEvtNextValid : Field := ⟨0x70024, 31, 1⟩
/-- LOG.EVT_NEXT.OFFSET, Table 15.14. -/
abbrev logEvtNextOffset : Field := ⟨0x70024, 0, 18⟩
/-- LOG.RD_SEL.SEQ, Table 15.14. -/
abbrev logRdSelSeq : Field := ⟨0x70040, 0, 32⟩
/-- LOG.RD_STATUS.VALID, Table 15.14. -/
abbrev logRdStatusValid : Field := ⟨0x70044, 31, 1⟩
/-- LOG.RD_STATUS.GONE, Table 15.14. -/
abbrev logRdStatusGone : Field := ⟨0x70044, 30, 1⟩
/-- LOG.RD_W.WORD, Table 15.14. -/
abbrev logRdWWord (i : Nat) : Field := ⟨0x70048 + 0x4 * i, 0, 32⟩
/-- LOG.TR_HEAD.INDEX, Table 15.14. -/
abbrev logTrHeadIndex : Field := ⟨0x70080, 16, 10⟩
/-- LOG.TR_HEAD.TSEQ, Table 15.14. -/
abbrev logTrHeadTseq : Field := ⟨0x70080, 0, 16⟩
/-- LOG.TR_CFG.FREEZE, Table 15.14. -/
abbrev logTrCfgFreeze : Field := ⟨0x70084, 0, 1⟩
/-- LOG.TR_STAT.DROPPED, Table 15.14. -/
abbrev logTrStatDropped : Field := ⟨0x70088, 0, 16⟩
/-- LOG.TR_SEL.INDEX, Table 15.14. -/
abbrev logTrSelIndex : Field := ⟨0x7008C, 0, 10⟩
/-- LOG.TR_W.WORD, Table 15.14. -/
abbrev logTrWWord (i : Nat) : Field := ⟨0x70090 + 0x4 * i, 0, 32⟩
/-- LOG.TMASK_M.MASK, Table 15.14. -/
abbrev logTmaskMMask (i : Nat) : Field := ⟨0x70100 + 0x4 * i, 0, 32⟩
/-- FW.CAP, Table 15.15. -/
abbrev fwCap : Field := ⟨0x78000, 0, 32⟩
/-- FW.UPD.STATE, Table 15.15. -/
abbrev fwUpdState : Field := ⟨0x78004, 29, 3⟩
/-- FW.UPD.LAST_STATUS, Table 15.15. -/
abbrev fwUpdLastStatus : Field := ⟨0x78004, 16, 8⟩
/-- FW.UPD.REASON, Table 15.15. -/
abbrev fwUpdReason : Field := ⟨0x78004, 8, 8⟩
/-- FW.UPD.SESSION, Table 15.15. -/
abbrev fwUpdSession : Field := ⟨0x78004, 0, 8⟩
/-- FW.UPD_BYTES.COUNT, Table 15.15. -/
abbrev fwUpdBytesCount : Field := ⟨0x78008, 0, 32⟩
/-- FW.WDT.TIMEOUT_MS, Table 15.15. -/
abbrev fwWdtTimeoutMs : Field := ⟨0x7800C, 0, 16⟩
/-- FW.WDT_KICK.KEY, Table 15.15. -/
abbrev fwWdtKickKey : Field := ⟨0x78010, 16, 16⟩
/-- FW.WDT_LEFT.MS, Table 15.15. -/
abbrev fwWdtLeftMs : Field := ⟨0x78014, 0, 16⟩
/-- FW_P.STATUS.STATE, Table 15.15. -/
abbrev fwPStatusState (i : Nat) : Field := ⟨0x78100 + 0x20 * i, 29, 3⟩
/-- FW_P.STATUS.HELD, Table 15.15. -/
abbrev fwPStatusHeld (i : Nat) : Field := ⟨0x78100 + 0x20 * i, 28, 1⟩
/-- FW_P.STATUS.CAUSE, Table 15.15. -/
abbrev fwPStatusCause (i : Nat) : Field := ⟨0x78100 + 0x20 * i, 24, 4⟩
/-- FW_P.CTRL.KEY, Table 15.15. -/
abbrev fwPCtrlKey (i : Nat) : Field := ⟨0x78104 + 0x20 * i, 16, 16⟩
/-- FW_P.CTRL.RESTART, Table 15.15. -/
abbrev fwPCtrlRestart (i : Nat) : Field := ⟨0x78104 + 0x20 * i, 0, 1⟩
/-- FW_P.ALIVE.COUNT, Table 15.15. -/
abbrev fwPAliveCount (i : Nat) : Field := ⟨0x78108 + 0x20 * i, 0, 32⟩
/-- FW_P.STOP_TIME.BEAT, Table 15.15. -/
abbrev fwPStopTimeBeat (i : Nat) : Field := ⟨0x7810C + 0x20 * i, 0, 32⟩
/-- FW_P.DOWN.TIME, Table 15.15. -/
abbrev fwPDownTime (i : Nat) : Field := ⟨0x78110 + 0x20 * i, 0, 16⟩
/-- FW_P.TCM.SIZE, Table 15.15. -/
abbrev fwPTcmSize (i : Nat) : Field := ⟨0x78114 + 0x20 * i, 16, 16⟩
/-- FW_P.TCM.LOADED, Table 15.15. -/
abbrev fwPTcmLoaded (i : Nat) : Field := ⟨0x78114 + 0x20 * i, 0, 16⟩
/-- MP.CAP, Table 16.4. -/
abbrev mpCap : Field := ⟨0x60000, 0, 32⟩
/-- MP.EVT.REMAP_FULL, Table 16.4. -/
abbrev mpEvtRemapFull : Field := ⟨0x60004, 24, 8⟩
/-- MP.EVT.REMAP, Table 16.4. -/
abbrev mpEvtRemap : Field := ⟨0x60004, 16, 8⟩
/-- MP.EVT.UNCORR, Table 16.4. -/
abbrev mpEvtUncorr : Field := ⟨0x60004, 8, 8⟩
/-- MP.EVT.CORR, Table 16.4. -/
abbrev mpEvtCorr : Field := ⟨0x60004, 0, 8⟩
/-- MP.EVT_IE.IE, Table 16.4. -/
abbrev mpEvtIeIe : Field := ⟨0x60008, 0, 32⟩
/-- MP.GEN_LO.DATA, Table 16.4. -/
abbrev mpGenLoData : Field := ⟨0x6000C, 0, 32⟩
/-- MP.GEN_HI.DATA, Table 16.4. -/
abbrev mpGenHiData : Field := ⟨0x60010, 0, 32⟩
/-- MP.GEN_CHECK.CHECK, Table 16.4. -/
abbrev mpGenCheckCheck : Field := ⟨0x60014, 0, 16⟩
/-- MP.TEST_CTL.GO, Table 16.4. -/
abbrev mpTestCtlGo : Field := ⟨0x60020, 31, 1⟩
/-- MP.TEST_CTL.WRITE, Table 16.4. -/
abbrev mpTestCtlWrite : Field := ⟨0x60020, 30, 1⟩
/-- MP.TEST_CTL.MEM, Table 16.4. -/
abbrev mpTestCtlMem : Field := ⟨0x60020, 24, 3⟩
/-- MP.TEST_CTL.WORD, Table 16.4. -/
abbrev mpTestCtlWord : Field := ⟨0x60020, 0, 17⟩
/-- MP.TEST_LO.DATA, Table 16.4. -/
abbrev mpTestLoData : Field := ⟨0x60024, 0, 32⟩
/-- MP.TEST_HI.DATA, Table 16.4. -/
abbrev mpTestHiData : Field := ⟨0x60028, 0, 32⟩
/-- MP.TEST_CHK.DONE, Table 16.4. -/
abbrev mpTestChkDone : Field := ⟨0x6002C, 31, 1⟩
/-- MP.TEST_CHK.REFUSED, Table 16.4. -/
abbrev mpTestChkRefused : Field := ⟨0x6002C, 30, 1⟩
/-- MP.TEST_CHK.CHECK, Table 16.4. -/
abbrev mpTestChkCheck : Field := ⟨0x6002C, 0, 16⟩
/-- MP_M.CFG.SCRUB_EN, Table 16.5. -/
abbrev mpMCfgScrubEn (i : Nat) : Field := ⟨0x60100 + 0x80 * i, 31, 1⟩
/-- MP_M.CFG.TEST_EN, Table 16.5. -/
abbrev mpMCfgTestEn (i : Nat) : Field := ⟨0x60100 + 0x80 * i, 30, 1⟩
/-- MP_M.CFG.PERIOD, Table 16.5. -/
abbrev mpMCfgPeriod (i : Nat) : Field := ⟨0x60100 + 0x80 * i, 0, 16⟩
/-- MP_M.SCRUB_POS.WORD, Table 16.5. -/
abbrev mpMScrubPosWord (i : Nat) : Field := ⟨0x60104 + 0x80 * i, 0, 18⟩
/-- MP_M.PASSES.COUNT, Table 16.5. -/
abbrev mpMPassesCount (i : Nat) : Field := ⟨0x60108 + 0x80 * i, 0, 32⟩
/-- MP_M.CNT.CORRECTED, Table 16.5. -/
abbrev mpMCntCorrected (i : Nat) : Field := ⟨0x6010C + 0x80 * i, 16, 16⟩
/-- MP_M.CNT.UNCORRECTABLE, Table 16.5. -/
abbrev mpMCntUncorrectable (i : Nat) : Field := ⟨0x6010C + 0x80 * i, 0, 16⟩
/-- MP_M.LAST_CE.VALID, Table 16.5. -/
abbrev mpMLastCeValid (i : Nat) : Field := ⟨0x60110 + 0x80 * i, 31, 1⟩
/-- MP_M.LAST_CE.SCRUB, Table 16.5. -/
abbrev mpMLastCeScrub (i : Nat) : Field := ⟨0x60110 + 0x80 * i, 30, 1⟩
/-- MP_M.LAST_CE.SYMBOL, Table 16.5. -/
abbrev mpMLastCeSymbol (i : Nat) : Field := ⟨0x60110 + 0x80 * i, 20, 5⟩
/-- MP_M.LAST_CE.WORD, Table 16.5. -/
abbrev mpMLastCeWord (i : Nat) : Field := ⟨0x60110 + 0x80 * i, 0, 17⟩
/-- MP_M.LAST_UE.VALID, Table 16.5. -/
abbrev mpMLastUeValid (i : Nat) : Field := ⟨0x60114 + 0x80 * i, 31, 1⟩
/-- MP_M.LAST_UE.SCRUB, Table 16.5. -/
abbrev mpMLastUeScrub (i : Nat) : Field := ⟨0x60114 + 0x80 * i, 30, 1⟩
/-- MP_M.LAST_UE.WORD, Table 16.5. -/
abbrev mpMLastUeWord (i : Nat) : Field := ⟨0x60114 + 0x80 * i, 0, 17⟩
/-- MP_M.WB.DONE, Table 16.5. -/
abbrev mpMWbDone (i : Nat) : Field := ⟨0x60118 + 0x80 * i, 16, 16⟩
/-- MP_M.WB.CANCELLED, Table 16.5. -/
abbrev mpMWbCancelled (i : Nat) : Field := ⟨0x60118 + 0x80 * i, 0, 16⟩
/-- MP_M.REMAP_ST.USED, Table 16.5. -/
abbrev mpMRemapStUsed (i : Nat) : Field := ⟨0x6011C + 0x80 * i, 0, 4⟩
/-- MP_M.REMAP_E.VALID, Table 16.5. -/
abbrev mpMRemapEValid (i j : Nat) : Field := ⟨0x60120 + 0x80 * i + 0x4 * j, 31, 1⟩
/-- MP_M.REMAP_E.DEAD, Table 16.5. -/
abbrev mpMRemapEDead (i j : Nat) : Field := ⟨0x60120 + 0x80 * i + 0x4 * j, 30, 1⟩
/-- MP_M.REMAP_E.WORD, Table 16.5. -/
abbrev mpMRemapEWord (i j : Nat) : Field := ⟨0x60120 + 0x80 * i + 0x4 * j, 0, 17⟩
/-- MP_M.SIZE.WORDS, Table 16.5. -/
abbrev mpMSizeWords (i : Nat) : Field := ⟨0x60140 + 0x80 * i, 0, 18⟩
/-- HLTH.STATUS.WARN, Table 17.4. -/
abbrev hlthStatusWarn : Field := ⟨0x68400, 31, 1⟩
/-- HLTH.STATUS.WORST_CORE, Table 17.4. -/
abbrev hlthStatusWorstCore : Field := ⟨0x68400, 12, 9⟩
/-- HLTH.STATUS.WORST_RAIL, Table 17.4. -/
abbrev hlthStatusWorstRail : Field := ⟨0x68400, 8, 3⟩
/-- HLTH.STATUS.WARN_COUNT, Table 17.4. -/
abbrev hlthStatusWarnCount : Field := ⟨0x68400, 0, 8⟩
/-- HLTH.EVT.WARN_SET, WARN_CLR, FMAX_DONE, PERSIST_FAIL, Table 17.4. -/
abbrev hlthEvt : Field := ⟨0x68404, 0, 4⟩
/-- HLTH.EVT_IE.IE, Table 17.4. -/
abbrev hlthEvtIeIe : Field := ⟨0x68408, 0, 4⟩
/-- HLTH.CFG.FMIN_EOL, Table 17.4. -/
abbrev hlthCfgFminEol : Field := ⟨0x6840C, 21, 11⟩
/-- HLTH.CFG.AGE_EXP, Table 17.4. -/
abbrev hlthCfgAgeExp : Field := ⟨0x6840C, 15, 6⟩
/-- HLTH.CFG.WARN_D, Table 17.4. -/
abbrev hlthCfgWarnD : Field := ⟨0x6840C, 0, 15⟩
/-- HLTH.FCFG.GUARD, Table 17.4. -/
abbrev hlthFcfgGuard : Field := ⟨0x68410, 24, 8⟩
/-- HLTH.FCFG.STEP, Table 17.4. -/
abbrev hlthFcfgStep : Field := ⟨0x68410, 16, 8⟩
/-- HLTH.FCFG.DWELL, Table 17.4. -/
abbrev hlthFcfgDwell : Field := ⟨0x68410, 0, 16⟩
/-- HLTH.FMAX.STATE, Table 17.4. -/
abbrev hlthFmaxState : Field := ⟨0x68420, 29, 3⟩
/-- HLTH.FMAX.CLUSTER, Table 17.4. -/
abbrev hlthFmaxCluster : Field := ⟨0x68420, 20, 4⟩
/-- HLTH.FMAX.MASK, Table 17.4. -/
abbrev hlthFmaxMask : Field := ⟨0x68420, 8, 12⟩
/-- HLTH.FMAX.LAST_STATUS, Table 17.4. -/
abbrev hlthFmaxLastStatus : Field := ⟨0x68420, 0, 8⟩
/-- HLTH.FMAX_PROG.FREQ, Table 17.4. -/
abbrev hlthFmaxProgFreq : Field := ⟨0x68424, 21, 11⟩
/-- HLTH.FMAX_PROG.STEPS, Table 17.4. -/
abbrev hlthFmaxProgSteps : Field := ⟨0x68424, 0, 8⟩
/-- HLTH.FMAX_TIME.BEAT, Table 17.4. -/
abbrev hlthFmaxTimeBeat : Field := ⟨0x68428, 0, 32⟩
/-- HLTH.PERSIST.COUNT, Table 17.4. -/
abbrev hlthPersistCount : Field := ⟨0x6842C, 16, 16⟩
/-- HLTH.PERSIST.AGE_H, Table 17.4. -/
abbrev hlthPersistAgeH : Field := ⟨0x6842C, 0, 16⟩
/-- HLTH.TEST.ACTIVE, Table 17.4. -/
abbrev hlthTestActive : Field := ⟨0x68440, 31, 1⟩
/-- HLTH.TEST.CLUSTER, Table 17.4. -/
abbrev hlthTestCluster : Field := ⟨0x68440, 27, 4⟩
/-- HLTH.TEST.FREQ, Table 17.4. -/
abbrev hlthTestFreq : Field := ⟨0x68440, 16, 11⟩
/-- HLTH.TEST_PASS.MASK, Table 17.4. -/
abbrev hlthTestPassMask : Field := ⟨0x68444, 0, 24⟩
/-- HLTH.AGE_N.FMAX_EST, Table 17.4. -/
abbrev hlthAgeNFmaxEst (i : Nat) : Field := ⟨0x68800 + 0x8 * i, 21, 11⟩
/-- HLTH.AGE_N.VALID, Table 17.4. -/
abbrev hlthAgeNValid (i : Nat) : Field := ⟨0x68800 + 0x8 * i, 20, 1⟩
/-- HLTH.AGE_N.D_NOW, Table 17.4. -/
abbrev hlthAgeNDNow (i : Nat) : Field := ⟨0x68800 + 0x8 * i, 0, 20⟩
/-- HLTH.LIFE_N.HOURS, Table 17.4. -/
abbrev hlthLifeNHours (i : Nat) : Field := ⟨0x68804 + 0x8 * i, 0, 32⟩
/-- HLTH.STRESS_N.SEC, Table 17.4. -/
abbrev hlthStressNSec (i : Nat) : Field := ⟨0x69100 + 0x4 * i, 0, 32⟩
/-- HLTH.EM_K.USED, Table 17.4. -/
abbrev hlthEmKUsed (i : Nat) : Field := ⟨0x69600 + 0x10 * i, 0, 32⟩
/-- HLTH.EM_RATE.RATE, Table 17.4. -/
abbrev hlthEmRateRate (i : Nat) : Field := ⟨0x69604 + 0x10 * i, 0, 32⟩
/-- HLTH.RLIFE_K.HOURS, Table 17.4. -/
abbrev hlthRlifeKHours (i : Nat) : Field := ⟨0x69608 + 0x10 * i, 0, 32⟩
/-- HLTH.STG_P.PEAKS, Table 17.4. -/
abbrev hlthStgPPeaks (i : Nat) : Field := ⟨0x69700 + 0x8 * i, 0, 32⟩
/-- HLTH.STG_P.ON_H, Table 17.4. -/
abbrev hlthStgPOnH (i : Nat) : Field := ⟨0x69704 + 0x8 * i, 0, 32⟩
/-- CLC.CLASS_I of an energy class, Table 6.6. -/
abbrev clcClass (c : Nat) : Field := ⟨0x18020 + 4 * (c / 4), 8 * (c % 4), 8⟩

end F
end Sys2Proof.Machine
end

