-- ==== Sys2Proof/Machine/State.lean ====
section
/-! DEFINITION. The state of the block: the register fields (Fields.lean) and, beside them, every counter, queue, mode
and pin the spec gives the block that no register holds; the queue of waiting commands; faults and refusals. -/
namespace Sys2Proof.Machine

/-- Faults. No meaning of this model raises one: every command of the table has an effect in every state. -/
inductive Fault where
  /-- Raised by nothing; safe. -/
  | unused
  deriving DecidableEq, Repr

/-- Refusals: commands that have no meaning yet. -/
inductive Refusal where
  /-- Raised by an arm of exec whose command has no meaning; safe. -/
  | notModelled (mnemonic : String)
  deriving DecidableEq, Repr

/-! ### Time base, host port, log and messages (chapters 3, 0, 15, 14) -/

/-- One interval counter of R26: the length in force, the full beats counted in the interval in progress, and whether what
happens at its begin has happened. -/
structure Interval where
  len   : Nat
  count : Nat := 0
  taken : Bool := false
  deriving DecidableEq, Repr

/-- Values that changed in the tick named, by key: what this tick's consumers still see (R28). -/
structure Held where
  at_ : Nat := 0
  old : List (Nat × Nat) := []
  deriving DecidableEq, Repr

/-- The time base of R84 to R91. Times are in picoseconds from the start of the present beat. -/
structure TimeBase where
  beat      : BitVec 48 := 0
  tick      : Nat := 0
  /-- P of R84; on the substitute, the length of its beat. -/
  period    : Nat := 1000000
  /-- The length of the beat that ended last. -/
  ended     : Nat := 1000000
  /-- The last accepted periods, newest first, up to 16. -/
  periods   : List Nat := []
  /-- When the next edge is expected, R84, R85, in fiftieths of a picosecond. -/
  expected  : Nat := 0
  /-- Where the last edge lay. -/
  lastEdge  : Option Int := none
  /-- Windows in a row that closed without an edge. -/
  missed    : Nat := 0
  /-- The qualified periods of R87, newest first. -/
  qualified : List Nat := []
  /-- The crystal stability delay of R76 has ended. -/
  delayDone : Bool := false
  /-- Beats for which an action waits, R91; those whose action fired at the latest tick 0; the status that the last
  request to schedule one was answered with. -/
  scheduled : List (BitVec 48) := []
  fired     : List (BitVec 48) := []
  answered  : Nat := 0
  deriving DecidableEq, Repr

/-- The host target port: the last completion, and the shadows and held words of R14 by the low word's offset. -/
structure HostPort where
  value   : Nat := 0
  error   : Bool := false
  shadows : Store (Option (Nat × Nat)) := []
  holds   : Store (Option (Nat × Nat)) := []
  deriving DecidableEq, Repr

/-- A log record, Table 15.8. -/
structure LogRec where
  seq   : Nat := 0
  beatLo : Nat := 0
  beatHi : Nat := 0
  origin : Nat := 0
  data  : List Nat := []
  deriving DecidableEq, Repr

/-- A trace record, R430. -/
structure TraceRec where
  beat24 : Nat := 0
  tick   : Nat := 0
  point  : Nat := 0
  src    : Nat := 0
  tseq   : Nat := 0
  data0  : Nat := 0
  data1  : Nat := 0
  deriving DecidableEq, Repr

/-- The log RAM: its two rings, and the keep areas of R412. -/
structure LogRam where
  ring   : Store LogRec := []
  /-- The place in the ring of the record written next. -/
  put    : Nat := 0
  trace  : Store TraceRec := []
  /-- The mirrored sequence number, and records mirrored in the present second, R427. -/
  mirrored : Nat := 0
  /-- An uncorrectable error has been found in the MGP's keep area, which its next release finds empty, R412. -/
  keepLost : Bool := false
  inSecond : Nat := 0
  /-- The write sector W of R426. -/
  sector   : Nat := 0
  /-- The beat at which the second of R427 began, in which `inSecond` counts. -/
  second   : Nat := 0
  /-- OVERWRITE was raised and not yet notified; the beat of its last notification, Table 15.11. -/
  overwrote : Bool := false
  notified : Option Nat := none
  /-- LOG.RD_SEL was written in this tick: the record is read as it ends, R424. -/
  selected : Bool := false
  deriving DecidableEq, Repr

/-- A message that waits for its reply channel, R391: its words and, for a notification, its class bit. -/
structure OutMsg where
  channel : Nat
  isReply : Bool
  words   : List Nat
  /-- It has waited while the host was absent, so it carries QUEUED. -/
  absent  : Bool := false
  deriving DecidableEq, Repr

/-- A request the MGP has taken and not yet finished, R384: its channel, stamp, words and agreed minor. -/
structure Request where
  channel : Nat
  stamp   : Nat
  mixed   : Bool := false
  words   : List Nat
  minor   : Nat := 0
  reply   : Nat := 16
  deriving DecidableEq, Repr

/-- The mailbox part and the MGP's message loop (chapter 14). -/
structure Mailbox where
  /-- Masters that wrote words of a request channel since it became EMPTY, R378. -/
  writers : Store (List Nat) := []
  /-- The channel served last, R384. -/
  served  : Nat := 31
  request : Option Request := none
  queue   : List OutMsg := []
  /-- The next notification SEQ of each reply channel, R390. -/
  notifySeq : Store Nat := []
  /-- Table 14.4: absences begun at the previous accepted OPEN, queue depth at the end, messages dropped, classes. -/
  seenAtOpen : Nat := 0
  begun      : Nat := 0
  depthAtEnd : Nat := 0
  dropped    : Nat := 0
  classes    : Nat := 0
  capApplied : Nat := 0
  /-- The mode SET_MODE requested, and who awaits its reply, R397. -/
  modeNext  : Option Nat := none
  modeReply : Option Request := none
  /-- The tick 0 at which it takes effect has come. -/
  modeDue   : Bool := false
  /-- The length of the heartbeat timer, in beats, taken at the last reload; 0 before the first, and after an expiry, R392. -/
  hbLen     : Nat := 0
  /-- Requests that await a later reply, by the operation they await. -/
  awaitProfile : Option Request := none
  awaitAbort   : List (Nat × Request) := []
  awaitUpdate  : Option Request := none
  awaitFmax    : Option Request := none
  awaitCopy    : Option Request := none
  /-- Levels of the fleet bits when last reported, R408. -/
  fleetSeen : Nat := 0
  /-- The tick in which a reset last cleared the channels: a GO of that tick has no effect, R409. -/
  clearedAt : Option Nat := none
  deriving DecidableEq, Repr

/-! ### Flash and boot (chapter 4) -/

/-- A device command of the flash port that changes the array, R72. -/
inductive DeviceCmd where
  | erase (off len : Nat)
  | program (off : Nat) (data : List Byte)
  deriving DecidableEq, Repr

/-- The flash work of firmware that has a row for its end: the erase of UPDATE_OPEN, a calibration copy before its trailer,
the FMAX_BEGIN record. -/
inductive FlashJob where
  | update | copy | fmaxRecord
  deriving DecidableEq, Repr

/-- The flash device and the flash controller. An erased byte reads 0xFF. -/
structure Flash where
  bytes   : Store Byte := []
  densityMiB : Nat := 0
  maxKHz  : Nat := 0
  /-- What the ROM has selected from the SFDP table, R72: the transfer mode and dummy cycles of reads in use, whether addresses take
  4-byte instructions, the method that enters 4-byte addressing, and the quad-enable method. -/
  mode    : SpiMode := .m111
  dummy   : Nat := 0
  /-- The quad read selected, which step 2 of the boot switches to. -/
  quadMode : SpiMode := .m111
  quadDummy : Nat := 0
  fourByteInstr : Bool := false
  enter4  : Nat := 0
  quadEnable : Nat := 0
  /-- Device commands of firmware begun and not yet ended, in order, and where the first of them works. -/
  work    : List (FlashJob × DeviceCmd) := []
  busy    : Option Nat := none
  /-- The ROM has selected the device's instructions, R272. -/
  known   : Bool := false
  /-- The port belongs to the trip path until cold reset, R272. -/
  tripOwned : Bool := false
  deriving DecidableEq, Repr

/-- The stages of the trip path, R271, R272. -/
inductive TripStage where
  | idle | aborting | programming | reading | done | failed
  deriving DecidableEq, Repr

/-- The AON trip path. -/
structure Trip where
  /-- The comparators are armed, R270. -/
  armed   : Bool := true
  /-- A record has been started since cold reset; the ticks (modulo 2^54) of the cause it names and of the thermal trip,
  Table 9.7. -/
  taken   : Bool := false
  at_     : Option Nat := none
  thermAt : Option Nat := none
  stage   : TripStage := .idle
  /-- The record, and the byte offset of its slot in the region. -/
  record  : List Byte := []
  slot    : Nat := 0
  retried : Bool := false
  /-- PWR_OFF_REQ is asserted in the next tick, R271. -/
  offDue  : Bool := false
  deriving DecidableEq, Repr

/-- The layout of the boot header in use, Table 4.2. DESIGN CHOICE (log 58): before a header has been accepted, Table 4.1's
defaults; a trip then puts its record there (R98). -/
structure Layout where
  calOff   : Nat := 0x100000
  calSize  : Nat := 0x200000
  bankA    : Nat := 0x10000
  bankB    : Nat := 0x30000
  bankSize : Nat := 0x20000
  imgA     : Nat := 0x500000
  imgB     : Nat := 0x700000
  imgSize  : Nat := 0x200000
  evtOff   : Nat := 0x900000
  evtSize  : Nat := 0x40000
  deriving DecidableEq, Repr

/-- The kinds of reset that run the boot ROM, R93. -/
inductive BootKind where
  | cold | warm | wake
  deriving DecidableEq, Repr

/-- The boot ROM and the check unit of R124. -/
structure Boot where
  /-- The ROM runs: from a reset that runs it until step 10 or a halt. -/
  rom     : Bool := true
  kind    : BootKind := .cold
  next    : Nat := 1
  layout  : Layout := {}
  /-- The sections of the chosen calibration copy by tag (Table 4.8), its SEQ, and whether one is chosen. -/
  cal     : List (Nat × List Byte) := []
  calSeq  : Nat := 0
  calChosen : Bool := false
  /-- Subsystems whose check is still to run, in ascending order; those that passed earlier in the same write, and their
  values by key. -/
  toCheck : List Nat := []
  passing : List Nat := []
  passingVals : List (Nat × Nat) := []
  /-- Subsystems whose write has ended and that await the next tick 0, and their values, to be taken into force. -/
  passed  : List Nat := []
  checked : List (Nat × Nat) := []
  /-- That tick 0 has come. -/
  applyDue : Bool := false
  /-- The checks belong to a profile switch to this profile, R119; what passed awaits the tick 0 of boot step 9. -/
  switchTo : Option Nat := none
  byRom   : Bool := false
  /-- Staged values put aside while a profile switch is checked. -/
  before  : Option (Store Nat) := none
  /-- The header that takes effect with the subsystems that passed before a refusal of a new bank's settings, R422. -/
  merged  : Option (List Byte) := none
  /-- The bank chosen at this boot is another than the one in use before it, R114. -/
  newBank : Bool := false
  /-- CLK.BUSDIV is locked, R96. -/
  busLocked : Bool := false
  /-- Subsystems that have become active, R122. -/
  active  : List Nat := []
  /-- The header (Table 4.7) of this die's own active profile, and of the profile being staged. -/
  profile : List Byte := []
  staging : List Byte := []
  deriving DecidableEq, Repr

/-! ### Rails, phases, converters (chapter 5) -/

/-- The three levels of a PWM output, Table 2.3. -/
inductive Pwm where
  | highZ | low | high
  deriving DecidableEq, Repr

/-- The stages of the rail start of R133 to R137. -/
inductive StartStage where
  | idle | converters | ready | ramping | done | failing | off
  deriving DecidableEq, Repr

/-- What the rail start and the bus converters hold beside their registers. -/
structure Supply where
  stage   : StartStage := .idle
  /-- Position in the start order of Table 5.1. -/
  index   : Nat := 0
  /-- Converters whose READ_VOUT lay in range since BC_PG rose, R133. -/
  voutOk  : Nat := 0
  /-- Failed transactions in a row, by converter, R138. -/
  fails   : Store Nat := []
  /-- Beats since the last BC_EN was asserted, up to the 20 ms of R133. -/
  sinceEn : Nat := 0
  /-- The next telemetry read: converter and command. -/
  pollConv : Nat := 0
  pollCmd  : Nat := 0
  /-- Reads started and not yet ended. -/
  reads   : List (Nat × Nat) := []
  deriving DecidableEq, Repr

/-- What a rail controller holds beside its registers. Voltages are in 0.25 mV, currents in 0.125 A. -/
structure Rail where
  settledPos : Nat := 0
  raisePrev  : Nat := 0
  /-- The old R_LL kept while a rise of h is paid for, R147. -/
  rllHeld    : Option Nat := none
  /-- The integrator and previous error of R146, in 2^-16 duty and 0.25 mV. -/
  integ      : Int := 0
  ePrev      : Int := 0
  /-- The remote-sense voltage of the last tick. -/
  sense      : Nat := 0
  startVal   : Nat := 0
  /-- RAIL.VSET.TARGET as the ROM loaded it from the RAIL base section, R134, R169. -/
  base       : Option Nat := none
  rampBeats  : Nat := 0
  /-- Beats since the rail's start, R136. -/
  startBeats : Nat := 0
  /-- The set point has reached the start value, so the count of R135 may run. -/
  rampDone   : Bool := false
  /-- I_rail after the conversions of the present beat, newest first. -/
  beatI      : List Nat := []
  /-- The last four values of I_rail, newest first, R158. -/
  last4      : List Nat := []
  /-- The last 64 1-beat values of I_rail, newest first, R166. -/
  hist       : List Nat := []
  /-- The mean of the last 64 such values formed with a valid sense, R161. -/
  lastValid64 : Nat := 0
  truncBeat  : Bool := false
  /-- The phase-loss drag ceiling in force, R158 to R160. -/
  pldrag     : Option Nat := none
  pldragRising : Bool := false
  /-- Beats since the last shed, and beats left of the hold of R36. -/
  sinceShed  : Nat := 64
  causeHold  : Nat := 0
  /-- A SHED phase is re-enabled by load at the next tick 0, R143. -/
  addNext    : Bool := false
  /-- SEQ_TIMEOUT was raised for this settle, R154. -/
  timedOut   : Bool := false
  /-- Ticks in a row within BAND of the target while settling, up to 4, and beats since the position reached the command,
  R151, R154. -/
  bandTicks  : Nat := 0
  settleBeats : Nat := 0
  /-- Beats in a row within PROT.UV of the target (R135), up to 16; ticks in a row above the overvoltage limit, up to 2;
  beats in a row of the overvoltage hold, up to 8; beats in a row of undervoltage, up to 64; beats in a row above ILIM_EFF,
  up to 4 (Table 5.3); beats in a row at or below 0.90 × ILIM_EFF under drag, up to 64 (R159). -/
  pgBeats    : Nat := 0
  ovTicks    : Nat := 0
  ovBeats    : Nat := 0
  uvBeats    : Nat := 0
  overBeats  : Nat := 0
  dragCool   : Nat := 0
  /-- An accepted RAIL.VSET command not yet taken up, R155. -/
  vsetNext   : Option Nat := none
  /-- A coupling notice waits for tick 0, R188. -/
  cplNext    : Bool := false
  /-- The beat of the last cluster release that the coupling raise covers, R188, R335. -/
  cplLast    : Option Nat := none
  /-- The target that REF_SLEW-limited V_ref follows, and V_ref, R173. -/
  vref       : Nat := 0
  /-- Sums of the short and long telemetry windows: V, I, P, and beats in each, R166. -/
  sumShort   : List Nat := [0, 0, 0, 0]
  sumLong    : List Nat := [0, 0, 0, 0]
  /-- The lengths of the windows in progress, in beats. -/
  lenShort   : Nat := 1000
  lenLong    : Nat := 1024
  /-- The energy below 1 µJ, in pJ. -/
  energyRest : Nat := 0
  /-- Ten cool evaluations in a row raise FRAC, R164. -/
  cool       : Nat := 0
  derating   : Bool := false
  /-- Rail current from the valid phases only, scaled to the whole rail, at the conversions of the present beat, R206. -/
  beatValid  : List Nat := []
  /-- Energies of the recalibration period in pJ: measured, dynamic, leakage; it is to be skipped; it began late, R206. -/
  calM       : Nat := 0
  calD       : Nat := 0
  calL       : Nat := 0
  calSkip    : Bool := false
  calPart    : Bool := false
  deriving DecidableEq, Repr

/-- What a phase holds beside RAIL.PHASE_I and RAIL.PHASE_T. -/
structure Phase where
  pwm     : Pwm := .highZ
  /-- Leading edge, sixteenths of a tick, R140. -/
  offset  : Nat := 0
  /-- The duty of the latest completed pulse, 2^-16, R161. -/
  duty    : Nat := 0
  /-- Leading edge and on-time of the latest pulse, in ps from tick 0 of the present beat; the length of the beat in which it
  began; it was issued in a catch-up and may still be cut, R139, R142. -/
  edge    : Int := -2000000
  onTime  : Nat := 0
  beatLen : Nat := 1000000
  caught  : Bool := false
  /-- Consecutive detections of Table 5.5. -/
  stage   : Nat := 0
  outOfRange : Nat := 0
  low     : Nat := 0
  imbal   : Nat := 0
  /-- The last 32 codes with the mean of the other valid ACTIVE phases in 1/840 of 0.125 A, newest first. -/
  frozen  : List (Nat × Nat) := []
  /-- Beats in a row at or above PROT.STAGE_TLIM, up to 16, Table 5.3. -/
  hotBeats : Nat := 0
  /-- IMON lay in range at the last conversion, R156. -/
  inRange : Bool := true
  deriving DecidableEq, Repr

/-! ### Clusters and core power agents (chapters 6, 7) -/

/-- One step of a change of source, R81. -/
inductive RampStep where
  | divide (d : Nat)
  | toRef
  | toPll
  deriving DecidableEq, Repr

/-- A load notice in a CPA's queue, R184: start beat and current increment. -/
structure Notice where
  start : Nat
  delta : Nat
  deriving DecidableEq, Repr

/-- An entry of a CLC's forecast table, R186. -/
structure Forecast where
  start : Nat
  delta : Nat
  first : Nat
  last  : Nat
  deriving DecidableEq, Repr

/-- What a cluster controller holds beside its registers. -/
structure Clc where
  /-- The cluster clock's source is CLK_REF; otherwise its PLL. -/
  onRef    : Bool := true
  pllFreq  : Nat := 400
  pllReq   : Bool := false
  pllLocked : Bool := false
  /-- PLL_DIV: divides by this plus one. -/
  div      : Nat := 0
  /-- Steps of the change of source still to come, R81. -/
  steps    : List RampStep := []
  /-- The PLL frequency the change leads to. -/
  target   : Nat := 400
  retried  : Bool := false
  /-- The beat at which the 20 µs of R82 end. -/
  lockEnd  : Nat := 0
  /-- The PLL failed under R82, for this requested frequency. -/
  failedFor : Option Nat := none
  /-- A request arrived during a ramp. -/
  again    : Bool := false
  /-- A change of source is in progress. -/
  ramping  : Bool := false
  table    : List Forecast := []
  /-- The CPA served last in the rotation of R186, and of R191. -/
  lastTake : Nat := 23
  /-- Notices taken in the tick named, R186. -/
  tookAt   : Nat := 0
  took     : Nat := 0
  lastShare : Nat := 23
  /-- The thermal division asked for, as PLL_DIV, R267. -/
  thermDiv : Nat := 0
  deriving DecidableEq, Repr

/-- The states of a shoe request or of a hard limit, Table 6.1, R177. -/
inductive Droop where
  | clear | hold | ramp
  deriving DecidableEq, Repr

/-- What a core power agent holds beside its registers. -/
structure Cpa where
  shoe    : Droop := .clear
  shoeReq : Nat := 32
  hard    : Droop := .clear
  /-- The hard keep fraction k, sixteenths. -/
  keep    : Nat := 16
  /-- The issue-ramp request, its increment g, and a pending CPL_START, R190 to R192. -/
  ramp    : Nat := 32
  share   : Nat := 0
  cplStart : Bool := false
  queue   : List Notice := []
  /-- Issue of ME0 to ME3 in the last four complete windows, newest first. -/
  windows : List (List Nat) := []
  /-- u of R190 at the last WIN_START. -/
  issue   : Nat := 0
  /-- Engines that wait, and each waiting matrix engine's average issue, in twelfths, R193. -/
  swait   : Nat := 0
  average : Store Nat := []
  /-- The handling of SERVICE is in force for the waits in progress, R367. -/
  filler  : Bool := false
  /-- Consecutive windows of filler, and FILL_SLOTS has been lowered since the last WIN_START, R194. -/
  fillRun : Nat := 0
  decayed : Bool := false
  /-- The accumulator of R181, and CLK_EN for the last pulse offered. -/
  acc     : Nat := 0
  clkEn   : Bool := false
  /-- Beat and tick of the last sample below NOTICE, R175. -/
  noticeAt : Option (Nat × Nat) := none
  /-- The meter: sums of u over windows and their number, length of the interval in ticks, R204, R216. -/
  uSum     : Nat := 0
  uCount   : Nat := 0
  ticks    : Nat := 64
  /-- The tick in or after which the interval in progress began, R26. -/
  began    : Nat := 0
  /-- Counter sums of the last interval, its p_mat, p_oth and p_leak in µW, its mean u in slots as (sum, windows). -/
  counts   : List Nat := []
  pMat     : Nat := 0
  pOth     : Nat := 0
  pLeak    : Nat := 0
  uAvg     : Nat × Nat := (0, 0)
  /-- Energies below 1 µJ, in pJ: metered, filler. -/
  eRest    : Nat := 0
  fillRest : Nat := 0
  /-- ME0 to ME3 have waited since the last core-grant frame, R230. -/
  waitAll  : Bool := false
  deriving DecidableEq, Repr

/-! ### Domains (chapter 11) -/

/-- The sequences of Table 11.4. -/
inductive DomSeq where
  | none | offOn | retOn | onOff | onRet | retOff
  deriving DecidableEq, Repr

/-- What the domain controller holds for a domain beside its registers. -/
structure Dom where
  swOn   : Bool := false
  retOn  : Bool := false
  isoN   : Bool := false
  seq    : DomSeq := .none
  /-- The step of the sequence in progress. -/
  step   : Nat := 0
  /-- The acknowledge of the step has arrived, or the step is a beat. -/
  acked  : Bool := false
  /-- FAILED on the way to ON, R310. -/
  toOn   : Bool := false
  retry  : Bool := false
  /-- Tick 0s since the step that waits for its acknowledge, R310. -/
  waited : Nat := 0
  /-- The acknowledge that ran out of time (RET_ACK rather than SW_ACK, and its level), while it may still come, R310. -/
  late   : Option (Bool × Bool) := none
  deriving DecidableEq, Repr

/-- The budget engine's cap law and its windows, R203 to R220. Powers are in 0.125 W, E in 2^-40 of that. -/
structure Cap where
  /-- CAP has been enabled since the last cold or wake reset, R210. -/
  enabled : Bool := false
  /-- Sixteen weights and the coefficient last loaded for a rail, R203, and those that apply at the next tick 0, R206. -/
  loaded  : Store (List Nat) := []
  liveNext : Store (List Nat) := []
  /-- Sums of the 1-beat powers of all rails and of rails 4 to 7, and the beats in them, R207. -/
  sumDie  : Nat := 0
  sumNc   : Nat := 0
  beats   : Nat := 0
  /-- Die power and length in beats of the interval before the one in progress, and USED at its end, R204, R207, R208. -/
  before  : Option (Nat × Nat × Nat) := none
  ePkg    : Int := 0
  eDie    : Int := 0
  /-- The last 100 interval powers, newest first, R208, R212. -/
  ringPkg : List Nat := []
  ringDie : List Nat := []
  /-- Above or not above, of the last 100 frames, newest first, R211. -/
  above   : List Bool := []
  /-- Frames in a row with E above 1.02 × C, and a GRANT_FLOOR since the last frame, R220. -/
  eRun    : Nat := 0
  floored : Bool := false
  /-- Frames for which the condition of a rate-limited event has been absent, R220. -/
  absent  : Store Nat := []
  /-- pgrant of R243; none is unlimited. -/
  pgrant  : Option Nat := none
  /-- Filler energy of the die below 1 µJ, in pJ. -/
  fillRest : Nat := 0
  deriving DecidableEq, Repr

/-- The budget engine's links and distributions, chapter 8. Ports 0 to 2 are the IDL ports, 3 the package budget port. -/
structure Links where
  started : Bool := false
  /-- Dies whose LD_B.GRANT has been written since CAP was enabled, R234. -/
  written : List Nat := []
  /-- The last valid REPORT of each die, and the dies whose REPORT came since the last frame, R238. -/
  reports : Store (List Byte) := []
  fresh   : List Nat := []
  /-- The last valid GRANT, if one came since the last frame, and frames without one, R239. -/
  grant   : Option (List Byte) := none
  missed  : Nat := 0
  /-- A valid GRANT has come since link start; the leader has been lost and is not back, R239. -/
  followed : Bool := false
  lost    : Bool := false
  /-- The beat at which the 100 ms of R69 end, until they have. -/
  identityEnd : Option Nat := none
  /-- Bytes 4 of the identities received, by port, and ports on which one has come, R69, R237. -/
  ids     : Store Nat := []
  heard   : List Nat := []
  /-- Die-budget intervals since an IDENTITY went out between two non-leaders, R237. -/
  idle    : Nat := 0
  /-- Next SEQ to send, SEQ last received, and the frame last sent, by port. -/
  seq     : Store Nat := []
  ack     : Store Nat := []
  sent    : Store (List Byte) := []
  /-- The cluster budgets before the last distribution, the beat of that distribution, R228. -/
  clbOld  : Store Nat := []
  clbBeat : Option Nat := none
  /-- A die budget has been received, and cluster budgets have been distributed; until then grants are unlimited. -/
  budgeted : Bool := false
  /-- The package cap law has run, so PWR.LIM_B.P_LIM is a limit. -/
  ruled   : Bool := false
  distributed : Bool := false
  /-- The beat of the first distribution, in which grants are still unlimited, R228. -/
  firstBeat : Option Nat := none
  /-- Package fields of a GRANT have been taken up since the last cold reset, R239, R240. -/
  taken   : Bool := false
  /-- A valid P-frame came in this package interval, R244. -/
  pFrame  : Bool := false
  /-- QUIET has reached SILENT_TO at the last package frame, R244. -/
  silentDue : Bool := false
  /-- Package powers of the frames of the package interval in progress, R242, and whether USED was above GRANT before. -/
  usedSum : Nat := 0
  usedN   : Nat := 0
  overNow : Bool := false
  /-- REQ and FLOOR of the last A-frame. -/
  req     : Nat := 0
  floor   : Nat := 0
  deriving DecidableEq, Repr

/-- What the front end holds for a channel: diode channels 0 to 63, thermistors 64 to 71 (R259, R260, R269). -/
structure Chan where
  /-- Implausible conversions in a row, and plausible ones while BROKEN. -/
  count : Nat := 0
  good  : Nat := 0
  /-- The last plausible reading, 1/64 °C, and its beat. -/
  last  : Option (Int × Nat) := none
  /-- The reading of a conversion that failed only the rate test. -/
  odd   : Option Int := none
  /-- Plausible conversions in a row at or above the trip limit. -/
  trip  : Nat := 0
  /-- The last conversion was used; it was plausible. -/
  used  : Bool := false
  plaus : Bool := false
  /-- The reading is at or above WARN, or within BAND of the trip limit: for the events NTC_WARN and NEAR. -/
  warned : Bool := false
  near  : Bool := false
  deriving DecidableEq, Repr

/-- What the front end holds for a pair, R261 to R263. -/
structure PairRec where
  /-- Conversions of both diodes in a row with, and without, a disagreement. -/
  apart   : Nat := 0
  agree   : Nat := 0
  /-- Conversions in a row without a disagreement, up to 100; the event may be raised. -/
  clean   : Nat := 0
  mayRaise : Bool := true
  /-- The beat at which EST was written. -/
  estBeat : Option Nat := none
  blind   : Bool := false
  /-- The last protection reading, R274. -/
  lastProt : Option Int := none
  deriving DecidableEq, Repr

/-- The thermal front end beside its registers. -/
structure Therm where
  chans  : Store Chan := []
  pairs  : Store PairRec := []
  /-- LOGIC_TARGET as last taken into force with THERM, 1/64 °C, R264, R287. -/
  target : Nat := 0
  /-- Calibration tag 0x0004 in use, R254. -/
  cal    : List Byte := []
  /-- Stacks that are blind; pairs and stacks whose readings were renewed in the present frame, R263, R265. -/
  blind  : List Nat := []
  pairsNew : List Nat := []
  stacksNew : List Nat := []
  /-- DRAM_THROTTLE as the frame in progress began, for the bands, R298. -/
  bandTop : Nat := 0x1A40
  /-- Privileged units still to convert in this frame, and the unit the round-robin converted last, R256. -/
  privLeft : List Nat := []
  robin  : Nat := 31
  /-- The unit in conversion, once chosen, R256. -/
  unitNow : Option Nat := none
  /-- Stacks whose BAND_UPD pulses in the present tick 0, those whose pulses at the next, and pulses given, R292. -/
  bandDue : List Nat := []
  bandNext : List Nat := []
  pulses : Store Nat := []
  deriving DecidableEq, Repr

/-- HORIZON and the values of the law as a step takes them, R286, R287, R298. -/
structure StepLaw where
  horizon  : Nat := 8
  kdown    : Nat := 10
  kup      : Nat := 2
  riseMax  : Nat := 10
  margin   : Nat := 5
  floor    : Nat := 400
  /-- LOGIC_TARGET and DRAM_THROTTLE, 1/64 °C. -/
  target   : Int := 0
  throttle : Int := 6720
  deriving DecidableEq, Repr

/-- The thermal model, R278 to R290, and the cooling samples of R295 to R297. Vectors hold FP32 words. -/
structure Model where
  /-- Tag 0x0005 as loaded (the MDP's copy), and the engine's coefficients, which flow scaling rewrites. -/
  body   : List Byte := []
  coef   : List Byte := []
  /-- The engine's state RAM: whether it holds a model, and its nodes. -/
  loaded : Bool := false
  x      : List Nat := []
  /-- The input RAM, and what a step in progress latched: u_now, u_fc, and measurements by output. -/
  uNow   : List Nat := []
  uFc    : List Nat := []
  latched : Option (List Nat × List Nat × List (Option Int)) := none
  /-- The MDP owes the rewrite of the coefficients that follows MODEL_RESET, R443. -/
  rewrite : Bool := false
  /-- A step has completed and the MDP has not yet acted on it. -/
  fresh  : Bool := false
  /-- The values of the law of the step begun last. -/
  law    : StepLaw := {}
  /-- The energies of the 72 core groups, µJ, at the last step boundary, and their changes over the last step, R280. -/
  energies : List Nat := []
  used     : List Nat := []
  /-- Sums of the 1-beat powers of rails 4 to 7 in the step in progress, and beats in them; the same of the last step. -/
  railSums : List Nat := [0, 0, 0, 0]
  beats  : Nat := 0
  railLast : List Nat := [0, 0, 0, 0]
  beatsLast : Nat := 0
  /-- A coefficient rewrite fell due during a step, R298; the beat of the last rewrite, R289. -/
  flowDue : Bool := false
  rewritten : Option Nat := none
  /-- The flow is below FLOW_MIN, and the beat since which it has lain on that side, R290. -/
  flowLow : Bool := false
  flowSince : Option Nat := none
  /-- The scale at the last rewrite, 1/4,096, R289. -/
  scale  : Nat := 4096
  /-- Over the present second: means of logic readings and inlet readings, 1/64 °C, and their number; die powers. -/
  logicSum : Int := 0
  inletSum : Int := 0
  steps  : Nat := 0
  diePower : Nat := 0
  frames : Nat := 0
  /-- Something in the present second makes its sample invalid. -/
  bad    : Bool := false
  /-- Sum of the samples toward the baseline; a baseline learned and not yet committed. -/
  learnSum : Nat := 0
  learned : Option Nat := none
  deriving DecidableEq, Repr

/-! ### Sync fabric (chapters 12, 13) and memory protection (chapter 16)

A core is 0 to 287, or 0x1FF for host software; an engine 0 to 6, or 7 for host software. Ticks since BEAT_COUNT 0 are
counted modulo 2^54. -/

/-- The last signaller of an object, R345. -/
structure Signaller where
  die  : Nat
  core : Nat
  eng  : Nat
  beat : Nat
  tick : Nat
  deriving DecidableEq, Repr

/-- The state of a sync object, Table 12.3. -/
structure SyncObj where
  kind   : Nat := 0
  value  : Nat := 0
  value2 : Nat := 0
  parts  : Nat := 0
  /-- Arrivals in the present generation, of a barrier or of a pair's realign barrier. -/
  arr    : Nat := 0
  gen    : Nat := 0
  rel    : Nat := 0
  overflow : Bool := false
  doubleSet : Bool := false
  due    : Bool := false
  limit  : Bool := false
  faulted : Bool := false
  /-- Word 4f has been read correctly since the object became FAULTED, R441. -/
  word0  : Bool := true
  last   : Option Signaller := none
  deriving DecidableEq, Repr

/-- A release that is pending, R334: its tick T, its LEAD, whether it is coupled, the rails named by a notice. -/
structure Release where
  flat    : Nat
  at_     : Nat
  lead    : Nat
  coupled : Bool
  rails   : List Nat := []
  deriving DecidableEq, Repr

/-- A waiter record, R341. -/
structure Waiter where
  rid    : Nat
  flat   : Nat
  op     : Nat
  core   : Nat
  eng    : Nat
  slot   : Option Nat
  ctx    : Nat
  beat   : Nat
  tick   : Nat
  /-- The generation arrived in, or the target. -/
  arg    : Nat
  deadline : Nat
  fired  : Bool := false
  /-- The tick at which it completes, once that is decided, R326, R336. -/
  due    : Option Nat := none
  /-- What it completes with then: the status, and the value where the spec states one. -/
  fate   : Nat × Option Nat := (0, none)
  /-- It completes at its cluster's tick of a coupled release, R336. -/
  coupled : Bool := false
  /-- It leaves other than by release: by an abort, a watchdog or a memory fault, R347, R350. -/
  back   : Bool := false
  deriving DecidableEq, Repr

/-- A completion that is decided and waits for the tick of its delivery, R326. -/
structure Completion where
  core   : Nat
  eng    : Nat
  status : Nat
  value  : Option Nat
  at_    : Nat
  deriving DecidableEq, Repr

/-- A request that an engine presents on SREQ and its CLC has not taken, R325. -/
structure Sreq where
  core : Nat
  eng  : Nat
  word : Nat
  arg  : Nat
  deriving DecidableEq, Repr

/-- A request that the fabric has taken and not yet applied, R325, R326. -/
structure SyncReq where
  core : Nat
  eng  : Nat
  /-- Arrival tick, and the arrival beat, tick and USED. -/
  at_  : Nat
  beat : Nat
  tick : Nat
  khz  : Nat
  ctx  : Nat
  op   : Nat
  word : Nat
  arg  : Nat
  /-- A reissue of R342. -/
  poll : Bool := false
  deriving DecidableEq, Repr

/-- A wait refused for a full pool, which its CPA reissues, R342, R366. -/
structure Poll where
  core : Nat
  eng  : Nat
  flat : Nat
  op   : Nat
  word : Nat
  argw : Nat
  gen  : Nat
  ctx  : Nat
  beat : Nat
  deadline : Nat
  /-- The tick of the last attempt's arrival, and whether that attempt is still in the batch. -/
  at_  : Nat
  queued : Bool := false
  /-- The generation of a refused arrival is known: not yet that of a package arrival the leader has not answered, R346. -/
  known  : Bool := true
  fired : Bool := false
  /-- AUTO_FAULT ends it at the next reissue. -/
  fault : Bool := false
  /-- Its generation was released; it completes at this tick of its cluster. -/
  due  : Option Nat := none
  deriving DecidableEq, Repr

/-- A COLLECT that blocks, R343. -/
structure Collect where
  core : Nat
  eng  : Nat
  mask : Nat
  any  : Bool
  deriving DecidableEq, Repr

/-- A package operation forwarded to the leader and not yet answered, R346. -/
structure Forward where
  req  : SyncReq
  flat : Nat
  rid  : Option Nat
  slot : Option Nat
  /-- Tick in which the OPREQ was sent, R348. -/
  sent : Nat
  /-- The wait it was sent for has ended: its answer has no effect on the engine. -/
  void : Bool := false
  deriving DecidableEq, Repr

/-- A waiter of another die that the leader counts, R347: package index, die, wait operation, generation or target. -/
structure PkgWait where
  idx : Nat
  die : Nat
  op  : Nat
  arg : Nat
  deriving DecidableEq, Repr

/-- A watchdog report, R365. -/
structure WdReport where
  auto   : Bool
  polled : Bool
  ctx    : Nat
  flat   : Nat
  core   : Nat
  eng    : Nat
  op     : Nat
  count  : Nat
  beat   : Nat
  deriving DecidableEq, Repr

/-- A watchdog sweep in progress, R364: how many groups of 64 records it has examined, and the reports it will queue (R365). -/
structure Sweep where
  pos     : Nat := 0
  reports : List WdReport := []
  deriving DecidableEq, Repr

/-- An abort walk, R362: its context, groups of 64 records examined, and whether an ABORT command awaits its end. -/
structure Walk where
  ctx : Nat
  pos : Nat := 0
  cmd : Bool := false
  /-- The tick in which the context entered DRAINING. -/
  from_ : Nat
  deriving DecidableEq, Repr

/-- The sync fabric beside its registers. -/
structure Sync where
  objs    : Store SyncObj := []
  /-- Waiter records in use, oldest first. -/
  records : List Waiter := []
  /-- Records freed, with the tick of their freeing, R38. -/
  freed   : List (Nat × Nat) := []
  releases : List Release := []
  batch   : List SyncReq := []
  /-- Requests presented and not yet taken, and the last core (of its cluster) that each CLC served, R325. -/
  presented : List Sreq := []
  lastTaken : Store Nat := []
  /-- Completions that wait for their tick, R326. -/
  dues    : List Completion := []
  /-- Messages from other dies, with the tick of their arrival, R326. -/
  inbox   : List (Nat × List Nat) := []
  /-- Engines (8 × core + engine) with a request outstanding, R48. -/
  outstanding : List Nat := []
  polls   : List Poll := []
  collects : List Collect := []
  /-- Posted slots (32 × (8 × core + engine) + slot): 1 busy, 2 done, 3 done and faulted, R343. -/
  slots   : Store Nat := []
  /-- The last completion driven to each engine on SCPL: status and value. -/
  scpl    : Store (Option (Nat × Nat)) := []
  /-- Requests each CLC has taken in the tick named, R325. -/
  takenAt : Nat := 0
  taken   : Store Nat := []
  forwards : List Forward := []
  pkgWaits : List PkgWait := []
  /-- On a die that does not host them, the consumed count of a package pair as the leader last told it, while the die has
  had waiters of the pair that the leader counts, R339, R347. -/
  pairCounts : Store (Option Nat) := []
  /-- The die served last on a package object, by package index, R347. -/
  served  : Store Nat := []
  /-- The tick in which messages were last sent to the other dies, and those messages, R346. -/
  outAt   : Nat := 0
  outbox  : List (List Nat) := []
  walks   : List Walk := []
  sweep   : Option Sweep := none
  hostQ   : List WdReport := []
  mgpQ    : List WdReport := []
  mgpLost : Nat := 0
  /-- The tick in which DBG.SEL was last written, while a snapshot is pending. -/
  dbgAt   : Option Nat := none
  deriving DecidableEq, Repr

/-- A write-back or verify read that a protected memory owes, R436, R437. -/
structure WriteBack where
  mem    : Nat
  word   : Nat
  symbol : Nat
  /-- The write-back is done and the verify read is owed. -/
  verify : Bool := false
  deriving DecidableEq, Repr

/-- The protected memories, chapter 16: what is wrong with a stored codeword (the bits that differ from the codeword of
its contents), by memory and cell; write-backs owed; memories that have raised REMAP_FULL since cold reset. -/
structure Ecc where
  errors : Store Nat := []
  backs  : List WriteBack := []
  full   : List Nat := []
  /-- Data, as last seen by a raw access, of words whose layout the spec does not give, by memory and cell; any other
  such word holds a value that is free until it is seen (log 60). -/
  image  : Store Nat := []
  /-- Cells written since their memory was last cleared (1), and memories whose words firmware writes since then: a TCM that has
  been loaded, the log RAM (its keep areas) once a processor has run. Every other cell holds zero, R435. -/
  written : Store Nat := []
  used    : List Nat := []
  deriving DecidableEq, Repr

/-! ### PMBus target and IEEE 1149.1 port (chapters 14, 2) -/

/-- The PMBus target beside the registers it reads: PAGE; the latched status bits by page (4 × page + 0 STATUS_VOUT,
1 STATUS_IOUT, 2 STATUS_TEMPERATURE, 3 STATUS_MFR_SPECIFIC; 36 + page, of STATUS_WORD: bit 0 OFF, bit 1 POWER_GOOD#) and
STATUS_CML; how it answered the last transfer. -/
structure Pmbus where
  page    : Nat := 0
  latched : Store Nat := []
  cml     : Nat := 0
  ack     : Bool := true
  answer  : List Nat := []
  /-- The PEC that the target supplies when the controller clocks a byte beyond the data of a read, R73. -/
  pec     : Nat := 0
  deriving DecidableEq, Repr

/-- The IEEE 1149.1 port: the instruction (code of Table 2.8) and the boundary register, with the pins as last captured. -/
structure Jtag where
  /-- The TAP is in Test-Logic-Reset, where the pull-down of TRST_N holds it while the port is unconnected, R74. -/
  resting  : Bool := true
  instr    : Nat := 1
  boundary : Boundary := {}
  captured : Boundary := {}
  /-- The data register as captured: IDCODE, or what a read under DBGACC returned. -/
  data     : Nat := 0x0C4A2E3B
  deriving DecidableEq, Repr


/-! ### Processors, update, calibration copies, ageing (chapters 15 and 17) -/

/-- The processors beside their registers. -/
structure Procs where
  /-- Processors whose segment is to be loaded, R414. -/
  needed : List Nat := []
  /-- Beats left of the MGP watchdog while it is armed, R415. -/
  wdt    : Option Nat := none
  /-- By processor: the beat at which 100 ms end in which its ALIVE.COUNT has not changed, Table 15.3. -/
  aliveEnd : Store Nat := []
  /-- By processor: the tick of its last restart, R432. -/
  restartAt : Store (Option Nat) := []
  deriving DecidableEq, Repr

/-- One target of an update, R416, R417: its length, the bytes received, and those not yet programmed. -/
structure Target where
  len : Nat := 0
  got : Nat := 0
  buf : List Byte := []
  deriving DecidableEq, Repr

/-- The update beside FW.UPD, R416 to R422. -/
structure Update where
  /-- Bank body, image body, bank trailer fields, image trailer fields. -/
  targets : List Target := []
  /-- The erase of UPDATE_OPEN is in progress. -/
  erasing : Bool := false
  /-- SEQ of the committed bank. -/
  committed : Nat := 0
  /-- During a switch: the active bank before it, and GCTL.KEYS.REVOKED before it. -/
  oldBank : Nat := 0
  oldRevoked : Nat := 0
  /-- GCTL.STATUS.DEBUG_EN follows the active bank at the next tick 0, R421. -/
  debugDue : Bool := false
  /-- The settings of the new bank are to be taken up as soon as no check runs, R422; the profile taken for them. -/
  due     : Bool := false
  profile : Nat := 0
  /-- Subsystems whose settings of a new bank are being checked, R422. -/
  takingUp : List Nat := []
  deriving DecidableEq, Repr

/-- Why a calibration copy is written, R296, R456, R463. -/
inductive CopyKind where
  | baseline | relearn | persist | fmax
  deriving DecidableEq, Repr

/-- A calibration copy being written: its kind, its place (0 or 1) and its sections; all but its trailer is programmed. -/
structure CalCopy where
  kind : CopyKind
  slot : Nat
  sections : List (Nat × List Byte)
  deriving DecidableEq, Repr

/-- An Fmax re-characterisation, R460 to R465, beside HLTH.FMAX. -/
structure Fmax where
  /-- Cores of the cluster in progress that have passed every step, and the highest step each has passed. -/
  passing : List Nat := []
  highest : Store Nat := []
  /-- Cores that have left the sweep, or were not ON when their cluster's turn came, R462. -/
  out     : List Nat := []
  /-- New Fmax of the cores tested so far. -/
  results : Store Nat := []
  /-- A step is in progress; the thermal throttle has divided the clock during it, R462. -/
  inStep  : Bool := false
  spoilt  : Bool := false
  /-- HLTH.FCFG as FMAX_START found it, R467. -/
  guard   : Nat := 0
  step    : Nat := 0
  dwell   : Nat := 0
  /-- The beats at which 10 s in QUIET end, at which the step in progress ends, and at which 10 s of an invalid step end. -/
  quietEnd : Nat := 0
  stepEnd : Nat := 0
  badEnd  : Option Nat := none
  /-- The FMAX_BEGIN record is being programmed. -/
  begun   : Bool := false
  deriving DecidableEq, Repr

/-- Ageing and health, R450 to R458. -/
structure Health where
  /-- The last values of d by core, newest first; RATIO0 of a core that has none in tag 0x0006, 2^-24. -/
  degr    : Store (List Nat) := []
  ratio0  : Store Nat := []
  /-- Core groups ON, and phases enabled, throughout the present second, and hour. -/
  steady  : List Nat := []
  steadyP : List Nat := []
  /-- By rail: sum of the short-window averages of TEL.I of the present second and their number. -/
  iSum    : Store (Nat × Nat) := []
  /-- By rail: USED and RATE below one unit, in 2^-40 of the register's unit. -/
  usedRest : Store Nat := []
  rateRest : Store Nat := []
  /-- By phase: PEAKS at the last predictions, newest first, up to 168. -/
  peaks   : Store (List Nat) := []
  /-- DIE_HOURS and PERSISTS of tag 0x0006. -/
  hours   : Nat := 0
  persists : Nat := 0
  /-- Items meeting the condition of R458 at the last evaluation: kind × 2^30 + index. -/
  items   : List Nat := []
  /-- Calibration copies: the one being written, those due, sections to take effect at the next tick 0. -/
  copy    : Option CalCopy := none
  due     : List CopyKind := []
  calNext : Option (List (Nat × List Byte)) := none
  fmax    : Fmax := {}
  deriving DecidableEq, Repr
/-- Output pins no register holds. -/
structure Pins where
  /-- THERMTRIP_N driven low, and PWR_OFF_REQ driven high, R65. -/
  thermTrip : Bool := false
  pwrOff    : Bool := false
  /-- The recognised level of BRAKE_N, R63. -/
  brakeLow  : Bool := false
  /-- ALERT_N driven low, R408. -/
  alert     : Bool := false
  /-- The wake comparators on WAKE_SENSE and NTC[0] are active, and tick 0s in a row, up to 255, at which each has been
  while enabled on a parked die, R316. -/
  wsActive  : Bool := false
  ntcActive : Bool := false
  wsCount   : Nat := 0
  ntcCount  : Nat := 0
  /-- The voltages of WAKE_SENSE and NTC[0] as last presented, µV, R316. -/
  wakeSense : Nat := 0
  inlet     : Nat := 0
  /-- Remote-sense voltages presented for ticks to come, 0.25 mV, eight a tick, R146. -/
  ahead     : List Nat := []
  /-- The straps sampled at the last cold reset, R66. -/
  straps    : Straps := {}
  deriving DecidableEq, Repr

/-- The state of the block. -/
structure State where
  /-- Register fields by key, and the applied values of staged fields (R123). -/
  fields  : Store Nat := []
  applied : Store Nat := []
  time    : TimeBase := {}
  port    : HostPort := {}
  pins    : Pins := {}
  logRam  : LogRam := {}
  mailbox : Mailbox := {}
  flash   : Flash := {}
  boot    : Boot := {}
  trip    : Trip := {}
  supply  : Supply := {}
  rails   : Store Rail := []
  phases  : Store Phase := []
  clcs    : Store Clc := []
  cpas    : Store Cpa := []
  doms    : Store Dom := []
  /-- Some domain has left OFF since the last release, R313. -/
  away    : Bool := false
  cap     : Cap := {}
  links   : Links := {}
  therm   : Therm := {}
  model   : Model := {}
  sync    : Sync := {}
  ecc     : Ecc := {}
  pmbus   : Pmbus := {}
  jtag    : Jtag := {}
  procs   : Procs := {}
  update  : Update := {}
  health  : Health := {}
  /-- The interval counters of R25 and R26, by kind and unit. -/
  intervals : Store Interval := []
  /-- The values of the present tick's start that were replaced within it, R28. -/
  held    : Held := {}
  /-- The model's own counter of free values drawn (log 3); no part of the hardware. -/
  free    : Nat := 0
  /-- Commands that wait, first in, first out. -/
  pending : List Instr := []
  deriving DecidableEq, Repr

/-- The block right after a cold reset: every register at its reset value, all units at rest, nothing waiting. -/
def State.reset : State := {}

end Sys2Proof.Machine
end

