-- ==== Sys2Proof/Machine/Ops.lean ====
section
/-! DEFINITION. The named operations over the state that every family shares: register fields, staged values, free
values, the rings of the log RAM, and the messages the MGP sends. -/
namespace Sys2Proof.Machine

/-- What a meaning answers. -/
abbrev Outcome := Host.Outcome State Fault Refusal

/-- The state a meaning leaves: the next state, or the state as it was where there is none. -/
def Outcome.after (o : Outcome) (s : State) : State :=
  match o with
  | .next t => t
  | _ => s

/-- A meaning carried out as part of another. -/
def State.act (s : State) (f : State → Outcome) : State := (f s).after s

/-! ### Register fields -/

/-- The value of a register field. -/
def State.getF (s : State) (f : Field) : Nat := Store.read resetOf s.fields f.key

/-- The state with a register field at a value, cut to the field's width. -/
def State.setF (s : State) (f : Field) (v : Nat) : State :=
  { s with fields := Store.write resetOf s.fields f.key (v % 2 ^ f.width) }

/-- Whether a field is not zero. -/
def State.isSet (s : State) (f : Field) : Bool := s.getF f != 0

/-- A field set to a value, saturating at its width. -/
def State.satF (s : State) (f : Field) (v : Nat) : State := s.setF f (satNat f.width v)

/-- A saturating counter field raised by an amount. -/
def State.addF (s : State) (f : Field) (n : Nat) : State := s.satF f (s.getF f + n)

/-- A saturating counter field raised by one. -/
def State.incF (s : State) (f : Field) : State := s.addF f 1

/-- A field with some bits set: events raised in an event register. -/
def State.orF (s : State) (f : Field) (m : Nat) : State := s.setF f (s.getF f ||| m)

/-- A field with some bits cleared. -/
def State.andNotF (s : State) (f : Field) (m : Nat) : State :=
  s.setF f (s.getF f &&& ((2 ^ f.width - 1) ^^^ (m % 2 ^ f.width)))

/-- Bit `i` of an event register raised. -/
def State.raise (s : State) (f : Field) (i : Nat) : State := s.orF f (2 ^ i)

/-- A one-bit field. -/
def State.flagF (s : State) (f : Field) (b : Bool) : State := s.setF f (flag b)

/-- The 32-bit word of a register as its fields hold it; reserved and write-only fields read zero (R11, R12). -/
def State.word (s : State) (off : Nat) : Nat :=
  sumNat ((fieldsAt off).map fun r =>
    if r.1.acc = .wo then 0 else s.getF ⟨off, r.1.lo, r.1.width⟩ * 2 ^ r.1.lo)

/-- The value in force of a staged field, R123. -/
def State.appliedF (s : State) (f : Field) : Nat := Store.read resetOf s.applied f.key

/-- The staged value of a field taken into force, R124. -/
def State.applyKey (s : State) (key : Nat) : State :=
  { s with applied := Store.write resetOf s.applied key (Store.read resetOf s.fields key) }

/-- A function of the state repeated over a list, in order. -/
def State.forEach {α : Type} (s : State) (l : List α) (f : State → α → State) : State := l.foldl f s

/-- Conditional change of the state. -/
def State.when (s : State) (c : Bool) (f : State → State) : State := if c then f s else s

/-! ### Values the spec leaves open -/

/-- A fresh free value below `n`, and the state with the next one to draw (log 3). -/
def State.drawFree (s : State) (n : Nat) : Nat × State :=
  (Config.freeValue s.free % n, { s with free := s.free + 1 })

/-- A quotient whose rounding the spec leaves open, by the place it arises (log 9). -/
def openDiv (site : Nat) (num : Int) (den : Nat) : Int :=
  let q := Int.fdiv num den
  if Int.fmod num den = 0 then q else if Config.roundsUp site num den then q + 1 else q

/-- As `openDiv`, of quantities that are not negative. -/
def openDivNat (site num den : Nat) : Nat := (openDiv site num den).toNat

/-- A product that need only be within `tol` per mille of num ÷ den: a free value in that range (log 13). -/
def nearly (site tol num den : Nat) : Nat :=
  clampNat ((1000 - tol) * num / (1000 * den)) (ceilDiv ((1000 + tol) * num) (1000 * den)) (Config.nearly site num den)

/-! ### Time -/

/-- BEAT_COUNT as a number. -/
def State.beat (s : State) : Nat := s.time.beat.toNat

/-- BEAT_COUNT[31:0], the stamp of most records. -/
def State.beat32 (s : State) : Nat := s.beat % 2 ^ 32

/-- Whether stamp `a` lies after stamp `b` for an N-bit counter, R91. -/
def isAfter (n a b : Nat) : Bool :=
  let d := (a + (2 ^ n - b % 2 ^ n)) % 2 ^ n
  decide (1 ≤ d ∧ d ≤ 2 ^ (n - 1) - 1)

/-- The number of beats of an interval in µs at a frequency in kHz, R25. -/
def beatsOf (us khz : Nat) : Nat := roundDiv (us * khz) 1000

/-- The number of ticks of an interval in µs at a frequency in kHz, R25. -/
def ticksOf (us khz : Nat) : Nat := roundDiv (us * khz * 64) 1000

/-- The intervals of Tables 1.2 and 1.3, in µs, by kind. -/
def intervalUs : Nat → Nat
  | 0 => 10          -- core grants
  | 1 => 100         -- die budget frame
  | 2 => 100         -- model step
  | 3 => 1000        -- package frame
  | 4 => 50          -- thermal frame
  | 5 => 10000       -- recalibration
  | 6 => 1000        -- watchdog sweep
  | 7 => 1000000     -- thermal-resistance sample
  | 8 => 60000000    -- ageing measurement
  | 9 => 3600000000  -- life prediction
  | 11 => 86400000000  -- persistence of the ageing counters
  | 12 => 1000000    -- stress and electromigration
  | _ => 100000      -- 10, derating

/-- The units that count an interval of a kind: a cluster controller each for core grants, a CORE rail each for
recalibration and derating, else one for the die. -/
def intervalUnits : Nat → Nat
  | 0 => 12
  | 5 => 4
  | 10 => 4
  | _ => 1

/-- The key of a unit's counter of a kind, R26. -/
def intervalKey (kind unit : Nat) : Nat := 16 * kind + unit

/-- What an interval's counter holds after reset. -/
def intervalReset (key : Nat) : Interval := { len := beatsOf (intervalUs (key / 16)) 1000 }

/-- The keys of all interval counters. -/
def intervalKeys : List Nat := (List.range 13).flatMap fun i => (List.range (intervalUnits i)).map (intervalKey i)

/-- An interval's counter. -/
def State.interval (s : State) (key : Nat) : Interval := Store.read intervalReset s.intervals key

/-- An interval expires, or its unit is released: its counter starts again, with the length of the frequency in use, R26. -/
def State.reload (s : State) (key : Nat) : State :=
  let v : Interval := { len := beatsOf (intervalUs (key / 16)) (s.getF F.tbSyncFreqUsed) }
  { s with intervals := Store.write intervalReset s.intervals key v }

/-- The present beat is the last of an interval, and what happens in it has not happened yet, R25. -/
def State.ends (s : State) (key : Nat) : Bool := decide ((s.interval key).len ≤ (s.interval key).count)

/-- As `ends`, at the interval's named tick of Table 1.3. -/
def State.fires (s : State) (key tick : Nat) : Bool := s.ends key && s.time.tick == tick

/-- The present tick is tick 0 of the first beat of an interval, and what happens then has not happened yet, R256, R364. -/
def State.begins (s : State) (key : Nat) : Bool :=
  s.time.tick == 0 && (s.interval key).count == 1 && !(s.interval key).taken

/-- What happens at the begin of an interval has happened. -/
def State.begun (s : State) (key : Nat) : State :=
  { s with intervals := Store.update intervalReset s.intervals key fun v => { v with taken := true } }

/-- The intervals whose last beat ends begin again, whatever their unit did in it, R26. -/
def State.rollIntervals (s : State) : State := s.forEach intervalKeys fun s i => s.when (s.ends i) (·.reload i)

/-- Every interval counter counts a beat, R26. -/
def State.countIntervals (s : State) : State :=
  s.forEach intervalKeys fun s i =>
    { s with intervals := Store.update intervalReset s.intervals i fun v => { v with count := v.count + 1 } }

/-! ### Values used from the next tick on, R28 -/

/-- The present tick, counted from BEAT_COUNT 0. -/
def State.now (s : State) : Nat := (s.beat * 64 + s.time.tick) % 2 ^ 54

/-- A value that changes in the present tick: what it was when the tick began is kept for this tick's consumers. -/
def State.noteOld (s : State) (key old : Nat) : State :=
  let l := if s.held.at_ = s.now then s.held.old else []
  { s with held := { at_ := s.now, old := if l.any (·.1 == key) then l else (key, old) :: l } }

/-- A value as the consumers of the present tick see it, which is now `new`. -/
def State.oldOf (s : State) (key new : Nat) : Nat :=
  if s.held.at_ = s.now then ((s.held.old.find? (·.1 == key)).map (·.2)).getD new else new

/-- A register field about to change, whose consumers see the change from the next tick on. -/
def State.keepLate (s : State) (f : Field) : State := s.noteOld f.key (s.getF f)

/-- A register field as the consumers of the present tick see it. -/
def State.lateF (s : State) (f : Field) : Nat := s.oldOf f.key (s.getF f)

/-! ### Units -/


def State.rail (s : State) (k : Nat) : Rail := Store.read (fun _ => {}) s.rails k
def State.setRail (s : State) (k : Nat) (f : Rail → Rail) : State :=
  { s with rails := Store.update (fun _ => {}) s.rails k f }
def State.phase (s : State) (p : Nat) : Phase := Store.read (fun _ => {}) s.phases p
def State.setPhase (s : State) (p : Nat) (f : Phase → Phase) : State :=
  { s with phases := Store.update (fun _ => {}) s.phases p f }
def State.clc (s : State) (c : Nat) : Clc := Store.read (fun _ => {}) s.clcs c
def State.setClc (s : State) (c : Nat) (f : Clc → Clc) : State :=
  { s with clcs := Store.update (fun _ => {}) s.clcs c f }
def State.cpa (s : State) (n : Nat) : Cpa := Store.read (fun _ => {}) s.cpas n
def State.setCpa (s : State) (n : Nat) (f : Cpa → Cpa) : State :=
  { s with cpas := Store.update (fun _ => {}) s.cpas n f }

def State.dom (s : State) (d : Nat) : Dom := Store.read (fun _ => {}) s.doms d
def State.setDom (s : State) (d : Nat) (f : Dom → Dom) : State :=
  { s with doms := Store.update (fun _ => {}) s.doms d f }

/-- The cluster, CORE rail and core-group domain of a core, R4. -/
def clusterOf (core : Nat) : Nat := core / 24
def railOf (core : Nat) : Nat := core / 72
def groupOf (core : Nat) : Nat := core / 4

/-- The cores of a cluster. -/
def coresOf (cluster : Nat) : List Nat := (List.range 24).map (24 * cluster + ·)

/-! ### Words of the protected memories, R434 to R439 -/

/-- Main words of the protected memories, Table 16.1. -/
def memWords (m : Nat) : Nat := [73728, 131072, 65536, 16384, 32768, 65536, 8192, 16384].getD m 0

/-- The cell that holds a word: spare `e` for the last remap entry made for it, else its own, R437, R438. -/
def State.cellOf (s : State) (m w : Nat) : Nat :=
  let e := indexes 8 fun e => s.isSet (F.mpMRemapEValid m e) && s.getF (F.mpMRemapEWord m e) == w
  match e.getLast? with
  | some e => if w < memWords m then memWords m + e else w
  | none => w

/-- The storage key of a cell of a memory. -/
def cellKey (m c : Nat) : Nat := m * 2 ^ 18 + c

/-- The bits of a word's codeword that are wrong. -/
def State.errorAt (s : State) (m w : Nat) : Nat := Store.read (fun _ => 0) s.ecc.errors (cellKey m (s.cellOf m w))

/-- The wrong bits of a word's codeword set. -/
def State.setError (s : State) (m w e : Nat) : State :=
  { s with ecc := { s.ecc with errors := Store.write (fun _ => 0) s.ecc.errors (cellKey m (s.cellOf m w)) e } }

/-- A functional write of a word: its codeword is right again; a write-back or verify read owed for it is cancelled
(R436, R447). A word and the spare that serves it are one cell. -/
def State.eccWrite (s : State) (m w : Nat) : State :=
  let c := s.cellOf m w
  let mine (b : WriteBack) : Bool := b.mem == m && s.cellOf m b.word == c
  let n := (s.ecc.backs.filter fun b => mine b && !b.verify).length
  let s := s.setError m w 0
  let s := { s with ecc := { s.ecc with
    image := Store.erase s.ecc.image (cellKey m c), written := Store.write (fun _ => 0) s.ecc.written (cellKey m c) 1 } }
  (s.when (decide (0 < n)) (·.addF (F.mpMWbCancelled m) n)).when (s.ecc.backs.any mine) fun s =>
    { s with ecc := { s.ecc with backs := s.ecc.backs.filter fun b => !mine b } }

/-- Some words of the log RAM written, Table 15.2. -/
def State.writeLogWords (s : State) (first n : Nat) : State :=
  s.forEach ((List.range n).map (first + ·)) fun s w => s.eccWrite 6 w

/-! ### Trace ring, R429, R430 -/

/-- Whether a trace point is enabled. -/
def State.traceOn (s : State) (point : Nat) : Bool :=
  point == 0 || bitOf (s.getF (F.logTmaskMMask (point / 32))) (point % 32)

/-- Records that fit the trace ring. -/
def traceCapacity : Nat := 1024

/-- A trace record at an index of the ring. -/
def State.putTrace (s : State) (i : Nat) (r : TraceRec) : State :=
  ({ s with logRam := { s.logRam with trace := Store.write (fun _ => {}) s.logRam.trace i r } } : State).writeLogWords
    (5120 + 2 * i) 2

/-- Whether a record belongs before the one written last in the same tick, R430. -/
def TraceRec.before (r p : TraceRec) : Bool :=
  p.tick == r.tick && p.beat24 == r.beat24 && (p.tseq + 1) % 2 ^ 16 == r.tseq
    && (decide (r.point < p.point) || (r.point == p.point && decide (r.src < p.src)))

/-- A record placed among those of its tick: ascending point, then source. -/
def State.placeTrace (s : State) : Nat → Nat → TraceRec → State
  | 0, i, r => s.putTrace i r
  | n + 1, i, r =>
    let j := (i + traceCapacity - 1) % traceCapacity
    let p := Store.read (fun _ => {}) s.logRam.trace j
    if r.before p then (s.putTrace i { p with tseq := r.tseq }).placeTrace n j { r with tseq := p.tseq } else s.putTrace i r

/-- A trace record written to the ring; while FREEZE is 1 it is counted in DROPPED instead. -/
def State.trace (s : State) (src point data0 data1 : Nat) : State :=
  if !s.traceOn point then s
  else if s.isSet F.logTrCfgFreeze then s.incF F.logTrStatDropped
  else
    let i := s.getF F.logTrHeadIndex
    let q := s.getF F.logTrHeadTseq
    let s := s.placeTrace traceCapacity i
      { beat24 := s.beat % 2 ^ 24, tick := s.time.tick, point := point, src := src, tseq := q,
        data0 := data0 % 2 ^ 32, data1 := data1 % 2 ^ 32 }
    (s.setF F.logTrHeadIndex (i + 1)).setF F.logTrHeadTseq (q + 1)

/-! ### Log ring, R423 to R425 -/

/-- Records that fit the log ring, Table 15.2. -/
def logCapacity : Nat := 1280

/-- The count of unread records, R425. -/
def State.unread (s : State) : Nat :=
  let n := (s.getF F.logHeadSeq + (2 ^ 32 - s.getF F.logRdPtrSeq)) % 2 ^ 32
  if 2 ^ 31 < n then 0 else n

/-- Records the ring holds. -/
def State.logCount (s : State) : Nat := (s.getF F.logHeadSeq + (2 ^ 32 - s.getF F.logTailSeq)) % 2 ^ 32

/-- The place in the ring of the record with a sequence number: records lie in sequence order, R423. -/
def State.logSlot (s : State) (seq : Nat) : Nat :=
  (s.logRam.put + logCapacity - (s.getF F.logHeadSeq + (2 ^ 32 - seq)) % 2 ^ 32) % logCapacity

/-- The oldest record is overwritten, R423. -/
def State.logOverwrite (s : State) : State :=
  let tail := s.getF F.logTailSeq
  let unreadTail := decide ((tail + (2 ^ 32 - s.getF F.logRdPtrSeq)) % 2 ^ 32 < s.unread)
  ((s.setF F.logTailSeq (tail + 1)).incF F.logStatOverwritten).when unreadTail fun s =>
    { s.raise F.logEvt 2 with logRam := { s.logRam with overwrote := true } }

/-- A log record written: source, severity, code and data words of Table 15.9. -/
def State.log (s : State) (src sev code : Nat) (data : List Nat) : State :=
  let s := s.when (decide (logCapacity ≤ s.logCount)) State.logOverwrite
  let seq := s.getF F.logHeadSeq
  let r : LogRec :=
    { seq := seq, beatLo := s.beat32, beatHi := s.getF F.tbEraCount * 65536 + s.beat / 2 ^ 32,
      origin := src * 2 ^ 28 + sev * 2 ^ 24 + s.time.tick * 65536 + code,
      data := (data ++ [0, 0, 0, 0]).take 4 }
  let i := s.logRam.put % logCapacity
  let s := { s with logRam := { s.logRam with
    ring := Store.write (fun _ => {}) s.logRam.ring i r, put := (i + 1) % logCapacity } }
  let s := s.writeLogWords (4 * i) 4
  let s := s.setF F.logHeadSeq (seq + 1)
  let s := s.when (decide (s.getF F.logCfgIntSev ≤ sev)) (·.raise F.logEvt 0)
  s.when (s.unread == max 1 (s.getF F.logCfgWatermark)) (·.raise F.logEvt 1)

/-! ### Outbound messages, R387, R390, R391 -/

/-- Whether the MGP runs (FW_P.STATUS.STATE of processor 2). -/
def State.running (s : State) (p : Nat) : Bool := s.getF (F.fwPStatusState p) == 2

/-- The header word of Table 14.2 for a message of `n` words. -/
def headerWord (minor opcode seq n flags : Nat) : Nat :=
  2 * 2 ^ 28 + minor * 2 ^ 24 + opcode * 65536 + seq * 256 + (n - 8) * 16 + flags

/-- A message written into a channel, which becomes FULL, R375. -/
def State.writeMsg (s : State) (ch : Nat) (words : List Nat) : State :=
  let s := s.forEach words.zipIdx fun s wi => s.setF (F.mbxMsgWord ch wi.2) wi.1
  let s := s.setF (F.mbxChCtlState ch) 1
  s.when (decide (16 ≤ ch ∧ ch ≤ 27)) (·.raise F.mbxHevtFull (ch - 16))

/-- The queue without its first element that meets a condition. -/
def dropFirst (p : OutMsg → Bool) : List OutMsg → List OutMsg
  | [] => []
  | m :: q => if p m then q else m :: dropFirst p q

/-- A message joins the outbound queue; at 64 the oldest notification, or else the oldest reply, is dropped. -/
def State.enqueue (s : State) (m : OutMsg) : State :=
  let q := s.mailbox.queue
  let full := decide (64 ≤ q.length)
  let q' := if full then (if q.any (!·.isReply) then dropFirst (!·.isReply) q else q.tail) else q
  let m := { m with absent := s.isSet F.mbxHostAbsent }
  let s := { s with mailbox := { s.mailbox with
    queue := q' ++ [m]
    dropped := s.mailbox.dropped + flag (full && s.isSet F.mbxHostAbsent) } }
  let s := s.setF F.mbxQueueDepth (q'.length + 1)
  s.when full fun s => (s.incF F.mbxQueueDropped).raise F.mbxMevt 3

/-- A message sent: written at once if its channel is EMPTY and nothing that must leave first waits, else queued. -/
def State.send (s : State) (m : OutMsg) : State :=
  let blocked := s.mailbox.queue.any fun q => q.channel == m.channel && (q.isReply || !m.isReply)
  if s.isSet (F.mbxChCtlState m.channel) || blocked then s.enqueue m
  else s.writeMsg m.channel m.words

/-- Words of a message filled up to the eight that every message has, R385. -/
def padWords (w : List Nat) : List Nat := w ++ List.replicate (8 - w.length) 0

/-- The reply to a request: status, reason and data words (R385, R387); none on OK if the request is QUIET. -/
def State.reply (s : State) (r : Request) (status reason : Nat) (data : List Nat) : State :=
  let h := r.words.getD 0 0
  if status == 0 && bitOf h 0 then s
  else
    let w1 := status * 2 ^ 24 + reason * 65536 + r.channel
    let n := max 8 (data.length + 2)
    let hdr := headerWord r.minor (bitsOf h 16 8) (bitsOf h 8 8) n 0
    (s.send { channel := r.reply, isReply := true, words := padWords (hdr :: w1 :: data) }).trace 3 177 r.channel w1

/-- A notification of a class to one reply channel, with that channel's next SEQ, R390. -/
def State.notifyOn (s : State) (ch opcode minor : Nat) (data : List Nat) : State :=
  let seq := Store.read (fun _ => 0) s.mailbox.notifySeq ch
  let s := { s with mailbox := { s.mailbox with
    notifySeq := Store.write (fun _ => 0) s.mailbox.notifySeq ch ((seq + 1) % 256) } }
  let n := max 8 (data.length + 2)
  s.send { channel := ch, isReply := false,
           words := padWords (headerWord minor opcode seq n 0 :: 0xFF :: data) }

/-- Open sessions that subscribe to a class and reply on a channel. -/
def State.subscribers (s : State) (ch cls : Nat) : List Nat :=
  indexes 16 fun i => s.isSet (F.mbxSesAOpen i) && s.getF (F.mbxSesAReply i) == ch
    && bitOf (s.getF (F.mbxSesAClasses i)) cls

/-- The MGP writes a notification once to every reply channel that serves a subscribed open session, R390. -/
def State.notify (s : State) (cls opcode : Nat) (data : List Nat) : State :=
  if !s.running 2 then s
  else
    let s := s.when (s.isSet F.mbxHostAbsent) fun s =>
      { s with mailbox := { s.mailbox with classes := setBit s.mailbox.classes cls } }
    s.forEach ((List.range 12).map (16 + ·)) fun s ch =>
      match s.subscribers ch cls with
      | [] => s
      | i :: _ => s.notifyOn ch opcode (s.getF (F.mbxSesAMinor i)) data

end Sys2Proof.Machine
end

