-- ==== Sys2Proof/Machine/Operands.lean ====
section
/-! DEFINITION. Reading operands: byte strings, the calibration sections of the chosen copy (Tables 4.9, 5.11, 6.4), the
PMBus number formats of R138, voltage/frequency points, and the combining rules of R29 to R31. -/
namespace Sys2Proof.Machine

/-! ### Bytes -/

/-- Little-endian numbers within a byte string; bytes beyond its end read as zero. -/
def byteAt (b : List Byte) (off : Nat) : Nat := (b.getD off 0).toNat
def u16At (b : List Byte) (off : Nat) : Nat := byteAt b off + 256 * byteAt b (off + 1)
def u32At (b : List Byte) (off : Nat) : Nat := u16At b off + 65536 * u16At b (off + 2)
def u64At (b : List Byte) (off : Nat) : Nat := u32At b off + 2 ^ 32 * u32At b (off + 4)
def s16At (b : List Byte) (off : Nat) : Int := toSigned 16 (u16At b off)

/-- A byte string with some bytes replaced, from an offset within it. -/
def patchBytes (b : List Byte) (off : Nat) (v : List Byte) : List Byte :=
  b.take off ++ v ++ b.drop (off + v.length)

/-- A temperature in 1/64 °C as a register holds it, R18. -/
def tempField (t : Int) : Nat :=
  let v := satSigned 16 t
  if v = 0x8000 then 0x8001 else v

/-! ### PMBus number formats -/

/-- A LINEAR11 word in units of 1/scale, R138. -/
def linear11 (w scale : Nat) : Int :=
  let e := toSigned 5 (w / 2048)
  let m := toSigned 11 (w % 2048)
  if 0 ≤ e then m * (scale * 2 ^ e.toNat : Nat) else openDiv 1 (m * scale) (2 ^ (-e).toNat)

/-- A LINEAR16 word with a signed exponent, in mV, R138. -/
def linear16mV (w : Nat) (e : Int) : Nat :=
  if 0 ≤ e then w * 1000 * 2 ^ e.toNat else openDivNat 2 (w * 1000) (2 ^ (-e).toNat)

/-! ### Calibration sections -/

/-- The section of a tag in the chosen calibration copy, R108; empty when the tag is missing. -/
def State.calSection (s : State) (tag : Nat) : List Byte :=
  ((s.boot.cal.find? (·.1 == tag)).map (·.2)).getD []

/-- Whether the chosen copy has a tag. -/
def State.hasTag (s : State) (tag : Nat) : Bool := s.boot.cal.any (·.1 == tag)

/-- Tag 0x0001, Table 4.9: package type X4, partner processor, dies, fitted converters, exponent, crystal in kHz. -/
def State.isX4 (s : State) : Bool := byteAt (s.calSection 1) 4 % 4 == 1
def State.hasPartner (s : State) : Bool := bitOf (byteAt (s.calSection 1) 4) 2
def State.dies (s : State) : Nat := if s.hasTag 1 then byteAt (s.calSection 1) 5 else 1
def State.fitted (s : State) : Nat := byteAt (s.calSection 1) 6 % 16
def State.voutExp (s : State) : Int := toSigned 5 (byteAt (s.calSection 1) 7 % 32)
def State.xtalKHz (s : State) : Nat := u32At (s.calSection 1) 8

/-- Tag 0x0002, Table 5.11: IMON gain in 1/4,096 mV/A, IMON offset in 0.125 A, TMON offset in 1/64 °C. -/
def State.imonGain (s : State) (p : Nat) : Nat := u16At (s.calSection 2) (0x10 + 8 * p)
def State.imonOffset (s : State) (p : Nat) : Int := s16At (s.calSection 2) (0x12 + 8 * p)
def State.tmonOffset (s : State) (p : Nat) : Int := s16At (s.calSection 2) (0x14 + 8 * p)

/-- Whether a phase is present, R168. -/
def State.phasePresent (s : State) (p : Nat) : Bool :=
  bitOf (u64At (s.calSection 2) 4) p && decide (8192 ≤ s.imonGain p ∧ s.imonGain p ≤ 40960)

/-- Tag 0x0003, Table 6.4: a core's Fmax and a cluster's voltage/frequency points, (MHz, 0.25 mV). -/
def State.fmax (s : State) (core : Nat) : Nat := u16At (s.calSection 3) (8 + 2 * core)
def State.vfPoints (s : State) (c : Nat) : List (Nat × Nat) :=
  let b := s.calSection 3
  let n := byteAt b 4
  (List.range n).map fun i =>
    let w := u32At b (0x6C8 + 4 * (n * c + i))
    (w / 65536, w % 65536)

/-! ### Voltage and frequency, R151, R198 -/

/-- vf: the voltage at a frequency, interpolated, held at the end points, rounded up to 0.25 mV. -/
def vfAt : List (Nat × Nat) → Nat → Nat
  | [], _ => 0
  | [(_, v)], _ => v
  | (f1, v1) :: (f2, v2) :: rest, f =>
    if f ≤ f1 then v1
    else if f ≤ f2 then v1 + ceilDiv ((v2 - v1) * (f - f1)) (f2 - f1)
    else vfAt ((f2, v2) :: rest) f

/-- The highest frequency, up to the highest point's, whose vf does not exceed a voltage; 0 when none. -/
def maxFreq : List (Nat × Nat) → Nat → Nat
  | [], _ => 0
  | [(f, v)], w => if v ≤ w then f else 0
  | (f1, v1) :: (f2, v2) :: rest, w =>
    let above := maxFreq ((f2, v2) :: rest) w
    if above ≠ 0 then above
    else if w < v1 then 0
    else f1 + (w - v1) * (f2 - f1) / (v2 - v1)

/-! ### Rails -/

/-- First phase and number of phases of each rail, R53. -/
def firstPhase (k : Nat) : Nat := [0, 8, 16, 24, 32, 36, 40, 42].getD k 0
def phaseCount (k : Nat) : Nat := [8, 8, 8, 8, 4, 4, 2, 2].getD k 0
def phasesOf (k : Nat) : List Nat := (List.range (phaseCount k)).map (firstPhase k + ·)

/-- The rail of a phase. -/
def railOfPhase (p : Nat) : Nat :=
  if p < 32 then p / 8 else if p < 36 then 4 else if p < 40 then 5 else if p < 42 then 6 else 7

/-- The fewest present phases of each rail and the start order, Table 5.1. -/
def minPhases (k : Nat) : Nat := [6, 6, 6, 6, 3, 3, 1, 1].getD k 0
def startOrder : List Nat := [7, 4, 6, 5, 0, 1, 2, 3]

/-- RAIL.PHASE_I and PHASE_T of a phase. -/
def phaseStateF (p : Nat) : Field := F.railPhaseIState (railOfPhase p) (p - firstPhase (railOfPhase p))
def phaseCurrentF (p : Nat) : Field := F.railPhaseICurrent (railOfPhase p) (p - firstPhase (railOfPhase p))
def phaseTempF (p : Nat) : Field := F.railPhaseTTemp (railOfPhase p) (p - firstPhase (railOfPhase p))

/-- The state of a phase, Table 5.6. -/
def State.phaseState (s : State) (p : Nat) : Nat := s.getF (phaseStateF p)

/-- Whether a phase is enabled: ACTIVE or SENSE_EST. -/
def State.phaseOn (s : State) (p : Nat) : Bool := s.phaseState p == 2 || s.phaseState p == 4

/-- The enabled phases of a rail in ascending order, R140. -/
def State.enabledPhases (s : State) (k : Nat) : List Nat := (phasesOf k).filter s.phaseOn

/-- R_LL × current in 0.25 mV, before rounding, times 2,000. -/
def dropTimes2000 (rll amps : Nat) : Nat := rll * amps

/-- The headroom h: R_LL × ILIM rounded up to 0.25 mV, R151. -/
def headroom (rll ilim : Nat) : Nat := ceilDiv (rll * ilim) 2000

/-- h of a rail, from its values in force. -/
def State.railH (s : State) (k : Nat) : Nat :=
  headroom (s.appliedF (F.railLoadlineRll k)) (s.appliedF (F.railIlimLimit k))

/-- ILIM_EFF of R132, rounded down. -/
def ilimEff (limit ok est present : Nat) : Nat :=
  if present = 0 then 0 else limit * (2 * ok - est) / (2 * present)

/-! ### Combining requests, R29, R30, R179, R181 -/

/-- An override or preset of at most 32 slots. -/
def slots32 (n : Nat) : Nat := min 32 n

/-- The drag requests active for a core, with the codes of Table 6.2; a grant ceiling binds from the tick after its frame (R28,
R216). -/
def State.dragRequests (s : State) (n : Nat) : List (Nat × Nat) :=
  let c := s.cpa n
  [(1, if c.shoe = .clear then 32 else c.shoeReq),
   (2, slots32 (s.lateF (F.cpaGrantCeil n))),
   (3, c.ramp),
   (4, ((s.rail (railOf n)).pldrag).getD 32),
   (5, if s.isSet F.mbxBrakeStatActive then slots32 (s.appliedF F.mbxBrakeCfgSlots) else 32),
   (6, min (slots32 (s.getF (F.cpaDragOvrSlots n))) (slots32 (s.getF F.pwrOvrSlots)))]

/-- The least of some requests, with the code of the first that gives it; 32 and code 0 when none lies below 32. -/
def leastRequest : List (Nat × Nat) → Nat × Nat
  | [] => (0, 32)
  | (c, v) :: rest =>
    let r := leastRequest rest
    if v < 32 ∧ v ≤ r.2 then (c, v) else r

/-- The drag ceiling of a core and its source, R29, R179. -/
def State.ceiling (s : State) (n : Nat) : Nat := (leastRequest (s.dragRequests n)).2
def State.ceilSource (s : State) (n : Nat) : Nat := (leastRequest (s.dragRequests n)).1

/-- f_in: the cluster clock after PLL_DIV, in MHz. -/
def State.fIn (s : State) (c : Nat) : Nat :=
  let k := s.clc c
  (if k.onRef then 400 else k.pllFreq) / (k.div + 1)

/-- f_hard of R177, while the hard limit is active. -/
def State.fHard (s : State) (n : Nat) : Option Nat :=
  let c := s.cpa n
  if c.hard = .clear then none else some (s.fIn (clusterOf n) * c.keep / 16)

/-- CLC_C.THERM.LIMIT: the MDP's limit, or the lesser of it and f_hw while the hardware throttle is active, R266. -/
def State.thermLimit (s : State) (c : Nat) : Nat :=
  let m := s.getF (F.thmCltMdpLim c)
  if s.isSet (F.thmCltActive c) then min m (s.getF (F.thmCltFHw c)) else m

/-- The beat at which some µs from now have passed, R26. DEDUCED (log 83): a time that a rule gives as a limit counts in beats, and
has passed at the first beat that is not before its end. -/
def State.beatIn (s : State) (us : Nat) : Nat := (s.beat + beatsOf us (s.getF F.tbSyncFreqUsed)) % 2 ^ 48

/-- Whether a beat has come, R91. -/
def State.beatReached (s : State) (b : Nat) : Bool := !isAfter 48 b s.beat

/-- A re-characterisation holds the cluster of a core offline, R461. -/
def State.offline (s : State) (c : Nat) : Bool := s.isSet F.hlthTestActive && s.getF F.hlthTestCluster == c

/-- The thermal limit as the CPAs of the cluster see it: a limit written in a tick takes effect in the next, R182. -/
def State.thermSeen (s : State) (c : Nat) : Nat :=
  let m := s.lateF (F.thmCltMdpLim c)
  if s.lateF (F.thmCltActive c) != 0 then min m (s.lateF (F.thmCltFHw c)) else m

/-- f_eff of R181: the least of the frequency limits of R30; 0 on a cluster held offline (R461). -/
def State.fEff (s : State) (n : Nat) : Nat :=
  if s.offline (clusterOf n) then 0
  else
  let l := min (s.fIn (clusterOf n)) (min (s.fmax n) (s.thermSeen (clusterOf n)))
  match s.fHard n with
  | none => l
  | some f => min l f

/-- Some cluster-clock pulses offered to a core: the accumulator and CLK_EN of the last, R181. -/
def shapePulses (fEff fIn : Nat) : Nat → Nat × Bool → Nat × Bool
  | 0, a => a
  | n + 1, a => shapePulses fEff fIn n (if fIn ≤ a.1 + fEff then (a.1 + fEff - fIn, true) else (a.1 + fEff, false))

/-- The pulses of one period of 32 cluster-clock cycles, shaped by the CPA of a core. -/
def State.shapePeriod (s : State) (n : Nat) : State :=
  let r := shapePulses (s.fEff n) (s.fIn (clusterOf n)) 32 ((s.cpa n).acc, (s.cpa n).clkEn)
  s.setCpa n fun c => { c with acc := r.1, clkEn := r.2 }

/-- f_in of a cluster has changed: each CPA's accumulator is reduced modulo the new f_in, R181. -/
def State.reduceAcc (s : State) (c : Nat) : State :=
  s.forEach (coresOf c) fun s n => s.setCpa n fun v => { v with acc := v.acc % s.fIn c }

/-- Whether a subsystem (bit of GCTL.ENABLE) is active, R122. -/
def State.isActive (s : State) (bit : Nat) : Bool := s.boot.active.contains bit

/-! ### Domains, Table 11.1 -/

def domState (s : State) (d : Nat) : Nat := s.getF (F.domDStatusState d)
def State.domOn (s : State) (d : Nat) : Bool := domState s d == 2

/-- The parent of a domain. -/
def parentOf (d : Nat) : Option Nat :=
  if d < 72 then some (72 + d / 6)
  else if d < 84 then some (84 + (d - 72) / 2)
  else if d < 90 then some (90 + (d - 84))
  else none

/-- The children of a domain. -/
def childrenOf (d : Nat) : List Nat :=
  if d < 72 then []
  else if d < 84 then (List.range 6).map (6 * (d - 72) + ·)
  else if d < 90 then (List.range 2).map (72 + 2 * (d - 84) + ·)
  else [84 + (d - 90)]

/-- The rail that feeds a domain. -/
def railOfDomain (d : Nat) : Nat :=
  if d < 72 then d / 18 else if d < 84 then (d - 72) / 3 else if d < 90 then 4 else 7

/-- Whether the domain of a core, or of a cluster's fabric, is ON. -/
def State.coreOn (s : State) (n : Nat) : Bool := s.domOn (groupOf n)
def State.clusterOn (s : State) (c : Nat) : Bool := s.domOn (72 + c)

/-- Fields in a range of offsets returned to their reset values. -/
def State.clearRange (s : State) (lo hi : Nat) : State :=
  { s with fields := s.fields.filter fun p => !(decide (32 * lo ≤ p.1 ∧ p.1 < 32 * hi)) }

end Sys2Proof.Machine
end

