-- ==== Sys2Proof/Machine/Fleet.lean ====
section
/-! DEFINITION. Chapter 14, what hardware events in other chapters lead to: status bits latched by the PMBus target, and the
fleet bits of R408. -/
namespace Sys2Proof.Machine

/-- The part of the block outside the AON domain, with the mailbox part and the PMBus target, is powered down: PARKED, or from a
wake reset until boot step 1
begins, R382, R404. -/
def State.mailboxDown (s : State) : Bool :=
  (s.getF F.gctlModeCurrent == 0 && s.isSet F.domStatusParked) || (s.boot.rom && s.boot.kind == .wake && s.boot.next == 1)

/-- ALERT_N asserted, R408; while the target is powered down it stays released, R404. -/
def State.alertOn (s : State) : State :=
  if s.mailboxDown then s else { s with pins := { s.pins with alert := true } }

/-- Status bits latch in a register of a PMBus page; a bit that latches asserts ALERT_N, R405, R408. -/
def State.latchPm (s : State) (page reg bits : Nat) : State :=
  let old := Store.read (fun _ => 0) s.pmbus.latched (4 * page + reg)
  let new := old ||| bits
  if new = old then s
  else
    ({ s with
      pmbus := { s.pmbus with latched := Store.write (fun _ => 0) s.pmbus.latched (4 * page + reg) new } } : State).alertOn

/-- OFF (bit 0) or POWER_GOOD# (bit 1) of a page latches in STATUS_WORD, R405. -/
def State.latchWord (s : State) (page bits : Nat) : State := s.latchPm (9 + page / 4) (page % 4) bits

/-- The fleet bits of MBX.FLEET, Table 14.10. -/
def State.fleetBits (s : State) : Nat :=
  s.getF F.gctlStatusHalt * 128 + flag ((List.range 44).any fun p => s.phaseState p == 5) * 64
    + s.getF F.gctlStatusStrapFault * 32 + s.getF F.mbxHostAbsent * 16 + s.getF F.gctlStatusTripPending * 8
    + s.getF F.mbxFleetHealth * 4 + s.getF F.modelStatusFlowLost * 2 + s.getF F.modelStatusCoolDeg

/-- The fleet bits have taken new levels: masked bits that rose latch for the fleet manager, and the MGP notifies, R408. -/
def State.settleFleet (s : State) : State :=
  let now := s.fleetBits
  let was := s.mailbox.fleetSeen
  if now = was then s
  else
    let s := { s with mailbox := { s.mailbox with fleetSeen := now } }
    let s := s.latchPm 8 3 (now &&& (was ^^^ 255) &&& s.getF F.mbxFleetMaskMask)
    s.notify 3 0xF2 [now, now ^^^ was]

/-! ### The brake, R402 -/

/-- The brake sources are evaluated: from the release of boot step 10 after a cold or wake reset until PWR_OFF_REQ, except
while PARKED. -/
def State.brakeRuns (s : State) : Bool :=
  !(s.boot.rom && s.boot.kind != .warm) && !s.pins.pwrOff && !s.isSet F.domStatusParked

/-- MBX.BRAKE_STAT[31:28]. -/
def State.brakeBits (s : State) : Nat :=
  8 * s.getF F.mbxBrakeStatActive + 4 * s.getF F.mbxBrakeStatDoorbell + 2 * s.getF F.mbxBrakeStatPin
    + s.getF F.mbxBrakeStatPmbus

/-- BRAKE_N takes its recognised level, and the preset follows the sources: assertions counted and stamped, trace
point 10 with the bits as they were before when they change. -/
def State.settleBrake (s : State) (was : Nat) : State :=
  let runs := s.brakeRuns
  let s := s.when runs (·.flagF F.mbxBrakeStatPin s.pins.brakeLow)
  let on := runs && s.brakeBits % 8 != 0
  let rises := on && !s.isSet F.mbxBrakeStatActive
  let s := s.flagF F.mbxBrakeStatActive on
  let s := s.when rises fun s => (s.incF F.mbxBrakeStatAsserts).setF F.mbxBrakeTimeBeat s.beat32
  s.when (s.brakeBits != was) fun s => s.trace 0 10 s.brakeBits 0

end Sys2Proof.Machine
end

