-- ==== Sys2Proof/Machine/Flash.lean ====
section
/-! DEFINITION. The SPI NOR flash: reading, erasing, programming; CRC-32; the copies and trailers of R99 to R103; the
event-record region of R426 to R428. -/
namespace Sys2Proof.Machine

/-- A byte of flash; an erased byte reads 0xFF. -/
def State.flashByte (s : State) (a : Nat) : Byte := Store.read (fun _ => 0xFF) s.flash.bytes a

/-- Bytes of flash. -/
def State.flashRead (s : State) (off len : Nat) : List Byte := (List.range len).map fun i => s.flashByte (off + i)

/-- A 32-bit word of flash. -/
def State.flashWord (s : State) (off : Nat) : Nat := leBytes (s.flashRead off 4)

/-- One byte programmed: programming only clears bits of NOR flash. -/
def State.programByte (s : State) (a : Nat) (v : Byte) : State :=
  { s with flash := { s.flash with
    bytes := Store.write (fun _ => 0xFF) s.flash.bytes a (s.flashByte a &&& v) } }

/-- Bytes programmed from an offset. -/
def State.program (s : State) (off : Nat) (v : List Byte) : State :=
  s.forEach v.zipIdx fun s bi => s.programByte (off + bi.2) bi.1

/-- A range erased to 0xFF. -/
def State.erase (s : State) (off len : Nat) : State :=
  { s with flash := { s.flash with
    bytes := s.flash.bytes.filter fun p => !(decide (off ≤ p.1 ∧ p.1 < off + len)) } }

/-- One bit of the CRC-32 of IEEE 802.3, reflected. -/
def crcBit (c : Nat) : Nat := if c % 2 = 1 then (c / 2) ^^^ 0xEDB88320 else c / 2

/-- One byte of the CRC-32. -/
def crcByte (c : Nat) (b : Byte) : Nat := (List.range 8).foldl (fun c _ => crcBit c) (c ^^^ b.toNat)

/-- CRC-32 (IEEE 802.3) of a byte string. -/
def crc32 (b : List Byte) : Nat := b.foldl crcByte 0xFFFFFFFF ^^^ 0xFFFFFFFF

/-! ### Copies and trailers, R99 to R103 -/

/-- A copy in flash: where it begins and how large it is; its trailer is its last 4 KiB sector. -/
structure Copy where
  off  : Nat
  size : Nat
  deriving DecidableEq, Repr

def Copy.trailer (c : Copy) : Nat := c.off + c.size - 4096

/-- A word of a trailer: the trailer carries its own length, and what lies beyond it is not of the trailer and reads 0, R16. -/
def State.trailerWord (s : State) (c : Copy) (off : Nat) : Nat :=
  if off + 4 ≤ s.flashWord (c.trailer + 4) % 65536 then s.flashWord (c.trailer + off) else 0

/-- Trailer fields, Table 4.3. -/
def State.trailerSeq (s : State) (c : Copy) : Nat := s.trailerWord c 8
def State.trailerLen (s : State) (c : Copy) : Nat := s.trailerWord c 0xC
def State.trailerSlot (s : State) (c : Copy) : Nat := s.trailerWord c 0x10 % 4

/-- The body of a copy, which ends before its trailer sector, R99. -/
def State.copyBody (s : State) (c : Copy) : List Byte := s.flashRead c.off (min (s.trailerLen c) (c.size - 4096))

/-- MAGIC and FORMAT of a trailer, R99; a copy too small for one has none, and nothing is read (R98). -/
def State.trailerHead (s : State) (c : Copy) : Bool :=
  decide (4096 ≤ c.size) && s.flashWord c.trailer == 0x52545A43 && s.flashWord (c.trailer + 4) / 2 ^ 24 == 2

/-- A copy is valid: MAGIC, FORMAT, the body ends before the trailer, and the CRC matches, R99. -/
def State.copyValid (s : State) (c : Copy) : Bool :=
  s.trailerHead c && decide (s.trailerLen c ≤ c.size - 4096)
    && s.trailerWord c 0xFC == crc32 (s.copyBody c ++ s.flashRead c.trailer 0xFC)

/-- Copy `x` is newer than copy `y`, R101. -/
def newer (x y : Nat) : Bool := isAfter 32 x y

/-- The order in which two copies are tried, R101: the newer first; the first when neither is newer. -/
def State.newerFirst (s : State) (a b : Copy) : List (Nat × Copy) :=
  if s.trailerHead a && s.trailerHead b then
    (if newer (s.trailerSeq b) (s.trailerSeq a) then [(1, b), (0, a)] else [(0, a), (1, b)])
  else if s.trailerHead b then [(1, b), (0, a)] else [(0, a), (1, b)]

/-- A body's signature under its own key, R102, apart from revocation. -/
def State.signatureOk (s : State) (c : Copy) : Bool :=
  let key := s.flashRead (c.trailer + 0x20) 100
  Config.sha384 key == Config.romKeyHash (s.trailerSlot c)
    && Config.ecdsaP384Valid key (Config.sha384 (s.copyBody c)) (s.flashRead (c.trailer + 0x84) 96)

/-- The six copies of the layout in use. -/
def State.calCopy (s : State) (i : Nat) : Copy :=
  ⟨s.boot.layout.calOff + i * s.boot.layout.calSize, s.boot.layout.calSize⟩
def State.bankCopy (s : State) (i : Nat) : Copy :=
  ⟨if i = 0 then s.boot.layout.bankA else s.boot.layout.bankB, s.boot.layout.bankSize⟩
def State.imageCopy (s : State) (i : Nat) : Copy :=
  ⟨if i = 0 then s.boot.layout.imgA else s.boot.layout.imgB, s.boot.layout.imgSize⟩

/-- A table whose header of `n` bytes begins with its own 16-bit length: header bytes beyond that length read 0, R16. -/
def ownHeader (n : Nat) (b : List Byte) : List Byte :=
  let len := max 4 (u16At b 0)
  if n ≤ len then b else (b.take len ++ List.replicate (n - len) 0).take n ++ b.drop n

/-- The REVOKE mask of a bank, Table 4.4. -/
def State.bankRevoke (s : State) (i : Nat) : Nat := u32At (ownHeader 0x40 (s.flashRead (s.bankCopy i).off 0x40)) 0x38 % 16

/-- Whether a bank is valid and signed under a slot that its own REVOKE does not name, R103. -/
def State.bankSigned (s : State) (i : Nat) : Bool :=
  let c := s.bankCopy i
  s.copyValid c && s.signatureOk c && !bitOf (s.bankRevoke i) (s.trailerSlot c) && s.bankRevoke i != 15

/-- REVOKED: the OR of the masks of the banks that count, R103. -/
def State.revoked (s : State) : Nat :=
  (if s.bankSigned 0 then s.bankRevoke 0 else 0) ||| (if s.bankSigned 1 then s.bankRevoke 1 else 0)

/-- A copy's trailer as the MGP writes it, R100: sequence number, signed fields (Table 4.3 bytes 0x010 to 0x0E3), body. -/
def trailerBytes (seq : Nat) (fields body : List Byte) : List Byte :=
  let head := toLeBytes 4 0x52545A43 ++ toLeBytes 4 0x02000100 ++ toLeBytes 4 seq ++ toLeBytes 4 body.length
    ++ (fields ++ List.replicate 212 0).take 212 ++ List.replicate 24 0
  head ++ toLeBytes 4 (crc32 (body ++ head))

/-! ### The layout and the calibration that the flash holds, R97, R101, R110 -/

/-- A boot-header copy with a good MAGIC and CRC, Table 4.2. -/
def headerSound (h : List Byte) : Bool := u32At h 0 == 0x48425A43 && u32At h 0x3C == crc32 (h.take 0x3C)

/-- A boot header as far as its own length reaches, R16. -/
def bootFields (h : List Byte) : List Byte := h.take (max 8 (u16At h 4))

/-- The layout of a header, Table 4.2. -/
def layoutOf (h : List Byte) : Layout :=
  let h := bootFields h
  { calOff := u32At h 0x0C, calSize := u32At h 0x10, bankA := u32At h 0x14, bankB := u32At h 0x18, bankSize := u32At h 0x1C
    imgA := u32At h 0x20, imgB := u32At h 0x24, imgSize := u32At h 0x28, evtOff := u32At h 0x2C, evtSize := u32At h 0x30 }

/-- The sections of a calibration body: tag and bytes with the section's header; a length below 4 ends the sequence. -/
def calSections : Nat → List Byte → List (Nat × List Byte)
  | 0, _ => []
  | n + 1, b =>
    let len := u16At b 2
    if b.length < 4 ∨ len < 4 ∨ b.length < len then [] else (u16At b 0, b.take len) :: calSections n (b.drop len)

/-- The sections of a calibration copy. -/
def State.sectionsAt (s : State) (c : Copy) : List (Nat × List Byte) :=
  let b := s.copyBody c
  calSections (b.length / 4) b

/-- A calibration copy that boot may use: valid, tags 1 to 3 present, PKG and DIES as R110 states. -/
def State.calUsable (s : State) (c : Copy) : Bool :=
  s.copyValid c && (
    let l := s.sectionsAt c
    let one := ((l.find? (·.1 == 1)).map (·.2)).getD []
    [1, 2, 3].all (fun t => l.any (·.1 == t))
      && ((byteAt one 4 % 4 == 0 && byteAt one 5 == 1) || (byteAt one 4 % 4 == 1 && byteAt one 5 == 4)))

/-- Whether the package is an X4, R379: as the calibration in use says; before boot step 3 has read it, as the copy says that the step
will choose. -/
def State.packageX4 (s : State) : Bool :=
  if s.hasTag 1 then s.isX4
  else match [s.flashRead 0 64, s.flashRead 4096 64].find? headerSound with
    | none => false
    | some h =>
      let t : State := { s with boot := { s.boot with layout := layoutOf h } }
      match (t.newerFirst (t.calCopy 0) (t.calCopy 1)).find? fun c => t.calUsable c.2 with
      | none => false
      | some c => byteAt ((((t.sectionsAt c.2).find? (·.1 == 1)).map (·.2)).getD []) 4 % 4 == 1

/-! ### The event-record region -/

/-- Slots of 64 bytes in the region, R426. -/
def eventSlots : Nat := 4096

def State.slotBytes (s : State) (slot : Nat) : List Byte := s.flashRead (s.boot.layout.evtOff + 64 * slot) 64

/-- A slot is written when it is not all 0xFF, R428. -/
def State.slotErased (s : State) (slot : Nat) : Bool :=
  s.flash.bytes.all fun p =>
    !(decide (s.boot.layout.evtOff + 64 * slot ≤ p.1 ∧ p.1 < s.boot.layout.evtOff + 64 * slot + 64))

/-- The first erased slot at or after a slot, within a number of slots. -/
def State.erasedFrom (s : State) : Nat → Nat → Option Nat
  | 0, _ => none
  | n + 1, k => if s.slotErased (k % eventSlots) then some (k % eventSlots) else s.erasedFrom n (k + 1)

/-- A slot holds a record: MAGIC and CRC valid, R428. -/
def recordOk (magic : Nat) (b : List Byte) : Bool := u32At b 0 == magic && u32At b 0x38 == crc32 (b.take 0x38)

/-- A slot holds a trip record whose ACK word is not zero, R120. -/
def State.slotPending (s : State) (slot : Nat) : Bool :=
  !s.slotErased slot && (let b := s.slotBytes slot; recordOk 0x50455A43 b && u32At b 0x3C != 0)

/-- Slots that are not erased, in the order of R428: after the gap of wholly erased sectors. -/
def State.sectorErased (s : State) (sec : Nat) : Bool :=
  s.flash.bytes.all fun p =>
    !(decide (s.boot.layout.evtOff + 4096 * sec ≤ p.1 ∧ p.1 < s.boot.layout.evtOff + 4096 * sec + 4096))

/-- The first sector after the gap: an unerased sector that follows an erased one; sector 0 when there is no gap. -/
def State.firstSector (s : State) : Nat :=
  ((List.range 64).find? fun i => !s.sectorErased i && s.sectorErased ((i + 63) % 64)).getD 0

/-- All slots in the order of R428, oldest position first. -/
def State.slotOrder (s : State) : List Nat := (List.range eventSlots).map fun i => (64 * s.firstSector + i) % eventSlots

/-- The records of the region, oldest first. -/
def State.recordSlots (s : State) : List Nat :=
  s.slotOrder.filter fun k => !s.slotErased k && (let b := s.slotBytes k; recordOk 0x50455A43 b || recordOk 0x4C455A43 b)

/-- The pending trip records, oldest first. -/
def State.pendingSlots (s : State) : List Nat := s.slotOrder.filter s.slotPending

/-- EVT_NEXT moved to the slot after one just used, R426. -/
def State.evtAdvance (s : State) (slot : Nat) : State :=
  s.setF F.logEvtNextOffset (64 * ((slot + 1) % eventSlots))

end Sys2Proof.Machine
end

