-- ==== Sys2Proof/Machine/FlashWork.lean ====
section
/-! DEFINITION. Flash work of the firmware: jobs begun and ended (R72, R94), what the MGP mirrors (R426 to R428), what an
update programs (R416 to R419), and how a reset or a trip breaks all of it off (R94, R272). -/
namespace Sys2Proof.Machine

/-! ### Device commands and jobs -/

/-- Where a device command works. -/
def DeviceCmd.off : DeviceCmd → Nat
  | .erase off _ => off
  | .program off _ => off

/-- A device command carried out. -/
def State.runCmd (s : State) (c : DeviceCmd) : State :=
  match c with
  | .erase off len => s.erase off len
  | .program off data => s.program off data

/-- The device commands still to be carried out. -/
def State.setWork (s : State) (l : List (FlashJob × DeviceCmd)) : State :=
  { s with flash := { s.flash with work := l, busy := l.head?.map fun w => w.2.off } }

/-- Firmware begins some device commands of a job. -/
def State.beginWork (s : State) (job : FlashJob) (l : List DeviceCmd) : State :=
  s.setWork (s.flash.work ++ l.map fun c => (job, c))

/-- The device commands of a job. -/
def State.jobCmds (s : State) (job : FlashJob) : List DeviceCmd := (s.flash.work.filter (·.1 == job)).map (·.2)

/-- A job is no longer carried on. -/
def State.dropJob (s : State) (job : FlashJob) : State := s.setWork (s.flash.work.filter (·.1 != job))

/-- A job ends: all its device commands have been carried out. -/
def State.endJob (s : State) (job : FlashJob) : State := (s.forEach (s.jobCmds job) State.runCmd).dropJob job

/-- A flash operation of firmware: trace point 178, with its kind (0 read, 1 program, 2 erase) and its offset. -/
def State.flashTrace (s : State) (kind off : Nat) : State := s.trace 3 178 kind off

/-- A device command of firmware begun: trace point 178. -/
def State.traceCmd (s : State) (c : DeviceCmd) : State :=
  s.flashTrace (match c with
    | .erase _ _ => 2
    | .program _ _ => 1) c.off

/-- A byte that an aborted command leaves between two values: each bit that differs, `high` has it set, is freely one or the
other. -/
def tornByte (high low : Byte) (free : Nat) : Byte := low ||| (high &&& BitVec.ofNat 8 free)

/-- A device command aborted by the software reset of R272: what it leaves where it worked is free between the old contents and
those it was to leave (log 7). -/
def State.tearCmd (s : State) (c : DeviceCmd) : State :=
  let seed := s.free
  match c with
  | .erase off len =>
    let bytes := (s.flash.bytes.map fun p =>
      if off ≤ p.1 ∧ p.1 < off + len then (p.1, tornByte 0xFF p.2 (Config.freeValue (seed + (p.1 - off)))) else p).filter
        fun p => p.2 != 0xFF
    { s with free := seed + len, flash := { s.flash with bytes := bytes } }
  | .program off data =>
    let s := s.forEach data.zipIdx fun s bi =>
      s.programByte (off + bi.2) (tornByte 0xFF bi.1 (Config.freeValue (seed + bi.2)))
    { s with free := seed + data.length }

/-- The copies of Table 4.1 that a device command works in: the two calibration copies, banks and images. -/
def State.copiesAt (s : State) (off : Nat) : List Copy :=
  ((List.range 2).flatMap fun i => [s.calCopy i, s.bankCopy i, s.imageCopy i]).filter fun c =>
    decide (c.off ≤ off ∧ off < c.off + c.size)

/-- A copy whose write was aborted fails validation, R272: where what is left could still be read as a valid copy, its trailer no
longer carries MAGIC (log 7). -/
def State.spoilCopy (s : State) (c : Copy) : State := s.when (s.copyValid c) fun s => s.erase c.trailer 1

/-- A device command aborted: what it leaves where it worked, and no valid copy, R272. -/
def State.abortCmd (s : State) (c : DeviceCmd) : State := (s.tearCmd c).forEach (s.copiesAt c.off) State.spoilCopy

/-- Device commands broken off at one of them: freely many have been carried out, and the next one is aborted (log 7). -/
def State.breakOff (s : State) (l : List DeviceCmd) : State :=
  if l.isEmpty then s
  else
    let d := s.drawFree l.length
    (d.2.forEach (l.take d.1) State.runCmd).forEach ((l.drop d.1).take 1) State.abortCmd

/-- A job ends at one of its device commands. -/
def State.cutJob (s : State) (job : FlashJob) : State := (s.breakOff (s.jobCmds job)).dropJob job

/-- Device commands carried out in order, trace point 178 of each. One that is to fail is one of them, freely chosen; it leaves what
an aborted one leaves, and none after it is begun. The number carried out. -/
def State.tryCmds (s : State) (ok : Bool) (l : List DeviceCmd) : State × Nat :=
  if ok then (s.forEach l fun s c => (s.traceCmd c).runCmd c, l.length)
  else
    let d := s.drawFree (max 1 l.length)
    let s := d.2.forEach (l.take d.1) fun s c => (s.traceCmd c).runCmd c
    (s.forEach ((l.drop d.1).take 1) fun s c => (s.traceCmd c).tearCmd c, d.1)

/-! ### Mirroring, R426 to R428 -/

/-- The bytes of a mirrored record, Table 15.10. -/
def mirrorBytes (r : LogRec) : List Byte :=
  let h := toLeBytes 4 0x4C455A43 ++ toLeBytes 4 0x02000040 ++ toLeBytes 4 r.seq ++ toLeBytes 4 r.beatLo
    ++ toLeBytes 4 r.beatHi ++ toLeBytes 4 r.origin ++ ((List.range 4).map fun i => toLeBytes 4 (r.data.getD i 0)).flatten
    ++ List.replicate 16 0
  h ++ toLeBytes 4 (crc32 h) ++ toLeBytes 4 0xFFFFFFFF

/-- The record of a sequence number in the ring. -/
def State.logRecord (s : State) (seq : Nat) : LogRec := Store.read (fun _ => {}) s.logRam.ring (s.logSlot seq)

/-- Whether a record of that number is present, R424. -/
def State.logPresent (s : State) (seq : Nat) : Bool :=
  let d := (s.getF F.logHeadSeq + (2 ^ 32 - seq)) % 2 ^ 32
  decide (1 ≤ d ∧ d ≤ s.logCount)

/-- A record to be mirrored: its severity is at or above MIRROR_SEV, and it is not an FMAX_BEGIN record, which is
programmed when it is written (R461). -/
def State.mirrors (s : State) (r : LogRec) : Bool :=
  decide (s.getF F.logCfgMirrorSev ≤ bitsOf r.origin 24 4) && r.origin % 65536 != 0x101

/-- The next record to mirror from a sequence number on. -/
def State.nextMirror (s : State) : Nat → Nat → Option LogRec
  | 0, _ => none
  | n + 1, seq =>
    let r := s.logRecord seq
    if s.logPresent seq && r.seq == seq && r.data != [] && s.mirrors r then some r else s.nextMirror n ((seq + 1) % 2 ^ 32)

/-- Where the search for the next record begins: the record after the last one mirrored, or the oldest. -/
def State.mirrorFrom (s : State) : Nat :=
  if s.logPresent s.logRam.mirrored then s.logRam.mirrored else s.getF F.logTailSeq

/-- A pending trip record lies in a sector. -/
def State.sectorPending (s : State) (sec : Nat) : Bool := (List.range 64).any fun i => s.slotPending (64 * sec + i)

/-- The sectors that the MGP erases before it mirrors, and the write sector W after that: 0 and 1 where no sector is wholly erased
(R428), the two that follow W where they are not erased (R426), and W + 3 where EVT_NEXT has left W (R427). -/
def State.sectorsOwed (s : State) : List Nat × Nat :=
  let opens := !(List.range 64).any s.sectorErased
  let w := if opens then 63 else s.logRam.sector
  let next := if opens then 0 else s.getF F.logEvtNextOffset / 4096
  let l := if opens then [0, 1] else [(w + 1) % 64, (w + 2) % 64].filter fun i => !s.sectorErased i
  if next = w then (l, w) else (l ++ [(w + 3) % 64], (w + 1) % 64)

/-- The slot that the next mirrored record takes; none while EVT_NEXT names no erased slot. -/
def State.mirrorSlot (s : State) : Option Nat :=
  let slot := if (List.range 64).any s.sectorErased then s.getF F.logEvtNextOffset / 64 else 0
  if s.isSet F.logEvtNextValid || s.sectorsOwed.1.contains (slot / 64) then some slot else none

/-- A sector of the region erased. -/
def State.eraseOf (s : State) (sec : Nat) : DeviceCmd := .erase (s.boot.layout.evtOff + 4096 * sec) 4096

/-- The device commands that mirror a record into a slot: the sectors owed, the program, and, where the slot is the last of its
sector, the erase that the full sector then owes (R427). -/
def State.mirrorCmds (s : State) (slot : Nat) (r : LogRec) : List DeviceCmd :=
  let w := s.sectorsOwed.2
  s.sectorsOwed.1.map s.eraseOf ++ [.program (s.boot.layout.evtOff + 64 * slot) (mirrorBytes r)]
    ++ (if slot % 64 = 63 ∧ !s.sectorPending ((w + 3) % 64) then [s.eraseOf ((w + 3) % 64)] else [])

/-- Beats of a second at the frequency in use. -/
def State.secondBeats (s : State) : Nat := 1000 * s.getF F.tbSyncFreqUsed

/-- Records mirrored in the second in progress, R427. -/
def State.inSecond (s : State) : Nat :=
  if s.secondBeats ≤ (s.beat + (2 ^ 48 - s.logRam.second)) % 2 ^ 48 then 0 else s.logRam.inSecond

/-- A pending trip record blocks an erase that is owed, so nothing is mirrored, R427. -/
def State.mirrorBlocked (s : State) : Bool := s.sectorsOwed.1.any s.sectorPending

/-- The record that would be mirrored next. -/
def State.mirrorNext (s : State) : Option LogRec := s.nextMirror (min logCapacity s.logCount) s.mirrorFrom

/-! ### What an update programs, R416 to R419 -/

/-- Word `i` of a request, 0 beyond its length. -/
def Request.word (r : Request) (i : Nat) : Nat := r.words.getD i 0
def Request.opcode (r : Request) : Nat := bitsOf (r.word 0) 16 8

/-- The active bank, GCTL.STATUS.BANK. -/
def State.activeBank (s : State) : Nat := s.getF F.gctlStatusBank

/-- The bank an update writes, and the image slot it writes, R416. -/
def State.otherBank (s : State) : Nat := 1 - s.activeBank
def State.otherSlot (s : State) : Nat := 1 - s.getF F.gctlStatusImage

/-- The state of the update, Table 15.6. -/
def State.updState (s : State) : Nat := s.getF F.fwUpdState

/-- A target of the update: 0 bank body, 1 image body, 2 bank trailer fields, 3 image trailer fields. -/
def State.target (s : State) (i : Nat) : Target := s.update.targets.getD i {}

/-- The copies that the update writes, R416. -/
def State.newBank (s : State) : Copy := s.bankCopy s.otherBank
def State.newImage (s : State) : Copy := s.imageCopy s.otherSlot

/-- An update message of another session than the owner's is not permitted, R416. -/
def State.ownsUpd (s : State) (r : Request) : Bool := s.updState == 0 || s.getF F.fwUpdSession == r.channel

/-- The data bytes of an UPDATE_WRITE. A message of eight words, the fewest there can be, may hold fewer data words than
it has room for: what the target still expects (log 63). -/
def writeData (r : Request) (left : Nat) : List Byte :=
  let b := ((r.words.drop 3).map (toLeBytes 4)).flatten
  if r.words.length ≤ 8 then b.take left else b

/-- Starts of 64 KiB blocks of a body within a run of bytes. -/
def blockStarts (off n : Nat) : List Nat :=
  let first := ceilDiv off 65536
  ((List.range 3).map fun i => 65536 * (first + i)).filter fun b => decide (b < off + n)

/-- A body's bytes taken: blocks erased before the first write into them, whole pages programmed, and the rest when the
target is complete. What is to be erased, what is to be programmed and from where, and what is kept back. -/
def Target.take_ (t : Target) (d : List Byte) : List Nat × List Byte × Nat × List Byte :=
  let buf := t.buf ++ d
  let n := if t.got + d.length = t.len then buf.length else buf.length / 256 * 256
  (blockStarts t.got d.length, buf.take n, t.got - t.buf.length, buf.drop n)

/-- The bodies as they stand in flash, and the trailer fields received. -/
def State.newBody (s : State) (i : Nat) : List Byte :=
  s.flashRead (if i = 0 then s.newBank.off else s.newImage.off) (s.target i).len
def State.newFields (s : State) (i : Nat) : List Byte := (s.target (2 + i)).buf

/-- Whether an image is part of the update. -/
def State.hasImage (s : State) : Bool := (s.target 1).len != 0

/-- Every target has all its bytes. -/
def State.complete4 (s : State) : Bool := (List.range 4).all fun i => (s.target i).got == (s.target i).len

/-- An UPDATE_WRITE that is taken: in OPEN, at the next expected offset of its target, and within its length, Table 15.6. -/
def State.writeTaken (s : State) (r : Request) : Bool :=
  let t := s.target (r.word 2 / 2 ^ 30)
  let d := writeData r (t.len - t.got)
  s.updState == 1 && r.word 2 % 2 ^ 24 == t.got && !d.isEmpty && decide (t.got + d.length ≤ t.len)

/-- The device commands of an UPDATE_WRITE, R417: trailer fields have none. -/
def State.writeCmds (s : State) (r : Request) : List DeviceCmd :=
  let i := r.word 2 / 2 ^ 30
  let t := s.target i
  let w := t.take_ (writeData r (t.len - t.got))
  let base := if i = 0 then s.newBank.off else s.newImage.off
  if 2 ≤ i then []
  else w.1.map (fun b => .erase (base + b) 65536) ++ (if w.2.1.isEmpty then [] else [.program (base + w.2.2.1) w.2.1])

/-- The program of a trailer from the fields received, R100. -/
def State.trailerCmd (s : State) (i seq : Nat) : DeviceCmd :=
  let c := if i = 0 then s.newBank else s.newImage
  .program c.trailer (trailerBytes seq (s.newFields i) (s.newBody i))

/-- The device command that acknowledges a trip record, R121. -/
def State.ackCmd (s : State) (slot : Nat) : DeviceCmd := .program (s.boot.layout.evtOff + 64 * slot + 0x3C) (toLeBytes 4 0)

/-- The program of a calibration copy's trailer, its commit point, R100. -/
def State.copyTrailerCmd (s : State) (c : CalCopy) : DeviceCmd :=
  .program (s.calCopy c.slot).trailer (trailerBytes ((s.boot.calSeq + 1) % 2 ^ 32) [] ((c.sections.map (·.2)).flatten))

/-! ### Broken off, R94, R272 -/

/-- The device commands of the request in hand. -/
def State.requestCmds (s : State) : List DeviceCmd :=
  match s.mailbox.request with
  | none => []
  | some r =>
    if r.opcode = 0x14 then s.pendingSlots.map s.ackCmd
    else if !s.ownsUpd r then []
    else if r.opcode = 0x51 then (if s.writeTaken r then s.writeCmds r else [])
    else if r.opcode = 0x52 ∧ s.updState = 1 ∧ s.complete4 ∧ s.hasImage then [s.trailerCmd 1 (s.drawFree (2 ^ 32)).1]
    else []

/-- What the MGP may be at on the flash port with no row begun for it: the request in hand, the commit of an update, the mirror. -/
def State.maybeWork (s : State) : List (List DeviceCmd) :=
  if !s.running 2 || s.flash.tripOwned then []
  else
    let mirror := match s.mirrorNext, s.mirrorSlot with
      | some r, some slot => if s.mirrorBlocked || decide (16 ≤ s.inSecond) then [] else s.mirrorCmds slot r
      | _, _ => []
    [s.requestCmds, if s.updState = 2 then [s.trailerCmd 0 ((s.getF F.gctlBankSeqSeq + 1) % 2 ^ 32)] else [], mirror].filter
      fun l => !l.isEmpty

/-- The device commands in progress: those begun, and the trailer of a copy that follows its body; else freely none, or one of the
works the MGP may be at, the MGP serving one operation at a time (R432, log 7). -/
def State.workNow (s : State) : List DeviceCmd × State :=
  if !s.flash.work.isEmpty then
    (s.flash.work.map (·.2) ++ (if s.flash.work.any (·.1 == .copy) then s.health.copy.toList.map s.copyTrailerCmd else []), s)
  else
    let l := s.maybeWork
    if l.isEmpty then ([], s)
    else
      let d := s.drawFree (l.length + 1)
      (l.getD d.1 [], d.2)

/-- Firmware's flash work stops at the end of the present device command, R94: of those in progress, freely many, one at least, have
been carried out (log 7). -/
def State.stopWork (s : State) : State :=
  let w := s.workNow
  if w.1.isEmpty then w.2
  else
    let d := w.2.drawFree w.1.length
    (d.2.forEach (w.1.take (d.1 + 1)) State.runCmd).setWork []

/-- The software reset of R272 aborts firmware's flash work. -/
def State.abortWork (s : State) (l : List DeviceCmd) : State := (s.breakOff l).setWork []

end Sys2Proof.Machine
end

