-- ==== Sys2Proof/Machine/Trip.lean ====
section
/-! DEFINITION. The AON trip path of R270 to R273: the trip record, the flash port taken, PWR_OFF_REQ. -/
namespace Sys2Proof.Machine

/-- What a trip record names: KIND, SRC_TYPE, SRC_INDEX, READING, LIMIT and FLAGS[4], Table 9.6. -/
structure TripCause where
  kind    : Nat
  srcType : Nat
  index   : Nat
  reading : Nat
  limit   : Nat
  lastPhase : Bool := false
  deriving DecidableEq, Repr

/-- The first 56 bytes of a trip record, Table 9.6. -/
def State.recordHead (s : State) (c : TripCause) : List Byte :=
  toLeBytes 4 0x50455A43 ++ toLeBytes 4 0x02000040 ++ toLeBytes 2 c.kind ++ toLeBytes 1 c.srcType
    ++ toLeBytes 1 c.index ++ toLeBytes 2 c.reading ++ toLeBytes 2 c.limit ++ toLeBytes 6 s.beat
    ++ toLeBytes 2 (s.getF F.tbEraCount)
    ++ toLeBytes 1 (s.getF F.idConfigDieId * 64 + s.getF F.idConfigLeader * 32 + s.getF F.gctlModeCurrent)
    ++ toLeBytes 1 (s.getF F.gctlProfileActive)
    ++ toLeBytes 2 (s.getF F.thmTripFlashAbort + 2 * s.getF F.thmTripRelocated + 4 * s.getF F.gctlStatusHalt
        + 8 * s.getF F.tbStatusSubst + 16 * flag c.lastPhase)
    ++ ((List.range 12).map fun q => toLeBytes 2 (s.getF (F.thmPairPProt q))).flatten
    ++ toLeBytes 2 (s.getF (F.thmNtcRReading 0)) ++ toLeBytes 2 (s.getF (F.thmNtcRReading 1))

/-- A trip record from its first 56 bytes: FLAGS[1] set when the slot was relocated, the CRC, and ACK as written. -/
def tripRecord (head : List Byte) (relocated : Bool) : List Byte :=
  let h := if relocated then patchBytes head 0x1A [BitVec.ofNat 8 (setBit (byteAt head 0x1A) 1)] else head
  h ++ toLeBytes 4 (crc32 h) ++ toLeBytes 4 0xFFFFFFFF

/-- FLAGS[3] of a record whose program is about to start: SYNC_IN is lost, at the trip or since (Table 9.7). -/
def State.lostFlag (s : State) (head : List Byte) : List Byte :=
  if s.isSet F.tbStatusSubst then patchBytes head 0x1A [BitVec.ofNat 8 (setBit (byteAt head 0x1A) 3)] else head

/-- The trip path looks for an erased slot, from a given one, and starts its page program, R272. -/
def State.tripProgram (s : State) (start : Nat) : State :=
  match s.erasedFrom eventSlots start with
  | none => { s.setF F.thmStatusRec 3 with trip := { s.trip with stage := .failed } }
  | some slot =>
    let s := s.when (slot != start % eventSlots) (·.setF F.thmTripRelocated 1)
    { s with trip := { s.trip with stage := .programming, slot := slot, record := s.lostFlag s.trip.record } }

/-- The slot kept erased for the trip path, R426. -/
def State.tripSlot (s : State) : Nat :=
  if s.isSet F.logEvtNextValid then s.getF F.logEvtNextOffset / 64 else 0

/-- The trip path takes the flash port and starts its record, R270 step 3, R272. No second record is ever started, and
none before the end of boot step 1 after a cold reset. A firmware operation in progress is aborted. -/
def State.tripTake (s : State) (c : TripCause) : State :=
  if s.trip.taken then s
  else
    let w := s.workNow
    let s := w.2
    let busy := !w.1.isEmpty
    let s := { s with trip := { s.trip with taken := true, at_ := some s.now }, flash := { s.flash with tripOwned := true } }
    if !s.flash.known then s
    else
      let s := (s.setF F.thmStatusRec 1).when busy (·.setF F.thmTripFlashAbort 1)
      let s := { s with trip := { s.trip with record := s.recordHead c } }
      if busy then
        let s := s.abortWork w.1
        { s with trip := { s.trip with stage := .aborting } }
      else s.tripProgram s.tripSlot

/-- PWR_OFF_REQ is asserted: the pin, its status, and every ISO_N low (R311); the rail start stops (R137). -/
def State.powerOff (s : State) : State :=
  if s.pins.pwrOff then s
  else
    let s := { s with pins := { s.pins with pwrOff := true } }
    let s := s.forEach (List.range 96) fun s d => s.setDom d fun v => { v with isoN := false }
    let s := { s with supply := { s.supply with stage := .off } }
    ((s.latchWord 8 1).setF F.thmStatusPwrOff 1).settleBrake s.brakeBits

/-- The PWR_OFF_REQ that the last tick's read-back owes, R271. -/
def State.powerOffDue (s : State) : State :=
  s.when s.trip.offDue fun s => ({ s with trip := { s.trip with offDue := false } } : State).powerOff

end Sys2Proof.Machine
end

