-- ==== Sys2Proof/Machine/Rails.lean ====
section
/-! DEFINITION. Shared operations of the rail controllers, chapter 5: phase states, limits, the target voltage, phase-loss
drag, phase and rail faults, the control law, the sequencer, shedding, telemetry sums. -/
namespace Sys2Proof.Machine

/-! ### Events and phase states -/

/-- Bits of RAIL.EVT raised; trace point 1 names the bits newly set, and the PMBus target latches its own (Table 14.7). -/
def State.railEvent (s : State) (k m : Nat) : State :=
  let new := m &&& (1023 ^^^ s.getF (F.railEvt k))
  let s := s.orF (F.railEvt k) m
  if new = 0 then s
  else
    let s := (s.latchPm k 0 (flag (bitOf new 7) * 128 + flag (bitOf new 6) * 16)).latchPm k 1 (flag (bitOf new 2) * 128)
    let s := s.latchPm k 2 (flag (bitOf new 9) * 64)
    s.trace 0 1 (k * 65536 + new) (s.getF (F.railVtgtSense k) * 65536 + s.getF (F.railVtgtTarget k))

/-- A phase changes state, trace point 2. -/
def State.setPhaseState (s : State) (p st : Nat) : State :=
  let old := s.phaseState p
  let s := s.setF (phaseStateF p) st
  let s := s.when (st != 2 && st != 4) fun s => { s with health := { s.health with steadyP := s.health.steadyP.filter (· != p) } }
  if old = st then s
  else s.trace 0 2 (p + old * 256 + st * 4096) (s.getF (F.railIlimEffLimit (railOfPhase p)))

/-- PWM of a phase. -/
def State.setPwm (s : State) (p : Nat) (w : Pwm) : State := s.setPhase p fun v => { v with pwm := w }

/-- How many phases of a rail are in one of some states. -/
def State.countPhases (s : State) (k : Nat) (st : List Nat) : Nat :=
  ((phasesOf k).filter fun p => st.contains (s.phaseState p)).length

/-- ILIM_EFF recomputed, R132. -/
def State.recomputeIlim (s : State) (k : Nat) : State :=
  (s.keepLate (F.railIlimEffLimit k)).setF (F.railIlimEffLimit k)
    (ilimEff (s.appliedF (F.railIlimLimit k)) (s.countPhases k [1, 2, 3, 4]) (s.countPhases k [4])
      (s.countPhases k [1, 2, 3, 4, 5]))

/-! ### Currents and the target voltage -/

/-- I_rail: the sum of the latest currents of the enabled phases, R144. -/
def State.iRail (s : State) (k : Nat) : Nat := sumNat ((s.enabledPhases k).map fun p => s.getF (phaseCurrentF p))

/-- V_target of R144, rounded to 0.25 mV. -/
def vTarget (pos rll amps vmin : Nat) : Nat := max ((2 * (2000 * pos - rll * amps) + 2000) / 4000) vmin

/-- R_LL of the load line: the old one while a rise of h is being paid for, R147. -/
def State.loadRll (s : State) (k : Nat) : Nat := ((s.rail k).rllHeld).getD (s.appliedF (F.railLoadlineRll k))

/-- The target recomputed after a conversion, R144. -/
def State.retarget (s : State) (k : Nat) : State :=
  (s.keepLate (F.railVtgtTarget k)).setF (F.railVtgtTarget k)
    (vTarget (s.getF (F.railVposPosition k)) (s.loadRll k) (s.iRail k) (s.appliedF (F.railVlimMin k)))

/-- The bus voltage in mV, R138: the mean VOUT of the non-stale converters of BC_MASK, 5.500 V when there is none. -/
def State.vBus (s : State) (k : Nat) : Nat :=
  let l := indexes 4 fun i => bitOf (s.appliedF (F.railCfgBcMask k)) i && !bitOf (s.getF F.railcBcStatusStale) i
  if l.isEmpty then 5500
  else openDivNat 3 (sumNat (l.map fun i => s.getF (F.telBcVVout i))) l.length

/-! ### Phase-loss drag, R158 to R160 -/

/-- Phase-loss drag is imposed at the preset, and its event raised. -/
def State.imposeDrag (s : State) (k : Nat) : State :=
  let s := s.setRail k fun r =>
    { r with pldrag := some (slots32 (s.appliedF (F.railPldragSlots k))), pldragRising := false, dragCool := 0 }
  (s.setF (F.railStatusPldrag k) 1).railEvent k 4

/-- A drag that rises returns to its preset, and the count of R159 restarts. -/
def State.dropDrag (s : State) (k : Nat) : State :=
  s.when ((s.rail k).pldrag.isSome && (s.rail k).pldragRising) fun s => s.setRail k fun r =>
    { r with pldrag := some (slots32 (s.appliedF (F.railPldragSlots k))), pldragRising := false, dragCool := 0 }

/-- The load of the last four conversions exceeds ILIM_EFF. -/
def State.overLoaded (s : State) (k : Nat) : Bool :=
  let l := (s.rail k).last4
  decide (s.getF (F.railIlimEffLimit k) * l.length < sumNat l)

/-- After a reduction of ILIM_EFF: drag when the load exceeds it, R158, R159; a drag that rises when a phase fails returns to
its preset (Table 5.7). -/
def State.dragAfterCut (s : State) (k : Nat) : State :=
  if s.overLoaded k then s.imposeDrag k else s.dropDrag k

/-- The effective limit follows a new RAIL.ILIM.LIMIT, R132; a limit that falls below the load imposes drag, R159. -/
def State.followLimit (s : State) (k : Nat) : State :=
  let old := s.getF (F.railIlimEffLimit k)
  let s := s.recomputeIlim k
  s.when (decide (s.getF (F.railIlimEffLimit k) < old) && s.overLoaded k) (·.imposeDrag k)

/-- A rail's load line after new values of RLL or LIMIT, R147: where the headroom has risen above `h`, the load line keeps
`rll`; where it has not, the new values apply at once. -/
def State.holdLoadLine (s : State) (k h rll : Nat) : State :=
  s.when (s.isSet (F.railStatusOn k) && s.railH k != h) fun s =>
    s.setRail k fun r => { r with rllHeld := if h < s.railH k then some rll else none }

/-! ### Rails turned off, R137, R150, R157 -/

/-- A rail's PWM made high-impedance: its phases go OFF, but FAILED and SENSE_EST keep their states. -/
def State.railOff (s : State) (k : Nat) : State :=
  let s := s.forEach (phasesOf k) fun s p =>
    let s := s.setPwm p .highZ
    if s.phaseState p == 2 || s.phaseState p == 3 then s.setPhaseState p 1 else s
  let s := (s.when (s.isSet (F.railStatusPgood k)) (·.latchWord k 2)).when (s.isSet (F.railStatusOn k)) (·.latchWord k 1)
  (((s.setF (F.railStatusOn k) 0).setF (F.railStatusSeqState k) 0).setF (F.railStatusPgood k) 0).setF
    (F.railStatusSettled k) 0

/-- A rail fault, R150: the rail off, its event, and the trip path with the rail named. -/
def State.railFaultAt (s : State) (k limit : Nat) (lastPhase : Bool) : State :=
  let s := (s.railOff k).setF (F.railStatusRailFault k) 1
  let s := s.railEvent k 256
  s.tripTake { kind := 2, srcType := 2, index := k, reading := s.getF (F.railVtgtSense k), limit := limit,
               lastPhase := lastPhase }

/-- The checks of R162 after a phase has failed: too few phases, or none left. -/
def State.afterFailure (s : State) (k : Nat) : State :=
  let left := s.countPhases k [1, 2, 3, 4]
  let s := s.when (decide (left < minPhases k)) fun s => (s.setF (F.railStatusBelowMin k) 1).railEvent k 1
  s.when (left == 0) (·.railFaultAt k 0x8000 true)

/-- Phases classified as failed open in one tick, R158: high-impedance, FAILED, one recomputation, one comparison. -/
def State.failOpen (s : State) (k : Nat) (l : List Nat) : State :=
  if l.isEmpty then s
  else
    let s := s.forEach l fun s p => ((s.setPwm p .highZ).setPhaseState p 5).railEvent k 32
    let s := s.setRail k fun r => { r with calSkip := true }
    (((s.recomputeIlim k).dragAfterCut k).afterFailure k).settleFleet

/-- Phases classified as failed sense in one tick, R161. -/
def State.failSense (s : State) (k : Nat) (l : List Nat) (imbalance : Bool) : State :=
  if l.isEmpty then s
  else
    let s := s.forEach l fun s p => (s.setPhaseState p 4).railEvent k (if imbalance then 16 + 8 else 16)
    let s := s.setRail k fun r => { r with calSkip := true }
    (s.recomputeIlim k).dragAfterCut k

/-! ### The control law, R139 to R142, R146 -/

/-- The leading edge of the phase in position `j` of `n`, sixteenths of a tick, R140. -/
def leadingEdge (base j n : Nat) : Nat := (base + roundDiv (j * 1024) n) % 1024

/-- Where the present tick begins, in ps from tick 0. -/
def State.tickPs (s : State) : Nat := s.time.tick * s.time.period / 64

/-- Where a phase's leading edge lies in the present beat, in ps from tick 0. -/
def edgePs (offset beatPs : Nat) : Nat := offset * beatPs / 1024

/-- A phase's latest pulse ends with an on-time: its PWM is low, and its duty counts (R161). -/
def Phase.endPulse (v : Phase) (onPs : Nat) : Phase :=
  { v with pwm := .low, onTime := onPs, duty := onPs * 65536 / v.beatLen, caught := false }

/-- A phase whose PWM is high goes low in the present tick, R148, R149. DESIGN CHOICE (log 55): the on-time of the cut pulse
counts to the start of the tick, since the spec places the cut no finer. -/
def State.cutPulse (s : State) (p : Nat) : State :=
  s.setPhase p fun v => if v.pwm = .high then v.endPulse (min v.onTime ((s.tickPs : Int) - v.edge).toNat) else v

/-- The pulse in progress at a tick 0 meets the phase's new leading edge in the beat: it is cut so that 40 ns of low level
precede that edge (R139); a pulse issued in the catch-up of R84 and so cut below 20 ns has no on-time (R142). -/
def Phase.cutFor (v : Phase) (edge : Nat) : Phase :=
  let room := ((edge : Int) - 40000 - v.edge).toNat
  if v.pwm = .high && decide (room < v.onTime) then
    if v.caught && decide (room < 20000) then v.endPulse 0
    else if v.edge + room ≤ 0 then v.endPulse room
    else { v with onTime := room, caught := false }
  else { v with caught := false }

/-- The enabled phases of a rail take new offsets, R140, R141. -/
def State.respace (s : State) (k : Nat) : State :=
  let l := s.enabledPhases k
  s.forEach l.zipIdx fun s pj =>
    let o := leadingEdge (s.appliedF (F.railPhaseBaseBase k)) pj.2 l.length
    s.setPhase pj.1 fun v => { v.cutFor (edgePs o s.time.period) with offset := o }

/-- A new beat: the phases' latest edges are counted from its tick 0. -/
def State.shiftEdges (s : State) : State :=
  s.forEach (List.range 44) fun s p => s.setPhase p fun v => { v with edge := max (-2000000) (v.edge - s.time.ended) }

/-- A reading of the window converter, saturated to 128 mV on either side of the target, R146. -/
def windowed (target sense : Nat) : Int := clampInt ((target : Int) - 512) ((target : Int) + 512) sense

/-- ACTIVE phases of a rail whose sense is valid, R156. -/
def State.validActive (s : State) (k : Nat) : List Nat :=
  (phasesOf k).filter fun p => s.phaseState p == 2 && (s.phase p).inRange

/-- The share trim of a phase, in 2^-16 duty: ks × (i_mean − i_phase), R146; zero for a SENSE_EST phase. DESIGN CHOICE (log 9):
where the rail has no valid ACTIVE phase the spec states no mean, which is a free value. -/
def State.shareTrim (s : State) (k p : Nat) : Int :=
  let l := s.validActive k
  if s.phaseState p == 4 then 0
  else if l.isEmpty then
    (s.appliedF (F.railCompKs k) : Int) * ((Config.noQuotient 4 (s.getF (phaseCurrentF p)) : Int) - s.getF (phaseCurrentF p))
  else
    let sum := sumNat (l.map fun q => s.getF (phaseCurrentF q))
    openDiv 4 ((s.appliedF (F.railCompKs k) : Int) * ((sum : Int) - (l.length * s.getF (phaseCurrentF p) : Nat))) l.length

/-- DMAX = 1 − 40 ns × f, in 2^-16 duty, for a beat length in ps, R139. -/
def dMax (beatPs : Nat) : Nat := 65536 - ceilDiv (40000 * 65536) beatPs

/-- A phase's leading edge at a place in the beat, with a duty: the pulse begins, unless its on-time is zero or 40 ns of low
level have not preceded it, R139. DESIGN CHOICE (log 55): where a re-spacing brings the edge too near a pulse that has ended,
the edge has no on-time. -/
def Phase.begin (v : Phase) (edge beatPs duty : Nat) (caught : Bool) : Phase :=
  let v' := { v with edge := edge, onTime := duty * beatPs / 65536, beatLen := beatPs, caught := caught }
  if duty = 0 ∨ (edge : Int) < v.edge + v.onTime + 40000 then v'.endPulse 0 else { v' with pwm := .high }

/-- The pulses whose on-time has run out before the present tick begins end, R139; a tick of a catch-up begins where the beat
ended (R84, R142). -/
def State.endPulses (s : State) (k : Nat) (catchUp : Bool) : State :=
  let now := if catchUp then s.time.ended else s.tickPs
  s.forEach (phasesOf k) fun s p => s.setPhase p fun v =>
    if v.pwm = .high && decide (v.edge + v.onTime ≤ now) then v.endPulse v.onTime else v

/-- One tick of a rail's control law, R146, with truncation and overvoltage hold (R148, R149). An edge issued in a catch-up
falls just before the tick 0 that ends the beat (R142). -/
def State.controlRail (s : State) (k : Nat) (catchUp : Bool) : State :=
  if !s.isSet (F.railStatusOn k) then s
  else
    let r := s.rail k
    let target := s.getF (F.railVtgtTarget k)
    let e : Int := (target : Int) - windowed target r.sense
    let trunc := s.isSet (F.railStatusTrunc k)
    let integ := if trunc then r.integ
      else clampInt (-16384) 16384 (r.integ + (s.appliedF (F.railCompKi k) : Int) * e)
    let u := (s.appliedF (F.railCompKp k) : Int) * e + integ + (s.appliedF (F.railCompKd k) : Int) * (e - r.ePrev)
    let s := s.setRail k fun r => { r with integ := integ, ePrev := e, truncBeat := r.truncBeat || trunc }
    let beatPs := s.time.period
    s.forEach ((s.enabledPhases k).filter fun p => (s.phase p).offset / 16 == s.time.tick) fun s p =>
      if s.isSet (F.railStatusOvHold k) then s.setPwm p .low
      else
        let ff : Int := openDiv 5 ((target : Int) * 16384) (s.vBus k)
        let duty := (clampInt 0 (dMax beatPs) (ff + u + s.shareTrim k p)).toNat
        let edge := if catchUp then s.time.ended else edgePs (s.phase p).offset beatPs
        s.setPhase p fun v => v.begin edge beatPs (if trunc then 0 else duty) catchUp

/-- The overvoltage limit of a rail, VLIM.MAX + PROT.OV in 0.25 mV. -/
def State.ovLimit (s : State) (k : Nat) : Nat := s.appliedF (F.railVlimMax k) + 4 * s.appliedF (F.railProtOv k)

/-- The sensed voltage lies within RAIL.SETTLE.BAND of the target; 0 acts as 1. -/
def State.inBand (s : State) (k : Nat) : Bool :=
  decide (natDist (s.rail k).sense (s.getF (F.railVtgtTarget k)) ≤ max 1 (s.appliedF (F.railSettleBand k)))

/-- The overvoltage hold ends: the phases follow the control law again, and those that are shed go high-impedance, R149. -/
def State.endOvHold (s : State) (k : Nat) : State :=
  (s.setF (F.railStatusOvHold k) 0).forEach (phasesOf k) fun s p => s.when (s.phaseState p == 3) (·.setPwm p .highZ)

/-- The detectors of a rail in one tick: the band of R151, the overvoltage limit of R149, and V_ref of a CORE rail, R173. -/
def State.watchRail (s : State) (k : Nat) : State :=
  let s := s.when (s.isSet (F.railStatusOvHold k) && decide ((s.rail k).sense < s.ovLimit k)) (·.endOvHold k)
  let target := s.getF (F.railVtgtTarget k)
  let band := s.inBand k
  s.setRail k fun r => { r with
    bandTicks := if band then min 4 (r.bandTicks + 1) else 0
    ovTicks := if s.ovLimit k < r.sense then min 2 (r.ovTicks + 1) else 0
    vref := if 4 ≤ k then r.vref else if target ≤ r.vref then target
            else min target (r.vref + max 1 (s.appliedF F.clcThreshRefSlew)) }

/-- The named work of every tick: PWR_OFF_REQ (R271), pulses that end (R139), the control law of the eight rails (R146) and their
detectors. -/
def State.tickWork (s : State) (catchUp : Bool) : State :=
  s.powerOffDue.forEach (List.range 8) fun s k => ((s.endPulses k catchUp).controlRail k catchUp).watchRail k

/-! ### Conversions, R144, R156 to R161 -/

/-- Lowest and highest of a list. -/
def spanOf (l : List Nat) : Nat := l.foldl max 0 - l.foldl min (l.headD 0)

/-- The code of a 10-bit conversion over IMREF − 0.3 V to IMREF + 0.6 V (log 12). -/
def imonCode (uv : Int) : Nat := (clampInt 0 1023 (Int.fdiv ((uv + 300000) * 1024) 900000)).toNat

/-- IMON within IMREF − 0.30 V to IMREF + 0.60 V. -/
def imonInRange (uv : Int) : Bool := decide (-300000 ≤ uv ∧ uv ≤ 600000)

/-- The voltage that a code stands for, in µV above IMREF (log 12). -/
def imonVolts (code : Nat) : Int := openDiv 64 (900000 * code : Nat) 1024 - 300000

/-- The current of a conversion in 0.125 A, from its 10-bit code (R53): voltage over gain, plus offset; never below zero. -/
def State.imonCurrent (s : State) (p code : Nat) : Nat :=
  (openDiv 6 (imonVolts code * 32768) (1000 * s.imonGain p) + s.imonOffset p).toNat

/-- Mean current of some phases, times their number, without one of them. -/
def sumWithout (cur : List (Nat × Nat)) (p : Nat) : Nat := sumNat ((cur.filter (·.1 != p)).map (·.2))

/-- Detection of one phase at one conversion: counts of conditions 2 to 5 of Table 5.5. `cur` lists the valid ACTIVE
phases with their currents. -/
def detectPhase (cur : List (Nat × Nat)) (trunc inR : Bool) (code amps p : Nat) (v : Phase) : Phase :=
  let others := (cur.filter (·.1 != p)).length
  let sum := sumWithout cur p
  let all := sumNat (cur.map (·.2))
  let n := cur.length
  let low := !trunc && decide (0 < others) && decide (64 * others ≤ sum) && decide (amps * 10 * others < sum)
  let dev := if all ≤ amps * n then amps * n - all else all - amps * n
  let imb := decide (3 ≤ n) && decide (40 * n ≤ all) && decide (4 * all < 10 * dev)
  { v with
    inRange := inR
    outOfRange := if inR then 0 else v.outOfRange + 1
    low := if low then v.low + 1 else 0
    frozen := if others = 0 then [] else ((code, 840 * sum / others) :: v.frozen).take 32
    imbal := if imb then v.imbal + 1 else 0 }

/-- The frozen-sense condition over the last 32 conversions: codes within ±1, means spanning 5 A or more. A rail has at most
eight phases, so 840 is a multiple of every number of other phases and the means are exact. -/
def isFrozen (v : Phase) : Bool :=
  v.frozen.length == 32 && decide (spanOf (v.frozen.map (·.1)) ≤ 2) && decide (33600 ≤ spanOf (v.frozen.map (·.2)))

/-- The phase of a list with the greatest difference from the mean; ties go to the lower number. -/
def worstPhase (diff : Nat → Nat) : List Nat → Option Nat
  | [] => none
  | p :: l => match worstPhase diff l with
    | none => some p
    | some q => if diff p < diff q then some q else some p

/-- Currents of the SENSE_EST phases estimated from the valid ACTIVE phases, R161; with none left, an equal share of the
rail current estimated as R161 says. DESIGN CHOICE (log 65): the spec says when RAIL.STATUS.NO_SENSE is set and not when it
is cleared; here only a cold reset clears it. DESIGN CHOICE (log 9): where the valid phases had no duty the spec states no quotient,
and the current is a free value. -/
def State.estimate (s : State) (k : Nat) : State :=
  let est := (phasesOf k).filter fun p => s.phaseState p == 4
  let val := s.validActive k
  if est.isEmpty then s
  else if val.isEmpty then
    let s := s.setF (F.railStatusNoSense k) 1
    let total :=
      if k < 4 then
        let mw := sumNat ((List.range 72).map fun i => s.getF (F.cpaPwrTotal (72 * k + i)))
        openDivNat 7 (mw * 32) (max 1 (s.rail k).sense)
      else (s.rail k).lastValid64
    s.forEach est fun s p => s.satF (phaseCurrentF p) (openDivNat 8 total est.length)
  else
    let sumI := sumNat (val.map fun p => s.getF (phaseCurrentF p))
    let sumD := sumNat (val.map fun p => (s.phase p).duty)
    s.forEach est fun s p =>
      s.satF (phaseCurrentF p) (if sumD = 0 then Config.noQuotient 9 sumI
        else openDivNat 9 (sumI * (s.phase p).duty) sumD)

/-! ### The sequencer, R151 to R155 -/

/-- f_req of a cluster: its limit in force once CLK is active, 400 MHz until then (R183); the test frequency on the
cluster that a re-characterisation holds (R461). -/
def State.freqRequest (s : State) (c : Nat) : Nat :=
  if s.offline c then s.getF F.hlthTestFreq
  else if s.isActive 0 then s.appliedF (F.clcCFreqLimit c) else 400

/-- term(c) of R151; the tick 0 that isolates a cluster's clock is the one at which its domain becomes TO_LOW, so at that
tick 0 the sequencer still sees ON and at the next no term is left. Whether a domain is demanded is decided in Domains.lean; the
sequencer takes it as a function. -/
def State.seqTerm (s : State) (demanded : Nat → Bool) (c : Nat) : Option Nat :=
  let st := domState s (72 + c)
  let pts := s.vfPoints c
  let req := s.freqRequest c
  if st == 2 then some (vfAt pts (max (s.getF (F.clcCFreqRun c)) req))
  else if demanded (72 + c) then some (vfAt pts 400)
  else none

/-- need of R151: the greatest term of the rail's clusters, 0 when there is none. -/
def State.seqNeed (s : State) (demanded : Nat → Bool) (k : Nat) : Nat :=
  ((List.range 3).filterMap fun i => s.seqTerm demanded (3 * k + i)).foldl max 0

/-- f_perm of the three clusters of a CORE rail, R151; a CLC uses it from the next tick on (R152). -/
def State.recomputePerm (s : State) (k : Nat) : State :=
  if 4 ≤ k then s
  else
    let v := min (s.getF (F.railVposPosition k)) (s.rail k).settledPos
    let h := s.railH k
    s.forEach (List.range 3) fun s i =>
      (s.keepLate (F.railFpermPerm k i)).setF (F.railFpermPerm k i)
        (if v < h then 0 else maxFreq (s.vfPoints (3 * k + i)) (v - h))

/-- The command of a rail at a tick 0: of a CORE rail from its need, its headroom and its raise; of another, its target. -/
def State.seqCommand (s : State) (demanded : Nat → Bool) (k raise : Nat) : Nat :=
  if k < 4 then
    clampNat (s.appliedF (F.railVlimMin k)) (s.appliedF (F.railVlimMax k)) (s.seqNeed demanded k + s.railH k + raise)
  else ((s.rail k).vsetNext).getD (s.getF (F.railVposCmd k))

/-- A rail's raise in force: the larger of pre-positioning and coupling, R189. -/
def State.railRaise (s : State) (k : Nat) : Nat :=
  if k < 4 then max (s.getF (F.clcRaiseKPp k)) (s.getF (F.clcRaiseKCpl k)) else 0

/-- The status of the BUSY command of a rail, wherever it is shown, once it has been taken up as cmd, R155. -/
def State.finishVset (s : State) (k status : Nat) : State :=
  if (s.rail k).vsetNext.isSome then s
  else if s.getF (F.railVcmdStatus k) == 1 then s.setF (F.railVcmdStatus k) status
  else if s.getF (F.railVcmdPrevStatus k) == 1 then s.setF (F.railVcmdPrevStatus k) status
  else s

/-- One tick 0 of the sequencer in operation, Table 5.4, R151, R153, R154. -/
def State.seqStep (s : State) (demanded : Nat → Bool) (k : Nat) : State :=
  let old := s.getF (F.railVposCmd k)
  let pos := s.getF (F.railVposPosition k)
  let st := s.getF (F.railStatusSeqState k)
  let raise := s.railRaise k
  let cmd := s.seqCommand demanded k raise
  let same := (s.rail k).vsetNext.isSome && cmd == old && s.isSet (F.railStatusSettled k)
  let up := s.appliedF (F.railSlewUp k) + 1 + (raise - (s.rail k).raisePrev)
  let down := s.appliedF (F.railSlewDown k) + 1
  let new := if pos < cmd then min (pos + up) cmd else if cmd < pos then max (pos - down) cmd else pos
  let changed := cmd != old
  let moving := decide (3 ≤ st)
  let reversal := changed && ((st == 3 && decide (cmd < pos)) || (st == 4 && decide (pos < cmd)))
  let s := s.when (changed && moving) fun s =>
    let s := ((s.incF (F.railSeqSuperseded k)).setF (F.railSeqStart k) pos).when reversal (·.incF (F.railSeqReversals k))
    s.trace 0 3 k (s.getF (F.railSeqSuperseded k) * 2 ^ 24 + s.getF (F.railSeqReversals k) * 65536 + pos)
  let s := s.setRail k fun r => { r with raisePrev := raise, vsetNext := none }
  let s := s.when same (·.finishVset k 0x0A)
  let s := ((s.setF (F.railVposCmd k) cmd).setF (F.railVposPosition k) new).when changed
    fun s => (s.setF (F.railStatusSettled k) 0).setRail k fun r => { r with timedOut := false }
  let s := s.when (decide (k < 4)) fun s => s.setF (F.railVsetTarget k) cmd
  let st' := if st == 2 && !changed then 2 else if new == cmd then 5 else if new < cmd then 3 else 4
  let s := s.setRail k fun r => if st' != 5 then { r with settleBeats := 0 }
    else if st == 5 && !changed then { r with settleBeats := r.settleBeats + 1 }
    else { r with settleBeats := 0, bandTicks := 0 }
  let s := (s.setF (F.railStatusSeqState k) st').setF (F.railStatusSlewing k) (flag (new != cmd))
  s.recomputePerm k

/-- One tick 0 of a rail that is starting, R134, R135: the set point moves 1.0 mV toward the start value. -/
def State.startStep (s : State) (k : Nat) : State :=
  let r := s.rail k
  if s.isSet (F.railStatusPgood k) then
    let s := s.setRail k fun r => { r with settledPos := s.getF (F.railVposPosition k) }
    ((s.setF (F.railStatusSeqState k) 2).setF (F.railStatusSettled k) 1).recomputePerm k
  else
    let pos := s.getF (F.railVposPosition k)
    let new := if pos < r.startVal then min (pos + 4) r.startVal else max (pos - 4) r.startVal
    let s := s.setF (F.railVposPosition k) new
    let s := s.setF (F.railStatusSlewing k) (flag (new != r.startVal))
    s.setRail k fun r => { r with
      rampDone := new == r.startVal, rampBeats := r.rampBeats + flag (!r.rampDone), startBeats := r.startBeats + 1 }

/-- A rail starts, R134: its present phases enabled, its set point at the remote-sensed voltage, its telemetry windows counted
from here (R166). -/
def State.startRail (s : State) (k : Nat) : State :=
  let s := s.forEach (phasesOf k) fun s p => if s.phaseState p == 1 then s.setPhaseState p 2 else s
  let val := if k < 4 then
      clampNat (s.appliedF (F.railVlimMin k)) (s.appliedF (F.railVlimMax k))
        (((List.range 3).map fun i => vfAt (s.vfPoints (3 * k + i)) 400).foldl max 0 + s.railH k)
    else ((s.rail k).base).getD (s.getF (F.railVsetTarget k))
  let pos := min (s.rail k).sense (s.appliedF (F.railVlimMax k))
  let s := s.setRail k fun r => { r with
    startVal := val, rampBeats := 0, startBeats := 0, rampDone := pos == val, pgBeats := 0
    sumShort := [0, 0, 0, 0], sumLong := [0, 0, 0, 0]
    lenShort := s.appliedF (F.telWinShort k), lenLong := 2 ^ (10 + s.appliedF (F.telWinLong k)) }
  let s := ((s.setF (F.railVposPosition k) pos).setF (F.railVposCmd k) val).setF (F.railStatusOn k) 1
  ((s.setF (F.railStatusSeqState k) 1).recomputeIlim k).respace k

/-! ### Tick 0 of a rail: averages, drag rise, shedding, telemetry (R143, R159, R166, R167) -/

/-- The causes of R36 at a tick 0: a coupling notice in force (R188), a pre-positioning raise, or a shoe request active on a
core of the rail. -/
def State.shedCause (s : State) (k : Nat) : Bool :=
  decide (k < 4) && ((s.rail k).cplLast.isSome || decide (0 < s.getF (F.clcRaiseKPp k))
    || s.cpas.any fun p => railOf p.1 == k && p.2.shoe != .clear)

/-- The mean of a list, rounding left open. -/
def meanOf (site : Nat) (l : List Nat) : Nat := if l.isEmpty then 0 else openDivNat site (sumNat l) l.length

/-- The highest plausible temperature of the enabled phases, R166; 0x8000 when there is none. -/
def State.railTemp (s : State) (k : Nat) : Nat :=
  let l := ((s.enabledPhases k).map fun p => s.getF (phaseTempF p)).filter (· != 0x8000)
  match l with
  | [] => 0x8000
  | t :: l => l.foldl (fun a b => if toSigned 16 a < toSigned 16 b then b else a) t

/-- The averages of a completed short window are latched and a new window starts, R166. -/
def State.closeShort (s : State) (k : Nat) : State :=
  let l := (s.rail k).sumShort
  let n := l.getD 3 0
  let avg := fun i => openDivNat 13 (l.getD i 0) n
  let s := { s with health := { s.health with
    iSum := Store.update (fun _ => (0, 0)) s.health.iSum k fun a => (a.1 + satNat 16 (avg 1), a.2 + 1) } }
  (((s.satF (F.telVShort k) (avg 0)).satF (F.telIShort k) (avg 1)).satF (F.telPShort k) (avg 2)).setRail k
    fun r => { r with sumShort := [0, 0, 0, 0], lenShort := s.appliedF (F.telWinShort k) }

/-- The averages of a completed long window are latched, with the beat of its end, and a new window starts, R166. -/
def State.closeLong (s : State) (k stamp : Nat) : State :=
  let l := (s.rail k).sumLong
  let n := l.getD 3 0
  let avg := fun i => openDivNat 14 (l.getD i 0) n
  ((((s.satF (F.telVLong k) (avg 0)).satF (F.telILong k) (avg 1)).satF (F.telPLong k) (avg 2)).setF
    (F.telStampBeat k) stamp).setRail k
      fun r => { r with sumLong := [0, 0, 0, 0], lenLong := 2 ^ (10 + s.appliedF (F.telWinLong k)) }

/-- A telemetry window of a rail is complete: its beats have all been summed. -/
def windowDone (sums : List Nat) (len : Nat) : Bool := decide (0 < sums.getD 3 0 ∧ len ≤ sums.getD 3 0)

/-- A beat's voltage, current and power joined to the sums of a window. -/
def addSums (l : List Nat) (v i pw : Nat) : List Nat := [l.getD 0 0 + v, l.getD 1 0 + i, l.getD 2 0 + pw, l.getD 3 0 + 1]

/-- A peak field and a new 1-beat value: a new extreme of this tick is kept by a clear in the same tick (R167). -/
def State.peak (s : State) (f : Field) (v : Nat) : State := (s.keepLate f).satF f v

/-- Counts of beats in a row, Table 5.3, R135, R159, with the 1-beat current and voltage of the beat that ended. -/
def State.countConditions (s : State) (k i v : Nat) : State :=
  let target := s.getF (F.railVtgtTarget k)
  let uv := 4 * s.appliedF (F.railProtUv k)
  let lim := s.getF (F.railIlimEffLimit k)
  let hold := s.isSet (F.railStatusOvHold k)
  let starting := s.getF (F.railStatusSeqState k) == 1
  let s := s.setRail k fun r =>
    let low := decide (v + uv < target)
    let u := if low then min 64 (r.uvBeats + 1) else 0
    { r with
      ovBeats := if hold then min 8 (r.ovBeats + 1) else 0
      uvBeats := u
      pgBeats := if hold || u == 64 || (starting && !r.rampDone) || decide (uv < natDist v target) then 0 else min 16 (r.pgBeats + 1)
      overBeats := if lim < i then min 4 (r.overBeats + 1) else 0 }
  s.forEach (phasesOf k) fun s p =>
    let t := s.getF (phaseTempF p)
    let hot := t != 0x8000 && decide (((64 * s.appliedF (F.railProtStageTlim k) : Nat) : Int) ≤ toSigned 16 t)
    s.setPhase p fun v => { v with hotBeats := if hot then min 16 (v.hotBeats + 1) else 0 }

/-- The 1-beat values formed at tick 0, R166, and what they feed: history, energy, peaks, window sums. A window whose last beat
was formed at the tick 0 before, and that has not been closed since, is closed first. -/
def State.railBeat (s : State) (k : Nat) : State :=
  let r := s.rail k
  let i := meanOf 10 r.beatI
  let v := r.sense
  let pw := openDivNat 11 (v * i) 4000
  let t := s.railTemp k
  let s := s.when (windowDone r.sumShort r.lenShort) (·.closeShort k)
  let s := s.when (windowDone r.sumLong r.lenLong) (·.closeLong k (s.beat32 + (2 ^ 32 - 1)))
  let on := s.isSet (F.railStatusOn k)
  let s := s.setRail k fun r => { r with
    beatI := [], beatValid := [], hist := (i :: r.hist).take 64
    calM := r.calM + openDivNat 16 (meanOf 10 r.beatValid * v * s.time.ended) 32000
    calSkip := r.calSkip || !on || s.isSet (F.railStatusNoSense k)
    truncBeat := false, sinceShed := min 64 (r.sinceShed + 1)
    sumShort := if on then addSums r.sumShort v i pw else r.sumShort
    sumLong := if on then addSums r.sumLong v i pw else r.sumLong }
  let s := { s with cap := { s.cap with
    sumDie := s.cap.sumDie + pw, sumNc := s.cap.sumNc + if k < 4 then 0 else pw } }
  let s := s.when (decide (4 ≤ k)) fun s => { s with model := { s.model with
    railSums := s.model.railSums.set (k - 4) (s.model.railSums.getD (k - 4) 0 + pw)
    beats := s.model.beats + flag (k == 4) } }
  let s := s.when r.truncBeat (·.incF (F.railStatusTruncBeats k))
  let s := s.setRail k fun r =>
    if (s.validActive k).isEmpty then r else { r with lastValid64 := meanOf 12 r.hist }
  if !on then s
  else
    let s := (s.countConditions k i v).setF (F.railVtgtSense k) v
    let s := (s.peak (F.telVPeakMax k) (max v (s.getF (F.telVPeakMax k)))).peak (F.telVPeakMin k)
      (min v (s.getF (F.telVPeakMin k)))
    let s := (s.peak (F.telIpPeakIMax k) (max i (s.getF (F.telIpPeakIMax k)))).peak (F.telIpPeakPMax k)
      (max pw (s.getF (F.telIpPeakPMax k)))
    let s := s.setF (F.telTempNow k) t
    let pk := s.getF (F.telTempPeak k)
    let s := s.when (t != 0x8000 && (pk == 0x8000 || decide (toSigned 16 pk < toSigned 16 t))) (·.peak (F.telTempPeak k) t)
    let pj := r.energyRest + pw * s.time.ended / 8
    let e := s.getF (F.telEnergyLoUj k) + 2 ^ 32 * s.getF (F.telEnergyHiUj k) + pj / 1000000
    let s := s.setRail k fun r => { r with energyRest := pj % 1000000 }
    (s.setF (F.telEnergyLoUj k) e).setF (F.telEnergyHiUj k) (e / 2 ^ 32)

/-- Phase-loss drag at a tick 0, R159: the count of beats at or below 0.90 × ILIM_EFF, and the rise and its end. -/
def State.dragTick (s : State) (k : Nat) : State :=
  let r := s.rail k
  match r.pldrag with
  | none => s
  | some c =>
    if !r.pldragRising then
      let cool := decide (10 * r.hist.headD 0 ≤ 9 * s.getF (F.railIlimEffLimit k))
      s.setRail k fun r => { r with dragCool := if cool then min 64 (r.dragCool + 1) else 0 }
    else if s.getF (F.railIlimEffLimit k) < r.hist.headD 0 then s.dropDrag k
    else if 32 ≤ c then
      (s.setRail k fun r => { r with pldrag := none, pldragRising := false }).setF (F.railStatusPldrag k) 0
    else s.setRail k fun r => { r with pldrag := some (c + 1) }

/-- A phase shed or re-enabled at a tick 0. -/
def State.shedPhase (s : State) (p : Nat) : State := (s.setPwm p .highZ).setPhaseState p 3
def State.unshed (s : State) (l : List Nat) : State := s.forEach l fun s p => s.setPhaseState p 2

/-- SHED_EN as it is in force from this tick 0 on: a value due in it counts, R143. -/
def State.shedOn (s : State) (k : Nat) : Bool :=
  let f := F.railCfgShedEn k
  let due := if s.boot.applyDue then (s.boot.checked.find? (·.1 == f.key)).map (·.2) else none
  due.getD (s.appliedF f) == 1

/-- Shedding of a rail at a tick 0, R36, R143. A cause that a tick 0 saw last ends at the next one, so the ninth after it is
the first that may shed again. -/
def State.shedTick (s : State) (k : Nat) : State :=
  let shed := (phasesOf k).filter fun p => s.phaseState p == 3
  let cause := s.shedCause k
  let s := s.setRail k fun r => { r with causeHold := if cause then 9 else r.causeHold - 1 }
  let en := s.shedOn k
  let s := if cause || !en then s.unshed shed
    else if (s.rail k).addNext then s.unshed (shed.take 1) else s
  let r := s.rail k
  let n := (s.enabledPhases k).length
  let i1 := r.hist.headD 0
  let s := s.setRail k fun r =>
    { r with addNext := decide (s.appliedF (F.railShedAddI k) * n < i1) && (phasesOf k).any fun p => s.phaseState p == 3 }
  let light := decide (sumNat r.hist < s.appliedF (F.railShedShedI k) * (n - 1) * r.hist.length)
  let may := en && light && decide (max (s.appliedF (F.railCfgMinOn k)) (minPhases k) < n) && r.sinceShed == 64
    && !cause && r.causeHold == 0 && decide (2 ≤ s.getF (F.railStatusSeqState k))
  match ((phasesOf k).filter fun p => s.phaseState p == 2).getLast? with
  | some p => s.when may fun s => (s.shedPhase p).setRail k fun r => { r with sinceShed := 0 }
  | none => s

/-- Tick 0 of a rail. -/
def State.railTick0 (s : State) (demanded : Nat → Bool) (k : Nat) : State :=
  let s := (s.railBeat k).dragTick k
  let st := s.getF (F.railStatusSeqState k)
  let s := if st == 1 then s.startStep k else if st == 0 then s else s.seqStep demanded k
  let s := if 2 ≤ st then s.shedTick k else s
  let s := s.when (s.isSet (F.railStatusSettled k)) fun s => s.setRail k fun r => { r with rllHeld := none }
  (s.respace k).retarget k

end Sys2Proof.Machine
end

