-- ==== Sys2Proof/Machine/Domains.lean ====
section
/-! DEFINITION. The domain controller of chapter 11: votes, demand, the entry and exit sequences of Table 11.4, what a
domain's state means for the core agents and cluster controllers in it. -/
namespace Sys2Proof.Machine

/-! ### Votes and demand, R304 to R307 -/

/-- The sync fabric's vote on a core group: an engine of its cores waits or has a request outstanding, R307. -/
def State.syncVote (s : State) (d : Nat) : Bool :=
  decide (d < 72) && ((s.sync.records.any fun r => groupOf r.core == d)
    || s.sync.outstanding.any fun e => groupOf (e / 8) == d)

/-- The key under which a sync fabric vote that ended in the present tick is kept, R307. -/
def voteKey (d : Nat) : Nat := 2 ^ 60 + d

/-- The sync fabric's vote may end in the present tick: it counts until the next, R307. -/
def State.keepVote (s : State) (d : Nat) : State := s.noteOld (voteKey d) (flag (s.syncVote d))

/-- The vote mask that counts: voter 3 by hardware, which falls one tick late (R307), voter 4 only while debug is enabled. -/
def State.voteMask (s : State) (d : Nat) : Nat :=
  let m := s.getF (F.domDVoteMask d)
  let m := if s.isSet F.gctlStatusDebugEn then m else clearBit m 4
  if s.syncVote d || s.oldOf (voteKey d) 0 == 1 then setBit m 3 else clearBit m 3

/-- Whether a domain is demanded: by its own mask, or by a child that holds it (R304). `n` bounds the height. -/
def State.demandedN (s : State) : Nat → Nat → Bool
  | 0, d => s.voteMask d != 0
  | n + 1, d =>
    s.voteMask d != 0 || (childrenOf d).any fun c =>
      let st := domState s c
      st == 2 || st == 3 || st == 4 || (st == 5 && !(s.dom c).toOn) || (decide (st ≤ 1) && s.demandedN n c)

/-- Whether a domain is demanded, R304. -/
def State.demanded (s : State) (d : Nat) : Bool := s.demandedN 3 d

/-- Whether a domain is demanded only by a child. -/
def State.heldOnly (s : State) (d : Nat) : Bool := s.demanded d && s.voteMask d == 0

/-! ### What a domain's reset clears, R196, R312, Tables 6.3 and 11.5 -/

/-- The energy of a core group, µJ. -/
def State.groupEnergy (s : State) (g : Nat) : Nat :=
  sumNat ((List.range 4).map fun i => s.getF (F.cpaELoUj (4 * g + i)) + 2 ^ 32 * s.getF (F.cpaEHiUj (4 * g + i)))

/-- A core group's energies are about to be cleared: what it has used in the model step in progress still counts in it, R280. -/
def State.carryEnergy (s : State) (d : Nat) : State :=
  { s with model := { s.model with energies := (List.range 72).map fun g =>
    let old := s.model.energies.getD g 0
    if g = d then (old + (2 ^ 64 - s.groupEnergy d % 2 ^ 64)) % 2 ^ 64 else old } }

/-- A core's agent, posted slots included, is reset with its core-group domain; CPA.CAP stays. -/
def State.resetCpa (s : State) (n : Nat) : State :=
  let s := s.clearRange (0x10004 + 0x40 * n) (0x10040 + 0x40 * n)
  { s with cpas := Store.erase s.cpas n, sync := { s.sync with slots := s.sync.slots.filter fun p => p.1 / 256 != n } }

/-- A cluster controller is reset with its cluster-fabric domain; the division of R267 lies in the AON domain. -/
def State.resetClc (s : State) (c : Nat) : State :=
  let s := s.clearRange (0x18100 + 0x40 * c) (0x18140 + 0x40 * c)
  ({ s with clcs := Store.erase s.clcs c } : State).setClc c fun v => { v with thermDiv := 2 ^ s.getF (F.thmCltDiv c) - 1 }

/-- Reset is asserted in a domain as it begins to leave ON. -/
def State.resetDomain (s : State) (d : Nat) : State :=
  if d < 72 then (s.carryEnergy d).forEach (List.range 4) fun s i => s.resetCpa (4 * d + i)
  else if d < 84 then s.resetClc (d - 72)
  else s

/-- BAND_UPD is due at the next tick 0, after a change of band or a stack's domain's return to ON, R292. -/
def State.bandReturn (s : State) (k : Nat) : State :=
  { s with therm := { s.therm with
    bandNext := if s.therm.bandNext.contains k then s.therm.bandNext else k :: s.therm.bandNext } }

/-- A core's meter interval begins: it counts from the next tick, with the length of the frequency in use, R26, R205. -/
def State.startMeter (s : State) (n : Nat) : State :=
  s.setCpa n fun v => { v with began := s.now, ticks := ticksOf 1 (s.getF F.tbSyncFreqUsed) }

/-- Reset is released as a domain reaches ON: the meters of its cores start (R205); the CLC starts on CLK_REF with the applied
limit (Table 11.5), and its interval of core grants begins (R26). -/
def State.releaseDomain (s : State) (d : Nat) : State :=
  if d < 72 then s.forEach ((List.range 4).map (4 * d + ·)) State.startMeter
  else if d < 84 then
    (s.setF (F.clcCFreqLimit (d - 72)) (s.appliedF (F.clcCFreqLimit (d - 72)))).reload (intervalKey 0 (d - 72))
  else if 84 ≤ d then s.bandReturn ((d - 84) % 6)
  else s

/-! ### Sequences, Table 11.4 -/

/-- A domain's state changes; a completed transition is counted and traced (point 5). -/
def State.domEnter (s : State) (d st : Nat) : State :=
  ((s.setF (F.domDStatusState d) st).incF (F.domDStatusTransitions d)).trace 0 5 d st

/-- The outputs of a step of a sequence, and whether the step waits for no acknowledge. -/
def State.domDrive (s : State) (d : Nat) : State :=
  let v := s.dom d
  match v.seq, v.step with
  | .offOn, 1 | .retOn, 1 => s.setDom d fun v => { v with swOn := true, acked := false }
  | .retOn, 2 => s.setDom d fun v => { v with retOn := false, acked := false }
  | .offOn, _ | .retOn, _ =>
    let s := (s.setDom d fun v => { v with isoN := true, seq := .none, step := 0 }).domEnter d 2
    (s.setF (F.domDStatusFromRet d) (if v.seq = .retOn then 1 else s.getF (F.domDStatusFromRet d))).releaseDomain d
  | .onOff, 1 | .onRet, 1 =>
    (s.resetDomain d).setDom d fun v => { v with isoN := false, acked := true }
  | .onOff, 2 => s.setDom d fun v => { v with swOn := false, acked := false }
  | .onRet, 2 => s.setDom d fun v => { v with retOn := true, acked := false }
  | .onRet, 3 => s.setDom d fun v => { v with swOn := false, acked := false }
  | .onOff, _ => (s.setDom d fun v => { v with seq := .none, step := 0 }).domEnter d 0
  | .onRet, _ => (s.setDom d fun v => { v with seq := .none, step := 0 }).domEnter d 1
  | .retOff, 1 => s.setDom d fun v => { v with retOn := false, acked := false }
  | .retOff, _ => (s.setDom d fun v => { v with seq := .none, step := 0 }).domEnter d 0
  | .none, _ => s

/-- A core group that leaves ON: its second is not one of stress (R450), and its cores leave a sweep in progress, whichever cluster is
under test, and keep their previous values (R462). -/
def State.leaveOn (s : State) (d : Nat) : State :=
  if d < 72 then
    let sweep := s.getF F.hlthFmaxState == 1 || s.getF F.hlthFmaxState == 2
    { s with health := { s.health with
      steady := s.health.steady.filter (· != d)
      fmax := { s.health.fmax with
        out := (if sweep then (List.range 4).map (4 * d + ·) else []) ++ s.health.fmax.out
        results := if sweep then s.health.fmax.results.filter fun r => r.1 / 4 != d else s.health.fmax.results } } }
  else s

/-- A sequence begins with its first step. -/
def State.domBegin (s : State) (d : Nat) (q : DomSeq) (st : Nat) : State :=
  let s := s.setDom d fun v => { v with
    seq := q, step := 1, acked := false, toOn := false, retry := false, waited := 0, late := none }
  let s := s.when (st == 4) (·.leaveOn d)
  (s.setF (F.domDStatusState d) st).domDrive d

/-- The conditions of R308 for an entry, but for that of its rail's other domains: parent ON, PGOOD, permission. -/
def State.parentOn (s : State) (d : Nat) : Bool := match parentOf d with
  | none => true
  | some p => s.domOn p

def State.railReady (s : State) (d : Nat) : Bool :=
  s.isSet (F.railStatusPgood (railOfDomain d))
    && (if 72 ≤ d ∧ d < 84 then decide (400 ≤ s.getF (F.railFpermPerm ((d - 72) / 3) ((d - 72) % 3))) else true)

/-- The acknowledge that a step of Table 11.4 waits for: RET_ACK rather than SW_ACK, and its level. -/
def awaitedAck (q : DomSeq) (step : Nat) : Option (Bool × Bool) :=
  match q, step with
  | .offOn, 1 | .retOn, 1 => some (false, true)
  | .retOn, 2 | .retOff, 1 => some (true, false)
  | .onOff, 2 | .onRet, 3 => some (false, false)
  | .onRet, 2 => some (true, true)
  | _, _ => none

/-- ACK_TO beats have passed since the step that waits for its acknowledge, R310: none runs out once PWR_OFF_REQ stands, since
the states are then reported unchanged (R311). -/
def State.ackOverdue (s : State) (d : Nat) : Bool :=
  let v := s.dom d
  !s.pins.pwrOff && (awaitedAck v.seq v.step).isSome && !v.acked && decide (s.appliedF F.domCfgAckTo ≤ v.waited)

/-- The low state a FAILED domain's outputs show, R310. DEDUCED (log 73): RET_ON high shows RETENTION, also where the exit failed
with SW_ON still high, which no row of Table 11.2 has. -/
def shownState (v : Dom) : Nat := if v.retOn then 1 else 0

/-- Whether a domain waits in a low state, or FAILED under a retry, to enter ON. -/
def State.wantsOn (s : State) (d : Nat) : Bool :=
  let st := domState s d
  (decide (st ≤ 1) || (st == 5 && (s.dom d).retry)) && s.demanded d

/-- Whether domains may begin an entry: not while the ROM runs after a wake, R317. -/
def State.entriesAllowed (s : State) : Bool := !(s.boot.rom && s.boot.kind = .wake)

/-- Whether a domain may begin step 1 toward ON at this tick 0, apart from its rail's lower-numbered domains. -/
def State.mayEnter (s : State) (d : Nat) : Bool :=
  s.wantsOn d && s.parentOn d && s.railReady d && s.entriesAllowed

/-- The low state DOM.LOW selects. -/
def State.lowRetention (s : State) (d : Nat) : Bool := bitOf (s.appliedF (F.domLowMMask (d / 32))) (d % 32)

/-- A domain begins the sequence to its low state; with RET_ON high it can only be that to RETENTION (log 73). -/
def State.beginExit (s : State) (retention : Bool) (d : Nat) : State :=
  s.domBegin d (if retention || (s.dom d).retOn then .onRet else .onOff) 4

/-- One domain at a tick 0, from the states `s0` in force at it; `begun` lists rails that a lower domain has taken. A PWR_OFF_REQ
raised in the tick counts in it (R311). -/
def State.domTick (s0 : State) (acc : State × List Nat) (d : Nat) : State × List Nat :=
  let s := acc.1
  let begun := acc.2
  let v := s0.dom d
  let st := domState s0 d
  let dem := s0.demanded d
  let s := s.setF (F.domDStatusHeld d) (flag (s0.heldOnly d))
  if s.pins.pwrOff then (s, begun)
  else if v.seq ≠ .none then
    if v.acked then ((s.setDom d fun v => { v with step := v.step + 1, waited := 0 }).domDrive d, begun)
    else (s.setDom d fun v => { v with waited := v.waited + 1 }, begun)
  else
  let s := (s.setF (F.domDStatusWaitParent d) (flag (s0.wantsOn d && !s0.parentOn d))).setF (F.domDStatusWaitRail d)
    (flag (s0.wantsOn d && s0.parentOn d && (!s0.railReady d || begun.contains (railOfDomain d))))
  if !s0.isActive 6 || s0.isSet F.domStatusParked then (s, begun)
  else if st == 2 && !dem then ((s.setF (F.domDStatusFromRet d) 0).beginExit (s0.lowRetention d) d, begun)
  else if s0.wantsOn d then
    let go := s0.mayEnter d && !begun.contains (railOfDomain d)
    let low := if st == 5 then shownState v else st
    if go then
      (s.domBegin d (if low == 1 then .retOn else .offOn) 3, railOfDomain d :: begun)
    else ((if st == 5 then (s.setF (F.domDStatusState d) low).setDom d fun v => { v with retry := false, toOn := false }
           else s), begun)
  else
    let low := if st == 5 then shownState v else st
    if st == 2 || (st == 5 && !v.retry) then (s, begun)
    else
      let s := s.when v.retry (·.setDom d fun v => { v with retry := false, toOn := false })
      if v.swOn then (s.beginExit (s0.lowRetention d) d, begun)
      else if low == 1 && !s0.lowRetention d then (s.domBegin d .retOff 4, begun)
      else (s.when (st == 5) (·.setF (F.domDStatusState d) low), begun)

/-- The domain evaluation of a tick 0, R308: every domain, in ascending number, on the states `s0` in force in it; the
results are made in `s`, which also notes whether some domain has left OFF. -/
def State.domainTick0 (s0 s : State) : State :=
  let s := ((List.range 96).foldl (State.domTick s0) (s, [])).1
  { s with away := s.away || (List.range 96).any fun d => domState s d != 0 }

/-- How many domains are in a state. -/
def State.domCount (s : State) (st : Nat) : Nat := countBelow 96 fun d => domState s d == st

/-- Whether all 96 domains are OFF and none is in transition, R313. -/
def State.allOff (s : State) : Bool := (List.range 96).all fun d => domState s d == 0

/-- Whether a die is to park at this tick 0, R313; a halted boot is left by cold reset only (R112). DEDUCED (log 74): the condition
comes to hold when the last domain has gone
OFF; a die released with all domains OFF, which R112 has in PARKED until then, parks only if no domain is demanded. -/
def State.parks (s : State) : Bool :=
  s.time.tick == 0 && s.allOff && !s.isSet F.domStatusParked && !s.isSet F.gctlStatusHalt
    && (s.away || (s.isSet F.gctlStatusBootDone && (List.range 96).all fun d => !s.demanded d))

end Sys2Proof.Machine
end

