-- ==== Sys2Proof/Machine/Droop.lean ====
section
/-! DEFINITION. Chapter 6 and the cluster clocks of chapter 3: divider ramps, PLL lock, shoe and the hard limit, load
notices and forecasts, raises, issue ramps, wait filler. -/
namespace Sys2Proof.Machine

/-! ### Changes of source, R81, R82, R183 -/

/-- The steps of a change of source, R81: dividers of the old source above the present one, the switch at ÷16, dividers of
the new source down to the present one. -/
def rampSteps (div : Nat) (switch : RampStep) : List RampStep :=
  (([1, 3, 7, 15].filter (div < ·)).map RampStep.divide) ++ [switch]
    ++ (([7, 3, 1, 0].filter (div ≤ ·)).map RampStep.divide)

/-- f_run as reported in CLC_C.FREQ.RUN. -/
def State.setRun (s : State) (c f : Nat) : State := s.setF (F.clcCFreqRun c) f

/-- The frequency a CLC drives its PLL to, R183, by the permission of the ticks before (R28, R152). -/
def State.freqTarget (s : State) (c : Nat) : Nat := min (s.freqRequest c) (s.lateF (F.railFpermPerm (c / 3) (c % 3)))

/-- The PLL of a cluster on CLK_REF is retargeted, PLL_REQ high, to the target of the present tick: a permission that has
fallen since the change began is obeyed, R152. -/
def State.pllRequest (s : State) (c : Nat) : State :=
  (s.setClc c fun v => { v with
    target := max 400 (s.freqTarget c), pllFreq := max 400 (s.freqTarget c), pllReq := true, pllLocked := false
    lockEnd := s.beatIn 20 }).setRun c 400

/-- One step of a change of source takes effect; with the last one the change ends. -/
def State.rampAdvance (s : State) (c : Nat) : State :=
  match (s.clc c).steps with
  | [] => s.setClc c fun v => { v with ramping := false }
  | st :: rest =>
    let s := s.setClc c fun v => { v with steps := rest, ramping := !rest.isEmpty }
    let s := match st with
      | .divide d => s.setClc c fun v => { v with div := d }
      | .toRef => s.setClc c fun v => { v with onRef := true }
      | .toPll => s.setClc c fun v => { v with onRef := false }
    let s := s.reduceAcc c
    if !rest.isEmpty then s
    else if (s.clc c).onRef then s.pllRequest c
    else s.setRun c (s.clc c).pllFreq

/-- A change of source begins: f_run is the higher of the old and new frequencies while it lasts. -/
def State.rampBegin (s : State) (c : Nat) (switch : RampStep) : State :=
  let v := s.clc c
  let s := s.setClc c fun v => { v with steps := rampSteps v.div switch, ramping := true }
  (s.setRun c (max 400 v.pllFreq)).rampAdvance c

/-- A CLC compares its target with its PLL and begins a change where they differ, R82, R183. A request that arrives during a
ramp, or while the lock is awaited, waits; but a PLL that waits for its lock above what is permitted is retargeted at once
(R152). -/
def State.freqRetarget (s : State) (c : Nat) : State :=
  let v := s.clc c
  let f := s.freqTarget c
  if !s.isActive 0 || !s.clusterOn c || decide (f < 400) then s
  else if v.pllReq && !v.ramping && decide (f < v.pllFreq) then
    (s.setClc c fun v => { v with retried := false, again := true }).pllRequest c
  else if v.ramping || v.pllReq then s.setClc c fun v => { v with again := true }
  else if v.failedFor == some (s.freqRequest c) then s
  else if v.onRef then
    (s.setClc c fun v => { v with retried := false, failedFor := none, again := false }).pllRequest c
  else if v.pllFreq == f then s.setClc c fun v => { v with again := false }
  else (s.setClc c fun v => { v with target := f, retried := false, again := false }).rampBegin c .toRef

/-- CLUSTER_FREQ_RETARGET, R183. -/
def execClusterFreqRetarget (cluster : Fin 12) (s : State) : Outcome := .next (s.freqRetarget cluster.val)

/-- PLL_LOCK, R82: the cluster moves back through the divider ramp; a PLL that has locked above what is now permitted is
retargeted instead (R152). -/
def execPllLock (cluster : Fin 12) (s : State) : Outcome :=
  let c := cluster.val
  .next (if (s.clc c).pllReq && decide (s.freqTarget c < (s.clc c).pllFreq ∧ 400 < (s.clc c).pllFreq) then
    (s.setClc c fun v => { v with retried := false }).pllRequest c
  else if (s.clc c).pllReq then
    (s.setClc c fun v => { v with pllReq := false, pllLocked := true }).rampBegin c .toPll
  else s)

/-- PLL_LOCK_TIMEOUT, R82: 20 µs after PLL_REQ, one retry, then PLL_FAIL and the cluster stays on CLK_REF until another frequency is
requested. DESIGN CHOICE (log 53): the request in force when the second attempt fails counts as the one that failed, also where it
arrived while that attempt waited. -/
def execPllLockTimeout (cluster : Fin 12) (s : State) : Outcome :=
  let c := cluster.val
  .next (if !(s.clc c).pllReq || !s.beatReached (s.clc c).lockEnd then s
  else if !(s.clc c).retried then s.setClc c fun v => { v with retried := true, lockEnd := s.beatIn 20 }
  else
    ((s.setClc c fun v => { v with pllReq := false, failedFor := some (s.freqRequest c) }).raise F.clcEvtPllFail c).setRun
      c 400)

/-- DIVIDER_RAMP_STEP, R81; a request that waited for the end of the ramp follows. -/
def execDividerRampStep (cluster : Fin 12) (s : State) : Outcome :=
  let c := cluster.val
  .next (if (s.clc c).ramping then
    let s := s.rampAdvance c
    if (s.clc c).again then s.freqRetarget c else s
  else s)

/-! ### Droop, R172 to R180 -/

/-- Gain and offset of a core's droop detector, tag 0x0003 (Table 6.4): 1/1,024 mV per stage at 1 GHz, and 0.25 mV. -/
def State.detectorGain (s : State) (n : Nat) : Nat := u16At (s.calSection 3) (0x24A + 4 * n)
def State.detectorOffset (s : State) (n : Nat) : Int := s16At (s.calSection 3) (0x248 + 4 * n)

/-- The depth in 1 mV of a sample of so many delay-line stages, R172: V_ref minus the sampled voltage; a sample above V_ref
gives 0. DEDUCED (log 62): the stages passed in one cycle times the clock in GHz are the stages at 1 GHz, which the gain
turns into millivolts, and the offset is added. -/
def State.droopDepth (s : State) (n stages : Nat) : Nat :=
  let volts : Int := 4 * (stages * s.fEff n * s.detectorGain n : Nat) + 1024000 * s.detectorOffset n
  openDivNat 15 (1024000 * ((s.rail (railOf n)).vref : Int) - volts).toNat 4096000

/-- A sample below NOTICE, whatever else it crosses: CPA.STATUS.NOTICE, R175. -/
def State.noteNotice (s : State) (n d : Nat) : State :=
  s.when (decide (s.appliedF F.clcThreshNotice ≤ d)) (·.setCpa n fun c => { c with noticeAt := some (s.beat, s.time.tick) })

/-- DEEPEST keeps the largest depth, saturating at 0xFF, R175. -/
def State.noteDepth (s : State) (n d : Nat) : State := s.satF (F.cpaCntBDeepest n) (max d (s.getF (F.cpaCntBDeepest n)))

/-- The shoe request set to its preset with a new hold, Table 6.1; only while DROOP is active (R197). -/
def State.setShoe (s : State) (n : Nat) : State :=
  if s.isActive 3 then
    s.setCpa n fun c => { c with shoe := .hold, shoeReq := slots32 (s.appliedF F.clcShoeSlots) }
  else s

/-- NOTICE_CROSSING, R175. -/
def execNoticeCrossing (core : Fin 288) (sample : Nat) (s : State) : Outcome :=
  let n := core.val
  let d := s.droopDepth n sample
  .next (if s.coreOn n && decide (s.appliedF F.clcThreshNotice ≤ d) then
    ((s.incF (F.cpaCntANotice n)).noteDepth n d).noteNotice n d
  else s)

/-- SHOE_CROSSING, R175, R176. -/
def execShoeCrossing (core : Fin 288) (sample : Nat) (s : State) : Outcome :=
  let n := core.val
  let d := s.droopDepth n sample
  .next (if s.coreOn n && decide (s.appliedF F.clcThreshShoe ≤ d) then
    ((((s.incF (F.cpaCntAShoe n)).noteDepth n d).incF (F.clcCDroopShoeEvt (clusterOf n))).noteNotice n d).setShoe n
  else s)

/-- HARD_CROSSING, R175, R177: shoe, and the hard-skip limit with its own hold. -/
def execHardCrossing (core : Fin 288) (sample : Nat) (s : State) : Outcome :=
  let n := core.val
  let d := s.droopDepth n sample
  .next (if s.coreOn n && decide (s.appliedF F.clcThreshHard ≤ d) then
    let s := (((s.incF (F.cpaCntBHard n)).noteDepth n d).noteNotice n d).setShoe n
    if s.isActive 3 then
      s.setCpa n fun c => { c with hard := .hold, keep := max 1 (s.appliedF F.clcShoeHardKeep) }
    else s
  else s)

/-- SHOE_HOLD_EXPIRY, Table 6.1. -/
def execShoeHoldExpiry (core : Fin 288) (s : State) : Outcome :=
  .next (s.setCpa core.val fun c => if c.shoe = .hold then { c with shoe := .ramp } else c)

/-- SHOE_RAMP_STEP, Table 6.1: the request rises by one and is withdrawn at 32. -/
def execShoeRampStep (core : Fin 288) (s : State) : Outcome :=
  .next (s.setCpa core.val fun c =>
    if c.shoe ≠ .ramp then c
    else if 32 ≤ c.shoeReq + 1 then { c with shoe := .clear, shoeReq := 32 }
    else { c with shoeReq := c.shoeReq + 1 })

/-- HARD_HOLD_EXPIRY, R177. -/
def execHardHoldExpiry (core : Fin 288) (s : State) : Outcome :=
  .next (s.setCpa core.val fun c => if c.hard = .hold then { c with hard := .ramp } else c)

/-- HARD_RAMP_STEP, R177: k rises by one and the limit is removed at 16. -/
def execHardRampStep (core : Fin 288) (s : State) : Outcome :=
  .next (s.setCpa core.val fun c =>
    if c.hard ≠ .ramp then c
    else if 16 ≤ c.keep + 1 then { c with hard := .clear, keep := 16 }
    else { c with keep := c.keep + 1 })

/-- CPA_COUNTER_CLEAR, R175. -/
def execCpaCounterClear (core : Fin 288) (value : Word) (s : State) : Outcome :=
  let n := core.val
  .next (if s.coreOn n && bitOf value.toNat 0 then
    (((s.setF (F.cpaCntANotice n) 0).setF (F.cpaCntAShoe n) 0).setF (F.cpaCntBHard n) 0).setF (F.cpaCntBDeepest n) 0
  else s)

/-- Whether host writes of an override are applied: in TEST or RECOVERY, R180, R218. -/
def State.overrideMode (s : State) : Bool := s.getF F.gctlModeCurrent == 3 || s.getF F.gctlModeCurrent == 4

/-- DRAG_OVERRIDE_WRITE, R180. -/
def execDragOverrideWrite (writer : Writer) (core : Fin 288) (value : Word) (s : State) : Outcome :=
  let n := core.val
  .next (if s.coreOn n && (writer = .flp || (writer = .host && s.overrideMode)) then
    s.setF (F.cpaDragOvrSlots n) value.toNat
  else s)

/-! ### Load notices and forecasts, R47, R184 to R187 -/

/-- How many of the four engine bits are set. -/
def engineCount (m : Nat) : Nat := countBelow 4 (bitOf m)

/-- ΔI of a notice in 0.125 A, rounded up, R185. -/
def noticeDelta (classI engines dfloor density : Nat) : Nat :=
  ceilDiv (classI * engines * (dfloor + (256 - dfloor) * density / 255)) 1024

/-- LOAD_NOTICE, R47, R184, R185. -/
def execLoadNotice (core : Fin 288) (cls : Fin 16) (density lead : BitVec 8) (engines : BitVec 4) (s : State) : Outcome :=
  let n := core.val
  let c := clusterOf n
  if !s.coreOn n then .next s
  else if !s.isActive 3 || s.appliedF F.clcFfEn == 0 then .next (s.incF (F.clcCLnAccepted c))
  else if 4 ≤ (s.cpa n).queue.length then .next (s.incF (F.clcCLnRefused c))
  else
    let s := s.incF (F.clcCLnAccepted c)
    let m := engineCount engines.toNat
    let d := noticeDelta (s.appliedF (F.clcClass cls.val)) m (s.appliedF F.clcFfDfloor) density.toNat
    .next (if m = 0 then s
    else s.setCpa n fun v => { v with queue := v.queue ++ [⟨(s.beat + lead.toNat) % 2 ^ 48, d⟩] })

/-- The distance of two 48-bit stamps. -/
def stampGap (a b : Nat) : Nat :=
  min ((a + (2 ^ 48 - b % 2 ^ 48)) % 2 ^ 48) ((b + (2 ^ 48 - a % 2 ^ 48)) % 2 ^ 48)

/-- The earlier and the later of two stamps, R91. -/
def earlier (a b : Nat) : Nat := if isAfter 48 a b then b else a
def later (a b : Nat) : Nat := if isAfter 48 a b then a else b

/-- The entry nearest to a start beat; of two equally near, the one that starts earlier, R186 step 3. -/
def nearest (start : Nat) : List Forecast → Option Forecast
  | [] => none
  | e :: l => match nearest start l with
    | none => some e
    | some f =>
      let de := stampGap e.start start
      let df := stampGap f.start start
      if de < df ∨ (de = df ∧ isAfter 48 f.start e.start) then some e else some f

/-- A notice filed into a forecast table at a beat, R186; the flag says that two were merged under step 3. -/
def fileNotice (b : Nat) (t : List Forecast) (x : Notice) : List Forecast × Bool :=
  match t.find? (·.start == x.start) with
  | some e => (t.map fun f => if f = e then { f with delta := f.delta + x.delta, last := b } else f, false)
  | none =>
    if t.length < 16 then (t ++ [⟨x.start, x.delta, b, b⟩], false)
    else match nearest x.start t with
      | none => (t, false)
      | some e =>
        (t.map fun f => if f = e then
          { f with start := earlier f.start x.start, delta := f.delta + x.delta, last := b } else f, true)

/-- The cores of a cluster in the rotation that starts after one of them. -/
def rotation (c last : Nat) : List Nat := (List.range 24).map fun i => 24 * c + (last + 1 + i) % 24

/-- Notices a CLC has taken in the present tick, R186. -/
def State.noticesTaken (s : State) (c : Nat) : Nat := if (s.clc c).tookAt = s.now then (s.clc c).took else 0

/-- CLC_NOTICE_TAKE, R186: at most four notices in a tick, each the oldest of its CPA. -/
def execClcNoticeTake (cluster : Fin 12) (s : State) : Outcome :=
  let c := cluster.val
  if !s.clusterOn c then .next s
  else
    let offers := ((rotation c (s.clc c).lastTake).filter fun n => !(s.cpa n).queue.isEmpty).take (4 - s.noticesTaken c)
    .next (s.forEach offers fun s n =>
      match (s.cpa n).queue with
      | [] => s
      | x :: q =>
        let s := s.setCpa n fun v => { v with queue := q }
        let r := fileNotice s.beat (s.clc c).table x
        let s := s.setClc c fun v => { v with
          table := r.1, lastTake := n % 24, tookAt := s.now, took := s.noticesTaken c + 1 }
        s.when r.2 (·.incF (F.clcCFcMerged c)))

/-- The last beat in which an entry counts, R187. -/
def lastBeat (hold : Nat) (e : Forecast) : Nat := (later e.start e.last + (max 1 hold) + 2 ^ 48 - 1) % 2 ^ 48

/-- Whether an entry counts in a beat, R187. -/
def counts (lead hold b : Nat) (e : Forecast) : Bool :=
  let first := later e.first ((e.start + (2 ^ 48 - lead)) % 2 ^ 48)
  !isAfter 48 first b && !isAfter 48 b (lastBeat hold e)

/-- The coupling raise of a rail ends CPL.HOLD beats after the beat of the last cluster release that it covers, R188. -/
def State.endCoupling (s : State) (k : Nat) : State :=
  match (s.rail k).cplLast with
  | none => s
  | some b =>
    if isAfter 48 (b + s.appliedF F.clcCplHold) s.beat then s
    else (s.setF (F.clcRaiseKCpl k) 0).setRail k fun r => { r with cplLast := none }

/-- The forecast tables and raise_pp of a CORE rail at a tick 0, R186, R187; a pending coupling notice takes effect, or a
coupling raise that has run its time ends, in the command of this tick 0 (R188). DEDUCED (log 78): a raise is in force from the
tick 0 at which it takes effect until the next at least, also where CPL.HOLD beats after the release have passed by then. -/
def State.raiseTick0 (s : State) (k : Nat) : State :=
  let b := s.beat
  let lead := s.appliedF F.clcPreposLead
  let hold := s.appliedF F.clcPreposHold
  let s := s.forEach (List.range 3) fun s i =>
    let c := 3 * k + i
    let s := s.setClc c fun v => { v with table := v.table.filter fun e => !isAfter 48 b (lastBeat hold e) }
    s.when (s.clusterOn c) fun s =>
      s.satF (F.clcCFcNext c) (sumNat (((s.clc c).table.filter (counts lead hold b)).map (·.delta)))
  let di := sumNat ((List.range 3).map fun i =>
    sumNat (((s.clc (3 * k + i)).table.filter (counts lead hold b)).map (·.delta)))
  let pp := min (ceilDiv (s.appliedF (F.railLoadlineRll k) * di * s.appliedF F.clcPreposFrac) 32000)
    (2 * s.appliedF F.clcPreposMax)
  let s := s.setF (F.clcRaiseKPp k) pp
  if (s.rail k).cplNext then
    (s.setF (F.clcRaiseKCpl k) (2 * s.appliedF F.clcCplRaise)).setRail k fun r => { r with cplNext := false }
  else s.endCoupling k

/-- COUPLING_RAISE_END, R188: where a tick 0 has not ended it already, as when CPL.HOLD has been lowered since. -/
def execCouplingRaiseEnd (rail : Fin 4) (s : State) : Outcome := .next (s.endCoupling rail.val)

/-! ### Issue ramps and wait filler, R190 to R195 -/

/-- Whether wait filler applies: SERVICE mode, DROOP active (R193, R197). -/
def State.fillerMode (s : State) : Bool := s.getF F.gctlModeCurrent == 2 && s.isActive 3

/-- FILL_SLOTS: the mean, rounded to nearest, of the waiting matrix engines' averages. DESIGN CHOICE (log 78): R193 does not
say which way a mean half way between two integers goes, and it is rounded up. -/
def fillSlots (c : Cpa) : Nat :=
  let l := indexes 4 (bitOf c.swait)
  if l.isEmpty then 0 else roundDiv (sumNat (l.map fun e => Store.read (fun _ => 0) c.average e)) (12 * l.length)

/-- The average issue of a matrix engine over its last complete windows, in twelfths. -/
def averageIssue (c : Cpa) (e : Nat) : Nat :=
  let n := c.windows.length
  if n = 0 then 0 else 12 * sumNat (c.windows.map fun w => w.getD e 0) / n

/-- FILL_SLOTS recomputed, R193. -/
def State.refill (s : State) (n : Nat) : State :=
  s.satF (F.cpaFillSlots n) (if (s.cpa n).filler then fillSlots (s.cpa n) else 0)

/-- An engine of a core enters a wait: its SWAIT bit rises, R193, R195. DESIGN CHOICE (log 54): where waits of several
engines overlap, CPA.FILL.WINDOWS and the count of R194 begin with the first matrix engine that waits; an engine that joins,
a vector engine or the sequencer does not restart them. That first one takes the handling of the mode of the present tick. -/
def State.enterWait (s : State) (n e : Nat) : State :=
  let first := decide (e < 4) && (s.cpa n).swait % 16 == 0
  let s := s.setCpa n fun c =>
    { c with swait := setBit c.swait e
             average := Store.write (fun _ => 0) c.average e (averageIssue c e)
             filler := if first then s.fillerMode else c.filler
             fillRun := if first then 0 else c.fillRun }
  (s.when first (·.setF (F.cpaFillWindows n) 0)).refill n

/-- An engine of a core leaves its wait; `coupled` when a coupled release resumes it (R192). -/
def State.leaveWait (s : State) (n e : Nat) (coupled : Bool) : State :=
  let s := s.setCpa n fun c =>
    { c with swait := clearBit c.swait e
             waitAll := c.waitAll && decide (4 ≤ e)
             cplStart := c.cplStart || coupled }
  s.refill n

/-- Whether a core runs its filler, R193. -/
def State.filling (s : State) (n : Nat) : Bool := (s.cpa n).filler && (s.cpa n).swait % 16 != 0

/-- The handling of the mode applied to a core's waits in progress at a WIN_START, R367: into SERVICE, FILL_SLOTS from the
averages kept, and the decay count and CPA.FILL.WINDOWS from 0; out of it, no filler. -/
def State.takeMode (s : State) (n : Nat) : State :=
  if (s.cpa n).filler = s.fillerMode then s
  else ((s.setCpa n fun c => { c with filler := s.fillerMode, fillRun := 0 }).setF (F.cpaFillWindows n) 0).refill n

/-- ISSUE_WINDOW_START, R190, R192, R367; a window of filler counts toward R194. -/
def execIssueWindowStart (core : Fin 288) (issued : List Nat) (s : State) : Outcome :=
  let n := core.val
  if !s.coreOn n then .next s
  else
    let s := s.takeMode n
    let u := (issued.take 4).foldl max 0
    let u := if (s.cpa n).cplStart then max u (slots32 (s.appliedF F.clcDidtCplStart)) else u
    let active := s.isActive 3
    let s := s.setCpa n fun c =>
      { c with issue := u, uSum := c.uSum + (issued.take 4).foldl max 0, uCount := c.uCount + 1,
               cplStart := false, ramp := if active then min 32 (u + c.share) else 32
               windows := (issued :: c.windows).take 4, decayed := false
               fillRun := if s.filling n then c.fillRun + 1 else 0 }
    let s := s.satF (F.cpaStatusIssue n) u
    .next (s.when (s.filling n) (·.incF (F.cpaFillWindows n)))

/-- The least of a core's requests but its issue ramp's. -/
def State.otherCeiling (s : State) (n : Nat) : Nat := (leastRequest ((s.dragRequests n).filter (·.1 != 3))).2

/-- Whether a core is ramping, R190. -/
def State.isRamping (s : State) (n : Nat) : Bool := s.coreOn n && decide ((s.cpa n).issue < s.otherCeiling n)

/-- The shares of a period, R191: of the ramping cores in rotating order, the first get one slot more than the others; a
core that is not ramping gets none. -/
def State.share (s : State) (c : Nat) (l : List Nat) (base extra : Nat) : State :=
  s.forEach (coresOf c) fun s n =>
    s.setCpa n fun v => { v with share := if l.contains n then base + flag (decide (l.idxOf n < extra)) else 0 }

/-- DIDT_PERIOD, R191: the budget shared among the ramping cores, the remainder in rotating order. A period is 32 cycles of
the cluster clock, so the CPAs have shaped 32 pulses in it (R181). -/
def execDidtPeriod (cluster : Fin 12) (s : State) : Outcome :=
  let c := cluster.val
  if !s.clusterOn c then .next s
  else
    let s := s.forEach ((coresOf c).filter s.coreOn) fun s n => s.shapePeriod n
    if !s.isActive 3 then .next s
    else
      let l := (rotation c (s.clc c).lastShare).filter s.isRamping
      let r := l.length
      let budget := s.appliedF F.clcDidtBudget
      let s := (s.satF (F.clcCRampRamping c) r).share c l (budget / r) (budget % r)
      .next (if budget % r = 0 ∨ r = 0 then s
      else s.setClc c fun v => { v with lastShare := (l.getD (budget % r - 1) 0) % 24 })

/-- FILLER_DECAY, R194: at each WIN_START after 64 × DECAY consecutive windows of filler, FILL_SLOTS falls by one. -/
def execFillerDecay (core : Fin 288) (s : State) : Outcome :=
  let n := core.val
  let decay := s.appliedF F.clcFillDecay
  .next (if s.filling n && decay != 0 && decide (64 * decay ≤ (s.cpa n).fillRun) && !(s.cpa n).decayed then
    (s.setF (F.cpaFillSlots n) (s.getF (F.cpaFillSlots n) - 1)).setCpa n fun c => { c with decayed := true }
  else s)

end Sys2Proof.Machine
end

