-- ==== Sys2Proof/Machine/RealMath.lean ====
section
/-! DEFINITION. Logarithms and powers of two in fixed point, 16 fractional bits, for the exponential laws of R204 and
R450 to R453. -/
namespace Sys2Proof.Machine

/-- One squaring of a mantissa in [1, 2) held with 40 fractional bits: the next bit of its logarithm, and the rest. -/
def logStep (acc : Nat × Nat) : Nat × Nat :=
  let m := acc.2 * acc.2 / 2 ^ 40
  if 2 ^ 41 ≤ m then (2 * acc.1 + 1, m / 2) else (2 * acc.1, m)

/-- log2 of num ÷ den with 16 fractional bits; 0 when either is 0. -/
def log2Fix (num den : Nat) : Int :=
  if num = 0 ∨ den = 0 then 0
  else
    let r := num * 2 ^ 64 / den
    let e := Nat.log2 r
    let m := if 40 ≤ e then r / 2 ^ (e - 40) else r * 2 ^ (40 - e)
    let f := ((List.range 16).foldl (fun acc _ => logStep acc) (0, m)).1
    ((e : Int) - 64) * 65536 + f

/-- One squaring of a mantissa in [1, 2) held with 160 fractional bits. -/
def logStepFine (acc : Nat × Nat) : Nat × Nat :=
  let m := acc.2 * acc.2 / 2 ^ 160
  if 2 ^ 161 ≤ m then (2 * acc.1 + 1, m / 2) else (2 * acc.1, m)

/-- log2 of num ÷ den with 56 fractional bits; 0 when either is 0. -/
def log2Fine (num den : Nat) : Int :=
  if num = 0 ∨ den = 0 then 0
  else
    let r := num * 2 ^ 200 / den
    let e := Nat.log2 r
    let m := if 160 ≤ e then r / 2 ^ (e - 160) else r * 2 ^ (160 - e)
    let f := ((List.range 56).foldl (fun acc _ => logStepFine acc) (0, m)).1
    ((e : Int) - 200) * 2 ^ 56 + f

/-- 2 to the power 2^-1, 2^-2, … 2^-16, with 30 fractional bits. -/
def rootsOfTwo : List Nat :=
  [1518500250, 1276901417, 1170923762, 1121280436, 1097253708, 1085434106, 1079572136, 1076653033,
   1075196443, 1074468888, 1074105294, 1073923544, 1073832680, 1073787251, 1073764537, 1073753181]

/-- 2 to a power with 16 fractional bits, as a numerator over 2^60; 0 below 2^-60. -/
def exp2Fix (x : Int) : Nat :=
  let i := Int.fdiv x 65536
  let f := (Int.fmod x 65536).toNat
  let m := rootsOfTwo.zipIdx.foldl (fun m ri => if bitOf f (15 - ri.2) then m * ri.1 / 2 ^ 30 else m) (2 ^ 60)
  if 0 ≤ i then m * 2 ^ i.toNat else m / 2 ^ (-i).toNat

end Sys2Proof.Machine
end

