-- ==== Sys2Proof/Machine/Power.lean ====
section
/-! DEFINITION. Chapter 7: the core power meters, their calibration, the cap law and its windows, the cap in force, cap
events. -/
namespace Sys2Proof.Machine

/-! ### Package, leader, profile -/

/-- Acting as leader: strapped LEADER without a strap fault (BUD.STATUS.LEADER). -/
def State.isLeader (s : State) : Bool := s.isSet F.idConfigLeader && !s.isSet F.gctlStatusStrapFault

/-- The package cap law runs on this die: on an X1, or on the leader of an X4, R208 (PWR.STATUS.LAW). -/
def State.lawDie (s : State) : Bool := !s.isX4 || s.isLeader

/-- The package fields of this die's own profile govern it, R117, R240: it runs the law, or no GRANT has brought the leader's
since the last cold reset. -/
def State.ownGoverns (s : State) : Bool := s.lawDie || !s.links.taken

/-- Fields of this die's own active profile, Table 4.7. -/
def State.ownCapMin (s : State) : Nat := u16At s.boot.profile 0x16

/-- The governing package fields shown in PWR.PROF_A to PROF_C, R117. -/
def State.showProfile (s : State) (coolCap capMin capMax absentCap elec tau : Nat) : State :=
  (((((s.setF F.pwrProfACapMax capMax).setF F.pwrProfACapMin capMin).setF F.pwrProfBElecLimit elec).setF
    F.pwrProfBHostAbsentCap absentCap).setF F.pwrProfCTau tau).setF F.pwrProfCCoolCap coolCap

/-- The electrical peak of R208: 2,000 W on an X4, 500 W on an X1. -/
def State.electricalPeak (s : State) : Nat := if s.isX4 then 16000 else 4000

/-! ### The core power meter, R202 to R205 -/

/-- Energy of some counters, in 1/64 pJ at 0.75 V. -/
def weighed (weights counts : List Nat) : Nat := sumNat (List.zipWith (· * ·) weights counts)

/-- The live weights of a CORE rail. -/
def State.liveWeights (s : State) (k : Nat) : List Nat := (List.range 16).map fun i => s.getF (F.pwrWKiLive k i)

/-- Power in µW of an energy in 1/64 pJ over an interval of some ticks, at a sensed voltage in 0.25 mV, to within the
roundings of R204 to 1 % each. -/
def meterPower (site energy v used ticks : Nat) : Nat :=
  nearly site 31 (energy * v * v * used) (max 1 (9000000000 * ticks))

/-- The leakage factor of R204 over 2^60: (v/0.75)^(vexp/16) × 2^((t−85)/tdbl); `t64` in 1/64 °C. -/
def leakFactor (v vexp : Nat) (t64 : Int) (tdbl : Nat) : Nat :=
  if v = 0 ∧ vexp ≠ 0 then 0
  else
    exp2Fix (Int.fdiv ((vexp : Int) * log2Fix v 3000) 16 + Int.fdiv ((t64 - 5440) * 1024) (max 1 tdbl))

/-- The temperature of the meter: the control reading of the core's cluster pair, 105 °C without one. -/
def State.meterTemp (s : State) (n : Nat) : Int :=
  let t := s.getF (F.thmPairSControl (clusterOf n))
  if t = 0x8000 then 6720 else toSigned 16 t

/-- p_leak of R204 in µW. -/
def State.leakPower (s : State) (n : Nat) : Nat :=
  let k := railOf n
  let f := leakFactor (s.getF (F.railVtgtSense k)) (s.appliedF F.pwrLkgVexp) (s.meterTemp n) (s.appliedF F.pwrLkgTdbl)
  nearly 4 22 (s.getF (F.pwrLkbKLive k) * 1000 * f) (2 ^ 60)

/-- p_slot of R216 in 1/16 mW: p_mat over u_avg, or the default while u_avg is below 1. -/
def State.pSlot (s : State) (n : Nat) : Nat :=
  let c := s.cpa n
  if c.uAvg.2 = 0 ∨ c.uAvg.1 < c.uAvg.2 then s.appliedF F.pwrGrantSlotDefault
  else openDivNat 18 (c.pMat * 16 * c.uAvg.2) (1000 * c.uAvg.1)

/-- Energy added to a pair of 32-bit registers: whole µJ, with the rest kept. -/
def State.addEnergy (s : State) (lo hi : Field) (uj : Nat) : State :=
  let e := s.getF lo + 2 ^ 32 * s.getF hi + uj
  (s.setF lo e).setF hi (e / 2 ^ 32)

/-! ### Live values, R203, R206 -/

/-- The sixteen staged weights and the staged coefficient of a rail, as applied. -/
def State.stagedWeights (s : State) (k : Nat) : List Nat :=
  ((List.range 16).map fun i => s.appliedF (F.pwrWKiStage k i)) ++ [s.appliedF (F.pwrLkbKStage k)]

/-- Sixteen weights and the coefficient made live. -/
def State.setLive (s : State) (k : Nat) (l : List Nat) : State :=
  let s := s.forEach (List.range 16) fun s i => s.setF (F.pwrWKiLive k i) (l.getD i 0)
  s.setF (F.pwrLkbKLive k) (l.getD 16 0)

/-- At an enable of CAP or a profile switch, the live values are loaded: of every rail at the first enable after a cold
or wake reset, later of those whose staged values differ from those last loaded, R203. -/
def State.loadLive (s : State) : State :=
  s.forEach (List.range 4) fun s k =>
    let l := s.stagedWeights k
    if s.cap.enabled && Store.read (fun _ => []) s.cap.loaded k == l then s
    else
      let s := s.setLive k l
      { s with cap := { s.cap with loaded := Store.write (fun _ => []) s.cap.loaded k l } }

/-- A value moved by recalibration: value × (1 + (g − 1) / 2^shift), rounded, clipped to a quarter and four times its
staged value; and whether it was clipped. `gn / gd` is g. DESIGN CHOICE (log 79): where four times the staged value exceeds
what the 12-bit live field holds, the upper limit is 4,095, and a value held there counts as clipped. -/
def recalibrated (value stage gn gd shift : Nat) : Nat × Bool :=
  let x := ((value : Int) * ((gd * 2 ^ shift : Nat) + (gn : Int) - gd)).toNat
  let r := roundDiv x (gd * 2 ^ shift)
  let lo := openDivNat 23 stage 4
  let hi := min 4095 (4 * stage)
  if r < lo then (lo, true) else if hi < r then (hi, true) else (r, false)

/-- clamp(num/den, 0.5, 2.0) as a fraction; with den 0 and nothing stated, a free value of 1/4,096 units. -/
def State.gain (s : State) (num : Int) (den : Nat) : (Nat × Nat) × State :=
  if den = 0 then
    let d := s.drawFree 6145
    ((2048 + d.1, 4096), d.2)
  else if 2 * num < den then ((1, 2), s)
  else if 2 * (den : Int) < num then ((2, 1), s)
  else ((num.toNat, den), s)

/-- The energies of a rail's recalibration period are cleared for the next one. -/
def State.newPeriod (s : State) (k : Nat) : State :=
  s.setRail k fun r => { r with calM := 0, calD := 0, calL := 0, calSkip := false, calPart := false }

/-- RECALIBRATION_PERIOD, R206: the last beat of a rail's period. -/
def execRecalibrationPeriod (rail : Fin 4) (s : State) : Outcome :=
  let k := rail.val
  let r := s.rail k
  if !s.ends (intervalKey 5 k) then .next s
  else
  let s := s.reload (intervalKey 5 k)
  if !s.running 0 || r.calPart || !s.isActive 4 || s.appliedF F.pwrCalctlCalEn == 0 then .next (s.newPeriod k)
  else if r.calSkip || decide (r.calM < 4000000000) then
    .next (((s.incF (F.pwrCalKSkipped k)).setF (F.pwrCalKRatio k) 0).newPeriod k)
  else
    let dyn := decide (r.calM ≤ 4 * r.calD)
    let g := if dyn then s.gain ((r.calM : Int) - r.calL) r.calD else s.gain ((r.calM : Int) - r.calD) r.calL
    let s := g.2
    let sh := s.appliedF F.pwrCalctlShift
    let stage := s.stagedWeights k
    let live := s.liveWeights k ++ [s.getF (F.pwrLkbKLive k)]
    let new := (live.zip stage).zipIdx.map fun (x : (Nat × Nat) × Nat) =>
      if dyn == decide (x.2 < 16) then recalibrated x.1.1 x.1.2 g.1.1 g.1.2 sh else (x.1.1, false)
    let clips := (new.filter fun (y : Nat × Bool) => y.2).length
    let s := s.addF (F.pwrCalKClipped k) clips
    let s := s.when (clips != 0) (·.raise F.pwrEvt 0)
    let s := s.satF (F.pwrCalKRatio k) (openDivNat 24 (4096 * g.1.1) g.1.2)
    let s := s.trace 1 128 k (s.getF (F.pwrCalKRatio k))
    let s := { s with cap := { s.cap with liveNext := Store.write (fun _ => []) s.cap.liveNext k (new.map fun (y : Nat × Bool) => y.1) } }
    .next (s.newPeriod k)

/-- The new live values of a rail apply at a tick 0, R206. -/
def State.liveTick0 (s : State) : State :=
  let l := s.cap.liveNext
  let s := { s with cap := { s.cap with liveNext := [], beats := s.cap.beats + 1 } }
  s.forEach l fun s p => s.setLive p.1 p.2

/-! ### Cap events, R220 -/

/-- A rate-limited event: raised when its condition arises after 100 frames of absence. -/
def State.limited (s : State) (bit : Nat) (cond : Bool) : State :=
  let n := Store.read (fun _ => 100) s.cap.absent bit
  let s := s.when (cond && decide (100 ≤ n)) (·.raise F.pwrEvt bit)
  { s with cap := { s.cap with absent := Store.write (fun _ => 100) s.cap.absent bit (if cond then 0 else min 100 (n + 1)) } }

/-! ### The windows and the cap law, R207 to R212 -/

/-- E after an interval: e + (p − e) · dt / tau, in 2^-40 of 0.125 W; dt is beats ÷ USED, in ms. -/
def windowStep (site : Nat) (e : Int) (p beats used tau : Nat) : Int :=
  e + openDiv site (((p * 2 ^ 40 : Nat) - e) * beats) (max 1 (used * 1000 * tau))

/-- An E as its register shows it. -/
def showE (e : Int) : Nat := min 0xFFFF (Int.fdiv e (2 ^ 40)).toNat

/-- The average of a ring of 100, rounded down. -/
def ringMean (l : List Nat) : Nat := sumNat l / 100

/-- At the first enable of CAP after a cold or wake reset, R210 to R212. -/
def State.capInit (s : State) : State :=
  let c := s.getF F.pwrCapnowForce
  let die := openDivNat 25 c (if s.isX4 then max 1 s.dies else 1)
  let s := { s with cap := { s.cap with
    enabled := true, ePkg := (c * 2 ^ 40 : Nat)
    eDie := openDiv 26 (c * 2 ^ 40 : Nat) (if s.isX4 then max 1 s.dies else 1)
    ringPkg := List.replicate 100 c, ringDie := List.replicate 100 die, above := [] } }
  let s := (s.setF F.pwrStatusPeakState 0).setF F.pwrStatusPeakCount 0
  let s := (s.setF F.pwrWinEDie (showE s.cap.eDie)).satF F.pwrWinElecDie (ringMean s.cap.ringDie)
  if s.lawDie then (s.setF F.pwrWinEPkg (showE s.cap.ePkg)).satF F.pwrWinElecPkg (ringMean s.cap.ringPkg) else s

/-- The package cap law of R208 with the electrical peak of R211: package power in 0.125 W, length of its interval, and USED at
its end (R204). -/
def State.capLaw (s : State) (p beats used : Nat) : State :=
  let c := s.getF F.pwrCapnowForce
  let elec := s.getF F.pwrProfBElecLimit
  let peak := s.electricalPeak
  let e := windowStep 27 s.cap.ePkg p beats used (s.getF F.pwrProfCTau)
  let c40 : Int := (c * 2 ^ 40 : Nat)
  let praw := c40 + openDiv 28 ((c40 - e) * s.appliedF F.pwrCapctlBoost) 16
  let pcap := clampInt ((c * s.appliedF F.pwrCapctlFloor * 2 ^ 36 : Nat) : Int) ((peak * 2 ^ 40 : Nat) : Int) praw
  let ring := (p :: s.cap.ringPkg).take 100
  let pel := min peak (100 * elec - sumNat (ring.take 99))
  let pel := if s.getF F.pwrStatusPeakState = 2 then min pel elec else pel
  let pel40 : Int := (pel * 2 ^ 40 : Nat)
  let plim40 := min pcap pel40
  let plim40 := match s.cap.pgrant with
    | none => plim40
    | some g => min plim40 ((g * 2 ^ 40 : Nat) : Int)
  let above := (decide (((elec * 2 ^ 40 : Nat) : Int) < plim40) :: s.cap.above).take 100
  let count := above.countP id
  let plim := (Int.fdiv plim40 (2 ^ 40)).toNat
  let hot := decide (102 * c40 < 100 * e)
  let s := { s with cap := { s.cap with ePkg := e, ringPkg := ring, above := above, eRun := if hot then s.cap.eRun + 1 else 0 } }
  let s := (s.setF F.pwrWinEPkg (showE e)).satF F.pwrWinElecPkg (ringMean ring)
  let s := ((s.satF F.pwrIvlPkg p).setF F.pwrLimAPCap (showE pcap)).satF F.pwrLimAPElec pel
  let s := (s.satF F.pwrLimBPLim plim).setF F.pwrStatusElecBind (flag (decide (pel40 < pcap)))
  let s := (s.setF F.pwrStatusPeakCount count).setF F.pwrStatusPeakState
    (if 20 ≤ count then 2 else if count = 0 then 0 else 1)
  let s := (s.limited 4 (decide (pel40 < pcap))).limited 3 (decide (100 * elec < sumNat ring))
  (s.limited 2 (decide (100 ≤ s.cap.eRun))).trace 0 8 plim p

/-- The die's own window, R212, and the events every die shows. -/
def State.dieWindow (s : State) (p beats : Nat) : State :=
  let e := windowStep 29 s.cap.eDie p beats (s.getF F.tbSyncFreqUsed) (s.getF F.pwrProfCTau)
  let ring := (p :: s.cap.ringDie).take 100
  let lim := (List.range 288).any fun n => decide (s.getF (F.cpaGrantCeil n) < 32)
  let floored := s.cap.floored
  let s := { s with cap := { s.cap with eDie := e, ringDie := ring, floored := false } }
  let s := ((s.setF F.pwrWinEDie (showE e)).satF F.pwrWinElecDie (ringMean ring)).setF F.pwrStatusLimiting (flag lim)
  (s.limited 5 lim).limited 1 floored

/-! ### The cap in force, R213 to R215, R218 -/

/-- C as the FLP computes it, R213. -/
def State.capInForce (s : State) : Nat :=
  let host := s.getF F.pwrCapnowHost
  if s.isSet F.mbxHostAbsent then min host (s.getF F.pwrProfBHostAbsentCap) else host

/-- C written to PWR.CAPNOW.FORCE; a change raises CAP_CHANGED, R215. -/
def State.writeForce (s : State) (c : Nat) : State :=
  let old := s.getF F.pwrCapnowForce
  (s.setF F.pwrCapnowForce c).when (old != c) (·.raise F.pwrEvt 6)

/-- CAP_OVERRIDE_WRITE, R218. -/
def execCapOverrideWrite (writer : Writer) (value : Word) (s : State) : Outcome :=
  .next (if writer = .flp || (writer = .host && s.overrideMode) then s.setF F.pwrOvrSlots value.toNat else s)

end Sys2Proof.Machine
end

