-- ==== Sys2Proof/Machine/Modes.lean ====
section
/-! DEFINITION. Operating modes (R19, R397): a change of mode, and the word of GCTL.MODE. -/
namespace Sys2Proof.Machine

/-- The 32-bit word of GCTL.MODE. -/
def State.modeWord (s : State) : Nat :=
  s.getF F.gctlModeChanges * 65536 + s.getF F.gctlModePrevious * 16 + s.getF F.gctlModeCurrent

/-- The die's mode becomes another; waits in progress follow its rule from the next WIN_START of their core, R367. -/
def State.enterMode (s : State) (m : Nat) : State :=
  if s.getF F.gctlModeCurrent = m then s
  else
    let s := (s.setF F.gctlModePrevious (s.getF F.gctlModeCurrent)).setF F.gctlModeCurrent m
    let s := s.incF F.gctlModeChanges
    s.trace 0 4 s.modeWord 0

end Sys2Proof.Machine
end

