-- ==== Sys2Proof/Machine/Budget.lean ====
section
/-! DEFINITION. Chapter 8: the water-fill of R231, core grants, die-budget frames, the inter-die link and the package
budget port. Powers are in 0.125 W; a core's in mW. -/
namespace Sys2Proof.Machine

/-! ### The water-fill, R231, R232 -/

/-- A receiver of a distribution: what it has, the lesser of its want and its cap, the group whose joint cap it shares. -/
structure Receiver where
  got   : Nat
  lim   : Nat
  group : Nat := 0
  deriving DecidableEq, Repr

/-- What a group has been given. -/
def groupSum (l : List Receiver) (g : Nat) : Nat := sumNat ((l.filter (·.group == g)).map (·.got))

/-- Receivers given their shares of a pass, in ascending order, as far as their groups' room allows. -/
def spend (share : Nat) (caps : List Nat) : List Receiver → List Receiver → List Receiver
  | done, [] => done
  | done, r :: rest =>
    let room := caps.getD r.group 0 - groupSum (done ++ r :: rest) r.group
    spend share caps (done ++ [{ r with got := r.got + min (min share (r.lim - r.got)) room }]) rest

/-- The passes of R231 over the spare; `caps` gives each group's joint cap. Every pass satisfies a receiver, fills a group
or leaves less than one unit each, so the number of passes is bounded. -/
def fillPasses (pool : Nat) (caps : List Nat) : Nat → List Receiver → List Receiver
  | 0, l => l
  | n + 1, l =>
    let m := (l.filter fun r => decide (r.got < r.lim) && decide (groupSum l r.group < caps.getD r.group 0)).length
    let share := (pool - sumNat (l.map (·.got))) / m
    if m = 0 ∨ share = 0 then l else fillPasses pool caps n (spend share caps [] l)

/-- The first pass scaled down in proportion where a group exceeds its cap, R232. -/
def scaleDown (caps : List Nat) (l : List Receiver) : List Receiver :=
  l.map fun r =>
    let sum := groupSum l r.group
    let c := caps.getD r.group 0
    if c < sum then { r with got := r.got * c / sum } else r

/-- A distribution of a pool: claims, lesser of want and cap, group of each receiver, and the groups' caps. -/
def waterFill (pool : Nat) (caps : List Nat) (l : List (Nat × Nat × Nat)) : List Nat :=
  let first := l.map fun x => (⟨min x.2.1 x.1, x.2.1, x.2.2⟩ : Receiver)
  (fillPasses pool caps (l.length + 10) (scaleDown caps first)).map (·.got)

/-! ### Core grants, R216, R227 to R231 -/

/-- MIN_SLOTS, where 0 acts as 1 and values above 32 as 32. -/
def State.minSlots (s : State) : Nat := max 1 (slots32 (s.appliedF F.pwrGrantMinSlots))

/-- p_oth + p_leak of a core, mW. -/
def State.basePower (s : State) (n : Nat) : Nat := s.getF (F.cpaPwrDynOther n) + s.getF (F.cpaPwrLeak n)

/-- Whether a core is relay-waiting, R230. -/
def State.relayWaiting (s : State) (n : Nat) : Bool :=
  s.getF F.gctlModeCurrent != 2 && (s.cpa n).waitAll && (s.cpa n).swait % 16 == 15

/-- The want of a core in mW, R229. -/
def State.coreWant (s : State) (n : Nat) : Nat :=
  if s.relayWaiting n then s.getF (F.cpaPwrTotal n) else s.basePower n + 2 * s.pSlot n

/-- The grant ceiling of R216 for a grant in mW; a grant of none is unlimited. The quotient by a p_slot of 0 is free. -/
def State.grantCeil (s : State) (n : Nat) (g : Option Nat) : Nat × State :=
  match g with
  | none => (32, s)
  | some g =>
    let base := s.basePower n
    if g ≤ base then (s.minSlots, s)
    else
      let ps := s.pSlot n
      if ps = 0 then
        let d := s.drawFree (33 - s.minSlots)
        (s.minSlots + d.1, d.2)
      else (clampNat s.minSlots 32 ((g - base) * 16 / ps), s)

/-- A ceiling set to min_slots under R216 raises GRANT_FLOOR, rate-limited. -/
def State.noteFloor (s : State) : State :=
  let n := Store.read (fun _ => 100) s.cap.absent 1
  let s := s.when (decide (100 ≤ n)) (·.raise F.pwrEvt 1)
  { s with cap := { s.cap with absent := Store.write (fun _ => 100) s.cap.absent 1 0, floored := true } }

/-- A core takes its grant; the ceiling binds from the next tick, R28. -/
def State.takeGrant (s : State) (n : Nat) (g : Option Nat) : State :=
  let r := s.grantCeil n g
  let s := r.2
  let s := ((s.keepLate (F.cpaGrantCeil n)).setF (F.cpaGrantG n) (match g with
    | none => 0xFFFF
    | some g => min 0xFFFE g)).setF (F.cpaGrantCeil n) r.1
  match g with
  | some g => s.when (decide (g ≤ s.basePower n)) State.noteFloor
  | none => s

/-- The cluster budget in force for a CLC: the first core-grant frame after a distribution takes it up, R228. -/
def State.clusterBudget (s : State) (c : Nat) : Nat :=
  if s.links.clbBeat = some s.beat then Store.read (fun _ => 0) s.links.clbOld c else s.getF (F.budClbBudget c)

/-- A CLC's part of its core-grant frame, R216, R227 to R231: no grant request before CAP is first enabled (R224), and
unlimited grants until the first cluster budgets are in force. -/
def State.coreGrants (s : State) (c : Nat) : State :=
  if !s.clusterOn c || !s.isActive 4 then s
  else
    let cores := (coresOf c).filter s.coreOn
    let wants := cores.map s.coreWant
    let pool := s.clusterBudget c * 125
    let grants : List (Option Nat) :=
      if !s.links.distributed || s.links.firstBeat == some s.beat then cores.map fun _ => none
      else (waterFill pool [pool] (wants.map fun w => (pool / cores.length, w, 0))).map some
    let s := s.satF (F.budClbWant c) (ceilDiv (sumNat wants) 125)
    let s := s.forEach (cores.zip grants) fun s ng => s.takeGrant ng.1 ng.2
    s.forEach cores fun s n => s.setCpa n fun v => { v with waitAll := v.swait % 16 == 15 }

/-! ### Frames, R236 -/

/-- One bit of CRC-16, polynomial 0x1021, not reflected. -/
def crc16Bit (c : Nat) : Nat := if 0x8000 ≤ c then (2 * c ^^^ 0x1021) % 65536 else 2 * c

/-- CRC-16 of a byte string, initial value 0xFFFF. -/
def crc16 (b : List Byte) : Nat :=
  b.foldl (fun c x => (List.range 8).foldl (fun c _ => crc16Bit c) (c ^^^ (x.toNat * 256))) 0xFFFF

/-- A 16-bit number, most significant byte first. -/
def be16 (n : Nat) : List Byte := [BitVec.ofNat 8 (n / 256), BitVec.ofNat 8 n]

/-- A 16-bit number at an offset of a frame. -/
def be16At (b : List Byte) (off : Nat) : Nat := 256 * byteAt b off + byteAt b (off + 1)

/-- A frame of a type with its payload, Table 8.3. -/
def makeFrame (typ seq : Nat) (payload : List Byte) : List Byte :=
  let body := [BitVec.ofNat 8 (0x20 + typ), BitVec.ofNat 8 (payload.length + 6), BitVec.ofNat 8 seq] ++ payload
  [0xA5] ++ body ++ be16 (crc16 body)

/-- A frame sent on a port: its SEQ, and the bytes last sent. -/
def State.sendFrame (s : State) (port typ : Nat) (payload : List Byte) : State :=
  let q := Store.read (fun _ => 0) s.links.seq port
  { s with links := { s.links with
    seq := Store.write (fun _ => 0) s.links.seq port ((q + 1) % 256)
    sent := Store.write (fun _ => []) s.links.sent port (makeFrame typ q payload) } }

/-- The results of the tests of R236. -/
inductive FrameTest where
  | valid | badLength | badCrc | badVersion
  deriving DecidableEq, Repr

/-- The fewest bytes of each type, Table 8.4. -/
def minLength (typ : Nat) : Nat := if typ = 3 then 16 else if typ = 4 ∨ typ = 5 then 32 else 20

/-- The tests of R236 on a frame that begins with START, for the types its receiver expects. -/
def testFrame (expected : List Nat) (b : List Byte) : FrameTest :=
  let len := byteAt b 2
  let typ := byteAt b 1 % 16
  if len < 16 ∨ 64 < len then .badLength
  else if crc16 ((List.range (len - 3)).map fun i => b.getD (i + 1) 0) ≠ be16At b (len - 2) then .badCrc
  else if byteAt b 1 / 16 ≠ 2 ∨ !expected.contains typ then .badVersion
  else if len < minLength typ then .badLength
  else .valid

/-! ### Strap fault, R69 -/

/-- Own package fields take over as governing: a die alone, or the leader. -/
def State.showOwnProfile (s : State) : State :=
  let b := s.boot.profile
  s.showProfile (u16At b 0x14) (u16At b 0x16) (u16At b 0x18) (u16At b 0x1C) (u16At b 0x1E) (byteAt b 0x20)

/-- A strap fault is found: RECOVERY, the error cause, and the die alone until the next cold reset, R69, R240. -/
def State.strapFault (s : State) : State :=
  if s.isSet F.gctlStatusStrapFault then s.setF F.gctlErrStrapFault 1
  else
    let s := ((s.setF F.gctlStatusStrapFault 1).setF F.gctlErrStrapFault 1).setF F.budStatusAutonomous 1
    let s := s.forEach (List.range 3) fun s p => s.setF (F.budIdlPUp p) 0
    let s := { s.showOwnProfile.setF F.budStatusPbpState 0 with
      links := { s.links with followed := false, grant := none }, cap := { s.cap with pgrant := none } }
    (s.when (s.isSet F.gctlStatusBootDone) (·.enterMode 4)).settleFleet

/-! ### Link start, die budgets, R234, R235, R240 -/

/-- Link start, R235: at the first tick 0 at which CAP is enabled after a cold reset. -/
def State.linkStart (s : State) : State :=
  if s.links.started then s
  else
    let s := { s with links := { s.links with started := true, identityEnd := some (s.beatIn 100000) } }
    let s := s.setF F.budStatusAutonomous (flag (s.isSet F.gctlStatusStrapFault || (s.isX4 && !s.isLeader)))
    if s.isX4 && !s.isLeader then s else s.setF (F.budLdSState (s.getF F.idConfigDieId)) 1

/-- b_auto of R240, shown in BUD.AUTO.LIMIT and taken as the die budget received. -/
def State.autoBudget (s : State) : State :=
  let n := max 1 s.dies
  let capMin := if s.isSet F.gctlStatusStrapFault then s.ownCapMin else s.getF F.pwrProfACapMin
  let elec := if s.isSet F.gctlStatusStrapFault then u16At s.boot.profile 0x1E else s.getF F.pwrProfBElecLimit
  let pel := min 4000 (100 * elec / n - sumNat (s.cap.ringDie.take 99))
  let b := min (capMin / n) pel
  let s := { s with links := { s.links with budgeted := true } }
  (s.satF F.budAutoLimit b).satF F.budDiebReceived b

/-- The fixed grant a_d of a die, R238. -/
def State.fixedGrant (s : State) (d : Nat) : Nat :=
  if s.isSet (F.budLdSTrip d) then 0 else s.getF F.pwrProfACapMin / max 1 s.dies

/-- The state of one other die at a die-budget frame, Table 8.6; the loss itself is DIE_LOST. -/
def State.dieFrame (s : State) (d : Nat) : State :=
  let st := s.getF (F.budLdSState d)
  let fixed := fun (s : State) => (s.satF (F.budLdAPower d) (s.fixedGrant d)).satF (F.budLdBGrant d) (s.fixedGrant d)
  if s.links.fresh.contains d then
    let b := Store.read (fun _ => []) s.links.reports d
    let s := s.when (st == 3) (·.raise F.budEvt 4)
    let s := ((s.setF (F.budLdSState d) 1).setF (F.budLdSMissed d) 0).setF (F.budLdAPower d) (be16At b 6)
    let s := (s.setF (F.budLdAWant d) (be16At b 8)).setF (F.budLdBLimit d) (be16At b 10)
    s.setF (F.budLdSFloor d) (be16At b 12)
  else if st == 1 then
    ((s.setF (F.budLdSState d) 2).setF (F.budLdSMissed d) 1).setF (F.budLdAWant d) (s.getF (F.budLdBLimit d))
  else if st == 2 then
    let s := s.incF (F.budLdSMissed d)
    if s.appliedF F.budCfgReportTo ≤ s.getF (F.budLdSMissed d) then fixed s else s
  else fixed s

/-- The payload of an IDENTITY frame, Table 8.5. -/
def State.identityPayload (s : State) (port : Nat) : List Byte :=
  [BitVec.ofNat 8 (s.getF F.idConfigDieId * 64 + s.getF F.idConfigLeader * 32 + s.getF F.gctlStatusStrapFault * 16),
   BitVec.ofNat 8 port, BitVec.ofNat 8 (flag (s.links.heard.contains port)), 0x02] ++ List.replicate 6 0

/-- The payload of a REPORT frame. -/
def State.reportPayload (s : State) (port : Nat) : List Byte :=
  let trip := s.pins.thermTrip || (List.range 8).any fun k => s.isSet (F.railStatusRailFault k)
  let drag := (List.range 8).any fun k => s.isSet (F.railStatusPldrag k)
  [BitVec.ofNat 8 (Store.read (fun _ => 0) s.links.ack port),
   BitVec.ofNat 8 (128 * flag trip + 64 * flag drag + s.getF F.gctlModeCurrent)]
    ++ be16 (s.getF F.pwrIvlDie) ++ be16 (s.getF F.budDierepAWant) ++ be16 (s.getF F.budDierepALimit)
    ++ be16 (s.getF F.budDierepBFloor) ++ be16 (s.getF F.pwrWinEDie) ++ be16 (s.getF F.pwrWinElecDie)
    ++ List.replicate 12 0

/-- The payload of a GRANT frame with a die budget. -/
def State.grantPayload (s : State) (port budget : Nat) : List Byte :=
  [BitVec.ofNat 8 (Store.read (fun _ => 0) s.links.ack port),
   BitVec.ofNat 8 (128 * s.getF F.mbxHostAbsent + 64 * flag (s.getF F.budStatusPbpState == 1) + s.getF F.gctlProfileActive)]
    ++ be16 budget ++ be16 (s.getF F.pwrCapnowForce) ++ be16 (s.getF F.pwrCapnowHost)
    ++ be16 (s.getF F.pwrProfCCoolCap) ++ be16 (s.getF F.pwrProfACapMin) ++ be16 (s.getF F.pwrProfACapMax)
    ++ be16 (u16At s.boot.profile 0x1A) ++ be16 (s.getF F.pwrProfBHostAbsentCap) ++ be16 (s.getF F.pwrProfBElecLimit)
    ++ [BitVec.ofNat 8 (s.getF F.pwrProfCTau)] ++ List.replicate 5 0

/-- The die behind a port, R68. -/
def State.peerOf (s : State) (port : Nat) : Nat := (s.getF F.idConfigDieId + port + 1) % 4

/-- IDENTITY frames at a die-budget frame, R237. -/
def State.sendIdentities (s : State) : State :=
  let due := decide (999 ≤ s.links.idle)
  let s := { s with links := { s.links with idle := if due then 0 else s.links.idle + 1 } }
  s.forEach (List.range 3) fun s p =>
    let between := !s.isLeader && s.links.heard.contains p && !s.isSet (F.budIdlPPeerLeader p)
    if !s.isSet (F.budIdlPUp p) || (between && due) then s.sendFrame p 3 (s.identityPayload p) else s

/-- The die wants, limit and floor of R229, at a frame, with P_nc. -/
def State.measureDie (s : State) (pnc : Nat) : State :=
  let want := sumNat ((indexes 12 s.clusterOn).map fun c => s.getF (F.budClbWant c)) + pnc
  let limit := openDivNat 32 (sumNat ((List.range 8).map fun k =>
    s.lateF (F.railIlimEffLimit k) * s.lateF (F.railVtgtTarget k))) 4000
  let floors := sumNat ((indexes 288 s.coreOn).map fun n => 16 * s.basePower n + s.minSlots * s.pSlot n)
  let s := (s.satF F.budDierepAWant want).satF F.budDierepALimit limit
  (s.satF F.budDierepBFloor (pnc + openDivNat 33 floors 2000)).satF F.budDierepBPNc pnc

/-- Cluster budgets from the die budget in force, Table 8.2, R232. -/
def State.distribute (s : State) : State :=
  let s := s.setF F.budDiebForce (s.getF F.budDiebReceived)
  let pool := s.getF F.budDiebForce - s.getF F.budDierepBPNc
  let on := indexes 12 s.clusterOn
  let caps := (List.range 4).map fun k =>
    s.lateF (F.railIlimEffLimit k) * s.lateF (F.railVtgtTarget k) * s.appliedF F.budMarginRailFrac
      * s.lateF (F.railcDerateKFrac k) / (4000 * 256)
  let g := waterFill pool caps (on.map fun c => (pool / on.length, s.getF (F.budClbWant c), c / 3))
  let old := s.forEach (List.range 12) fun s c =>
    { s with links := { s.links with clbOld := Store.write (fun _ => 0) s.links.clbOld c (s.getF (F.budClbBudget c)) } }
  let s := s.forEach (List.range 12) fun s c => s.setF (F.budClbBudget c) 0
  let s := s.forEach (on.zip g) fun s cg => s.satF (F.budClbBudget cg.1) cg.2
  let first := if s.links.distributed then none else some s.beat
  { s with links := { s.links with
    clbOld := old.links.clbOld, clbBeat := some s.beat, distributed := true, firstBeat := first } }

/-- The die budgets the leader holds, scaled down in proportion when their sum exceeds plim, R234. -/
def State.heldGrants (s : State) : List Nat :=
  let l := (List.range (min 4 s.dies)).map fun d => s.getF (F.budLdBGrant d)
  let plim := s.getF F.pwrLimBPLim
  let sum := sumNat l
  if s.links.ruled && decide (plim < sum) then l.map fun g => g * plim / sum else l

/-- The leader's own die in its view, R250: the power that the cap law uses of it, its want, limit and floor. -/
def State.viewOwn (s : State) : State :=
  let me := s.getF F.idConfigDieId
  let own := match s.cap.before with
    | some x => x.1
    | none => s.getF F.pwrIvlDie
  let s := ((s.setF (F.budLdSState me) 1).satF (F.budLdAPower me) own).setF (F.budLdAWant me) (s.getF F.budDierepAWant)
  (s.setF (F.budLdBLimit me) (s.getF F.budDierepALimit)).setF (F.budLdSFloor me) (s.getF F.budDierepBFloor)

/-- The leader's part of a die-budget frame on an X4, R207, R234, R238. -/
def State.leaderFrame (s : State) : State :=
  let me := s.getF F.idConfigDieId
  let n := min 4 s.dies
  let s := (s.forEach ((List.range n).filter (· != me)) State.dieFrame).viewOwn
  let s := { s with links := { s.links with fresh := [] } }
  let held := s.heldGrants
  let s := s.forEach (List.range 3) fun s p =>
    let d := s.peerOf p
    if s.isSet (F.budIdlPUp p) && decide (d < n) && s.links.written.contains d then
      s.sendFrame p 5 (s.grantPayload p (held.getD d 0))
    else s
  if s.links.written.contains me then
    { s.satF F.budDiebReceived (held.getD me 0) with links := { s.links with budgeted := true } }
  else s.autoBudget

/-- Package power of R207: the powers the leader counts for the dies. -/
def State.packagePower (s : State) : Nat :=
  if s.isX4 then sumNat ((List.range (min 4 s.dies)).map fun d => s.getF (F.budLdAPower d))
  else match s.cap.before with
    | some x => x.1
    | none => 0

/-- The cap law at a frame, with the power and length of the interval before the one that has just ended, R207, R208. -/
def State.lawFrame (s : State) : State :=
  match s.cap.before with
  | none => s
  | some x =>
    let p := s.packagePower
    let s := s.capLaw p x.2.1 x.2.2
    { s with links := { s.links with ruled := true, usedSum := s.links.usedSum + p, usedN := s.links.usedN + 1 } }

/-- The package fields of the GRANT received since the last frame govern from this one, before it uses any, R117, R247. -/
def State.adoptGrant (s : State) : State :=
  match s.links.grant with
  | some b =>
    let s := s.showProfile (be16At b 12) (be16At b 14) (be16At b 16) (be16At b 20) (be16At b 22) (byteAt b 24)
    { s with links := { s.links with taken := true } }
  | none => s

/-- A non-leader's part of a die-budget frame: a GRANT received, or one more without, R239, R240; its REPORT. -/
def State.followerFrame (s : State) : State :=
  let s := match s.links.grant with
    | some _ => { s with links := { s.links with grant := none, missed := 0 } }
    | none => if s.links.followed then { s with links := { s.links with missed := s.links.missed + 1 } } else s
  let alone := s.isSet F.budStatusAutonomous || decide (s.appliedF F.budCfgReportTo ≤ s.links.missed)
  let s := s.when alone State.autoBudget
  s.forEach (List.range 3) fun s p =>
    if s.isSet (F.budIdlPUp p) && s.isSet (F.budIdlPPeerLeader p) then s.sendFrame p 4 (s.reportPayload p) else s

/-- The frames of the link at the end of a die-budget interval, and what they carry, R234 to R240: also while CAP is not
active after a wake reset, since the link runs on (R235). -/
def State.linkFrame (s : State) : State :=
  if !s.isX4 then s
  else if s.isSet F.gctlStatusStrapFault then s.autoBudget
  else (if s.isLeader then s.leaderFrame else s.followerFrame).sendIdentities

/-- The windows, the cluster budgets, the link and the cap law at a die-budget frame: die power, and beats it covers. -/
def State.budgetFrame (s : State) (die beats : Nat) : State :=
  let s := s.dieWindow die beats
  let s := s.when s.links.budgeted State.distribute
  let s := s.linkFrame
  let s := s.when (!s.isX4) fun s =>
    let s := s.when s.isLeader State.viewOwn
    if s.isSet F.gctlStatusStrapFault then s.autoBudget
    else if s.links.ruled then
      { s.setF F.budDiebReceived (s.getF F.pwrLimBPLim) with links := { s.links with budgeted := true } }
    else s
  let s := s.when s.lawDie State.lawFrame
  { s with cap := { s.cap with before := some (die, beats, s.getF F.tbSyncFreqUsed) } }

/-- A die-budget interval ends, R207 to R212, R227 to R240. -/
def State.dieBudgets (s : State) : State :=
  let beats := s.cap.beats
  let die := openDivNat 30 s.cap.sumDie (max 1 beats)
  let pnc := openDivNat 31 s.cap.sumNc (max 1 beats) + s.appliedF F.budMarginNcMargin
  let s := { s.satF F.pwrIvlDie die with
    cap := { s.cap with sumDie := 0, sumNc := 0, beats := 0 }
    model := { s.model with diePower := s.model.diePower + die, frames := s.model.frames + 1 } }
  let s := s.adoptGrant.measureDie pnc
  if s.isActive 4 then s.budgetFrame die beats else s.when s.links.started State.linkFrame

/-! ### Die budgets by the FLP, R234 -/

/-- Die budgets written by the running FLP of an X4's leader, from the plim of the last frame, R231, R234. -/
def State.writeDieBudgets (s : State) : State :=
  let n := min 4 s.dies
  if !s.running 0 || !s.isX4 || !s.isLeader || !s.links.ruled then s
  else
    let st := fun d => s.getF (F.budLdSState d)
    let fixed := sumNat (((List.range n).filter fun d => st d == 0 || st d == 3).map s.fixedGrant)
    let pool := s.getF F.pwrLimBPLim - fixed
    let rx := (List.range n).filter fun d => st d == 1 || st d == 2
    let weight := fun d => bitsOf (s.appliedF F.budDieW) (8 * d) 8
    let total := sumNat (rx.map weight)
    let draw := s.drawFree (pool / max 1 rx.length + 1)
    let s := if total = 0 then draw.2 else s
    let g := waterFill pool [pool] (rx.map fun d =>
      ((if total = 0 then draw.1 else pool * weight d / total),
       min (s.getF (F.budLdAWant d)) (s.getF (F.budLdBLimit d)), 0))
    let s := s.forEach (rx.zip g) fun s dg => s.satF (F.budLdBGrant dg.1) dg.2
    let s := s.trace 1 130 0 0
    { s with links := { s.links with written := (s.links.written ++ rx).eraseDups } }

/-! ### Frames received on the IDL ports, R236 to R239 -/

/-- The types a die expects on an IDL port. -/
def State.expectedTypes (s : State) (port : Nat) : List Nat :=
  if s.isLeader then [3, 4]
  else if s.links.heard.contains port && !s.isSet (F.budIdlPPeerLeader port) then [3] else [3, 5]

/-- A frame received on an IDL port: discarded and counted when a test fails; a valid one of the type asked is applied. -/
def State.idlReceive (s : State) (port typ : Nat) (b : List Byte) (apply : State → State) : State :=
  if !s.links.started || !s.isX4 || s.isSet F.gctlStatusStrapFault || byteAt b 0 != 0xA5 then s
  else match testFrame (s.expectedTypes port) b with
    | .badCrc => s.incF (F.budIdlPCrc port)
    | .badLength | .badVersion => s.incF (F.budIdlPBad port)
    | .valid =>
      if byteAt b 1 % 16 = typ then
        apply { s with links := { s.links with ack := Store.write (fun _ => 0) s.links.ack port (byteAt b 3) } }
      else s

/-- An identity received, R69, R237. -/
def State.identityReceived (s : State) (port : Nat) (b : List Byte) : State :=
  let id := byteAt b 4 / 64
  let lead := bitOf (byteAt b 4) 5
  let up := s.isSet (F.budIdlPUp port)
  let s := ((s.setF (F.budIdlPPeerId port) id).setF (F.budIdlPPeerLeader port) (flag lead)).setF (F.budIdlPUp port)
    (flag (!up && bitOf (byteAt b 6) 0))
  let s := { s with links := { s.links with
    heard := if s.links.heard.contains port then s.links.heard else port :: s.links.heard
    ids := Store.write (fun _ => 0) s.links.ids port (byteAt b 4) } }
  let leaders := countBelow 3 fun p => s.links.heard.contains p && s.isSet (F.budIdlPPeerLeader p)
  if id ≠ s.peerOf port ∨ 1 < leaders + s.getF F.idConfigLeader then s.strapFault else s

/-- DIE_LOST, R238: a MISSING die whose REPORTs have been missing for REPORT_TO frames. -/
def execDieLost (die : Fin 4) (s : State) : Outcome :=
  let d := die.val
  .next (if s.isLeader && s.getF (F.budLdSState d) == 2
      && decide (s.appliedF F.budCfgReportTo ≤ s.getF (F.budLdSMissed d)) then
    let s := (s.setF (F.budLdSState d) 3).raise F.budEvt 5
    (s.satF (F.budLdAPower d) (s.fixedGrant d)).satF (F.budLdBGrant d) (s.fixedGrant d)
  else s)

/-- The leader is lost: raised once per loss, R239. -/
def State.leaderLost (s : State) : State :=
  let s := s.when (!s.links.lost) (·.raise F.budEvt 7)
  { s.setF F.budStatusAutonomous 1 with links := { s.links with lost := true, followed := false } }

/-- LEADER_LOST, R239: no valid GRANT by REPORT_TO consecutive frames. -/
def execLeaderLost (s : State) : Outcome :=
  .next (if s.isX4 && s.links.followed && decide (s.appliedF F.budCfgReportTo ≤ s.links.missed) then s.leaderLost else s)

/-- LEADER_IDENTITY_TIMEOUT, R69: 100 ms after link start without a leader's identity. -/
def execLeaderIdentityTimeout (s : State) : Outcome :=
  let heard := (List.range 3).any fun p => s.links.heard.contains p && s.isSet (F.budIdlPPeerLeader p)
  .next (if !(s.links.identityEnd.any s.beatReached) then s
  else
    let s := { s with links := { s.links with identityEnd := none } }
    s.when (s.isX4 && !s.isLeader && !s.isSet F.gctlStatusStrapFault && !heard) State.leaderLost)

/-! ### The package budget port, R241 to R246 -/

/-- At each enable of CAP, Table 8.8: the port enabled or disabled. -/
def State.portEnable (s : State) : State :=
  if s.appliedF F.budCfgPbpEn = 1 ∧ s.isLeader then
    if s.getF F.budStatusPbpState = 0 then
      let s := (s.setF F.budStatusPbpState 1).setF F.budPbpSeqQuiet 0
      { s with
        cap := { s.cap with pgrant := some (s.appliedF F.budPbpCfgSilentGrant) }
        links := { s.links with pFrame := false, silentDue := false } }
    else s
  else
    { s.setF F.budStatusPbpState 0 with
      cap := { s.cap with pgrant := none }, links := { s.links with pFrame := false, silentDue := false } }

/-- The payload of an A-frame, Table 8.7. -/
def State.aPayload (s : State) (silent above : Bool) (used : Nat) : List Byte :=
  let degraded := s.isSet F.gctlStatusStrapFault
    || (s.isX4 && (List.range (min 4 s.dies)).any fun d => s.getF (F.budLdSState d) != 1)
  [BitVec.ofNat 8 (s.getF F.budPbpSeqRxSeq),
   BitVec.ofNat 8 (128 * flag silent + 64 * s.getF F.mbxHostAbsent + 32 * flag above + 16 * flag degraded
     + 8 * flag (s.getF F.gctlModeCurrent == 4))]
    ++ be16 (s.getF F.budPbpTxReq) ++ be16 used ++ be16 (s.getF F.budPbpTxFloor)
    ++ be16 (min (s.getF F.pwrLimAPCap) (s.getF F.pwrLimAPElec)) ++ be16 (s.appliedF F.budPbpCfgClaim) ++ [0, 0]

/-- A package interval ends: QUIET, then the A-frame; whether QUIET has reached SILENT_TO, R242, R244. -/
def State.packageReport (s : State) : State :=
  if s.getF F.budStatusPbpState = 0 then { s with links := { s.links with usedSum := 0, usedN := 0 } }
  else
    let before := s.getF F.budPbpSeqQuiet
    let s := s.when (!s.links.pFrame) (·.incF F.budPbpSeqQuiet)
    let q := s.getF F.budPbpSeqQuiet
    let live := s.getF F.budStatusPbpState == 2
    let reached := if live then decide (s.appliedF F.budCfgSilentTo ≤ q) else before != q && q == s.appliedF F.budCfgSilentTo
    let due := !s.links.pFrame && reached
    let used := openDivNat 34 s.links.usedSum (max 1 s.links.usedN)
    let above := decide (s.cap.pgrant.getD 0xFFFF < used)
    let s := s.sendFrame 3 1 (s.aPayload (!live || due) (above && s.links.overNow) used)
    let s := (s.satF F.budPbpTx2Used used).setF F.budPbpTx2Limit (min (s.getF F.pwrLimAPCap) (s.getF F.pwrLimAPElec))
    let s := s.setF F.budPbpSeqTxSeq ((Store.read (fun _ => 0) s.links.seq 3 + 255) % 256)
    { s with links := { s.links with
      pFrame := false, usedSum := 0, usedN := 0, overNow := above, silentDue := due
      req := s.getF F.budPbpTxReq, floor := s.getF F.budPbpTxFloor } }

/-- The leader's running FLP writes REQ and FLOOR, R242. -/
def State.writePbpTx (s : State) : State :=
  let n := if s.isX4 then min 4 s.dies else 1
  if !s.running 0 || !s.isLeader then s
  else
    let away := fun d => s.isX4 && (s.getF (F.budLdSState d) == 0 || s.getF (F.budLdSState d) == 3)
    let sum := fun (f : Nat → Nat) => sumNat ((List.range n).map fun d => if away d then s.fixedGrant d else f d)
    let wants := if s.isX4 then sum (fun d => s.getF (F.budLdAWant d)) else s.getF F.budDierepAWant
    let floors := if s.isX4 then sum (fun d => s.getF (F.budLdSFloor d)) else s.getF F.budDierepBFloor
    let s := (s.satF F.budPbpTxReq (min wants (min (s.getF F.pwrLimAPCap) (s.getF F.pwrLimAPElec)))).satF F.budPbpTxFloor floors
    s.trace 1 131 (s.getF F.budPbpTxReq) 0

/-- QUIET has reached SILENT_TO at the package frame, R244: from LIVE the port enters SILENT and pgrant is limited. -/
def State.pbpSilent (s : State) : State :=
  let st := s.getF F.budStatusPbpState
  if st = 0 ∨ !s.links.silentDue then s
  else
    let s := { s.raise F.budEvt 3 with links := { s.links with silentDue := false } }
    if st = 2 then
      let g := min (s.cap.pgrant.getD 0xFFFF) (s.appliedF F.budPbpCfgSilentGrant)
      { (s.setF F.budStatusPbpState 1).setF F.pwrLimBPGrant g with cap := { s.cap with pgrant := some g } }
    else s

/-! ### The frames of tick 16, R25, R27, R28

A frame uses values produced before its tick, so the frames that a tick owes come before whatever else the tick does: the
package frame first, then the die-budget frame, then the core grants. -/

/-- PACKAGE_FRAME, R242, R244: at tick 16 of the last beat of the package interval; the silence itself is PBP_SILENT. -/
def execPackageFrame (s : State) : Outcome :=
  .next (if s.fires (intervalKey 3 0) 16 then (s.reload (intervalKey 3 0)).packageReport else s)

/-- DIE_BUDGET_FRAME, R207 to R212, R227 to R240: at tick 16 of the last beat of the die-budget interval. -/
def execDieBudgetFrame (s : State) : Outcome :=
  let s := s.act execPackageFrame
  .next (if s.fires (intervalKey 1 0) 16 then (s.reload (intervalKey 1 0)).dieBudgets else s)

/-- CORE_GRANT_FRAME, R216, R227 to R231: at tick 16 of the last beat of the CLC's interval. -/
def execCoreGrantFrame (cluster : Fin 12) (s : State) : Outcome :=
  let s := s.act execDieBudgetFrame
  let key := intervalKey 0 cluster.val
  .next (if s.fires key 16 then (s.reload key).coreGrants cluster.val else s)

/-- The frames that the present tick still owes. -/
def State.owedFrames (s : State) : State :=
  let s := s.act execDieBudgetFrame
  s.forEach (List.finRange 12) fun s c => s.act (execCoreGrantFrame c)

/-- PBP_SILENT, R244: after the frames of the tick, whose cap law uses the pgrant of before it (R28). -/
def execPbpSilent (s : State) : Outcome := .next s.owedFrames.pbpSilent

/-- FLP_DIE_BUDGET_WRITE, R231, R234. -/
def execFlpDieBudgetWrite (s : State) : Outcome := .next s.owedFrames.writeDieBudgets

/-- FLP_PBP_TX_WRITE, R242. -/
def execFlpPbpTxWrite (s : State) : Outcome := .next s.owedFrames.writePbpTx

/-- A core's meter interval ends in the present tick, R25, R204. -/
def State.meterEnds (s : State) (n : Nat) : Bool :=
  decide ((s.cpa n).ticks ≤ (s.now + (2 ^ 54 - (s.cpa n).began % 2 ^ 54)) % 2 ^ 54)

/-- METER_INTERVAL, R25, R204, R205, R219: a core's meter interval ends; the sums of the 16 counters, and the part of MISSUE
issued while FILL_EN was 1. The frames of this tick use what was metered before it (R28). -/
def execMeterInterval (core : Fin 288) (counts : List Nat) (fillIssue : Nat) (s : State) : Outcome :=
  let n := core.val
  let k := railOf n
  if !s.coreOn n || !s.meterEnds n then .next s
  else
    let s := s.owedFrames
    let c := s.cpa n
    let used := s.getF F.tbSyncFreqUsed
    let w := s.liveWeights k
    let v := s.getF (F.railVtgtSense k)
    let mat := meterPower 1 (weighed (w.take 6) (counts.take 6)) v used c.ticks
    let oth := meterPower 2 (weighed (w.drop 6) ((counts.drop 6).take 10)) v used c.ticks
    let leak := s.leakPower n
    let total := mat + oth + leak
    let ns := fun p => openDivNat 19 (p * c.ticks * 1000) (64 * max 1 used)   -- µW over the interval, in pJ
    let missue := counts.getD 3 0
    let fill := if missue = 0 then 0 else openDivNat 20 (ns mat * min fillIssue missue) missue
    let s := s.setCpa n fun c => { c with
      counts := counts, pMat := mat, pOth := oth, pLeak := leak, uAvg := (c.uSum, c.uCount), uSum := 0, uCount := 0
      ticks := ticksOf 1 used, began := (c.began + c.ticks) % 2 ^ 54
      eRest := (c.eRest + ns total) % 1000000, fillRest := (c.fillRest + fill) % 1000000 }
    let mw := fun p => openDivNat 21 p 1000
    let s := ((s.satF (F.cpaPwrLeak n) (mw leak)).satF (F.cpaPwrTotal n) (mw total)).satF (F.cpaPwrDynMat n) (mw mat)
    let s := s.satF (F.cpaPwrDynOther n) (mw oth)
    let u := (s.cpa n).uAvg
    let s := s.satF (F.cpaSlotUavg n) (if u.2 = 0 then 0 else openDivNat 22 (4 * u.1) u.2)
    let s := s.satF (F.cpaSlotPslot n) (s.pSlot n)
    let s := s.addEnergy (F.cpaELoUj n) (F.cpaEHiUj n) ((c.eRest + ns total) / 1000000)
    let s := s.setF (F.cpaEFillUj n) (s.getF (F.cpaEFillUj n) + (c.fillRest + fill) / 1000000)
    let s := s.addEnergy F.pwrFillLoUj F.pwrFillHiUj ((s.cap.fillRest + fill) / 1000000)
    let s := { s with cap := { s.cap with fillRest := (s.cap.fillRest + fill) % 1000000 } }
    .next (s.setRail k fun r => { r with calD := r.calD + ns mat + ns oth, calL := r.calL + ns leak })

/-- FLP_CAP_UPDATE, R213: not by the FLP of a non-leader of an X4, nor while the FLP is not running (R41). The frames of this
tick use the C before it (R28). -/
def execFlpCapUpdate (s : State) : Outcome :=
  .next (if s.running 0 && s.lawDie then
    let s := s.owedFrames
    (s.writeForce s.capInForce).trace 1 129 s.capInForce 0 else s)

/-- IDENTITY_FRAME, R237, R69. -/
def execIdentityFrame (port : Fin 3) (frame : List Byte) (s : State) : Outcome :=
  .next (s.owedFrames.idlReceive port.val 3 frame (·.identityReceived port.val frame))

/-- REPORT_FRAME, R238: the leader keeps it for the next die-budget frame. -/
def execReportFrame (port : Fin 3) (frame : List Byte) (s : State) : Outcome :=
  let p := port.val
  .next (s.owedFrames.idlReceive p 4 frame fun s =>
    let d := s.peerOf p
    let s := (s.setF (F.budLdSTrip d) (flag (bitOf (byteAt frame 5) 7))).setF (F.budLdSMode d) (byteAt frame 5 % 8)
    { s with links := { s.links with
      reports := Store.write (fun _ => []) s.links.reports d frame
      fresh := if s.links.fresh.contains d then s.links.fresh else d :: s.links.fresh } })

/-- GRANT_FRAME, R213, R239: the die FOLLOWS; its budget and C are taken up, its package fields at the next frame. A leader that
a frame of the same tick finds lost is lost first. -/
def execGrantFrame (port : Fin 3) (frame : List Byte) (s : State) : Outcome :=
  .next ((s.owedFrames.act execLeaderLost).idlReceive port.val 5 frame fun s =>
    let s := (s.writeForce (be16At frame 8)).setF F.budDiebReceived (be16At frame 6)
    let s := (s.when s.links.lost (·.raise F.budEvt 6)).setF F.budStatusAutonomous 0
    { s with links := { s.links with grant := some frame, followed := true, lost := false, budgeted := true, missed := 0 } })

/-- A valid P-frame, R243 to R245. -/
def State.takePFrame (s : State) (frame : List Byte) : State :=
  let g := be16At frame 6
  let s := { s with
    cap := { s.cap with pgrant := if g = 0xFFFF then none else some g }
    links := { s.links with pFrame := true } }
  let s := ((s.setF F.budPbpRxGrant g).setF F.budPbpRxProcUsed (be16At frame 8)).setF F.budPbpSeqRxSeq (byteAt frame 3)
  let s := ((s.setF F.budPbpSeqRxAck (byteAt frame 4)).setF F.budPbpSeqQuiet 0).setF F.pwrLimBPGrant g
  let s := s.when (s.getF F.budStatusPbpState == 1) (·.raise F.budEvt 2)
  let s := s.setF F.budStatusPbpState 2
  let s := s.when (decide (g < s.links.floor)) (·.raise F.budEvt 1)
  let s := s.when (decide (g < min s.links.req (s.appliedF F.budPbpCfgClaim))) (·.raise F.budEvt 0)
  s.trace 0 9 g 0

/-- A P-frame received on the running package power port: discarded and counted where a test of R236 fails. -/
def State.receivePFrame (s : State) (frame : List Byte) : State :=
  if s.getF F.budStatusPbpState = 0 || byteAt frame 0 != 0xA5 then s
  else match testFrame [2] frame with
    | .badLength => s.incF F.budPbpErrBadLen
    | .badCrc => s.incF F.budPbpErrCrc
    | .badVersion => s.incF F.budPbpErrBadVer
    | .valid => s.takePFrame frame

/-- P_FRAME, R236, R243 to R245; a package frame of the same tick, and the silence it finds, come first (R244). -/
def execPFrame (frame : List Byte) (s : State) : Outcome := .next (s.owedFrames.pbpSilent.receivePFrame frame)

end Sys2Proof.Machine
end

