-- ==== Sys2Proof/Machine/Ecc.lean ====
section
/-! DEFINITION. Chapter 16, the part that every reader of a protected memory shares: codewords and their errors, checked
reads, functional writes, remapped words. -/
namespace Sys2Proof.Machine

/-- The 4-bit symbols in which an error lies, R434. -/
def badSymbols (e : Nat) : List Nat := indexes 20 fun i => bitsOf e (4 * i) 4 != 0

/-- The check bits of a data word, R434: a linear function of its bits. -/
def checkBits (d : Nat) : Nat :=
  (indexes 64 fun i => bitOf d i).foldl (fun c i => c ^^^ (Config.checkColumn i % 2 ^ 16)) 0

/-- The codeword of a data word: data bits [63:0], check bits [79:64]. -/
def codeword (d : Nat) : Nat := d + 2 ^ 64 * checkBits d

/-- How a codeword reads, R434: clean, one symbol corrected, or uncorrectable. Of errors in three or more symbols the
spec says only that they may be corrected wrongly (in a symbol named), reported, or missed. -/
inductive Reading where
  | clean
  | corrected (symbol : Nat)
  | uncorrectable
  | miscorrected (symbol : Nat)
  | missed
  /-- What a reader of a word corrected wrongly, or of one whose error is missed, is given: other data than was written. -/
  | wrong
  deriving DecidableEq, Repr

/-- The reading of a codeword, and the state with a free value drawn for an error that the spec leaves open (log 3). -/
def State.classify (s : State) (e : Nat) : Reading × State :=
  match badSymbols e with
  | [] => (.clean, s)
  | [i] => (.corrected i, s)
  | [_, _] => (.uncorrectable, s)
  | _ =>
    let r := s.drawFree 3
    let q := r.2.drawFree 20
    if r.1 = 0 then (.miscorrected q.1, q.2) else if r.1 = 1 then (.uncorrectable, q.2) else (.missed, q.2)

/-- A read has corrected a symbol of a word: CORRECTED, CORR, LAST_CE, and a write-back owed, R436. -/
def State.noteCorrected (s : State) (m w i : Nat) (scrub : Bool) : State :=
  let s := (s.incF (F.mpMCntCorrected m)).raise F.mpEvtCorr m
  let s := (((s.setF (F.mpMLastCeValid m) 1).setF (F.mpMLastCeScrub m) (flag scrub)).setF (F.mpMLastCeSymbol m) i).setF
    (F.mpMLastCeWord m) w
  let owed := s.ecc.backs.any fun b => b.mem == m && s.cellOf m b.word == s.cellOf m w && !b.verify
  s.when (!owed) fun s =>
    { s with ecc := { s.ecc with backs := s.ecc.backs ++ [{ mem := m, word := w, symbol := i }] } }

/-- A checked read of a word, functional or by the scrubber: counts, LAST_CE or LAST_UE, events, the write-back owed
(R436, R440). The owner's reaction to an uncorrectable error is the caller's, as is the other data that a word holds from then on
where it was corrected wrongly, or its error missed (R434). -/
def State.eccRead (s : State) (m w : Nat) (scrub : Bool) : Reading × State :=
  let r := s.classify (s.errorAt m w)
  let s := r.2
  match r.1 with
  | .clean => (.clean, s)
  | .missed | .wrong => (.wrong, s.setError m w 0)
  | .miscorrected i =>
    let p := s.drawFree 15
    (.wrong, (p.2.setError m w ((p.1 + 1) * 16 ^ i)).noteCorrected m w i scrub)
  | .corrected i => (.corrected i, s.noteCorrected m w i scrub)
  | .uncorrectable =>
    let s := (s.incF (F.mpMCntUncorrectable m)).raise F.mpEvtUncorr m
    (.uncorrectable, ((s.setF (F.mpMLastUeValid m) 1).setF (F.mpMLastUeScrub m) (flag scrub)).setF (F.mpMLastUeWord m) w)

/-- A memory cleared or reloaded: every word holds zero and its right codeword, R435; what it owed is lost (R447). -/
def State.eccClear (s : State) (m : Nat) : State :=
  { s with ecc := { s.ecc with
    errors := s.ecc.errors.filter fun p => p.1 / 2 ^ 18 != m
    backs := s.ecc.backs.filter fun b => b.mem != m
    image := s.ecc.image.filter fun p => p.1 / 2 ^ 18 != m
    written := s.ecc.written.filter fun p => p.1 / 2 ^ 18 != m
    used := s.ecc.used.filter (· != m) } }

/-- Firmware writes words of a memory from now on. -/
def State.eccUse (s : State) (l : List Nat) : State :=
  { s with ecc := { s.ecc with used := l.filter (!s.ecc.used.contains ·) ++ s.ecc.used } }

/-- The words below `n` of a memory whose codewords are wrong. -/
def State.badWords (s : State) (m n : Nat) : List Nat :=
  if s.ecc.errors.any fun p => p.1 / 2 ^ 18 == m then indexes n fun w => s.errorAt m w != 0 else []

/-- Some words of a memory written. -/
def State.eccWriteAll (s : State) (m : Nat) (l : List Nat) : State :=
  if (s.ecc.errors.any fun p => p.1 / 2 ^ 18 == m) || (s.ecc.backs.any fun b => b.mem == m) then
    s.forEach l fun s w => s.eccWrite m w
  else s

end Sys2Proof.Machine
end

