-- ==== Sys2Proof/Machine/SyncOps.lean ====
section
/-! DEFINITION. Chapters 12 and 13, the operations every sync command shares: ticks, objects, contexts, waiter records,
completions, releases, polling, posted slots, messages between dies. -/
namespace Sys2Proof.Machine

/-! ### Ticks -/

/-- Whether a tick has been reached (R91 with N = 54). -/
def State.reached (s : State) (t : Nat) : Bool := !isAfter 54 t s.now

/-- Whether a tick lies in the past. -/
def State.past (s : State) (t : Nat) : Bool := isAfter 54 s.now t

/-- The first tick 32 of a beat that lies after a tick, R334. -/
def nextTick32 (t : Nat) : Nat := (if t % 64 < 32 then t - t % 64 + 32 else t - t % 64 + 96) % 2 ^ 54

/-! ### The fabric's state -/

/-- The fabric runs: not while the die is PARKED, R313. -/
def State.fabricRuns (s : State) : Bool := !s.isSet F.domStatusParked

/-- The die-to-die message port runs: not with a strap fault (R69), nor while the die is PARKED. -/
def State.portRuns (s : State) : Bool := s.fabricRuns && !s.isSet F.gctlStatusStrapFault

/-- The number that stands for host software as a core, R345. -/
def hostCore : Nat := 0x1FF

/-- An engine's number on its die. -/
def engineOf (core eng : Nat) : Nat := 8 * core + eng

def State.mapSync (s : State) (g : Sync → Sync) : State := { s with sync := g s.sync }
def State.obj (s : State) (f : Nat) : SyncObj := Store.read (fun _ => {}) s.sync.objs f
def State.setObj (s : State) (f : Nat) (g : SyncObj → SyncObj) : State :=
  s.mapSync fun y => { y with objs := Store.update (fun _ => {}) y.objs f g }

/-- SYNC is active, R122. -/
def State.syncActive (s : State) : Bool := s.isActive 5

/-- Package objects are hosted on this die, R346. -/
def State.hosting (s : State) : Bool := s.isLeader && s.appliedF F.syncPkgHost != 0

/-- A package object, by flat number (Table 12.1). -/
def isPackage (f : Nat) : Bool := decide (17920 ≤ f)

/-! ### Completions, R326, R337 -/

/-- An operation completes: SCPL to its engine, whose SWAIT bit clears, or the result registers of a host operation
(R351). `coupled` when a coupled release resumes the engine, R192. -/
def State.deliver (s : State) (core eng status value : Nat) (coupled : Bool) : State :=
  if core = hostCore then
    (((s.setF F.syncHopResDone 1).setF F.syncHopResBusy 0).setF F.syncHopResStatus status).setF F.syncHopValValue value
  else
    let e := engineOf core eng
    let s := (s.keepVote (groupOf core)).mapSync fun y => { y with
      scpl := Store.write (fun _ => none) y.scpl e (some (status, value % 2 ^ 32))
      outstanding := y.outstanding.filter (· != e)
      polls := y.polls.filter fun p => engineOf p.core p.eng != e
      collects := y.collects.filter fun c => engineOf c.core c.eng != e
      forwards := y.forwards.map fun f => if engineOf f.req.core f.req.eng = e ∧ f.slot = none then { f with void := true } else f }
    s.when (bitOf (s.cpa core).swait eng) (·.leaveWait core eng coupled)

/-- An operation completes with a status for which the spec states no value: the value is free (log 3). -/
def State.deliverOpen (s : State) (core eng status : Nat) : State :=
  let r := s.drawFree (2 ^ 32)
  r.2.deliver core eng status r.1 false

/-- An operation completes, with a value or with a free one. -/
def State.finish (s : State) (core eng status : Nat) (value : Option Nat) : State :=
  match value with
  | some v => s.deliver core eng status v false
  | none => s.deliverOpen core eng status

/-- An operation is to complete some ticks from now; its engine's polling and collecting end at once. -/
def State.postIn (s : State) (n core eng status : Nat) (value : Option Nat) : State :=
  s.mapSync fun y => { y with
    dues := y.dues ++ [{ core := core, eng := eng, status := status, value := value, at_ := (s.now + n) % 2 ^ 54 }]
    polls := y.polls.filter fun p => engineOf p.core p.eng != engineOf core eng
    collects := y.collects.filter fun c => engineOf c.core c.eng != engineOf core eng }

/-- An operation applied now completes in the next tick, R326. -/
def State.post (s : State) (core eng status : Nat) (value : Option Nat) : State := s.postIn 1 core eng status value

/-- An engine starts to wait on SREQ: its SWAIT bit is set, R341. -/
def State.startWait (s : State) (core eng : Nat) : State :=
  s.when (!bitOf (s.cpa core).swait eng) (·.enterWait core eng)

/-! ### Posted slots and COLLECT, R343 -/

def slotKey (core eng slot : Nat) : Nat := 32 * engineOf core eng + slot

/-- 0 unused, 1 busy, 2 done, 3 done and faulted. -/
def State.slotState (s : State) (core eng slot : Nat) : Nat := Store.read (fun _ => 0) s.sync.slots (slotKey core eng slot)

def State.setSlot (s : State) (core eng slot v : Nat) : State :=
  s.mapSync fun y => { y with slots := Store.write (fun _ => 0) y.slots (slotKey core eng slot) v }

/-- A blocked COLLECT completes if its condition holds: the done slots it names become unused. -/
def State.tryCollect (s : State) (core eng : Nat) : State :=
  match s.sync.collects.find? fun c => c.core == core && c.eng == eng with
  | none => s
  | some c =>
    let done := indexes 32 fun i => bitOf c.mask i && decide (2 ≤ s.slotState core eng i)
    let m := maskOf 32 fun i => done.contains i
    if (if c.any then m != 0 else m == c.mask) then
      let bad := done.any fun i => s.slotState core eng i == 3
      let s := s.forEach done fun s i => s.setSlot core eng i 0
      s.post core eng (if bad then 7 else 0) (some m)
    else s

/-! ### Messages between dies, Table 12.5 -/

/-- Word 0 of a message. -/
def msgWord0 (type src dst core eng idx : Nat) : Nat :=
  type * 2 ^ 28 + src * 2 ^ 26 + dst * 2 ^ 24 + core * 2 ^ 15 + eng * 2 ^ 12 + idx

/-- A message put on the die-to-die port; the OPRSPs of a tick go before its RELEASEs. -/
def State.sendDie (s : State) (words : List Nat) : State :=
  s.when s.portRuns (·.mapSync fun y =>
    let l := if y.outAt = s.now then y.outbox else []
    let isRelease (m : List Nat) : Bool := m.headD 0 / 2 ^ 28 == 3
    { y with outAt := s.now
             outbox := if words.headD 0 / 2 ^ 28 = 2 then l.takeWhile (!isRelease ·) ++ words :: l.dropWhile (!isRelease ·)
                       else l ++ [words] })

def State.dieId (s : State) : Nat := s.getF F.idConfigDieId

/-- The die that leads: this one if it is strapped so, else the peer whose IDENTITY said so (R237), else die 0. -/
def State.leaderDie (s : State) : Nat :=
  if s.isSet F.idConfigLeader then s.dieId
  else match (indexes 3 fun p => s.isSet (F.budIdlPPeerLeader p)).head? with
    | some p => s.peerOf p
    | none => 0

/-- The message types of Table 12.5 without core or engine. -/
def State.sendRelease (s : State) (die idx kind take gen w2 w3 : Nat) : State :=
  s.sendDie [msgWord0 3 s.dieId die 0 0 idx, kind * 2 ^ 28 + take * 2 ^ 27 + gen, w2, w3]

/-- A package waiter of a non-leader die leaves other than by release, R347: barrier arrivals are never withdrawn. -/
def State.withdraw (s : State) (w : Waiter) : State :=
  if isPackage w.flat && !s.hosting && w.op != 6 && w.op != 16 then
    s.sendDie [msgWord0 4 s.dieId s.leaderDie w.core w.eng (w.flat - 17920), w.op, 0, 0]
  else s

/-! ### Waiter records, R38, R341 -/

/-- The lowest record free in the present tick: one neither in use nor freed in this tick or a later one. -/
def State.freeRecord (s : State) : Option Nat :=
  let held := s.sync.records.map (·.rid) ++ (s.sync.freed.filter fun p => !s.past p.2).map (·.1)
  if 65536 ≤ held.length then none else (List.range (held.length + 1)).find? fun r => !held.contains r

/-- The post of a posted wait ends with its record before the leader has answered it: its post completes as one that took a
record, R343, R346. -/
def State.endPost (s : State) (w : Waiter) (i : Nat) : State :=
  if s.sync.forwards.any (·.rid == some w.rid) then (s.setSlot w.core w.eng i 1).deliver w.core w.eng 0 0 false else s

/-- Whether a release of the present tick reaches a record: how it ends is open, or only an abort, a watchdog or a memory
fault of this tick has decided it, R350. -/
def State.isOpen (s : State) (w : Waiter) : Bool := w.due.isNone || (w.back && w.due == some ((s.now + 1) % 2 ^ 54))

/-- Whether the leader has not yet answered for a record, R346: it counts no waiter of it. -/
def State.unanswered (s : State) (w : Waiter) : Bool := s.sync.forwards.any (·.rid == some w.rid)

/-- The waiters of an operation on an object that no release has reached, oldest first. -/
def State.waiting (s : State) (f op : Nat) : List Waiter :=
  s.sync.records.filter fun w => w.flat == f && w.op == op && s.isOpen w && !s.unanswered w

/-- The leader counts no waiter of this die on a package pair: it tells no counts from now on, R347. -/
def State.forgetCounts (s : State) (f : Nat) : State :=
  s.when (isPackage f && !s.hosting && (s.waiting f 14).isEmpty && (s.waiting f 15).isEmpty)
    (·.mapSync fun y => { y with pairCounts := Store.erase y.pairCounts (f - 17920) })

/-- A record leaves use in the present tick: its waiter completed, or its busy slot marked; one that does not leave by a
release is withdrawn from the leader, R343, R347. -/
def State.endRecord (s : State) (w : Waiter) (status : Nat) (value : Option Nat) (coupled : Bool) : State :=
  let s := match w.slot with
    | some i => s.endPost w i
    | none => s
  let s := (s.keepVote (groupOf w.core)).mapSync fun y => { y with
    records := y.records.filter fun r => r.rid != w.rid
    freed := (w.rid, s.now) :: y.freed.filter fun p => !s.past p.2
    forwards := y.forwards.map fun f => if f.rid = some w.rid then { f with rid := none, slot := none, void := true } else f }
  let s := ((s.setF F.syncStatusRecordsUsed s.sync.records.length).when w.back (·.withdraw w)).forgetCounts w.flat
  match w.slot with
  | some i =>
    (s.when (s.slotState w.core w.eng i == 1) (·.setSlot w.core w.eng i (if status = 7 ∨ status = 5 then 3 else 2))).tryCollect
      w.core w.eng
  | none =>
    match value with
    | some v => s.deliver w.core w.eng status v coupled
    | none => s.deliverOpen w.core w.eng status

/-- How a record in use is to end is fixed. -/
def State.setRecord (s : State) (w : Waiter) (g : Waiter → Waiter) : State :=
  s.mapSync fun y => { y with records := y.records.map fun r => if r.rid = w.rid then g r else r }

/-- A record is released, or its operation ends: it completes in the next tick, R330. -/
def State.endSoon (s : State) (w : Waiter) (status : Nat) (value : Option Nat) : State :=
  s.setRecord w fun r => { r with due := some ((s.now + 1) % 2 ^ 54), fate := (status, value), coupled := false, back := false }

/-- A record leaves other than by a release, in the next tick, unless a release of the present tick wins, R350. -/
def State.endBack (s : State) (w : Waiter) (status : Nat) : State :=
  s.setRecord w fun r => { r with due := some ((s.now + 1) % 2 ^ 54), fate := (status, none), coupled := false, back := true }

/-- Whether a record or a pending release holds an object, R324. -/
def State.objHeld (s : State) (f : Nat) : Bool :=
  (s.sync.records.any (·.flat == f)) || (s.sync.releases.any (·.flat == f))
    || (isPackage f && s.sync.pkgWaits.any fun w => w.idx + 17920 == f)

/-- The deadline of a record taken for a request, R363, by the watchdog as the present tick sees it (R357). -/
def State.deadlineOf (s : State) (ctx beat khz : Nat) : Nat := (beat + s.lateF (F.syncCtxCWdMs ctx) * khz) % 2 ^ 48

/-- A record taken for a request. -/
def State.takeRecord (s : State) (q : SyncReq) (f op arg rid : Nat) (slot : Option Nat) : State :=
  let w : Waiter :=
    { rid := rid, flat := f, op := op, core := q.core, eng := q.eng, slot := slot, ctx := q.ctx, beat := q.beat,
      tick := q.tick, arg := arg, deadline := s.deadlineOf q.ctx q.beat q.khz }
  let s := s.mapSync fun y => { y with
    records := y.records ++ [w]
    polls := y.polls.filter fun p => engineOf p.core p.eng != engineOf q.core q.eng }
  let n := s.sync.records.length
  let s := (s.setF F.syncStatusRecordsUsed n).when (decide (s.getF F.syncRecpeakPeak < n)) (·.setF F.syncRecpeakPeak n)
  ((s.eccWrite 1 (2 * rid)).eccWrite 1 (2 * rid + 1)).when slot.isNone (·.startWait q.core q.eng)

/-- The polled wait of an engine changed. -/
def State.setPoll (s : State) (core eng : Nat) (g : Poll → Poll) : State :=
  s.mapSync fun y => { y with polls := y.polls.map fun p => if p.core = core ∧ p.eng = eng then g p else p }

/-- The polled wait of an engine. -/
def State.pollOf (s : State) (core eng : Nat) : Option Poll := s.sync.polls.find? fun p => p.core == core && p.eng == eng

/-- A non-posted wait is refused for a full pool: counted, and polled from its arrival on, R342. With `asked`, the leader has
been asked, and the generation of an arrival is known with its answer, R346. -/
def State.refuse (s : State) (q : SyncReq) (f op gen : Nat) (asked : Bool) : State :=
  let s := (s.incF F.syncFullRefused).raise F.syncEvt 3
  let s := if (s.pollOf q.core q.eng).isSome then s.setPoll q.core q.eng fun p => { p with at_ := q.at_, queued := false }
    else
      let p : Poll :=
        { core := q.core, eng := q.eng, flat := f, op := op, word := q.word, argw := q.arg, gen := gen, ctx := q.ctx,
          beat := q.beat, deadline := s.deadlineOf q.ctx q.beat q.khz, at_ := q.at_, known := !asked }
      s.mapSync fun y => { y with polls := y.polls ++ [p] }
  s.startWait q.core q.eng

/-! ### Releases of barriers and realign barriers, R332 to R339 -/

/-- A record of a barrier or realign generation that is complete. -/
def genDone (gen : Nat) (op arg : Nat) : Bool := (op == 6 || op == 16) && isAfter 16 gen arg

/-- A release of an object is scheduled, R334, unless one is pending, which the completion then joins. -/
def State.schedule (s : State) (f : Nat) : State :=
  if s.sync.releases.any (·.flat == f) then s
  else
    let coupled := s.getF F.gctlModeCurrent != 2
    let lead := if coupled then s.appliedF F.syncCplLead else 0
    let r : Release := { flat := f, at_ := nextTick32 (s.now + lead), lead := lead, coupled := coupled }
    s.mapSync fun y => { y with releases := y.releases ++ [r] }

/-- A generation of a package object has completed: the leader tells every die that has waiters on the object, R339, R347. -/
def State.tellGeneration (s : State) (f : Nat) : State :=
  if !isPackage f || !s.hosting then s
  else
    let gen := (s.obj f).gen
    let mine (w : PkgWait) : Bool := w.idx + 17920 == f && genDone gen w.op w.arg
    let s := s.forEach (indexes 4 fun d => s.sync.pkgWaits.any fun w => w.idx + 17920 == f && w.die == d) fun s d =>
      s.sendRelease d (f - 17920) 1 0 gen 0 0
    s.mapSync fun y => { y with pkgWaits := y.pkgWaits.filter fun w => !mine w }

/-- Rank of a cluster in a coupled release, R336. -/
def rankOf (c : Nat) : Nat := c % 3 * 4 + c / 3

/-! ### Uncorrectable errors in objects and records, R350, Table 16.2 -/

/-- An object becomes FAULTED: its waiters complete with FAULT and its pending release is cancelled. -/
def State.objFault (s : State) (f : Nat) (word0 : Bool) : State :=
  let s := (s.setObj f fun o => { o with faulted := true, word0 := !word0 && o.word0 && o.faulted }).raise F.syncEvt 5
  let s := ((s.setF F.syncLastFaultValid 1).setF F.syncLastFaultSource 0).setF F.syncLastFaultObject f
  let s := s.mapSync fun y => { y with releases := y.releases.filter fun r => r.flat != f }
  let s := s.forEach (s.sync.records.filter fun w => w.flat == f && s.isOpen w) fun s w => s.endSoon w 7 none
  let s := s.forEach (s.sync.polls.filter fun p => p.flat == f && p.due.isNone) fun s p => s.post p.core p.eng 7 none
  if isPackage f && s.hosting then
    let s := s.forEach (indexes 4 fun d => s.sync.pkgWaits.any fun w => w.idx + 17920 == f && w.die == d) fun s d =>
      s.sendRelease d (f - 17920) 6 0 0 0 0
    s.mapSync fun y => { y with pkgWaits := y.pkgWaits.filter fun w => w.idx + 17920 != f }
  else s

/-- The contents of an object's word are not what they were: free values (log 3). -/
def State.scrambleObj (s : State) (f word : Nat) : State :=
  let a := s.drawFree 5
  let b := a.2.drawFree (2 ^ 16)
  let c := b.2.drawFree (2 ^ 16)
  let d := c.2.drawFree (2 ^ 31)
  let e := d.2.drawFree (2 ^ 31)
  e.2.setObj f fun o =>
    if word = 0 then { o with kind := a.1, gen := b.1, rel := c.1 }
    else { o with value := d.1, value2 := e.1, parts := b.1, arr := c.1 }

/-- A checked read of some words of an object. -/
def State.readObj (s : State) (f : Nat) (words : List Nat) : State :=
  s.forEach words fun s i =>
    let r := s.eccRead 0 (4 * f + i) false
    match r.1 with
    | .uncorrectable => r.2.objFault f (i == 0)
    | .wrong => r.2.scrambleObj f i
    | _ => r.2.when (i == 0 && (s.obj f).faulted) (·.setObj f fun o => { o with word0 := true })

/-- The contents of a record's words are not what they were: free values (log 3). -/
def State.scrambleRecord (s : State) (rid : Nat) : State :=
  let a := s.drawFree (2 ^ 32)
  let b := a.2.drawFree (2 ^ 48)
  b.2.mapSync fun y => { y with records := y.records.map fun r =>
    if r.rid = rid then { r with arg := a.1, deadline := b.1 } else r }

/-- The checked reads of a record's two words, R436: whether it can be used. -/
def State.checkRecord (s : State) (w : Waiter) : Bool × State :=
  let a := s.eccRead 1 (2 * w.rid) false
  let b := a.2.eccRead 1 (2 * w.rid + 1) false
  (a.1 != .uncorrectable && b.1 != .uncorrectable,
    b.2.when (a.1 == .wrong || b.1 == .wrong) (·.scrambleRecord w.rid))

/-- A release reads a record and ends it; the release wins over a memory fault of its tick, R350. -/
def State.endReleased (s : State) (w : Waiter) (status : Nat) (value : Option Nat) : State :=
  (s.checkRecord w).2.endSoon w status value

/-- An uncorrectable error in a record in use: its waiter completes with FAULT; a release wins. -/
def State.recordFault (s : State) (w : Waiter) : State :=
  if w.due.isSome then s
  else
    let s := s.raise F.syncEvt 4
    let s := ((s.setF F.syncLastFaultValid 1).setF F.syncLastFaultSource 1).setF F.syncLastFaultObject w.flat
    s.endBack w 7

/-- A checked read of a record by the walk, the sweep or the debug window: whether it can be used. -/
def State.readRecord (s : State) (w : Waiter) : Bool × State :=
  let r := s.checkRecord w
  if r.1 then r else (false, r.2.recordFault w)

/-! ### Contexts, R354, R361, R362 -/

/-- A context's words kept for the present tick's users before they change. -/
def State.keepCtx (s : State) (x : Nat) : State := (s.keepLate (F.syncCtxAState x)).keepLate (F.syncCtxACause x)

/-- A context starts to drain: its walk starts in the next tick. -/
def State.drain (s : State) (x cause : Nat) (cmd : Bool) : State :=
  let s := ((s.keepCtx x).setF (F.syncCtxAState x) 2).setF (F.syncCtxACause x) cause
  s.mapSync fun y => { y with walks := y.walks ++ [{ ctx := x, cmd := cmd, from_ := s.now }] }

/-- An uncorrectable error in a translation entry of one of a context's pages, R361. -/
def State.ctxFault (s : State) (x : Nat) : State :=
  if s.getF (F.syncCtxAState x) = 1 then (s.drain x 2 false).raise F.syncCevt 0 else s

/-- A translation word replaced: entries 2w and 2w + 1. -/
def State.patchXlt (s : State) (w d : Nat) : State :=
  let put := fun (s : State) (i v : Nat) =>
    (s.setF (F.xltEntryValid (w / 64) i) (v / 2 ^ 31)).setF (F.xltEntryFlat (w / 64) i) v
  put (put s (2 * (w % 64)) (d % 2 ^ 32)) (2 * (w % 64) + 1) (d / 2 ^ 32)

/-- An uncorrectable translation word: the context that owns the page is faulted, a word of a free page cleared, Table 16.2. -/
def State.xltFault (s : State) (w : Nat) : State :=
  let p := w / 64
  if s.isSet (F.syncPagePMapped p) then s.ctxFault (s.getF (F.syncPagePCtx p)) else (s.patchXlt w 0).eccWrite 2 w

/-- A checked read of a translation word: whether it can be used. -/
def State.checkXlt (s : State) (w : Nat) : Bool × State :=
  let r := s.eccRead 2 w false
  match r.1 with
  | .uncorrectable => (false, r.2.xltFault w)
  | .wrong =>
    let d := r.2.drawFree (2 ^ 64)
    (true, d.2.patchXlt w d.1)
  | _ => (true, r.2)

/-- What a draining or halted context's operations and records complete with, R356, R362. -/
def State.ctxEnd (s : State) (x : Nat) : Nat := if s.getF (F.syncCtxACause x) = 2 then 7 else 5

/-- One walk examines its next 64 records, R362; barrier generations complete with a release pending are left alone. -/
def State.walkOnce (s : State) (k : Walk) : State :=
  if 1024 ≤ k.pos ∨ !s.past k.from_ then s
  else
    let found := s.sync.records.filter fun w => w.ctx == k.ctx && w.rid / 64 == k.pos && w.due.isNone
      && !(genDone (s.obj w.flat).gen w.op w.arg && !s.unanswered w && s.sync.releases.any (·.flat == w.flat))
    let s := s.forEach found fun s w =>
      let r := s.readRecord w
      if r.1 then r.2.endBack w (r.2.ctxEnd k.ctx) else r.2
    s.mapSync fun y => { y with walks := y.walks.map fun v => if v.ctx = k.ctx then { v with pos := v.pos + 1 } else v }

/-- Every walk in progress advances in a tick. -/
def State.walkTick (s : State) : State := s.forEach s.sync.walks State.walkOnce

/-- The completions whose tick has come are delivered, and the records that end by themselves leave use, R326, R330. -/
def State.deliverDue (s : State) : State :=
  let l := s.sync.dues.filter fun c => s.reached c.at_
  let s := s.mapSync fun y => { y with dues := y.dues.filter fun c => !s.reached c.at_ }
  let s := s.forEach l fun s c => s.finish c.core c.eng c.status c.value
  s.forEach (s.sync.records.filter fun w => !w.coupled && (w.due.map s.reached).getD false) fun s w =>
    s.endRecord w w.fate.1 w.fate.2 false

end Sys2Proof.Machine
end

