-- ==== Sys2Proof/Machine/SyncApply.lean ====
section
/-! DEFINITION. Chapter 12: what each operation of Table 12.4 does to an object, the checks of R322 and R323, and how the
request of an engine, of host software or of another die ends. -/
namespace Sys2Proof.Machine

/-- How an operation ends at its application: with a status and the value the spec states, or waiting. -/
inductive OpEnd where
  | done (status : Nat) (value : Option Nat)
  | waits (arg : Nat)
  deriving DecidableEq, Repr

/-- An operation on an object of a flat number, with OPF and ARG: its end, whether it completed a barrier or realign
generation, and the state. -/
abbrev OpFun := State → Nat → Nat → Nat → OpEnd × Bool × State

/-! ### The request word, R322, R327 -/

/-- The flat number a native request word names, R321, R322. -/
def flatOf (word core : Nat) : Option Nat :=
  let scope := bitsOf word 24 2
  let self := bitOf word 23
  let owner := bitsOf word 14 9
  let idx := bitsOf word 4 10
  if scope ≤ 1 then
    if self && (owner != 0 || core == hostCore) then none
    else if scope = 0 then
      let n := if self then core else owner
      if 287 < n ∨ 47 < idx then none else some (48 * n + idx)
    else
      let c := if self then clusterOf core else owner
      if 11 < c ∨ 255 < idx then none else some (13824 + 256 * c + idx)
  else if owner ≠ 0 ∨ self then none
  else if scope = 2 then some (16896 + idx)
  else if 511 < idx then none
  else some (17920 + idx)

/-- The identifier fields of a native word for a flat number (SCOPE, SELF 0, OWNER, INDEX). -/
def nativeFields (f : Nat) : Nat :=
  if f < 13824 then f / 48 * 2 ^ 14 + f % 48 * 16
  else if f < 16896 then 2 ^ 24 + (f - 13824) / 256 * 2 ^ 14 + (f - 13824) % 256 * 16
  else if f < 17920 then 2 * 2 ^ 24 + (f - 16896) * 16
  else 3 * 2 ^ 24 + (f - 17920) * 16

/-- Operations on which POST = 1 is allowed. -/
def mayPost (op : Nat) : Bool := [4, 6, 10, 11, 16].contains op

/-- Operations that host software may issue, R351. -/
def hostMay (op : Nat) : Bool := [1, 2, 3, 5, 7, 8, 9, 12, 13].contains op

/-- Signalling operations, R327. -/
def signals (op : Nat) : Bool := [2, 3, 6, 7, 8, 9, 12, 13, 16].contains op

/-- OPF and ARG (without the slot of a posted wait) as Table 12.4 defines them for an operation. -/
def argsOk (op opf arg : Nat) : Bool :=
  match op with
  | 1 => decide (opf ≤ 3 ∧ arg = 0)
  | 2 =>
    match opf with
    | 0 => arg == 0
    | 1 => decide (arg < 2 ^ 20)
    | 2 => decide (1 ≤ arg ∧ arg ≤ 65535)
    | 3 => decide (arg ≤ 1)
    | 4 => decide (1 ≤ arg ∧ arg ≤ 65535)
    | _ => false
  | 3 => decide (opf = 0 ∧ arg < 2 ^ 20)
  | 6 | 7 | 16 => decide (opf = 0 ∧ bitsOf arg 16 15 = 0)
  | 12 | 13 | 14 | 15 => decide (opf = 0 ∧ arg < 2 ^ 31)
  | 17 => decide (opf ≤ 1)
  | _ => decide (opf = 0 ∧ arg = 0)

/-- The slot a posted wait names. -/
def postSlot (word arg : Nat) : Option Nat := if bitOf word 3 then some (bitsOf arg 16 5) else none

/-- ARG without the slot of a posted wait. -/
def bareArg (word arg : Nat) : Nat := if bitOf word 3 then arg - bitsOf arg 16 5 * 65536 else arg

/-- The checks of R322 and R351 that need no object. -/
def requestOk (op word arg core : Nat) : Bool :=
  (core != hostCore || hostMay op && !bitOf word 3) && !bitOf word 26 && (!bitOf word 3 || mayPost op)
    && argsOk op (word % 8) (bareArg word arg)

/-- Whether an object's KIND fits an operation, R323. -/
def kindFits (op kind : Nat) : Bool :=
  match op with
  | 1 | 2 => true
  | 3 | 4 => kind == 1
  | 5 => kind == 1 || kind == 3
  | 6 | 7 => kind == 2
  | 8 | 9 | 10 | 11 => kind == 3
  | _ => kind == 4

/-! ### The operations -/

/-- The state word of R328. -/
def State.stateWord (s : State) (f : Nat) : Nat :=
  let o := s.obj f
  o.kind * 2 ^ 29 + flag o.overflow * 2 ^ 27 + flag o.doubleSet * 2 ^ 26 + flag o.due * 2 ^ 25 + flag o.limit * 2 ^ 24
    + flag (s.sync.releases.any (·.flat == f)) * 2 ^ 23 + o.gen

/-- VALUE as Table 12.3 gives it: the arrivals of a barrier. -/
def shownValue (o : SyncObj) : Nat := if o.kind = 2 then o.arr else o.value

/-- READ, R328; a FAULTED object reads as zero but for FAULTED, R441. -/
def opRead : OpFun := fun s f opf _ =>
  let o := s.obj f
  let v :=
    if o.faulted then (if opf = 2 then 2 ^ 28 else 0)
    else match opf with
      | 0 => shownValue o
      | 1 => o.value2
      | 2 => s.stateWord f
      | _ => o.parts * 65536 + o.arr
  (.done 0 (some v), false, s)

/-- INIT, R324, R441. -/
def opInit : OpFun := fun s f opf arg =>
  if s.objHeld f then (.done 2 none, false, s)
  else
    let s := s.setObj f fun o =>
      { kind := opf
        value := if opf = 1 ∨ opf = 3 then arg else 0
        parts := if opf = 2 ∨ opf = 4 then arg else 0
        gen := if o.faulted && !o.word0 then 0 else o.gen
        rel := if o.faulted && !o.word0 then 0 else o.rel
        last := o.last }
    (.done 0 (some 0), false, s.forEach [0, 1, 2, 3] fun s i => s.eccWrite 0 (4 * f + i))

/-- Dies with waiters of an operation on an object: this die and, for a package object, those the leader counts. -/
def State.waitingDies (s : State) (f op : Nat) : List Nat :=
  indexes 4 fun d => (d == s.dieId && !(s.waiting f op).isEmpty)
    || isPackage f && s.sync.pkgWaits.any fun w => w.idx + 17920 == f && w.op == op && w.die == d

/-- How many waiters of an operation an object has, on all dies. -/
def State.waitingCount (s : State) (f op : Nat) : Nat :=
  (s.waiting f op).length
    + (if isPackage f then (s.sync.pkgWaits.filter fun w => w.idx + 17920 == f && w.op == op).length else 0)

/-- The die that is served next, ascending from the one served last, R347. -/
def State.nextDie (s : State) (f op : Nat) : Option Nat :=
  let l := s.waitingDies f op
  let last := Store.read (fun _ => 3) s.sync.served (f - 17920)
  ((List.range 4).map fun i => (last + 1 + i) % 4).find? fun d => l.contains d

/-- One waiter of a package object counted off for a die. -/
def dropWaiter (f op die : Nat) : List PkgWait → List PkgWait
  | [] => []
  | w :: l => if w.idx + 17920 = f ∧ w.op = op ∧ w.die = die then l else w :: dropWaiter f op die l

/-- The oldest waiter of WAIT is released, on this die or on the one served next, R329, R347. -/
def State.serveOne (s : State) (f : Nat) : State :=
  match s.nextDie f 4 with
  | none => s
  | some d =>
    let s := s.when (isPackage f) (·.mapSync fun y => { y with served := Store.write (fun _ => 3) y.served (f - 17920) d })
    if d = s.dieId then
      match s.waiting f 4 with
      | w :: _ => s.endReleased w 0 (some 0)
      | [] => s
    else
      (s.mapSync fun y => { y with pkgWaits := dropWaiter f 4 d y.pkgWaits }).sendRelease d (f - 17920) 2 0 0 0 0

/-- Some signals serve waiters in turn. -/
def State.serve (s : State) (f : Nat) : Nat → State
  | 0 => s
  | n + 1 => (s.serveOne f).serve f n

/-- A signal of n on a counting object, R329. -/
def State.signal (s : State) (f n : Nat) : State :=
  let m := min n (s.waitingCount f 4)
  let s := s.serve f m
  let v := (s.obj f).value + (n - m)
  let past := decide (2 ^ 20 - 1 < v)
  (s.setObj f fun o => { o with value := min v (2 ^ 20 - 1), overflow := o.overflow || past }).when past (·.raise F.syncEvt 2)

/-- SIGNAL, R329. -/
def opSignal : OpFun := fun s f _ arg =>
  let s := s.signal f (if arg = 0 then 1 else arg)
  (.done 0 (some (s.obj f).value), false, s)

/-- WAIT, R329. -/
def opWait : OpFun := fun s f _ _ =>
  let v := (s.obj f).value
  if 0 < v then (.done 0 (some (v - 1)), false, s.setObj f fun o => { o with value := v - 1 })
  else (.waits 0, false, s)

/-- EV_TAKE, R331. -/
def opEvTake : OpFun := fun s f _ _ =>
  if (s.obj f).value = 1 then (.done 0 (some 0), false, s.setObj f fun o => { o with value := 0 })
  else (.waits 0, false, s)

/-- TRY: as WAIT or EV_TAKE, with BUSY in place of waiting. -/
def opTry : OpFun := fun s f opf arg =>
  let r := if (s.obj f).kind = 1 then opWait s f opf arg else opEvTake s f opf arg
  match r.1 with
  | .waits _ => (.done 1 none, false, r.2.2)
  | e => (e, false, r.2.2)

/-- An arrival counted, R332: the generation arrived in, whether it completed the generation, and the state. -/
def State.arrive (s : State) (f : Nat) : Nat × Bool × State :=
  let o := s.obj f
  if o.parts ≤ o.arr + 1 then (o.gen, true, s.setObj f fun o => { o with arr := 0, gen := (o.gen + 1) % 2 ^ 16 })
  else (o.gen, false, s.setObj f fun o => { o with arr := o.arr + 1 })

/-- An arrival checked against a generation that is not the present one, R332. -/
def State.staleArrival (s : State) (f arg : Nat) : Bool := bitOf arg 31 && arg % 2 ^ 16 != (s.obj f).gen

/-- ARRIVE, R332. -/
def opArrive : OpFun := fun s f _ arg =>
  if s.staleArrival f arg then (.done 2 (some (s.obj f).gen), false, s)
  else
    let r := s.arrive f
    (.waits r.1, r.2.1, r.2.2)

/-- ARRIVE_NW, R332. -/
def opArriveNw : OpFun := fun s f _ arg =>
  if s.staleArrival f arg then (.done 2 (some (s.obj f).gen), false, s)
  else
    let r := s.arrive f
    (.done 0 (some r.1), r.2.1, r.2.2)

/-- An event set, R331, R347; `silent` for a RETURN, which never sets DOUBLE_SET. -/
def State.setEvent (s : State) (f : Nat) (silent : Bool) : State :=
  if (s.obj f).value = 1 then
    if silent then s else (s.setObj f fun o => { o with doubleSet := true }).raise F.syncEvt 1
  else
    let here := s.waiting f 10
    let far := (s.waitingDies f 10).filter (· != s.dieId)
    let taker := s.nextDie f 11
    let s := s.setObj f fun o => { o with value := if taker.isSome then 0 else 1 }
    let s := s.forEach here fun s w => s.endReleased w 0 (some 1)
    let s := match taker with
      | none => s
      | some d =>
        let s := s.when (isPackage f) (·.mapSync fun y => { y with served := Store.write (fun _ => 3) y.served (f - 17920) d })
        if d = s.dieId then
          match s.waiting f 11 with
          | w :: _ => s.endReleased w 0 (some 0)
          | [] => s
        else s.mapSync fun y => { y with pkgWaits := dropWaiter f 11 d y.pkgWaits }
    let s := s.forEach (indexes 4 fun d => far.contains d || (taker == some d && d != s.dieId)) fun s d =>
      s.sendRelease d (f - 17920) 3 (flag (taker == some d)) 0 0 0
    s.when (isPackage f) (·.mapSync fun y => { y with pkgWaits := y.pkgWaits.filter fun w => !(w.idx + 17920 == f && w.op == 10) })

/-- EV_SET, R331. -/
def opEvSet : OpFun := fun s f _ _ =>
  let s := s.setEvent f false
  (.done 0 (some (s.obj f).value), false, s)

/-- EV_CLEAR. -/
def opEvClear : OpFun := fun s f _ _ => (.done 0 (some 0), false, s.setObj f fun o => { o with value := 0 })

/-- EV_WAIT. -/
def opEvWait : OpFun := fun s f _ _ =>
  if (s.obj f).value = 1 then (.done 0 (some 1), false, s) else (.waits 0, false, s)

/-- DUE of a count, R338. -/
def State.dueAt (s : State) (produced : Nat) : Bool := decide (2 ^ s.appliedF F.syncPaircfgRealignExp ≤ produced)

/-- A pair's count with DUE above it, Table 12.4. -/
def pairValue (o : SyncObj) (v : Nat) : Nat := flag o.due * 2 ^ 31 + v

/-- A pair's waiters whose targets its counts have reached are released; the leader tells the other dies, R338, R347. -/
def State.releasePair (s : State) (f op : Nat) : State :=
  let o := s.obj f
  let v := if op = 14 then o.value else o.value2
  let s := s.forEach ((s.waiting f op).filter fun w => decide (w.arg ≤ v)) fun s w => s.endReleased w 0 (some (pairValue o v))
  if isPackage f && s.hosting then
    let s := s.forEach (indexes 4 fun d => s.sync.pkgWaits.any fun w =>
        w.idx + 17920 == f && (w.op == 14 || w.op == 15) && w.die == d) fun s d =>
      s.sendRelease d (f - 17920) 4 0 0 o.value o.value2
    s.mapSync fun y => { y with pkgWaits := y.pkgWaits.filter fun w => !(w.idx + 17920 == f && w.op == op && decide (w.arg ≤ v)) }
  else s

/-- A count that would pass the limit of a pair, R338. -/
def State.overLimit (s : State) (f : Nat) : State := (s.setObj f fun o => { o with limit := true }).raise F.syncEvt 0

/-- PRODUCE, R338. -/
def opProduce : OpFun := fun s f _ arg =>
  let v := (s.obj f).value + arg
  if 2 ^ 31 ≤ v then (.done 2 none, false, s.overLimit f)
  else
    let s := (s.setObj f fun o => { o with value := v, due := o.due || s.dueAt v }).releasePair f 14
    (.done 0 (some (pairValue (s.obj f) v)), false, s)

/-- CONSUME, R338. -/
def opConsume : OpFun := fun s f _ arg =>
  let v := (s.obj f).value2 + arg
  if 2 ^ 31 ≤ v then (.done 2 none, false, s.overLimit f)
  else if (s.obj f).value < v then (.done 4 none, false, s)
  else
    let s := (s.setObj f fun o => { o with value2 := v }).releasePair f 15
    (.done 0 (some (pairValue (s.obj f) v)), false, s)

/-- WAIT_DATA. -/
def opWaitData : OpFun := fun s f _ arg =>
  let o := s.obj f
  if arg ≤ o.value then (.done 0 (some (pairValue o o.value)), false, s) else (.waits arg, false, s)

/-- WAIT_SPACE. -/
def opWaitSpace : OpFun := fun s f _ arg =>
  let o := s.obj f
  if arg ≤ o.value2 then (.done 0 (some (pairValue o o.value2)), false, s) else (.waits arg, false, s)

/-- The targets of a pair's waiters lowered, R339. -/
def State.lowerTargets (s : State) (f base : Nat) : State :=
  let pair (op : Nat) : Bool := op == 14 || op == 15
  s.mapSync fun y => { y with
    records := y.records.map fun w => if w.flat = f ∧ pair w.op then { w with arg := w.arg - base } else w
    pkgWaits := y.pkgWaits.map fun w => if w.idx + 17920 = f ∧ pair w.op then { w with arg := w.arg - base } else w }

/-- REALIGN, R339: the completing arrival rebases the pair. -/
def opRealign : OpFun := fun s f _ arg =>
  if s.staleArrival f arg then (.done 2 (some (s.obj f).gen), false, s)
  else
    let r := s.arrive f
    let base := (r.2.2.obj f).value2
    let s := r.2.2.when r.2.1 fun s =>
      (s.setObj f fun o => { o with value := o.value - base, value2 := 0, due := s.dueAt (o.value - base) }).lowerTargets f base
    (.waits r.1, r.2.1, s)

/-! ### Applying an operation to an object -/

/-- The signaller that an operation applied now records, R345. -/
def State.signaller (s : State) (die core eng : Nat) : Signaller :=
  { die := die, core := core, eng := eng, beat := s.beat, tick := s.time.tick }

/-- An operation applied to an object: FAULTED, NONE and KIND checked (R323, R328), the last signaller kept (R345). -/
def State.applyOp (s : State) (f : Nat) (who : Signaller) (op opf arg : Nat) (g : OpFun) : OpEnd × Bool × State :=
  let s := (s.setF F.syncOpsCount (s.getF F.syncOpsCount + 1)).readObj f (if op = 2 then [0] else [0, 1, 2, 3])
  let o := s.obj f
  if o.faulted && op != 1 && op != 2 then (.done 7 none, false, s)
  else if o.kind = 0 ∧ op ≠ 1 ∧ op ≠ 2 then (.done 2 none, false, s)
  else if !kindFits op o.kind then (.done 4 none, false, s)
  else
    let r := g s f opf arg
    let accepted := match r.1 with
      | .waits _ => true
      | .done st _ => st == 0
    let s := r.2.2.when (accepted && signals op) (·.setObj f fun o => { o with last := some who })
    let s := s.when (s.obj f != o) fun s => s.forEach [0, 1, 2, 3] fun s i => s.eccWrite 0 (4 * f + i)
    (r.1, r.2.1, s)

/-- A completed generation is scheduled for release and told to the other dies, R334, R347. -/
def State.completed (s : State) (f : Nat) (c : Bool) : State := s.when c fun s => (s.schedule f).tellGeneration f

/-- How the request of a local engine or of host software ends, R341 to R343. -/
def State.settle (s : State) (q : SyncReq) (f : Nat) (slot : Option Nat) (e : OpEnd) : State :=
  match e, slot with
  | .done 0 _, some i => (s.setSlot q.core q.eng i 2).post q.core q.eng 0 (some 1)
  | .done st v, _ => s.post q.core q.eng st v
  | .waits a, some i =>
    match s.freeRecord with
    | some rid => ((s.takeRecord q f q.op a rid slot).setSlot q.core q.eng i 1).post q.core q.eng 0 (some 0)
    | none => s.post q.core q.eng 9 none
  | .waits a, none =>
    match s.freeRecord with
    | some rid => s.takeRecord q f q.op a rid none
    | none => s.refuse q f q.op a false

/-! ### Package operations of a die that does not host them, R346 -/

/-- Operations that wait. -/
def waitOp (op : Nat) : Bool := [4, 6, 10, 11, 14, 15, 16].contains op

/-- An OPREQ sent and remembered: the native word with SREQ_ARG, Table 12.5. -/
def State.sendForward (s : State) (q : SyncReq) (f word arg : Nat) (rid slot : Option Nat) : State :=
  let s := s.sendDie [msgWord0 1 s.dieId s.leaderDie q.core q.eng (f - 17920), word, arg,
    flag rid.isSome * 2 ^ 31 + q.ctx]
  s.mapSync fun y => { y with forwards := y.forwards ++ [{ req := q, flat := f, rid := rid, slot := slot, sent := s.now }] }

/-- A package operation on a die that does not host package objects. A wait that finds the pool full is refused under R342 and
still asked of the leader, without a record: an arrival is counted there, another wait completes if its condition holds. -/
def State.forward (s : State) (q : SyncReq) (f word arg : Nat) (slot : Option Nat) : State :=
  if s.isSet F.idConfigLeader && !s.isSet F.gctlStatusStrapFault || s.appliedF F.syncPkgUse = 0 then
    s.post q.core q.eng 8 none
  else if s.isSet F.budStatusAutonomous || s.isSet F.gctlStatusStrapFault || !s.links.followed then
    (s.incF F.syncPkgErrFaulted).post q.core q.eng 7 none
  else if !waitOp q.op then s.sendForward q f word arg none slot
  else
    match s.freeRecord with
    | some rid => (s.takeRecord q f q.op (bareArg word arg) rid slot).sendForward q f word arg (some rid) slot
    | none =>
      match slot with
      | some _ => (s.when (q.op == 6 || q.op == 16) (·.sendForward q f word arg none slot)).post q.core q.eng 9 none
      | none => (s.sendForward q f word arg none none).refuse q f q.op 0 true

/-! ### Requests of the batch, R326 -/

/-- The reissue of a refused arrival reads the state word, R342. -/
def State.pollRead (s : State) (q : SyncReq) (p : Poll) : State :=
  if p.due.isSome then s.setPoll q.core q.eng fun r => { r with queued := false }
  else if isPackage p.flat && !s.hosting then
    (s.setPoll q.core q.eng fun r => { r with at_ := q.at_, queued := false }).forward q p.flat (2 ^ 27 + nativeFields p.flat + 2) 0 none
  else
    let s := (s.setF F.syncOpsCount (s.getF F.syncOpsCount + 1)).readObj p.flat [0, 1, 2, 3]
    if isAfter 16 (s.obj p.flat).rel p.gen then s.post q.core q.eng 0 (some p.gen)
    else s.setPoll q.core q.eng fun r => { r with at_ := q.at_, queued := false }

/-- A request of the batch is applied, R322, R323, R326; a reissue whose wait has ended since is void. -/
def State.applyReq (s : State) (q : SyncReq) (g : OpFun) : State :=
  if q.poll && (s.pollOf q.core q.eng).isNone then s
  else if !s.syncActive then s.post q.core q.eng 2 none
  else
    match (if q.poll then (s.pollOf q.core q.eng).filter fun p => p.op == 6 || p.op == 16 else none) with
    | some p => s.pollRead q p
    | none =>
      let slot := postSlot q.word q.arg
      let busy := match slot with
        | some i => s.slotState q.core q.eng i != 0
        | none => false
      if !requestOk q.op q.word q.arg q.core then s.post q.core q.eng 4 none
      else
        match flatOf q.word q.core with
        | none => s.post q.core q.eng 4 none
        | some f =>
          if busy then s.post q.core q.eng 4 none
          else if isPackage f && !s.hosting then s.forward q f q.word q.arg slot
          else
            let r := s.applyOp f (s.signaller s.dieId q.core q.eng) q.op (q.word % 8) (bareArg q.word q.arg) g
            (r.2.2.settle q f slot r.1).completed f r.2.1

/-- COLLECT, R343. -/
def State.applyCollect (s : State) (q : SyncReq) : State :=
  let unused := (List.range 32).any fun i => bitOf q.arg i && s.slotState q.core q.eng i == 0
  if !s.syncActive then s.post q.core q.eng 2 none
  else if !requestOk 17 q.word q.arg q.core || q.word / 16 % 2 ^ 22 != 0 || unused then s.post q.core q.eng 4 none
  else
    let s := (s.setF F.syncOpsCount (s.getF F.syncOpsCount + 1)).mapSync fun y => { y with
      collects := y.collects ++ [{ core := q.core, eng := q.eng, mask := q.arg, any := bitOf q.word 0 }] }
    let s := s.tryCollect q.core q.eng
    s.when (s.sync.collects.any fun c => c.core == q.core && c.eng == q.eng) (·.startWait q.core q.eng)

/-- The request at the head of the batch, if it is of an operation and was taken in an earlier tick, is removed from the
batch and handled. -/
def State.applyHead (s : State) (op : Nat) (h : State → SyncReq → State) : State :=
  match s.sync.batch with
  | [] => s
  | q :: rest => if q.op = op ∧ s.past q.at_ then h (s.mapSync fun y => { y with batch := rest }) q else s

/-- The operation of a code. -/
def opFun : Nat → OpFun
  | 2 => opInit | 3 => opSignal | 4 => opWait | 5 => opTry | 6 => opArrive | 7 => opArriveNw | 8 => opEvSet
  | 9 => opEvClear | 10 => opEvWait | 11 => opEvTake | 12 => opProduce | 13 => opConsume | 14 => opWaitData
  | 15 => opWaitSpace | 16 => opRealign | _ => opRead

/-- What is left of the batches of earlier ticks is applied, in order, R326. -/
def State.finishBatch (s : State) : State :=
  s.forEach s.sync.batch fun s q => s.applyHead q.op (if q.op = 17 then State.applyCollect else fun s q => s.applyReq q (opFun q.op))

/-- A request's place in the batch, R326: by arrival tick, host software first, then core and engine. -/
def reqBefore (a b : SyncReq) : Bool :=
  isAfter 54 b.at_ a.at_ ||
    (a.at_ == b.at_ && (let k (q : SyncReq) := if q.core = hostCore then 0 else 1 + engineOf q.core q.eng
                        decide (k a < k b)))

/-- A request joins the batch of its tick. -/
def insertReq (q : SyncReq) : List SyncReq → List SyncReq
  | [] => [q]
  | r :: l => if reqBefore q r then q :: r :: l else r :: insertReq q l

end Sys2Proof.Machine
end

