-- ==== Sys2Proof/Machine/SyncRows.lean ====
section
/-! DEFINITION. Chapter 12: the commands of the sync fabric. -/
namespace Sys2Proof.Machine

/-! ### Taking a request, R325, R355 to R358 -/

/-- The page mapped to a context and VPN, as the present tick sees it, R358. -/
def State.pageOf (s : State) (x vpn : Nat) : Option Nat :=
  (List.range 1024).find? fun p => s.lateF (F.syncPagePMapped p) == 1 && s.lateF (F.syncPagePCtx p) == x
    && s.lateF (F.syncPagePVpn p) == vpn

/-- A translation miss, R358. -/
def State.xltMiss (s : State) : Except Nat Nat × State := (.error 4, s.incF F.syncXltMiss)

/-- The translation of a word with VIRT = 1 under a context: the native word or the status it completes with,
R358, R361. -/
def State.translate (s : State) (x word : Nat) : Except Nat Nat × State :=
  let vid := bitsOf word 4 22
  match s.pageOf x (vid / 128) with
  | none => s.xltMiss
  | some p =>
    let e := vid % 128
    let r := s.checkXlt (64 * p + e / 2)
    if !r.1 then (.error 7, r.2)
    else
      let f := r.2.lateF (F.xltEntryFlat p e)
      if r.2.lateF (F.xltEntryValid p e) = 0 ∨ 18431 < f then r.2.xltMiss
      else (.ok (word / 2 ^ 27 * 2 ^ 27 + nativeFields f + word % 16), r.2)

/-- What the context of a core's operation answers before the operation is looked at, R356. -/
def State.admission (s : State) (x : Nat) : Option Nat :=
  match s.lateF (F.syncCtxAState x) with
  | 0 => some 8
  | 1 => none
  | _ => some (if s.lateF (F.syncCtxACause x) = 2 then 7 else 5)

/-- A request in the batch. -/
def State.joinBatch (s : State) (q : SyncReq) : State := s.mapSync fun y => { y with batch := insertReq q y.batch }

/-- Requests a CLC has taken in the present tick. -/
def State.takenNow (s : State) (c : Nat) : Nat :=
  if s.sync.takenAt = s.now then Store.read (fun _ => 0) s.sync.taken c else 0

/-- A CLC takes one more request. -/
def State.countTaken (s : State) (c : Nat) : State :=
  s.mapSync fun y => { y with
    takenAt := s.now
    taken := Store.write (fun _ => 0) (if y.takenAt = s.now then y.taken else []) c (s.takenNow c + 1) }

/-- A request made by a core in the present tick. -/
def State.requestOf (s : State) (core eng ctx word arg : Nat) : SyncReq :=
  { core := core, eng := eng, at_ := s.now, beat := s.beat, tick := s.time.tick, khz := s.getF F.tbSyncFreqUsed,
    ctx := ctx, op := word / 2 ^ 27, word := word, arg := arg }

/-- A request completes as its batch would, in the tick after the next, for a cause seen when it is taken, R326, R356. -/
def State.turnDown (s : State) (core eng status : Nat) : State := s.postIn 2 core eng status none

/-- A CLC takes a request: its arrival tick is the present one. -/
def State.takeRequest (s : State) (r : Sreq) : State :=
  let n := r.core
  let c := clusterOf n
  let s := (s.countTaken c).mapSync fun y => { y with
    presented := y.presented.filter fun p => !(p.core == n && p.eng == r.eng)
    lastTaken := Store.write (fun _ => 23) y.lastTaken c (n % 24) }
  let x := s.lateF (F.syncCorectxCtx n)
  if !s.syncActive then s.turnDown n r.eng 2
  else
    match s.admission x with
    | some st => s.turnDown n r.eng st
    | none =>
      let t := if bitOf r.word 26 then s.translate x r.word else (.ok r.word, s)
      match t.1 with
      | .error st => t.2.turnDown n r.eng st
      | .ok w =>
        if w / 2 ^ 27 = 0 ∨ 17 < w / 2 ^ 27 then t.2.turnDown n r.eng 4
        else t.2.joinBatch (t.2.requestOf n r.eng x w r.arg)

/-- The tick of a polled wait's next attempt, R342. -/
def State.pollTick (s : State) (p : Poll) : Nat := (p.at_ + max 1 (s.appliedF F.syncPollInterval)) % 2 ^ 54

/-- A polled wait whose CPA has come to its next attempt, R342. -/
def State.pollReady (s : State) (p : Poll) : Bool := !p.queued && p.due.isNone && s.reached (s.pollTick p)

/-- A CLC takes the reissue of a polled wait, a new arrival, R342, R356. -/
def State.reissue (s : State) (p : Poll) : State :=
  let n := p.core
  let e := p.eng
  let s := ((s.countTaken (clusterOf n)).mapSync fun y => { y with
    lastTaken := Store.write (fun _ => 23) y.lastTaken (clusterOf n) (n % 24) }).incF F.syncFullPolls
  let s := s.setPoll n e fun r => { r with queued := true }
  let x := s.lateF (F.syncCorectxCtx n)
  match s.admission x with
  | some st => s.turnDown n e st
  | none =>
    let arrival := p.op == 6 || p.op == 16
    let q := { s.requestOf n e x p.word p.argw with op := if arrival then 1 else p.op, poll := true }
    s.joinBatch q

/-- The request a CLC takes next, one presented or the reissue of a polled wait: of the next core in rotation after the one served
last, R325; of the core's engines the lowest, which the spec leaves open (DESIGN CHOICE, log 75). -/
def State.nextTurn (s : State) (c : Nat) : Option (Sreq ⊕ Poll) :=
  let last := Store.read (fun _ => 23) s.sync.lastTaken c
  ((List.range 24).flatMap fun i => (List.range 7).map fun e => (24 * c + (last + 1 + i) % 24, e)).findSome? fun k =>
    match s.sync.presented.find? fun r => r.core == k.1 && r.eng == k.2 with
    | some r => some (.inl r)
    | none => ((s.pollOf k.1 k.2).filter fun p => s.pollReady p && !p.fault).map .inr

/-- A CLC takes requests up to four in the present tick, R325. -/
def State.serveCluster (s : State) (c : Nat) : State :=
  s.forEach (List.range (4 - s.takenNow c)) fun s _ => match s.nextTurn c with
    | some (.inl r) => s.takeRequest r
    | some (.inr p) => s.reissue p
    | none => s

/-- The clusters with requests presented take what they can. -/
def State.serveClusters (s : State) : State :=
  s.forEach (indexes 12 fun c => (s.sync.presented.any fun r => clusterOf r.core == c)
    || s.sync.polls.any fun p => clusterOf p.core == c && s.pollReady p) State.serveCluster

/-- SYNC_REQUEST_TAKEN: an engine, which has one request outstanding at most (R48), presents a request; its CLC takes it in this
tick, or in the first in which it comes to its turn, R325. A core whose clock is stopped, in an offline cluster, makes none, R466. -/
def execSyncRequestTaken (core : Fin 288) (engine : Fin 7) (word arg : Word) (s : State) : Outcome :=
  let n := core.val
  let e := engine.val
  .next (if !s.fabricRuns || !s.coreOn n || s.offline (clusterOf n) || s.sync.outstanding.contains (engineOf n e) then s
  else
    let s := s.mapSync fun y => { y with
      outstanding := engineOf n e :: y.outstanding
      presented := y.presented ++ [{ core := n, eng := e, word := word.toNat, arg := arg.toNat }] }
    s.serveCluster (clusterOf n))

/-- A write of SYNC.HOP_WORD, R351; without effect while the die is PARKED, since the fabric has stopped (R313). -/
def State.hopWrite (s : State) (word : Nat) : State :=
  if s.isSet F.syncHopResBusy || !s.fabricRuns then s
  else
    let s := (s.setF F.syncHopResBusy 1).setF F.syncHopResDone 0
    if !s.syncActive then s.turnDown hostCore 7 2
    else if word / 2 ^ 27 = 0 ∨ 17 < word / 2 ^ 27 then s.turnDown hostCore 7 4
    else s.joinBatch (s.requestOf hostCore 7 0 word (s.getF F.syncHopArgArg))

/-! ### The operations of Table 12.4, each applied in the order of the batch -/

/-- READ, R327, R328. -/
def execSyncRead (s : State) : Outcome := .next (s.applyHead 1 fun s q => s.applyReq q opRead)
/-- INIT, R324. -/
def execSyncInit (s : State) : Outcome := .next (s.applyHead 2 fun s q => s.applyReq q opInit)
/-- SIGNAL, R329. -/
def execSyncSignal (s : State) : Outcome := .next (s.applyHead 3 fun s q => s.applyReq q opSignal)
/-- WAIT, R329. -/
def execSyncWait (s : State) : Outcome := .next (s.applyHead 4 fun s q => s.applyReq q opWait)
/-- TRY, R327. -/
def execSyncTry (s : State) : Outcome := .next (s.applyHead 5 fun s q => s.applyReq q opTry)
/-- ARRIVE, R332. -/
def execSyncArrive (s : State) : Outcome := .next (s.applyHead 6 fun s q => s.applyReq q opArrive)
/-- ARRIVE_NW, R332. -/
def execSyncArriveNw (s : State) : Outcome := .next (s.applyHead 7 fun s q => s.applyReq q opArriveNw)
/-- EV_SET, R331. -/
def execSyncEvSet (s : State) : Outcome := .next (s.applyHead 8 fun s q => s.applyReq q opEvSet)
/-- EV_CLEAR, R327. -/
def execSyncEvClear (s : State) : Outcome := .next (s.applyHead 9 fun s q => s.applyReq q opEvClear)
/-- EV_WAIT, R327. -/
def execSyncEvWait (s : State) : Outcome := .next (s.applyHead 10 fun s q => s.applyReq q opEvWait)
/-- EV_TAKE, R327. -/
def execSyncEvTake (s : State) : Outcome := .next (s.applyHead 11 fun s q => s.applyReq q opEvTake)
/-- PRODUCE, R338. -/
def execSyncProduce (s : State) : Outcome := .next (s.applyHead 12 fun s q => s.applyReq q opProduce)
/-- CONSUME, R338. -/
def execSyncConsume (s : State) : Outcome := .next (s.applyHead 13 fun s q => s.applyReq q opConsume)
/-- WAIT_DATA, R327. -/
def execSyncWaitData (s : State) : Outcome := .next (s.applyHead 14 fun s q => s.applyReq q opWaitData)
/-- WAIT_SPACE, R327. -/
def execSyncWaitSpace (s : State) : Outcome := .next (s.applyHead 15 fun s q => s.applyReq q opWaitSpace)
/-- REALIGN, R339. -/
def execSyncRealign (s : State) : Outcome := .next (s.applyHead 16 fun s q => s.applyReq q opRealign)
/-- COLLECT, R343. -/
def execSyncCollect (s : State) : Outcome := .next (s.applyHead 17 State.applyCollect)

/-! ### Barrier releases, R334 to R337 -/

/-- The pending release of an object. -/
def State.releaseOf (s : State) (f : Nat) : Option Release := s.sync.releases.find? (·.flat == f)

/-- The records, and the polled arrivals, of an object that its completed generations release. -/
def State.releasedRecords (s : State) (f gen : Nat) : List Waiter :=
  s.sync.records.filter fun w => w.flat == f && s.isOpen w && !s.unanswered w && genDone gen w.op w.arg
def State.releasedPolls (s : State) (f gen : Nat) : List Poll :=
  s.sync.polls.filter fun p => p.flat == f && p.due.isNone && p.known && genDone gen p.op p.gen

/-- The tick at which a cluster is released, R336. -/
def State.clusterTick (s : State) (r : Release) (c : Nat) : Nat :=
  (r.at_ + if r.coupled then rankOf c * s.appliedF F.syncCplSpread else 0) % 2 ^ 54

/-- The tick T − LEAD of a release, R335. -/
def Release.noticeAt (r : Release) : Nat := (r.at_ + (2 ^ 54 - r.lead)) % 2 ^ 54

/-- COUPLING_NOTICE, at tick T − LEAD and at no other: each CORE rail that feeds a cluster with a non-posted waiter, and has not
been named, is told, with the beat of its last cluster release, R335, R37, R188. -/
def execCouplingNotice (object : Fin 18432) (s : State) : Outcome :=
  let f := object.val
  .next (match s.releaseOf f with
    | none => s
    | some r =>
      if !r.coupled || s.now != r.noticeAt then s
      else
        let gen := (s.obj f).gen
        let cores := ((s.releasedRecords f gen).filter (·.slot.isNone)).map (·.core) ++ (s.releasedPolls f gen).map (·.core)
        let clusters := indexes 12 fun c => cores.any fun n => clusterOf n == c
        let rails := indexes 4 fun k => clusters.any fun c => c / 3 == k
        let s := s.forEach (clusters.filter fun c => !r.rails.contains (c / 3)) fun s c =>
          let b := s.clusterTick r c / 64
          s.setRail (c / 3) fun v => { v with
            cplNext := true
            cplLast := match v.cplLast with
              | some a => some (if isAfter 48 a b then a else b)
              | none => some b }
        s.mapSync fun y => { y with
          releases := y.releases.map fun q => if q.flat = f then { q with rails := q.rails ++ rails.filter (!q.rails.contains ·) } else q })

/-- BARRIER_RELEASE, R333, R334, R336: waiters of a coupled release complete at the release tick of their cluster. -/
def execBarrierRelease (object : Fin 18432) (s : State) : Outcome :=
  let f := object.val
  .next (match s.releaseOf f with
    | none => s
    | some r =>
      if !s.reached r.at_ then s
      else
        let gen := (s.obj f).gen
        let ws := s.releasedRecords f gen
        let ps := s.releasedPolls f gen
        let s := s.forEach ws fun s w => (s.checkRecord w).2
        let s := (s.setObj f fun o => { o with rel := gen }).mapSync fun y => { y with
          releases := y.releases.filter fun q => q.flat != f }
        let s := s.setF F.syncRelBarrier (s.getF F.syncRelBarrier + 1)
        let s := s.when r.coupled fun s => s.setF F.syncRelCoupled (s.getF F.syncRelCoupled + 1)
        let s := s.trace 0 6 f (flag r.coupled * 65536 + gen)
        if r.coupled then
          let due (core : Nat) : Option Nat := some (s.clusterTick r (clusterOf core))
          let s := s.forEach ws fun s w =>
            if w.slot.isSome then s.endRecord { w with back := false } 0 (some w.arg) false
            else s.setRecord w fun r =>
              { r with due := due r.core, fate := (0, some r.arg), coupled := true, back := false }
          s.forEach ps fun s p => s.setPoll p.core p.eng fun p => { p with due := due p.core }
        else
          let s := s.forEach ws fun s w => s.endRecord { w with back := false } 0 (some w.arg) false
          s.forEach ps fun s p => s.deliver p.core p.eng 0 p.gen false)

/-- Whether a release has come due. -/
def State.dueNow (s : State) (d : Option Nat) : Bool := match d with
  | some t => s.reached t
  | none => false

/-- CLUSTER_RELEASE, R336, R337, R192. -/
def execClusterRelease (cluster : Fin 12) (s : State) : Outcome :=
  let mine (core : Nat) (d : Option Nat) : Bool := clusterOf core == cluster.val && s.dueNow d
  let ws := s.sync.records.filter fun w => w.coupled && mine w.core w.due
  let ps := s.sync.polls.filter fun p => mine p.core p.due
  let s := s.forEach ws fun s w => s.endRecord w w.fate.1 w.fate.2 true
  .next (s.forEach ps fun s p => s.deliver p.core p.eng 0 p.gen true)

/-- SYNC_POLL_REISSUE: every INTERVAL ticks, a new arrival, which its CLC takes in its turn as one of the four of the tick, R325, R342,
R356; under AUTO_FAULT the wait ends in its place, R366. -/
def execSyncPollReissue (core : Fin 288) (engine : Fin 7) (s : State) : Outcome :=
  let n := core.val
  let e := engine.val
  .next (match s.pollOf n e with
    | none => s
    | some p =>
      if !s.fabricRuns || !s.pollReady p then s
      else if p.fault then s.deliverOpen n e 7
      else s.serveCluster (clusterOf n))

/-! ### Messages between dies, R346 to R349 -/

/-- The die a message comes from, its package object as a flat number, its core and its engine. -/
def srcDie (m : List Nat) : Nat := bitsOf (m.headD 0) 26 2
def msgFlat (m : List Nat) : Nat := 17920 + bitsOf (m.headD 0) 0 9
def msgCore (m : List Nat) : Nat := bitsOf (m.headD 0) 15 9
def msgEng (m : List Nat) : Nat := bitsOf (m.headD 0) 12 3

/-- A message comes in on the port: it is applied first in the next tick's batch, R326, R347. -/
def State.arriveMsg (s : State) (type : Nat) (w0 w1 w2 w3 : Word) : State :=
  if w0.toNat / 2 ^ 28 = type ∧ bitsOf w0.toNat 24 2 = s.dieId ∧ s.portRuns then
    s.mapSync fun y => { y with inbox := y.inbox ++ [(s.now, [w0.toNat, w1.toNat, w2.toNat, w3.toNat])] }
  else s

/-- OPREQ: a forwarded operation, applied by the leader, R347. -/
def execOpreq (w0 w1 w2 w3 : Word) (s : State) : Outcome := .next (s.arriveMsg 1 w0 w1 w2 w3)
/-- OPRSP: the leader's answer, R346, R348. -/
def execOprsp (w0 w1 w2 w3 : Word) (s : State) : Outcome := .next (s.arriveMsg 2 w0 w1 w2 w3)
/-- RELEASE, R347, R349. -/
def execPkgRelease (w0 w1 w2 w3 : Word) (s : State) : Outcome := .next (s.arriveMsg 3 w0 w1 w2 w3)
/-- WITHDRAW, R347. -/
def execPkgWithdraw (w0 w1 w2 w3 : Word) (s : State) : Outcome := .next (s.arriveMsg 4 w0 w1 w2 w3)
/-- RETURN, R347. -/
def execPkgReturn (w0 w1 w2 w3 : Word) (s : State) : Outcome := .next (s.arriveMsg 5 w0 w1 w2 w3)

/-- The answer to a forwarded operation: an OPRSP with WAITING, a status and a value, which is free where none is stated. -/
def State.answer (s : State) (m : List Nat) (waiting status : Nat) (value : Option Nat) : State :=
  let r := match value with
    | some v => (v, s)
    | none => s.drawFree (2 ^ 32)
  r.2.sendDie [msgWord0 2 s.dieId (srcDie m) (msgCore m) (msgEng m) (msgFlat m - 17920), waiting * 2 ^ 31 + status, r.1, 0]

/-- An OPREQ is applied, R347. A wait that cannot complete and has no record at its die is not counted; it is answered BUSY,
the spec naming no status (DESIGN CHOICE, log 76). -/
def State.applyOpreq (s : State) (m : List Nat) : State :=
  let word := m.getD 1 0
  let op := word / 2 ^ 27
  let arg := bareArg word (m.getD 2 0)
  if !s.syncActive then s.answer m 0 2 none
  else if !s.hosting then s.answer m 0 8 none
  else if op = 0 ∨ 16 < op ∨ !argsOk op (word % 8) arg then s.answer m 0 4 none
  else
    let f := msgFlat m
    let r := s.applyOp f (s.signaller (srcDie m) (msgCore m) (msgEng m)) op (word % 8) arg (opFun op)
    let s := r.2.2
    let s := match r.1 with
      | .done st v => s.answer m 0 st v
      | .waits a =>
        if bitOf (m.getD 3 0) 31 then
          let k : PkgWait := { idx := f - 17920, die := srcDie m, op := op, arg := a }
          (s.mapSync fun y => { y with pkgWaits := y.pkgWaits ++ [k] }).answer m 1 1 (some a)
        else if op = 6 ∨ op = 16 then s.answer m 0 0 (some a)
        else s.answer m 0 1 none
    s.completed f r.2.1

/-- The leader's answer to an attempt of a polled wait, R342, R346; attempts go on while an answer is out. DEDUCED (log 76): the
state word has GEN and RELEASE_PENDING, not
REL_GEN; a generation counts as released once GEN is after it and no release is pending. -/
def State.pollAnswer (s : State) (q : SyncReq) (p : Poll) (status value : Nat) : State :=
  if q.op = 1 then
    if status ≠ 0 then s.post q.core q.eng status (some value)
    else if p.known && isAfter 16 (value % 2 ^ 16) p.gen && !bitOf value 23 then s.post q.core q.eng 0 (some p.gen)
    else s
  else if q.op = 6 ∨ q.op = 16 then
    if status ≠ 0 then s.post q.core q.eng status (some value)
    else s.setPoll q.core q.eng fun r => { r with gen := value % 2 ^ 16, known := true }
  else if status = 1 then s
  else s.post q.core q.eng status (some value)

/-- The record that a later attempt of an engine's polled wait has taken ends with the answer to an earlier one. -/
def State.endLater (s : State) (q : SyncReq) (flat status value : Nat) : State :=
  match s.sync.records.find? fun w => w.core == q.core && w.eng == q.eng && w.slot.isNone && w.flat == flat && w.due.isNone with
  | some w => (s.endSoon w status (some value)).setRecord w fun r => { r with back := true }
  | none => s

/-- A forwarded operation has ended with the leader's answer, R346. -/
def State.forwardEnd (s : State) (f : Forward) (status value : Nat) : State :=
  let q := f.req
  match f.slot, (s.sync.records.find? fun w => some w.rid == f.rid), s.pollOf q.core q.eng with
  | some i, some w, _ =>
    let s := s.endSoon w status (some value)
    if status = 0 then (s.setSlot q.core q.eng i 2).post q.core q.eng 0 (some 1) else s.post q.core q.eng status (some value)
  | some _, none, _ => s
  | none, some w, _ => s.endSoon w status (some value)
  | none, none, some p => s.pollAnswer q p status value
  | none, none, none =>
    if q.poll && (s.sync.records.any fun w => w.core == q.core && w.eng == q.eng && w.slot.isNone) then
      if status = 1 then s else s.endLater q f.flat status value
    else s.when (s.sync.outstanding.contains (engineOf q.core q.eng) || q.core == hostCore)
      (·.post q.core q.eng status (some value))

/-- An OPRSP is applied, R346, R348: it answers the oldest operation of its engine that is out, since messages come in order; the
round trip ends with its arrival. -/
def State.applyOprsp (s : State) (at_ : Nat) (m : List Nat) : State :=
  let mine (f : Forward) : Bool := f.req.core == msgCore m && f.req.eng == msgEng m
  match s.sync.forwards.find? mine with
  | none => s
  | some f =>
    let trip := (at_ + (2 ^ 54 - f.sent)) % 2 ^ 54
    let s := s.satF F.syncPkgLatLast trip
    let s := s.when (decide (s.getF F.syncPkgLatMax < trip)) (·.satF F.syncPkgLatMax trip)
    let s := s.mapSync fun y => { y with forwards := y.forwards.eraseP mine }
    if f.void then s
    else if bitOf (m.getD 1 0) 31 then
      let s := s.mapSync fun y => { y with
        records := y.records.map fun w =>
          if some w.rid = f.rid ∧ (w.op = 6 ∨ w.op = 16) then { w with arg := m.getD 2 0 % 65536 } else w }
      match f.slot with
      | some i => (s.setSlot f.req.core f.req.eng i 1).post f.req.core f.req.eng 0 (some 0)
      | none => s
    else s.forwardEnd f (m.getD 1 0 % 256) (m.getD 2 0)

/-- The waiters, polled ones included, of some objects complete with FAULT. -/
def State.faultWaiters (s : State) (on : Nat → Bool) : State :=
  let s := s.forEach (s.sync.records.filter fun w => on w.flat && s.isOpen w) fun s w => s.endSoon w 7 none
  s.forEach (s.sync.polls.filter fun p => on p.flat && p.due.isNone) fun s p => s.post p.core p.eng 7 none

/-- A one-waiter RELEASE that finds no waiter is returned, R347. -/
def State.returnRelease (s : State) (m : List Nat) (kind : Nat) : State :=
  s.sendDie [msgWord0 5 s.dieId (srcDie m) 0 0 (msgFlat m - 17920), kind * 2 ^ 28, 0, 0]

/-- The oldest waiter of an operation is released, or the release returned. -/
def State.releaseOne (s : State) (m : List Nat) (op kind : Nat) : State :=
  match s.waiting (msgFlat m) op with
  | w :: _ => s.endReleased w 0 (some 0)
  | [] => s.returnRelease m kind

/-- A completed generation of a package object, R339, R347: this die's own release is scheduled; the targets of its pair waiters fall
by the base, the consumed count: the leader tells every die whose waiters it counts each new count, so the last one told since it
has counted them is the base (DEDUCED, log 76); no field of the message carries it, and it is free where none was told. -/
def State.newGeneration (s : State) (f gen : Nat) : State :=
  let s := if (s.waiting f 14).isEmpty && (s.waiting f 15).isEmpty then s
    else
      let r := match Store.read (fun _ => none) s.sync.pairCounts (f - 17920) with
        | some c => (c, s)
        | none => s.drawFree (2 ^ 31)
      (r.2.lowerTargets f r.1).mapSync fun y => { y with
        pairCounts := Store.write (fun _ => none) y.pairCounts (f - 17920) (some 0) }
  let s := s.setObj f fun o => { o with gen := gen }
  s.when ((s.sync.records.any fun w => w.flat == f && (w.op == 6 || w.op == 16)) || s.sync.polls.any fun p => p.flat == f)
    (·.schedule f)

/-- The counts of a package pair, R347. -/
def State.newCounts (s : State) (f produced consumed : Nat) : State :=
  let value (v : Nat) : Nat := flag (s.dueAt produced) * 2 ^ 31 + v
  let s := (s.mapSync fun y => { y with
    pairCounts := Store.write (fun _ => none) y.pairCounts (f - 17920) (some consumed) }).forgetCounts f
  let s := s.forEach ((s.waiting f 14).filter fun w => decide (w.arg ≤ produced)) fun s w => s.endReleased w 0 (some (value produced))
  s.forEach ((s.waiting f 15).filter fun w => decide (w.arg ≤ consumed)) fun s w => s.endReleased w 0 (some (value consumed))

/-- A RELEASE is applied, R347, R349. -/
def State.applyRelease (s : State) (m : List Nat) : State :=
  let f := msgFlat m
  match m.getD 1 0 / 2 ^ 28 with
  | 1 => s.newGeneration f (m.getD 1 0 % 65536)
  | 2 => s.releaseOne m 4 2
  | 3 =>
    let s := s.forEach (s.waiting f 10) fun s w => s.endReleased w 0 (some 1)
    s.when (bitOf (m.getD 1 0) 27) (·.releaseOne m 11 3)
  | 4 => s.newCounts f (m.getD 2 0 % 2 ^ 31) (m.getD 3 0 % 2 ^ 31)
  | 6 => s.faultWaiters (· == f)
  | 7 => s.faultWaiters isPackage
  | _ => s

/-- A WITHDRAW is applied, R347. -/
def State.applyWithdraw (s : State) (m : List Nat) : State :=
  s.mapSync fun y => { y with
    pkgWaits := if bitOf (m.getD 1 0) 31 then y.pkgWaits.filter fun w => w.die != srcDie m
                else dropWaiter (msgFlat m) (m.getD 1 0 % 256) (srcDie m) y.pkgWaits }

/-- A RETURN is applied, R347: as a SIGNAL of 1, or as an EV_SET that never sets DOUBLE_SET. -/
def State.applyReturn (s : State) (m : List Nat) : State :=
  if !s.hosting then s
  else
    let f := msgFlat m
    let s := s.incF F.syncPkgErrReturns
    let o := s.obj f
    if o.faulted then s
    else if m.getD 1 0 / 2 ^ 28 = 2 ∧ o.kind = 1 then s.signal f 1
    else if m.getD 1 0 / 2 ^ 28 = 3 ∧ o.kind = 3 then s.setEvent f true
    else s

/-- A message of an earlier tick is applied, by its type. -/
def State.applyMsg (s : State) (at_ : Nat) (m : List Nat) : State :=
  match m.headD 0 / 2 ^ 28 with
  | 1 => s.applyOpreq m
  | 2 => s.applyOprsp at_ m
  | 3 => s.applyRelease m
  | 4 => s.applyWithdraw m
  | 5 => s.applyReturn m
  | _ => s

/-- The messages of earlier ticks, which come first in the batch, R326. -/
def State.takeMessages (s : State) : State :=
  let l := s.sync.inbox.filter fun p => s.past p.1
  let s := s.mapSync fun y => { y with inbox := y.inbox.filter fun p => !s.past p.1 }
  s.forEach l fun s p => s.applyMsg p.1 p.2

/-! ### A tick of the fabric -/

/-- What the fabric does as a tick begins: completions that are due, messages, requests that wait, walks, R325, R326, R362. -/
def State.fabricTick (s : State) : State :=
  if !s.fabricRuns then s else s.deliverDue.takeMessages.serveClusters.walkTick

/-- What the fabric still owes in a tick that ends: the rest of its batch, coupling notices, the releases of clusters, reissues,
R326, R335, R336, R342. -/
def State.fabricRest (s : State) : State :=
  if !s.fabricRuns then s
  else
    let s := s.finishBatch
    let s := s.forEach (s.sync.releases.filter fun r => r.coupled && s.now == r.noticeAt) fun s r =>
      if h : r.flat < 18432 then s.act (execCouplingNotice ⟨r.flat, h⟩) else s
    let released := (s.sync.records.filter fun w => w.coupled && s.dueNow w.due).map (·.core)
      ++ (s.sync.polls.filter fun p => s.dueNow p.due).map (·.core)
    let s := s.forEach ((List.finRange 12).filter fun c => released.any fun n => clusterOf n == c.val) fun s c =>
      s.act (execClusterRelease c)
    s.forEach (s.sync.polls.filter s.pollReady) fun s p =>
      if h : p.core < 288 ∧ p.eng < 7 then s.act (execSyncPollReissue ⟨p.core, h.1⟩ ⟨p.eng, h.2⟩) else s

end Sys2Proof.Machine
end

