-- ==== Sys2Proof/Machine/SyncCtx.lean ====
section
/-! DEFINITION. Chapter 13: context commands, bindings and translation entries, the abort walk's end, the watchdog, the
debug window. -/
namespace Sys2Proof.Machine

/-! ### Context commands, R354, R357, R360 -/

/-- The result of a context command. -/
def State.ctxResult (s : State) (status value : Nat) : State :=
  (((s.setF F.syncCtxResBusy 0).setF F.syncCtxResDone 1).setF F.syncCtxResStatus status).setF F.syncCtxResValue value

/-- A context command: ignored while BUSY, and while the die is PARKED, since the fabric has stopped (R313); REFUSED while SYNC is
inactive. -/
def State.ctxCommand (s : State) (g : State → State) : State :=
  if s.isSet F.syncCtxResBusy || !s.fabricRuns then s
  else if !s.syncActive then s.ctxResult 2 0
  else g s

def State.ctxState (s : State) (x : Nat) : Nat := s.getF (F.syncCtxAState x)

/-- WD_MS of a command that names one: 0 takes the default, 1 to 9 and above 60,000 are refused. -/
def State.wdMs (s : State) : Option Nat :=
  let v := s.getF F.syncCtxArgArg % 65536
  if v = 0 then some (s.appliedF F.syncWdcfgDefaultMs) else if v < 10 ∨ 60000 < v then none else some v

/-- The watchdog, for records taken from the next tick, and AUTO_FAULT of a context set from CTX_ARG. -/
def State.setWd (s : State) (x ms : Nat) : State :=
  ((s.keepLate (F.syncCtxCWdMs x)).setF (F.syncCtxCWdMs x) ms).setF (F.syncCtxAAutoFault x) (s.getF F.syncCtxArgArg / 2 ^ 31)

/-- CREATE. -/
def execCtxCreate (ctx : BitVec 10) (s : State) : Outcome :=
  let x := ctx.toNat
  .next (s.ctxCommand fun s =>
    if s.ctxState x ≠ 0 then s.ctxResult 2 0
    else match s.wdMs with
      | none => s.ctxResult 4 0
      | some ms => (((s.keepCtx x).setWd x ms).setF (F.syncCtxAState x) 1).ctxResult 0 0)

/-- The fields of a translation page kept for the present tick before they change. -/
def State.keepPage (s : State) (p : Nat) : State :=
  ((s.keepLate (F.syncPagePMapped p)).keepLate (F.syncPagePCtx p)).keepLate (F.syncPagePVpn p)

/-- A page freed, from the next tick. -/
def State.freePage (s : State) (p : Nat) : State :=
  (((s.keepPage p).setF (F.syncPagePMapped p) 0).setF (F.syncPagePCtx p) 0).setF (F.syncPagePVpn p) 0

/-- The 128 entries of a page cleared, as the translations of the next tick see them. -/
def State.clearPage (s : State) (p : Nat) : State :=
  let s := s.forEach (indexes 128 fun e => s.isSet (F.xltEntryValid p e)) fun s e =>
    (s.keepLate (F.xltEntryValid p e)).keepLate (F.xltEntryFlat p e)
  (s.clearRange (0x80000 + 0x200 * p) (0x80200 + 0x200 * p)).forEach (List.range 64) fun s i => s.eccWrite 2 (64 * p + i)

/-- The pages mapped to a context. -/
def State.pagesOf (s : State) (x : Nat) : List Nat :=
  indexes 1024 fun p => s.isSet (F.syncPagePMapped p) && s.getF (F.syncPagePCtx p) == x

/-- Cores bound to a context, and records it holds. -/
def State.boundTo (s : State) (x : Nat) : Nat := countBelow 288 fun n => s.getF (F.syncCorectxCtx n) == x
def State.recordsOf (s : State) (x : Nat) : Nat := (s.sync.records.filter (·.ctx == x)).length

/-- DESTROY. -/
def execCtxDestroy (ctx : BitVec 10) (s : State) : Outcome :=
  let x := ctx.toNat
  .next (s.ctxCommand fun s =>
    if x = 0 then s.ctxResult 8 0
    else if s.ctxState x = 0 ∨ s.ctxState x = 2 ∨ 0 < s.boundTo x ∨ 0 < s.recordsOf x then s.ctxResult 2 0
    else
      let s := s.forEach (s.pagesOf x) fun s p => (s.clearPage p).freePage p
      (((s.keepCtx x).setF (F.syncCtxAState x) 0).setF (F.syncCtxACause x) 0).ctxResult 0 0)

/-- ABORT, R362. -/
def execCtxAbort (ctx : BitVec 10) (s : State) : Outcome :=
  let x := ctx.toNat
  let busy (s : State) : State :=
    (((s.setF F.syncCtxResBusy 1).setF F.syncCtxResDone 0).setF F.syncCtxResStatus 1).setF F.syncCtxResValue 0
  .next (s.ctxCommand fun s =>
    match s.ctxState x with
    | 0 => s.ctxResult 2 0
    | 1 => busy (s.drain x 1 true)
    | 2 => busy (s.mapSync fun y => { y with walks := y.walks.map fun w => if w.ctx = x then { w with cmd := true } else w })
    | _ => s.ctxResult 0 0)

/-- Whether a walk has ended: in a tick after the last of its 1,024, R362. -/
def State.walkOver (s : State) (w : Walk) : Bool := decide (1024 ≤ w.pos) && s.past ((w.from_ + 1024) % 2 ^ 54)

/-- ABORT_WALK_END, R362: an ABORT that a message gave is answered DONE (R396). -/
def execAbortWalkEnd (ctx : BitVec 10) (s : State) : Outcome :=
  let x := ctx.toNat
  .next (match s.sync.walks.find? fun w => w.ctx == x && s.walkOver w with
    | none => s
    | some w =>
      let s := (s.keepCtx x).setF (F.syncCtxAState x) 3
      let s := s.mapSync fun y => { y with walks := y.walks.filter fun v => v.ctx != x }
      let s := s.when w.cmd (·.ctxResult 10 0)
      let l := if s.running 2 then s.mailbox.awaitAbort else []
      let s := if l.isEmpty then s else { s with mailbox := { s.mailbox with awaitAbort := l.filter fun p => p.1 != x } }
      s.forEach (l.filter fun p => p.1 == x) fun s p => s.reply p.2 10 0 [0])

/-- RESUME. -/
def execCtxResume (ctx : BitVec 10) (s : State) : Outcome :=
  let x := ctx.toNat
  .next (s.ctxCommand fun s =>
    if s.ctxState x = 3 then
      (((s.keepCtx x).setF (F.syncCtxAState x) 1).setF (F.syncCtxACause x) 0).ctxResult 0 0
    else s.ctxResult 2 0)

/-- MAP, R360: the lowest free page, its entries cleared. -/
def execCtxMap (ctx : BitVec 10) (s : State) : Outcome :=
  let x := ctx.toNat
  .next (s.ctxCommand fun s =>
    let vpn := s.getF F.syncCtxArgArg % 2 ^ 15
    if s.ctxState x = 0 ∨ ((s.pagesOf x).any fun p => s.getF (F.syncPagePVpn p) == vpn) then s.ctxResult 2 0
    else match (List.range 1024).find? fun p => !s.isSet (F.syncPagePMapped p) with
      | none => s.ctxResult 9 0
      | some p =>
        let s := (s.keepPage p).clearPage p
        ((((s.setF (F.syncPagePMapped p) 1).setF (F.syncPagePCtx p) x).setF (F.syncPagePVpn p) vpn).ctxResult 0 p))

/-- UNMAP, R360. -/
def execCtxUnmap (ctx : BitVec 10) (s : State) : Outcome :=
  .next (s.ctxCommand fun s =>
    match (s.pagesOf ctx.toNat).find? fun p => s.getF (F.syncPagePVpn p) == s.getF F.syncCtxArgArg % 2 ^ 15 with
    | none => s.ctxResult 4 0
    | some p => (s.freePage p).ctxResult 0 0)

/-- SET_WD, R357: for records taken from now on. -/
def execCtxSetWd (ctx : BitVec 10) (s : State) : Outcome :=
  let x := ctx.toNat
  .next (s.ctxCommand fun s =>
    if s.ctxState x = 0 then s.ctxResult 2 0
    else match s.wdMs with
      | none => s.ctxResult 4 0
      | some ms => (s.setWd x ms).ctxResult 0 0)

/-- The command of a word of SYNC.CTX_CMD, Table 13.2; other codes are BAD_ARG. -/
def State.ctxWrite (s : State) (word : Nat) : State :=
  let x := BitVec.ofNat 10 word
  match word / 2 ^ 28 with
  | 1 => s.act (execCtxCreate x)
  | 2 => s.act (execCtxDestroy x)
  | 3 => s.act (execCtxAbort x)
  | 4 => s.act (execCtxResume x)
  | 5 => s.act (execCtxMap x)
  | 6 => s.act (execCtxUnmap x)
  | 7 => s.act (execCtxSetWd x)
  | _ => s.ctxCommand (·.ctxResult 4 0)

/-! ### Bindings and translation entries, R355, R359 -/

/-- CORECTX_WRITE. -/
def execCorectxWrite (core : Fin 288) (value : Word) (s : State) : Outcome :=
  let f := F.syncCorectxCtx core.val
  let x := value.toNat % 1024
  .next (if s.ctxState x = 0 then s else (s.keepLate f).setF f x)

/-- TRANSLATION_ENTRY_WRITE: a read-modify-write of half a word (R436); where the word cannot be read, the other entry is free. -/
def execTranslationEntryWrite (index : Fin 131072) (value : Word) (s : State) : Outcome :=
  let p := index.val / 128
  let e := index.val % 128
  .next (if !s.isSet (F.syncPagePMapped p) then s
  else
    let s := (s.keepLate (F.xltEntryValid p e)).keepLate (F.xltEntryFlat p e)
    let r := s.checkXlt (64 * p + e / 2)
    let s := if r.1 then r.2
      else
        let d := r.2.drawFree (2 ^ 64)
        d.2.patchXlt (64 * p + e / 2) d.1
    ((s.setF (F.xltEntryValid p e) (value.toNat / 2 ^ 31)).setF (F.xltEntryFlat p e) value.toNat).eccWrite 2 (64 * p + e / 2))

/-! ### The watchdog, R363 to R366 -/

/-- The words of a report, in the layouts of SYNC.WDQ_A to WDQ_C. -/
def reportWords (r : WdReport) : List Nat :=
  [2 ^ 31 + flag r.auto * 2 ^ 30 + flag r.polled * 2 ^ 29 + r.ctx * 2 ^ 19 + r.flat,
   r.core * 2 ^ 23 + r.eng * 2 ^ 20 + r.op * 2 ^ 15 + satNat 15 r.count, r.beat % 2 ^ 32]

/-- A firing counted, R364. -/
def State.countFiring (s : State) (x : Nat) : State :=
  ((s.incF F.syncWdstatFired).incF (F.syncCtxCWdFired x)).raise F.syncCevt 2

/-- A firing joined to the report of its object and context, R365. -/
def addFiring (r : WdReport) : List WdReport → List WdReport
  | [] => [r]
  | q :: l => if q.flat = r.flat ∧ q.ctx = r.ctx then { q with count := q.count + 1 } :: l else q :: addFiring r l

/-- Whether a deadline is not after BEAT_COUNT. -/
def State.expired (s : State) (deadline : Nat) : Bool := !isAfter 48 deadline s.beat

/-- The sweep examines a record. -/
def State.sweepRecord (acc : State × List WdReport) (w : Waiter) : State × List WdReport :=
  let s := acc.1
  if w.fired || !s.isOpen w || !s.expired w.deadline then acc
  else
    let a := s.readRecord w
    if !a.1 then (a.2, acc.2)
    else
      let auto := a.2.isSet (F.syncCtxAAutoFault w.ctx)
      let s := a.2.countFiring w.ctx
      let s := if auto then s.when w.due.isNone (·.endBack w 7)
        else s.mapSync fun y => { y with
          records := y.records.map fun v => if v.rid = w.rid then { v with fired := true } else v }
      (s, addFiring { auto := auto, polled := false, ctx := w.ctx, flat := w.flat, core := w.core, eng := w.eng, op := w.op,
                      count := 1, beat := w.beat } acc.2)

/-- The sweep looks at a polled wait, R366. -/
def State.sweepPoll (acc : State × List WdReport) (p : Poll) : State × List WdReport :=
  let s := acc.1
  if p.fired || p.due.isSome || !s.expired p.deadline then acc
  else
    let auto := s.isSet (F.syncCtxAAutoFault p.ctx)
    let s := (s.countFiring p.ctx).mapSync fun y => { y with
      polls := y.polls.map fun r => if r.core = p.core ∧ r.eng = p.eng then { r with fired := true, fault := auto } else r }
    (s, addFiring { auto := auto, polled := true, ctx := p.ctx, flat := p.flat, core := p.core, eng := p.eng, op := p.op,
                    count := 1, beat := p.beat } acc.2)

/-- A report queued for host software and for the MGP, each dropped and counted if its queue is full, R365. -/
def State.queueReport (s : State) (r : WdReport) : State :=
  let s := if 16 ≤ s.sync.hostQ.length then (s.incF F.syncWdstatLost).raise F.syncCevt 1
    else s.mapSync fun y => { y with hostQ := y.hostQ ++ [r] }
  s.mapSync fun y => if 16 ≤ y.mgpQ.length then { y with mgpLost := y.mgpLost + 1 } else { y with mgpQ := y.mgpQ ++ [r] }

/-- A record put at its place by record number. -/
def insertByRid (w : Waiter) : List Waiter → List Waiter
  | [] => [w]
  | v :: l => if w.rid < v.rid then w :: v :: l else v :: insertByRid w l

/-- The sweep examines its next 64 records, R364; after the last it looks at the polled waits and queues its reports. -/
def State.sweepGroup (s : State) (k : Sweep) : State :=
  let group := (s.sync.records.filter fun w => w.rid / 64 == k.pos).foldl (fun l w => insertByRid w l) []
  let r := group.foldl State.sweepRecord (s, k.reports)
  if k.pos < 1023 then r.1.mapSync fun y => { y with sweep := some { pos := k.pos + 1, reports := r.2 } }
  else
    let r := r.1.sync.polls.foldl State.sweepPoll r
    (r.1.mapSync fun y => { y with sweep := none }).forEach r.2 State.queueReport

/-- A sweep in progress advances in a tick. -/
def State.sweepTick (s : State) : State := match s.sync.sweep with
  | some k => s.sweepGroup k
  | none => s

/-- What the fabric does as a tick begins, the sweep included. -/
def State.fabricBegin (s : State) : State := if !s.fabricRuns then s else s.fabricTick.sweepTick

/-- WATCHDOG_SWEEP, R364, R365: at the begin of the 1 ms interval a sweep starts with the first 64 records; 64 follow in each of the
1,023 ticks that come. -/
def execWatchdogSweep (s : State) : Outcome :=
  .next (if !s.begins (intervalKey 6 0) then s else (s.begun (intervalKey 6 0)).sweepGroup {})

/-- WDQ_POP, R365. -/
def execWdqPop (value : Word) (s : State) : Outcome :=
  .next (if value.toNat % 2 = 1 then s.mapSync fun y => { y with hostQ := y.hostQ.tail } else s)

/-- MGP_WDQ_REPORT, R365, R400. -/
def execMgpWdqReport (s : State) : Outcome :=
  .next (if !s.running 2 then s
  else match s.sync.mgpQ with
    | [] => s
    | r :: l =>
      ((s.mapSync fun y => { y with mgpQ := l }).log 3 3 8 (reportWords r)).notify 5 0xF1 (reportWords r))

/-! ### The debug window, R368, R369 -/

/-- DEBUG_SELECT. -/
def execDebugSelect (value : Word) (s : State) : Outcome :=
  .next ((((s.setF F.dbgSelObject value.toNat).setF F.dbgStatusBusy 1).setF F.dbgStatusValid 0).mapSync fun y =>
    { y with dbgAt := some s.now })

/-- One waiter of a snapshot. -/
def State.showWaiter (s : State) (i : Nat) (w : Option Waiter) : State :=
  match w with
  | none => s.clearRange (0x50030 + 0xC * i) (0x5003C + 0xC * i)
  | some w =>
    let s := (((s.setF (F.dbgWAValid i) 1).setF (F.dbgWACore i) w.core).setF (F.dbgWAEng i) w.eng).setF (F.dbgWAOp i) w.op
    let s := ((s.flagF (F.dbgWAPosted i) w.slot.isSome).flagF (F.dbgWAFired i) w.fired).setF (F.dbgWACtx i) w.ctx
    (s.setF (F.dbgWBBeat i) w.beat).setF (F.dbgWCArg i) w.arg

/-- The snapshot of an object, Table 13.7; an object that does not exist here reads as NONE, a FAULTED one as zero but
for FAULTED (R441). A waiter whose record cannot be read is not shown. -/
def State.snapshot (s : State) (f : Nat) : State :=
  let no := decide (18431 < f) || isPackage f && !s.hosting
  let s := if no then s else s.readObj f [0, 1, 2, 3]
  let o : SyncObj := if no then {} else s.obj f
  let state := if no then 0 else if o.faulted then 2 ^ 28 else s.stateWord f
  let hidden := no || o.faulted
  let o : SyncObj := if o.faulted then {} else o
  let ws := if hidden then [] else s.sync.records.filter (·.flat == f)
  let far (d : Nat) : Nat := if hidden || !isPackage f then 0
    else min 255 ((s.sync.pkgWaits.filter fun w => w.idx + 17920 == f && w.die == d).length + if d = s.dieId then ws.length else 0)
  let s := (s.flagF F.dbgStatusNoobj no).setF F.dbgStatusObject f
  let s := s.setF F.dbgRemote (sumNat ((List.range 4).map fun d => far d * 2 ^ (8 * d)))
  let s := ((s.setF F.dbgStateWord state).setF F.dbgValueValue (shownValue o)).setF F.dbgValue2Value2 o.value2
  let s := ((s.setF F.dbgPartsParts o.parts).setF F.dbgPartsRelGen o.rel).setF F.dbgWaitersCount ws.length
  let l := o.last.getD { die := 0, core := 0, eng := 0, beat := 0, tick := 0 }
  let s := (((s.setF F.dbgLastADie l.die).setF F.dbgLastACore l.core).setF F.dbgLastAEng l.eng).setF F.dbgLastATick l.tick
  let s := (s.setF F.dbgLastBBeatLo l.beat).setF F.dbgLastCBeatHi (l.beat / 2 ^ 32)
  s.forEach (List.range 4) fun s i =>
    match ws[i]? with
    | none => s.showWaiter i none
    | some w =>
      let r := s.readRecord w
      r.2.showWaiter i (if r.1 then some w else none)

/-- DEBUG_SNAPSHOT, R368. -/
def execDebugSnapshot (s : State) : Outcome :=
  .next (match s.sync.dbgAt with
    | none => s
    | some t =>
      if !s.past t || !s.fabricRuns then s
      else
        let s := s.snapshot (s.getF F.dbgSelObject)
        ((s.setF F.dbgStatusBusy 0).setF F.dbgStatusValid 1).mapSync fun y => { y with dbgAt := none })

/-- What contexts and the debug window still owe in a tick that ends, R362, R368. -/
def State.contextRest (s : State) : State :=
  if !s.fabricRuns then s
  else
    let s := s.forEach (s.sync.walks.filter s.walkOver) fun s w => s.act (execAbortWalkEnd (BitVec.ofNat 10 w.ctx))
    s.act execDebugSnapshot

end Sys2Proof.Machine
end

