-- ==== Sys2Proof/Machine/Mailbox.lean ====
section
/-! DEFINITION. Chapter 14: the mailbox channels and who may use them, the requests the MGP takes and checks, sessions, the
heartbeat and host absence, the outbound queue. -/
namespace Sys2Proof.Machine

def State.mapMail (s : State) (g : Mailbox → Mailbox) : State := { s with mailbox := g s.mailbox }

/-- The completion the host target port returns: a value, or an error (R10). -/
def State.complete (s : State) (value : Nat) (error : Bool) : State :=
  { s with port := { s.port with value := value, error := error } }

/-! ### Access to channels, R374 to R382 -/

/-- Whether the debug port has access: DBGACC selected and debug enabled, R75. -/
def State.debugAccess (s : State) : Bool := s.jtag.instr == 16 && s.isSet F.gctlStatusDebugEn

/-- Whether a host master is named in the binding of a channel, R379. -/
def State.bound (s : State) (m ch : Nat) : Bool :=
  m != 0xFFFF && (s.getF (F.mbxChBindMasterA ch) == m || s.getF (F.mbxChBindMasterB ch) == m)

/-- What an access to a channel meets: an error completion, also one that is counted, or none, R379, R381, R382. -/
inductive Gate where
  | error
  | unbound
  | pass
  deriving DecidableEq, Repr

/-- The channels have no power, R382: already from the tick 0 at which the die parks, R409. -/
def State.channelsDown (s : State) : Bool := s.mailboxDown || s.parks

def State.hostGate (s : State) (m ch : Nat) : Gate :=
  if s.channelsDown || decide (28 ≤ ch) then .error
  else if !s.packageX4 then .pass
  else if !s.isSet F.mbxBindCtlLock then .error
  else if s.bound m ch then .pass
  else .unbound

/-- An access by a master that the binding does not name: counted, BIND_REJECT raised. -/
def State.countUnbound (s : State) (ch : Nat) : State := (s.incF (F.mbxChCtlRejects ch)).raise F.mbxMevt 0

/-- Such an access, with its error completion. -/
def State.rejectUnbound (s : State) (ch : Nat) : State := (s.countUnbound ch).complete 0 true

/-- A write of a party to a channel, through its gate. -/
def State.channelWrite (s : State) (p : Party) (ch : Nat) (f : State → State) : State :=
  match p with
  | .dbgacc => if s.debugAccess && !s.channelsDown then f s else s
  | .host m =>
    match s.hostGate m.toNat ch with
    | .error => s.complete 0 true
    | .unbound => s.rejectUnbound ch
    | .pass => (f s).complete 0 false

/-- Whether a party writes, or reads, the messages of a channel, Table 14.1. -/
def writesTo (p : Party) (ch : Nat) : Bool := match p with
  | .host _ => decide (ch < 16)
  | .dbgacc => ch == 28
def readsFrom (p : Party) (ch : Nat) : Bool := match p with
  | .host _ => decide (16 ≤ ch ∧ ch < 28)
  | .dbgacc => ch == 29

def State.channelFull (s : State) (ch : Nat) : Bool := s.isSet (F.mbxChCtlState ch)

/-- An ignored write, counted, R376. -/
def State.rejectWrite (s : State) (ch : Nat) : State := s.incF (F.mbxChCtlRejects ch)

/-- Masters that have written words of a channel since it became EMPTY. -/
def State.writersOf (s : State) (ch : Nat) : List Nat := Store.read (fun _ => []) s.mailbox.writers ch

/-- MAILBOX_WORD_WRITE, R376, R378. -/
def execMailboxWordWrite (party : Party) (channel : Fin 32) (word : Fin 16) (value : Word) (s : State) : Outcome :=
  let ch := channel.val
  .next (s.channelWrite party ch fun s =>
    if !writesTo party ch || s.channelFull ch then s.rejectWrite ch
    else
      let s := s.setF (F.mbxMsgWord ch word.val) value.toNat
      match party with
      | .host m => s.mapMail fun v => { v with
          writers := Store.update (fun _ => []) v.writers ch fun l => if l.contains m.toNat then l else m.toNat :: l }
      | .dbgacc => s)

/-- MAILBOX_GO, R375, R378; in the tick of a reset that has cleared the channels it has no effect, R409. -/
def execMailboxGo (party : Party) (channel : Fin 32) (s : State) : Outcome :=
  let ch := channel.val
  .next (s.channelWrite party ch fun s =>
    if s.mailbox.clearedAt == some s.now then s
    else if !writesTo party ch || s.channelFull ch then s.rejectWrite ch
    else
      let s := s.setF (F.mbxChCtlState ch) 1
      match party with
      | .host m => (s.setF (F.mbxChCtlStamp ch) m.toNat).flagF (F.mbxChCtlMixed ch) ((s.writersOf ch).any (· != m.toNat))
      | .dbgacc => s)

/-- MAILBOX_DONE, R375. -/
def execMailboxDone (party : Party) (channel : Fin 32) (s : State) : Outcome :=
  let ch := channel.val
  .next (s.channelWrite party ch fun s =>
    if readsFrom party ch then s.setF (F.mbxChCtlState ch) 0 else s.rejectWrite ch)

/-! ### Taking a request, R384 to R387 -/

/-- The request channels in the order of the rotation. -/
def requestChannels : List Nat := List.range 16 ++ [28, 30]

/-- The next FULL request channel, starting after the one served last. -/
def State.nextRequest (s : State) : Option Nat :=
  let after := requestChannels.dropWhile (· ≤ s.mailbox.served)
  (after ++ requestChannels).find? s.channelFull

/-- The opcodes of Table 14.5 that a request may carry, and those that channel 30 permits (R396). -/
def opcodes : List Nat :=
  [0x01, 0x02, 0x03, 0x10, 0x11, 0x12, 0x13, 0x14, 0x20, 0x21, 0x30, 0x40, 0x41, 0x42, 0x50, 0x51, 0x52, 0x53, 0x54, 0x55,
   0x60, 0x61, 0x62, 0x63, 0x64, 0x70, 0x71, 0x72, 0x73, 0x80, 0x81]
def bridgeOpcodes : List Nat := [0x11, 0x13, 0x21, 0x40, 0x41, 0x42, 0x64]

/-- A session is open on a channel. -/
def State.sessionOn (s : State) (ch : Nat) : Bool := decide (ch < 16) && s.isSet (F.mbxSesAOpen ch)

/-- The reply channel of a request, R387. -/
def State.replyChannel (s : State) (ch op word2 : Nat) : Nat :=
  let named := word2 / 2 ^ 24
  if ch = 28 ∨ ch = 30 then ch + 1
  else if op = 1 then (if 16 ≤ named ∧ named ≤ 27 then named else 16 + ch % 12)
  else if s.sessionOn ch then s.getF (F.mbxSesAReply ch)
  else 16 + ch % 12

/-- The message in a channel as a request; words beyond its length are cut off. -/
def State.requestIn (s : State) (ch : Nat) : Request :=
  let h := s.getF (F.mbxMsgWord ch 0)
  let n := 8 + bitsOf h 4 4
  { channel := ch
    stamp := s.getF (F.mbxChCtlStamp ch)
    mixed := decide (ch < 16) && s.isSet (F.mbxChCtlMixed ch)
    words := (List.range (min n 16)).map fun i => s.getF (F.mbxMsgWord ch i)
    minor := if s.sessionOn ch then s.getF (F.mbxSesAMinor ch) else 1
    reply := s.replyChannel ch (bitsOf h 16 8) (s.getF (F.mbxMsgWord ch 2)) }

/-- The checks of R386 before the rules of the opcode: the status and data of the reply if one fails. An OPEN needs no session (check
5); its master is R388's concern; on a channel without a session there is no agreed minor to exceed (log 39). -/
def State.checkRequest (s : State) (r : Request) : Option (Nat × List Nat) :=
  let h := r.word 0
  let op := r.opcode
  let host := decide (r.channel < 16)
  if r.mixed then some (8, [])
  else if h / 2 ^ 28 ≠ 2 then some (3, [4])
  else if 8 < bitsOf h 4 4 ∨ bitsOf h 1 3 ≠ 0 then some (4, [])
  else if !opcodes.contains op then some (4, [])
  else if r.channel = 30 ∧ !bridgeOpcodes.contains op then some (8, [])
  else if host && op != 1 && !s.sessionOn r.channel then some (8, [])
  else if host && op != 1 && r.stamp != s.getF (F.mbxSesBMaster r.channel) then some (8, [])
  else if (op != 1 || s.sessionOn r.channel) && decide (r.minor < bitsOf h 24 4) then some (3, [])
  else none

/-- A request channel emptied by the MGP. -/
def State.emptyRequest (s : State) (ch : Nat) : State :=
  let s := (s.setF (F.mbxChCtlState ch) 0).mapMail fun v => { v with served := ch, writers := Store.erase v.writers ch }
  s.when (decide (ch < 16)) (·.raise F.mbxHevtEmpty ch)

/-- MGP_TAKE_MESSAGE, R384, R386: a request that fails a check is answered; another waits for its opcode's rules. -/
def execMgpTakeMessage (s : State) : Outcome :=
  .next (if !s.running 2 || s.mailbox.request.isSome then s
  else match s.nextRequest with
    | none => s
    | some ch =>
      let r := s.requestIn ch
      let s := (s.emptyRequest ch).trace 3 176 ch (r.word 0)
      match s.checkRequest r with
      | some (st, data) => s.reply (if st = 3 ∧ data ≠ [] then { r with minor := 1 } else r) st 0 data
      | none => s.mapMail fun v => { v with request := some r })

/-- The request taken is of an opcode, and the MGP runs: it is handled. -/
def State.onOpcode (s : State) (op : Nat) (g : State → Request → State) : State :=
  match s.mailbox.request with
  | none => s
  | some r => if r.opcode = op ∧ s.running 2 then g (s.mapMail fun v => { v with request := none }) r else s

/-! ### The outbound queue, R391 -/

/-- The message of the queue that leaves next on a channel: its first reply, else its first notification. -/
def nextFor (ch : Nat) (q : List OutMsg) : Option OutMsg :=
  match q.find? fun m => m.channel == ch && m.isReply with
  | some m => some m
  | none => q.find? fun m => m.channel == ch

/-- The words of a queued message, with QUEUED if it waited while the host was absent. -/
def queuedWords (m : OutMsg) : List Nat :=
  match m.words with
  | h :: l => (if m.absent then setBit h 0 else h) :: l
  | [] => []

/-- OUTBOUND_QUEUE_DRAIN, R391. -/
def execOutboundQueueDrain (channel : Fin 32) (s : State) : Outcome :=
  let ch := channel.val
  .next (if !s.running 2 || s.channelFull ch then s
  else match nextFor ch s.mailbox.queue with
    | none => s
    | some m =>
      let s := s.mapMail fun v => { v with queue := dropFirst (· == m) v.queue }
      (s.setF F.mbxQueueDepth s.mailbox.queue.length).writeMsg ch (queuedWords m))

/-! ### Heartbeat and absence, R392 to R394 -/

/-- The heartbeat timer reloaded, R392. -/
def State.reloadHeartbeat (s : State) : State :=
  let n := beatsOf (s.getF F.mbxHbToMs * 1000) (s.getF F.tbSyncFreqUsed)
  (s.setF F.mbxHbLeftBeats n).mapMail fun v => { v with hbLen := n }

/-- Absence begins. -/
def State.beginAbsence (s : State) : State :=
  let s := ((s.setF F.mbxHostAbsent 1).setF F.mbxAbsStartBeat s.beat32).setF F.mbxHbLeftBeats 0
  let s := s.mapMail fun v => { v with
    hbLen := 0, begun := v.begun + 1, dropped := 0, classes := 0, capApplied := s.getF F.pwrProfBHostAbsentCap
    queue := v.queue.map fun m => { m with absent := true } }
  (s.when (s.running 2) (·.log 3 3 7 [1, s.beat32])).settleFleet

/-- Absence ends, R394. -/
def State.endAbsence (s : State) : State :=
  if !s.isSet F.mbxHostAbsent then s
  else
    let s := ((s.setF F.mbxHostAbsent 0).setF F.mbxHostByClose 0).setF F.mbxAbsEndBeat s.beat32
    let s := (s.incF F.mbxHostCount).mapMail fun v => { v with depthAtEnd := v.queue.length }
    (s.log 3 3 7 [0, s.beat32]).settleFleet

/-- The absence summary, Table 14.4. -/
def State.absenceWords (s : State) : List Nat :=
  let v := s.mailbox
  let away := s.isSet F.mbxHostAbsent
  [flag (decide (v.seenAtOpen < v.begun)) * 2 ^ 31 + s.getF F.mbxHostCount, s.getF F.mbxAbsStartBeat,
   if away then s.beat32 else s.getF F.mbxAbsEndBeat,
   (if away then v.queue.length else v.depthAtEnd) * 65536 + satNat 16 v.dropped, v.classes, v.capApplied * 65536]

/-- HEARTBEAT_EXPIRY: the tick 0 at which the timer has run out, R392; a reload in that tick prevents it. -/
def execHeartbeatExpiry (s : State) : Outcome :=
  .next (if s.isSet F.mbxHostAbsent || s.mailbox.hbLen == 0 || s.isSet F.mbxHbLeftBeats then s else s.beginAbsence)

/-! ### Sessions, R388, R389 -/

/-- The data of the reply to an OPEN, Table 14.5. -/
def State.openWords (s : State) (agreed master : Nat) : List Nat :=
  [256 + agreed, s.getF F.gctlFwVerMajor * 2 ^ 24 + s.getF F.gctlFwVerMinor * 65536 + s.getF F.gctlFwVerPatch, master]
    ++ s.absenceWords

/-- OPEN, R388, R389, R392, R394. Channel 28 permits it (R396) and has no session to open: the reply reports, and nothing else
happens (log 39). -/
def execSessionOpen (s : State) : Outcome :=
  .next (s.onOpcode 1 fun s r =>
    let ch := r.channel
    let agreed := min (r.word 2 % 256) 1
    if 16 ≤ ch then s.reply { r with minor := agreed } 0 0 (s.openWords agreed r.stamp)
    else if s.sessionOn ch && r.stamp != s.getF (F.mbxSesBMaster ch) && !(s.isX4 && s.bound r.stamp ch) then s.reply r 8 0 []
    else if r.word 2 / 2 ^ 24 < 16 ∨ 27 < r.word 2 / 2 ^ 24 then s.reply r 4 0 []
    else
      let s := ((s.setF (F.mbxSesAOpen ch) 1).setF (F.mbxSesAReply ch) r.reply).setF (F.mbxSesAMinor ch) agreed
      let s := (s.setF (F.mbxSesAClasses ch) (r.word 3)).setF (F.mbxSesBMaster ch) r.stamp
      let s := s.reloadHeartbeat.endAbsence
      let s := s.reply { r with minor := agreed } 0 0 (s.openWords agreed r.stamp)
      s.mapMail fun v => { v with seenAtOpen := v.begun })

/-- Open sessions. -/
def State.sessions (s : State) : Nat := countBelow 16 fun i => s.isSet (F.mbxSesAOpen i)

/-- A session closed. -/
def State.closeSession (s : State) (ch : Nat) : State :=
  let s := (((s.setF (F.mbxSesAOpen ch) 0).setF (F.mbxSesAReply ch) 0).setF (F.mbxSesAMinor ch) 0).setF (F.mbxSesAClasses ch) 0
  s.setF (F.mbxSesBMaster ch) 0xFFFF

/-- CLOSE, R388, R393. -/
def execSessionClose (s : State) : Outcome :=
  .next (s.onOpcode 2 fun s r =>
    if 16 ≤ r.channel then s.reply r 0 0 []
    else
      let s := (s.closeSession r.channel).reply r 0 0 []
      s.when (s.sessions == 0 && !s.isSet F.mbxHostAbsent) fun s => (s.setF F.mbxHostByClose 1).beginAbsence)

/-- HEARTBEAT, R392, R394: not from channels 28 and 30. -/
def execHeartbeat (s : State) : Outcome :=
  .next (s.onOpcode 3 fun s r =>
    let s := s.when (decide (r.channel < 16)) fun s => s.reloadHeartbeat.endAbsence
    s.reply r 0 0 [s.getF F.mbxHbToMs])

end Sys2Proof.Machine
end

