-- ==== Sys2Proof/Machine/Fp32.lean ====
section
/-! DEFINITION. The FP32 arithmetic of the model engine and of the MDP, R278: each result is one of the two FP32 words next
to the exact one, for the spec states no rounding (log 10). -/
namespace Sys2Proof.Machine

/-- The value of an FP32 word in units of 2^-149; none for an infinity and for what is no number. -/
def fp32Units (w : Nat) : Option Int :=
  let e := bitsOf w 23 8
  let f := bitsOf w 0 23
  if e = 255 then none
  else
    let m := if e = 0 then f else (2 ^ 23 + f) * 2 ^ (e - 1)
    some (if bitOf w 31 then -(m : Int) else (m : Int))

/-- The greatest finite FP32 word that is not above a magnitude in units of 2^-149. -/
def fp32Floor (m : Nat) : Nat :=
  let k := Nat.log2 m - 23
  min 0x7F7FFFFF (2 ^ 23 * k + m / 2 ^ k)

/-- num ÷ den units as FP32: exactly, or the neighbour that `Config.roundsUp` chooses; past the greatest word lies infinity. -/
def fp32Round (site : Nat) (num : Int) (den : Nat) : Nat :=
  let m := num.natAbs
  let w := fp32Floor (m / den)
  let w := if (fp32Units w).getD 0 * (den : Int) = (m : Int) then w
    else if Config.roundsUp site num den then w + 1 else w
  if num < 0 then 2 ^ 31 + w else w

/-- A sum of products rounded; of a sum that is zero the sign is open. -/
def fp32Sum (num : Int) (den : Nat) : Nat :=
  if num = 0 then (if Config.roundsUp 60 0 den then 2 ^ 31 else 0) else fp32Round 60 num den

/-- acc + a × b, rounded once where multiply and add are fused, else after each of the two. -/
def fp32MacWith (fused : Bool) (acc a b : Nat) : Nat :=
  match fp32Units acc, fp32Units a, fp32Units b with
  | some x, some y, some z =>
    if fused then fp32Sum (x * 2 ^ 149 + y * z) (2 ^ 149)
    else
      let p := fp32Round 61 (y * z) (2 ^ 149)
      match fp32Units p with
      | some q => fp32Sum (x + q) 1
      | none => Config.fp32Mac acc 0x3F800000 p
  | _, _, _ => Config.fp32Mac acc a b

/-- The multiply-accumulate of R283. -/
def fp32Mac (acc a b : Nat) : Nat := fp32MacWith Config.fp32Fused acc a b

/-- A fraction as FP32. -/
def fp32OfRatio (num : Int) (den : Nat) : Nat := fp32Round 62 (num * 2 ^ 149) den

end Sys2Proof.Machine
end

