-- ==== Sys2Proof/Machine/Thermal.lean ====
section
/-! DEFINITION. Chapter 9 and the bands of chapter 10: diode and thermistor conversions, plausibility, pairs, the hardware
throttle, trips and their record, DRAM bands. Temperatures are in 1/64 °C. -/
namespace Sys2Proof.Machine

/-! ### Records -/

def State.chan (s : State) (ch : Nat) : Chan := Store.read (fun _ => {}) s.therm.chans ch
def State.setChan (s : State) (ch : Nat) (f : Chan → Chan) : State :=
  { s with therm := { s.therm with chans := Store.update (fun _ => {}) s.therm.chans ch f } }
def State.pairRec (s : State) (q : Nat) : PairRec := Store.read (fun _ => {}) s.therm.pairs q
def State.setPairRec (s : State) (q : Nat) (f : PairRec → PairRec) : State :=
  { s with therm := { s.therm with pairs := Store.update (fun _ => {}) s.therm.pairs q f } }

/-- THM.CH or, from 64 on, THM.NTC_R. -/
def chanStateF (ch : Nat) : Field := if ch < 64 then F.thmChState ch else F.thmNtcRState (ch - 64)
def chanReadingF (ch : Nat) : Field := if ch < 64 then F.thmChReading ch else F.thmNtcRReading (ch - 64)

/-- A temperature field as a reading; 0x8000 is none, R18. -/
def readingOf (n : Nat) : Option Int := if n = 0x8000 then none else some (toSigned 16 n)

/-- The highest and lowest of some readings. -/
def hottest : List (Option Int) → Option Int
  | [] => none
  | none :: l => hottest l
  | some t :: l => some (match hottest l with
    | none => t
    | some u => max t u)

def coldest : List (Option Int) → Option Int
  | [] => none
  | none :: l => coldest l
  | some t :: l => some (match coldest l with
    | none => t
    | some u => min t u)

/-- A reading as its field shows it. -/
def showReading : Option Int → Nat
  | none => 0x8000
  | some t => tempField t

/-- The word of THM.STATUS. -/
def State.thmStatusWord (s : State) : Nat :=
  s.getF F.thmStatusTrip * 2 ^ 31 + s.getF F.thmStatusPwrOff * 2 ^ 30 + s.getF F.thmStatusRec * 2 ^ 28
    + s.getF F.thmStatusCalApplied * 2 ^ 27
    + ((countBelow 18 fun q => s.isSet (F.thmChPriv (if q < 12 then 2 * q else 24 + 4 * (q - 12))))
      + countBelow 64 fun ch => s.isSet (F.thmChPriv ch) && (decide (48 ≤ ch) || (decide (24 ≤ ch) && decide (2 ≤ (ch - 24) % 4))))
      * 65536
    + (countBelow 72 fun ch => s.getF (chanStateF ch) == 2) * 256
    + countBelow 18 fun q => s.isSet (F.thmPairSDisagree q)

/-- A thermal event raised; trace point 7 names a bit newly set. -/
def State.thermEvent (s : State) (bit : Nat) : State :=
  if bitOf (s.getF F.thmEvt) bit then s
  else
    let s := (s.raise F.thmEvt bit).when (bit == 7) (·.latchPm 8 2 64)
    s.trace 0 7 (2 ^ bit) s.thmStatusWord

/-! ### Conversions, R252, R253 -/

/-- Rounded to the nearest integer, halves upward. -/
def roundFrac (num : Int) (den : Nat) : Int := Int.fdiv (2 * num + den) (2 * den)

/-- eta in 2^-14 and offset in 1/64 °C of a diode channel, R254. DESIGN CHOICE (log 81): where the chosen calibration copy lacks tag
0x0004 its fields count as zero, so that eta is 1/16,384. -/
def State.diodeEta (s : State) (ch : Nat) : Nat :=
  if s.isSet F.thmStatusCalApplied then max 1 (u16At s.therm.cal (0x10 + 4 * ch + 2)) else 16515
def State.diodeOffset (s : State) (ch : Nat) : Int :=
  if s.isSet F.thmStatusCalApplied then s16At s.therm.cal (0x10 + 4 * ch) else 0

/-- The reading of a diode conversion, R252. The constant is (q/k) ÷ (3 ln 4) × 64 °C⁻¹ per µV, in 10^-12 (log 14). -/
def State.diodeReading (s : State) (ch : Nat) (d : Diode) : Int :=
  let d21 : Int := (d.v2 : Int) - d.v1
  let d32 : Int := (d.v3 : Int) - d.v2
  let num := 178578994623 * (4 * d21 - d32) * 16384
  let den := 1000000000000 * s.diodeEta ch
  roundFrac (10 * num - 174816 * (den : Int)) (10 * den) + s.diodeOffset ch

/-- The series resistance lies within 0 to 250 Ω, R252, R259. -/
def seriesOk (d : Diode) : Bool :=
  let x : Int := ((d.v3 : Int) - d.v2) - ((d.v2 : Int) - d.v1)
  decide (0 ≤ x ∧ x ≤ 36000)

/-- Neither open nor short, R259. -/
def diodeWhole (d : Diode) : Bool := decide (d.v3 ≤ 1100000) && decide (150000 ≤ d.v1) && seriesOk d

/-- beta and R25 of a thermistor, Table 9.2. -/
def State.ntcBeta (s : State) (n : Nat) : Nat := u16At s.therm.cal (0x110 + 4 * n + 2)
def State.ntcR25 (s : State) (n : Nat) : Nat := u16At s.therm.cal (0x110 + 4 * n)

/-- The reading of a thermistor voltage in µV within 0.02 V to 1.78 V, R253; the logarithm to 2^-56 (log 14). -/
def State.ntcReading (s : State) (n uv : Nat) : Int :=
  let l := log2Fine (10000 * uv) ((1800000 - uv) * max 1 (s.ntcR25 n))
  -- 1/T in 2^-96 per kelvin: 1/298.15 and ln 2 × l / beta
  let inv := 265732559162382483962917827 + Int.fdiv (l * 54916777467707473351141471128) (2 ^ 56 * max 1 (s.ntcBeta n))
  if inv ≤ 0 then 9601 else roundFrac (10 * 64 * 2 ^ 96 - 174816 * inv) (10 * inv.toNat)

/-! ### Plausibility and channel states, R259, R260 -/

/-- Whether a channel is enabled: its bit in force in CH_EN, or in NTC_EN. -/
def State.chanEnabled (s : State) (ch : Nat) : Bool :=
  if ch < 32 then bitOf (s.appliedF F.thmChEnLoMask) ch
  else if ch < 64 then bitOf (s.appliedF F.thmChEnHiMask) (ch - 32)
  else bitOf (s.appliedF F.thmNtcEnMask) (ch - 64)

/-- The rate test: within RATE of the last plausible reading while that is less than 1 ms old, or within RATE of the
reading of the conversion before, which failed only this test. -/
def State.rateOk (s : State) (ch : Nat) (t : Int) : Bool :=
  let c := s.chan ch
  let rate : Int := (64 * max 1 (s.appliedF F.thmPlausRate) : Nat)
  let near := fun (u : Int) => decide ((t - u).natAbs ≤ rate.toNat)
  let young := fun (b : Nat) => decide ((s.beat + 2 ^ 48 - b) % 2 ^ 48 < beatsOf 1000 (s.getF F.tbSyncFreqUsed))
  match c.last with
  | none => true
  | some (u, b) => !young b || near u || (match c.odd with
    | some v => near v
    | none => false)

/-- A channel becomes BROKEN, R260. -/
def State.chanBroken (s : State) (ch : Nat) : State :=
  let s := (s.setF (chanStateF ch) 2).setF (chanReadingF ch) 0x8000
  let s := if ch < 64 then s.setF (F.thmChSeenBroken ch) 1 else s
  (s.setChan ch fun c => { c with good := 0 }).thermEvent 2

/-- A reading taken into use. -/
def State.chanUse (s : State) (ch : Nat) (t : Int) : State :=
  (s.setF (chanReadingF ch) (tempField t)).setChan ch fun c =>
    { c with last := some (t, s.beat), odd := none, used := true, count := 0, good := 0 }

/-- One conversion of an enabled channel, Table 9.3: its reading, and whether it passes the tests but for the rate. -/
def State.convert (s : State) (ch : Nat) (whole : Bool) (t : Int) (rated : Bool) : State :=
  let inRange := whole && decide (-2560 ≤ t ∧ t ≤ 9600)
  let rate := !rated || s.rateOk ch t
  let plausible := inRange && rate
  let st := s.getF (chanStateF ch)
  let s := s.setChan ch fun c =>
    { c with used := false, plaus := plausible, odd := if inRange && !rate then some t else none }
  if st = 3 then s
  else if plausible then
    if st = 2 then
      if max 1 (s.appliedF F.thmPlausRecoverN) ≤ (s.chan ch).good + 1 then (s.setF (chanStateF ch) 0).chanUse ch t
      else s.setChan ch fun c => { c with good := c.good + 1, last := some (t, s.beat) }
    else (s.setF (chanStateF ch) 0).chanUse ch t
  else if st = 2 then s.setChan ch fun c => { c with good := 0 }
  else
    let n := (s.chan ch).count + 1
    let s := s.setChan ch fun c => { c with count := n }
    if st = 1 ∧ max 1 (s.appliedF F.thmPlausBrokenN) ≤ n then s.chanBroken ch else s.setF (chanStateF ch) 1

/-! ### Limits, R264 -/

/-- The trip limit of a channel, Table 9.5. -/
def State.tripLimit (s : State) (ch : Nat) : Int :=
  toSigned 16 (if 24 ≤ ch ∧ ch < 48 then s.getF F.thmLimBDramTrip
    else if ch < 56 then s.getF F.thmLimALogicTrip
    else if ch < 64 then s.appliedF (F.thmSpareJTrip (ch - 56))
    else s.appliedF (F.thmNtcNTrip (ch - 64)))

/-- The WARN of a configurable channel. -/
def State.warnLimit (s : State) (ch : Nat) : Int :=
  toSigned 16 (if ch < 64 then s.appliedF (F.thmSpareJWarn (ch - 56)) else s.appliedF (F.thmNtcNWarn (ch - 64)))

/-- The limits of a channel's kind, R258. -/
def State.kindLimits (s : State) (ch : Nat) : List Int :=
  if ch < 24 then [toSigned 16 (s.getF F.thmLimALogicThrottle), toSigned 16 (s.getF F.thmLimALogicTrip)]
  else if ch < 48 then [toSigned 16 (s.getF F.thmLimBDramThrottle), toSigned 16 (s.getF F.thmLimBDramTrip)]
  else if ch < 56 then [toSigned 16 (s.getF F.thmLimALogicTrip)]
  else [s.tripLimit ch, s.warnLimit ch]

/-! ### Throttle, R265 to R268, R270 -/

def State.throttleFloor (s : State) : Nat := max 100 (s.appliedF F.thmThrCfgFloor)

/-- The clock of a cluster is divided by its thermal throttle, R462. -/
def State.divided (s : State) (c : Nat) : Bool := s.isSet (F.thmCltActive c) && s.isSet (F.thmCltDiv c)

/-- A sweep step during which the clock of the cluster is divided is invalid, from when on its 10 s count, R462. -/
def State.spoilStep (s : State) (c : Nat) : State :=
  let bad := some (s.health.fmax.badEnd.getD (s.beatIn 10000000))
  s.when (s.offline c && s.divided c && s.health.fmax.inStep) fun s =>
    { s with health := { s.health with fmax := { s.health.fmax with spoilt := true, badEnd := bad } } }

/-- The division a CLC chooses after an evaluation, R267. -/
def State.chooseDivision (s : State) (c : Nat) : State :=
  let f := s.getF (F.clcCFreqRun c)
  let lim := min (s.getF (F.thmCltFHw c)) (s.getF (F.thmCltMdpLim c))
  let j := if lim ≤ f / 4 then 2 else if lim ≤ f / 2 then 1 else 0
  ((s.setF (F.thmCltDiv c) j).setClc c fun v => { v with thermDiv := 2 ^ j - 1 }).spoilStep c

/-- The thermal limit of a cluster is about to change: its CPAs see the change from the next tick on, R182, R266. -/
def State.keepLimit (s : State) (c : Nat) : State :=
  ((s.keepLate (F.thmCltActive c)).keepLate (F.thmCltFHw c)).keepLate (F.thmCltMdpLim c)

/-- The throttle of a cluster after an evaluation. -/
def State.setThrottle (s : State) (c : Nat) (active : Bool) (cause fHw : Nat) : State :=
  let s := s.keepLimit c
  let s := ((s.setF (F.thmCltActive c) (flag active)).setF (F.thmCltCause c) cause).satF (F.thmCltFHw c) fHw
  s.chooseDivision c

/-- Whether a cluster is blind: its pair in case 5, or its stack without a plausible channel, R263. -/
def State.clusterBlind (s : State) (c : Nat) : Bool := (s.pairRec c).blind || s.therm.blind.contains (c / 2)

/-- The evaluation of a cluster's throttle, R265. -/
def State.evaluateThrottle (s : State) (c : Nat) : State :=
  if s.getF (F.thmCltCause c) = 3 then s
  else
    let lt := toSigned 16 (s.getF F.thmLimALogicThrottle)
    let dt := toSigned 16 (s.getF F.thmLimBDramThrottle)
    let hyst : Int := (16 * s.appliedF F.thmThrCfgHyst : Nat)
    let p := readingOf (s.getF (F.thmPairPProt c))
    let d := readingOf (s.getF (F.thmStkProt (c / 2)))
    let at_ := fun (x : Option Int) (l : Int) => match x with
      | some t => decide (l ≤ t)
      | none => false
    let below := fun (x : Option Int) (l : Int) => match x with
      | some t => decide (t < l)
      | none => false
    let hot := at_ p lt || at_ d dt
    let cool := below p (lt - hyst) && below d (dt - hyst)
    let active := s.isSet (F.thmCltActive c)
    let run := s.getF (F.clcCFreqRun c)
    let f := if active then s.getF (F.thmCltFHw c) else run
    let step := max 1 (s.appliedF F.thmThrCfgStep)
    let blind := s.clusterBlind c
    let cause := s.getF (F.thmCltCause c)
    let r : Bool × Nat :=
      if hot then (true, max (f - step) s.throttleFloor)
      else if cool && active then (decide (f + step < 1600), f + step)
      else (active, s.getF (F.thmCltFHw c))
    let r : Bool × Nat := if blind then
        (true, min (if r.1 then r.2 else run) (s.appliedF F.thmDramCfgBlindFreq)) else r
    let cause' := if !r.1 then 0 else if blind then 2 else if hot || active then 1 else cause
    let s := s.setThrottle c r.1 cause' r.2
    s.when (r.1 && !active && cause' == 1) (·.thermEvent 7)

/-- PLL_DIV one step nearer to another, through ÷1, ÷2 and ÷4, R267. -/
def dividerStep (div goal : Nat) : Nat :=
  if div < goal then (if div = 0 then 1 else 3) else if goal < div then (if div = 1 then 0 else 1) else div

/-- THROTTLE_DIVIDER_STEP, R267: one step, not during a divider ramp; the accumulators follow f_in (R181). -/
def execThrottleDividerStep (cluster : Fin 12) (s : State) : Outcome :=
  let c := cluster.val
  let v := s.clc c
  .next (if v.ramping || dividerStep v.div v.thermDiv == v.div then s
  else (s.setClc c fun v => { v with div := dividerStep v.div v.thermDiv }).reduceAcc c)

/-! ### Trip, R269 to R273 -/

/-- A trip of a channel may still be recorded as the trip: the comparators are armed, or the trip came in this very tick from a
later channel, Table 9.7. -/
def State.mayTrip (s : State) (ch : Nat) : Bool :=
  s.trip.armed || (s.trip.thermAt == some s.now && decide (ch < 64 * s.getF F.thmTripSrcType + s.getF F.thmTripSrcIndex))

/-- The record of a thermal trip: a new one, or in place of the one started in the same tick, Table 9.7. -/
def State.tripRecordTake (s : State) (c : TripCause) : State :=
  if s.trip.taken && s.trip.at_ == some s.now && s.flash.known then
    { s with trip := { s.trip with record := s.recordHead c } }
  else s.tripTake c

/-- A confirmed trip of a channel, R270. -/
def State.thermalTrip (s : State) (ch : Nat) (t : Int) : State :=
  if !s.mayTrip ch then s
  else
    let srcType := if ch < 64 then 0 else 1
    let index := if ch < 64 then ch else ch - 64
    let limit := tempField (s.tripLimit ch)
    let s := { s with pins := { s.pins with thermTrip := true } }
    let s := (((s.latchPm 8 2 128).setF F.thmStatusTrip 1).setF F.thmTripSrcType srcType).setF F.thmTripSrcIndex index
    let s := ((s.setF F.thmTripAtReading (tempField t)).setF F.thmTripAtLimit limit).thermEvent 0
    let s := s.forEach (List.range 12) fun s c => s.setThrottle c true 3 s.throttleFloor
    let s := s.tripRecordTake { kind := 1, srcType := srcType, index := index, reading := tempField t, limit := limit }
    { s with trip := { s.trip with armed := false, thermAt := some s.now } }

/-- The trip count of a channel after a conversion, R269: plausible conversions count, also those of a BROKEN channel, which
itself never trips. -/
def State.tripCheck (s : State) (ch : Nat) (t : Int) : State :=
  if !(s.chan ch).plaus then s
  else if s.tripLimit ch ≤ t then
    let s := s.setChan ch fun c => { c with trip := min 2 (c.trip + 1) }
    if 2 ≤ (s.chan ch).trip && (s.chan ch).used then s.thermalTrip ch t else s
  else s.setChan ch fun c => { c with trip := 0 }

/-- WARN of a configurable channel, and NEAR of an uncore channel, R275. -/
def State.warnCheck (s : State) (ch : Nat) (t : Int) : State :=
  if !(s.chan ch).used then s
  else if 56 ≤ ch then
    let w := decide (s.warnLimit ch ≤ t)
    let s := s.when (w && !(s.chan ch).warned) (·.thermEvent 4)
    s.setChan ch fun c => { c with warned := w }
  else if 48 ≤ ch then
    let w := decide (s.tripLimit ch - (64 * s.appliedF F.thmPrivBand : Nat) ≤ t)
    let s := s.when (w && !(s.chan ch).near) (·.thermEvent 5)
    s.setChan ch fun c => { c with near := w }
  else s

/-! ### Pairs and stacks, R261 to R263 -/

/-- The estimate of a pair, while valid. -/
def State.estimateOf (s : State) (q : Nat) : Option Int :=
  match readingOf (s.getF (F.thmPairPEst q)), (s.pairRec q).estBeat with
  | some e, some b => if (s.beat + 2 ^ 48 - b) % 2 ^ 48 ≤ beatsOf 1000 (s.getF F.tbSyncFreqUsed) then some e else none
  | _, _ => none

/-- The DISAGREE state of a pair after a conversion, R262. -/
def State.pairState (s : State) (q : Nat) (both apart : Bool) : State :=
  let r := s.pairRec q
  let was := s.isSet (F.thmPairSDisagree q)
  let na := if both && apart then r.apart + 1 else 0
  let ng := if both && !apart then r.agree + 1 else 0
  let clean := if both && apart then 0 else min 100 (r.clean + 1)
  let may := r.mayRaise || clean == 100
  let now := both && (if was then decide (ng < 2) else decide (2 ≤ na))
  let begins := now && !was
  let s := s.setPairRec q fun r => { r with apart := na, agree := ng, clean := clean, mayRaise := may && !begins }
  let s := (s.setF (F.thmPairSDisagree q) (flag now)).when begins (·.incF (F.thmPairSEpisodes q))
  s.when (begins && may) (·.thermEvent 3)

/-- A pair or stack becomes blind, R263. -/
def State.pairBlind (s : State) (q : Nat) (b : Bool) : State :=
  let s := s.when (b && !(s.pairRec q).blind && decide (q < 12)) (·.thermEvent 1)
  s.setPairRec q fun r => { r with blind := b && decide (q < 12) }

/-- A pair's case and readings at a conversion of both its channels, Table 9.4. -/
def State.pairUpdate (s : State) (q a b : Nat) : State :=
  let ra := if (s.chan a).used then readingOf (s.getF (chanReadingF a)) else none
  let rb := if (s.chan b).used then readingOf (s.getF (chanReadingF b)) else none
  let add : Int := toSigned 16 (s.appliedF F.thmPairSingleAdd)
  let apart := match ra, rb with
    | some x, some y => decide (s.appliedF F.thmPairTol < (x - y).natAbs)
    | _, _ => false
  let s := s.pairState q (ra.isSome && rb.isSome) apart
  let dis := s.isSet (F.thmPairSDisagree q)
  let put := fun (cs : Nat) (prot control : Option Int) =>
    ((s.setF (F.thmPairSCase q) cs).setF (F.thmPairPProt q) (showReading prot)).setF (F.thmPairSControl q)
      (showReading control)
  let s := match ra, rb with
    | some x, some y =>
      let mean := Int.fdiv (x + y) 2
      if !apart then put 0 (some (max x y)) (some mean)
      else if dis then
        let c := match s.estimateOf q with
          | none => max x y
          | some e =>
            if (x - e).natAbs < (y - e).natAbs then x
            else if (y - e).natAbs < (x - e).natAbs then y else max x y
        put 1 (some (max x y)) (some c)
      else put 2 (some (max x y)) (some mean)
    | some x, none => put 3 (some (x + add)) (some x)
    | none, some y => put 4 (some (y + add)) (some y)
    | none, none => put 5 none none
  let s := s.pairBlind q (ra.isNone && rb.isNone)
  let s := s.when (ra.isSome || rb.isSome) (·.setPairRec q fun r => { r with lastProt := readingOf (s.getF (F.thmPairPProt q)) })
  { s with therm := { s.therm with pairsNew := if s.therm.pairsNew.contains q then s.therm.pairsNew else q :: s.therm.pairsNew } }

/-- The protection reading of a stack, R263. -/
def State.stackUpdate (s : State) (k : Nat) : State :=
  let q := 12 + k
  let l5 := readingOf (s.getF (F.thmChReading (26 + 4 * k)))
  let l11 := readingOf (s.getF (F.thmChReading (27 + 4 * k)))
  let p := readingOf (s.getF (F.thmPairPProt q))
  let r : Option Int × Nat := match p with
    | some t => (hottest [some t, l5, l11], 0)
    | none =>
      let h := hottest [l5.map (· + toSigned 16 (s.appliedF F.thmDramCfgL5Add)), l11]
      (h, if h.isSome then 1 else 2)
  let blind := r.1.isNone
  let s := s.when (blind && !s.therm.blind.contains k) (·.thermEvent 1)
  let hot := match r.1 with
    | some t => decide (toSigned 16 (s.getF F.thmLimBDramThrottle) ≤ t)
    | none => false
  let s := s.when (hot && !s.isSet (F.thmStkThrottle k)) (·.thermEvent 6)
  let s := ((s.setF (F.thmStkProt k) (showReading r.1)).setF (F.thmStkSrc k) r.2).setF (F.thmStkThrottle k) (flag hot)
  { s with therm := { s.therm with
    blind := if blind then (if s.therm.blind.contains k then s.therm.blind else k :: s.therm.blind) else s.therm.blind.erase k
    stacksNew := if s.therm.stacksNew.contains k then s.therm.stacksNew else k :: s.therm.stacksNew } }

/-- The pair of a unit: units 0 to 11 are the logic pairs, every second of units 12 to 22 a stack's layer 0. -/
def pairOfUnit (u : Nat) : Option Nat :=
  if u < 12 then some u else if u < 24 ∧ u % 2 = 0 then some (12 + (u - 12) / 2) else none

/-- The stack of a unit. -/
def stackOfUnit (u : Nat) : Option Nat := if 12 ≤ u ∧ u < 24 then some ((u - 12) / 2) else none

/-- A unit is enabled, and it is privileged, R256. -/
def State.unitEnabled (s : State) (u : Nat) : Bool := s.chanEnabled (2 * u) || s.chanEnabled (2 * u + 1)
def State.unitPriv (s : State) (u : Nat) : Bool := s.isSet (F.thmChPriv (2 * u)) || s.isSet (F.thmChPriv (2 * u + 1))

/-- The unit that the next slot converts, R256: the privileged units still to convert in ascending order, then the
round-robin. -/
def State.nextUnit (s : State) : Option Nat :=
  match (s.therm.privLeft.filter s.unitEnabled) with
  | u :: _ => some u
  | [] => ((List.range 32).map fun i => (s.therm.robin + 1 + i) % 32).find? fun u => s.unitEnabled u && !s.unitPriv u

/-- The unit in conversion: the one in progress (step 1 of R256), else the next. -/
def State.unitDue (s : State) : Option Nat :=
  match s.therm.unitNow with
  | some u => if s.unitEnabled u then some u else s.nextUnit
  | none => s.nextUnit

/-- A slot ends: its unit has had its turn, and the next is in progress. DESIGN CHOICE (log 81): the conversion of a privileged unit
that was in progress when a frame began counts as its one conversion of that frame. -/
def State.slotEnd (s : State) (u : Nat) : State :=
  let s := { s with therm := { s.therm with
    privLeft := s.therm.privLeft.erase u
    robin := if s.therm.privLeft.contains u then s.therm.robin else u } }
  { s with therm := { s.therm with unitNow := s.nextUnit } }

/-- DIODE_CONVERSION_DONE, R252, R256, R259 to R263, R269: the conversion of the unit whose turn it is. A channel that is not
enabled is not converted. -/
def execDiodeConversionDone (unit_ : Fin 32) (even odd : Diode) (s : State) : Outcome :=
  let u := unit_.val
  let l := ([(2 * u, even), (2 * u + 1, odd)]).filter fun x => s.chanEnabled x.1
  if s.unitDue != some u || l.isEmpty then .next s
  else
    let idle := ([2 * u, 2 * u + 1]).filter fun ch => !s.chanEnabled ch
    let s := s.forEach idle fun s ch => s.setChan ch fun c => { c with used := false, plaus := false }
    let t := l.map fun x => (x.1, s.diodeReading x.1 x.2)
    let s := s.forEach l fun s x => s.convert x.1 (diodeWhole x.2) (s.diodeReading x.1 x.2) true
    let s := match pairOfUnit u with
      | some q => s.pairUpdate q (2 * u) (2 * u + 1)
      | none => s
    let s := match stackOfUnit u with
      | some k => s.stackUpdate k
      | none => s
    let s := s.slotEnd u
    .next (s.forEach t fun s x => (s.warnCheck x.1 x.2).tripCheck x.1 x.2)

/-- THERMISTOR_CONVERSION_DONE, R253, R257, R259, R260, R269. Without the calibration of tag 0x0004 the reading of a
plausible voltage is a free value (log 14). -/
def execThermistorConversionDone (ntc : Fin 8) (microvolts : Nat) (s : State) : Outcome :=
  let n := ntc.val
  let ch := 64 + n
  if !s.chanEnabled ch then .next s
  else
    let whole := decide (20000 < microvolts) && decide (microvolts < 1780000)
    let cal := s.isSet F.thmStatusCalApplied && s.ntcBeta n != 0 && s.ntcR25 n != 0
    let d := s.drawFree 12161
    let s := if whole && !cal then d.2 else s
    let t : Int := if !whole then 0 else if cal then s.ntcReading n microvolts else (d.1 : Int) - 2560
    let s := s.convert ch whole t false
    .next ((s.warnCheck ch t).tripCheck ch t)

/-- CALIBRATION_APPLY, R254: the first tick 0 after the ROM has chosen a calibration copy at boot step 3. -/
def execCalibrationApply (s : State) : Outcome :=
  .next (if s.boot.calChosen then
    { s.setF F.thmStatusCalApplied 1 with therm := { s.therm with cal := s.calSection 4 } }
  else s)

/-! ### Sites and privilege, R256, R258 -/

/-- The sites: a list of the first channel of each, its pair if it is one. -/
def siteChannels : List (Nat × Option Nat) :=
  ((List.range 12).map fun c => (2 * c, some c)) ++ ((List.range 6).map fun k => (24 + 4 * k, some (12 + k)))
    ++ ((List.range 6).map fun k => (26 + 4 * k, none)) ++ ((List.range 6).map fun k => (27 + 4 * k, none))
    ++ ((List.range 16).map fun i => (48 + i, none))

/-- The bit of a channel in PRIV_ELIG. -/
def State.eligible (s : State) (ch : Nat) : Bool :=
  if ch < 32 then bitOf (s.appliedF F.thmPrivEligLoMask) ch else bitOf (s.appliedF F.thmPrivEligHiMask) (ch - 32)

/-- The reading by which a site is privileged: the last plausible one, until every channel of the site is BROKEN or DISABLED,
R258, R274. -/
def State.siteReading (s : State) (x : Nat × Option Nat) : Option Int :=
  match x.2 with
  | none => readingOf (s.getF (F.thmChReading x.1))
  | some q =>
    match readingOf (s.getF (F.thmPairPProt q)) with
    | some t => some t
    | none => if [x.1, x.1 + 1].all fun ch => decide (2 ≤ s.getF (F.thmChState ch)) then none else (s.pairRec q).lastProt

/-- Privilege of one site for the next frame, R258. -/
def State.privSite (s : State) (x : Nat × Option Nat) : State :=
  let chans := if x.2.isSome then [x.1, x.1 + 1] else [x.1]
  let was := s.isSet (F.thmChPriv x.1)
  let reading := s.siteReading x
  let band : Int := (64 * s.appliedF F.thmPrivBand : Nat)
  let now := (chans.any s.eligible) && match reading with
    | none => false
    | some t =>
      match coldest (((s.kindLimits x.1).filter fun l => decide (t < l)).map some) with
      | none => true
      | some l => if was then decide (l - t ≤ band + 128) else decide (l - t ≤ band)
  let s := s.when (now && !was) (·.thermEvent 5)
  s.forEach chans fun s ch => s.setF (F.thmChPriv ch) (flag now)

/-! ### DRAM bands, R291, R292, R294 -/

/-- The lower boundary of a band: B1, B2, B3 are codes 2, 3, 4; a new DRAM_THROTTLE applies from the next frame, R298. -/
def State.bandFloor (s : State) (b : Nat) : Int :=
  if b = 2 then 5440 else if b = 3 then 6080 else toSigned 16 s.therm.bandTop

/-- A band falls through the boundaries it has left by 2 °C. -/
def State.bandFall (s : State) (p : Int) : Nat → Nat → Nat
  | 0, b => b
  | n + 1, b => if 2 ≤ b ∧ p < s.bandFloor b - 128 then s.bandFall p n (b - 1) else b

/-- The band of R291 from the protection reading and the coldest reading. -/
def State.bandOf (s : State) (band : Nat) (p m : Int) : Nat :=
  let hot := if s.bandFloor 4 ≤ p then 4 else if s.bandFloor 3 ≤ p then 3 else if s.bandFloor 2 ≤ p then 2 else 1
  if band < hot ∧ 1 < hot then hot
  else if band = 0 then (if 640 ≤ m then 1 else 0)
  else
    let b := s.bandFall p 3 band
    if b = 1 ∧ m < 512 then 0 else b

/-- A stack's band after a frame; BAND_UPD is due when it, or what forces it, changes. -/
def State.bandUpdate (s : State) (k : Nat) : State :=
  let old := s.getF (F.modelBandSBand k)
  let was := s.isSet (F.modelBandSForced k)
  let p := readingOf (s.getF (F.thmStkProt k))
  let m := coldest [readingOf (s.getF (F.thmPairSControl (12 + k))), readingOf (s.getF (F.thmChReading (26 + 4 * k))),
                    readingOf (s.getF (F.thmChReading (27 + 4 * k)))]
  let r : Nat × Bool := match p with
    | none => (3, true)
    | some t => (s.bandOf old t (m.getD t), false)
  let s := (s.setF (F.modelBandSBand k) r.1).setF (F.modelBandSForced k) (flag r.2)
  let s := s.when (r.1 != old) (·.incF (F.modelBandSChanges k))
  if r.1 != old || r.2 != was then s.bandReturn k else s

/-- BAND_UPD, R292, at the tick 0 it is due: the codes of the band, or the fixed codes of R294, are driven and BAND_UPD pulses. -/
def execBandUpd (stack : Fin 6) (s : State) : Outcome :=
  let k := stack.val
  .next (if !s.therm.bandDue.contains k then s
  else
    let b := s.getF (F.modelBandSBand k)
    let s := if s.isSet (F.modelBandSForced k) then
        ((s.setF (F.modelBandSRef k) 2).setF (F.modelBandSTmg k) 0).setF (F.modelBandSDrv k) 0
      else
        ((s.setF (F.modelBandSRef k) (s.getF (F.modelBcodeBRef b))).setF (F.modelBandSTmg k)
          (s.appliedF (F.modelBcodeBTmg b))).setF (F.modelBandSDrv k) (s.appliedF (F.modelBcodeBDrv b))
    { s with therm := { s.therm with
      bandDue := s.therm.bandDue.erase k
      pulses := Store.update (fun _ => 0) s.therm.pulses k (· + 1) } })

/-- The BAND_UPD pulses that the present tick 0 still owes. -/
def State.owedBands (s : State) : State := s.forEach (List.finRange 6) fun s k => s.act (execBandUpd k)

/-- THERMAL_FRAME, R256, R258, R265, R291: a frame begins; the clusters and stacks whose readings the frame before it renewed
are evaluated, and the privileged units of the new frame chosen. A pulse due in this tick 0 is of the codes before it. -/
def execThermalFrame (s : State) : Outcome :=
  .next (if !s.begins (intervalKey 4 0) then s
  else
    let s := s.owedBands.begun (intervalKey 4 0)
    let due := indexes 12 fun c => s.therm.pairsNew.contains c || s.therm.stacksNew.contains (c / 2)
    let s := s.forEach due State.evaluateThrottle
    let s := s.forEach ((List.range 6).filter s.therm.stacksNew.contains) State.bandUpdate
    let s := s.forEach siteChannels State.privSite
    let left := indexes 32 s.unitPriv
    { s with therm := { s.therm with
      pairsNew := [], stacksNew := [], privLeft := left, bandTop := s.getF F.thmLimBDramThrottle } })

/-- The channels of a stack. -/
def stackChannels (k : Nat) : List Nat := (List.range 4).map (24 + 4 * k + ·)

/-- A throttle of cause 3 holds f_hw at the FLOOR in force, R268. -/
def State.holdTripFloor (s : State) (c : Nat) : State :=
  s.when (s.getF (F.thmCltCause c) == 3) fun s => (s.keepLate (F.thmCltFHw c)).satF (F.thmCltFHw c) s.throttleFloor

/-- The channels at an enable of THERM, Table 9.3, R274: channel and trip counts restart; the pairs and stacks left without an
enabled channel have no reading. -/
def State.channelsEnable (s : State) : State :=
  let s := s.forEach (List.range 72) fun s ch =>
    let s := s.setChan ch fun c => { c with count := 0, good := 0, trip := 0 }
    if !s.chanEnabled ch then
      ((s.setF (chanStateF ch) 3).setF (chanReadingF ch) 0x8000).setChan ch fun c => { c with used := false, plaus := false }
    else if s.getF (chanStateF ch) = 3 then s.setF (chanStateF ch) 1
    else s
  let s := s.forEach (List.range 18) fun s q =>
    let a := if q < 12 then 2 * q else 24 + 4 * (q - 12)
    if s.chanEnabled a || s.chanEnabled (a + 1) then s else s.pairUpdate q a (a + 1)
  let s := s.forEach (List.range 6) fun s k =>
    s.when ((stackChannels k).all (!s.chanEnabled ·)
      || ((stackChannels k).any (!s.chanEnabled ·) && s.getF (F.thmStkProt k) != 0x8000)) (·.stackUpdate k)
  s.forEach (List.range 12) State.holdTripFloor

/-! ### The trip record, R271, R272 -/

/-- TRIP_FLASH_ABORT_DONE, R272. -/
def execTripFlashAbortDone (s : State) : Outcome :=
  .next (if s.trip.stage = .aborting then s.tripProgram s.tripSlot else s)

/-- TRIP_RECORD_PROGRAM_DONE, R272: the record stands in its slot and is read back. -/
def execTripRecordProgramDone (s : State) : Outcome :=
  .next (if s.trip.stage = .programming then
    let s := s.program (s.boot.layout.evtOff + 64 * s.trip.slot)
      (tripRecord s.trip.record (s.isSet F.thmTripRelocated))
    { s with trip := { s.trip with stage := .reading } }
  else s)

/-- TRIP_RECORD_READBACK_DONE, R271, R272: `good` when the device returned what it was given. PWR_OFF_REQ follows in the next
tick; the second try lies within the 5 ms, after which PWR_OFF_REQ is asserted. -/
def execTripRecordReadbackDone (good : Bool) (elapsedUs : Nat) (s : State) : Outcome :=
  .next (if s.trip.stage ≠ .reading then s
  else if good && recordOk 0x50455A43 (s.slotBytes s.trip.slot) then
    let s := ((s.setF F.thmStatusRec 2).setF F.thmTripRecOffset (64 * s.trip.slot)).satF F.thmTripTimeRec elapsedUs
    let off := !s.pins.pwrOff
    let s := { s with trip := { s.trip with stage := .done, offDue := off } }
    s.when off (·.satF F.thmTripTimePwrOff elapsedUs)
  else if !s.trip.retried && !s.pins.pwrOff then
    { s with trip := { s.trip with retried := true } }.tripProgram (s.trip.slot + 1)
  else { s.setF F.thmStatusRec 3 with trip := { s.trip with stage := .failed } })

/-- TRIP_PWR_OFF_TIMEOUT, R271: whatever the state of the record. -/
def execTripPwrOffTimeout (s : State) : Outcome :=
  .next (if (s.trip.taken || s.pins.thermTrip) && !s.pins.pwrOff then
    (s.setF F.thmTripTimePwrOff 5000).powerOff
  else s)

end Sys2Proof.Machine
end

