-- ==== Sys2Proof/Machine/Model.lean ====
section
/-! DEFINITION. Chapter 10: the thermal model and its engine, the law that limits cluster frequencies, coolant flow,
thermal-resistance samples. -/
namespace Sys2Proof.Machine

/-! ### The model as loaded, R278, R279 -/

/-- Tag 0x0005 of the chosen copy: the bodies of its sections, concatenated. -/
def State.modelTag (s : State) : List Byte :=
  ((s.boot.cal.filter (·.1 == 5)).map fun x => x.2.drop 4).flatten

/-- N, M and Q of a body. -/
def bodyN (b : List Byte) : Nat := u16At b 0
def bodyM (b : List Byte) : Nat := byteAt b 2
def bodyQ (b : List Byte) : Nat := byteAt b 3 % 64 + 1

/-- Where the tables of a body begin, Table 10.1. -/
def offA : Nat := 0x10
def offB (n : Nat) : Nat := offA + 96 * n
def offC (n : Nat) : Nat := offB n + 48 * n
def offL (n q : Nat) : Nat := offC n + 96 * q
def offSeed (n q : Nat) : Nat := offL n q + 48 * n
def offConv (n q : Nat) : Nat := offSeed n q + 4 * ceilDiv n 4

/-- The length a body's counts require. -/
def bodyLength (b : List Byte) : Nat := offConv (bodyN b) (bodyQ b) + 4 * bodyN b

/-- Whether tag 0x0005 is present, R279. -/
def State.hasModel (s : State) : Bool :=
  s.hasTag 5 && decide (16 ≤ s.modelTag.length ∧ bodyLength s.modelTag ≤ s.modelTag.length)

/-- One row of a sparse matrix times a vector, on top of a value: `slots` slots of six bytes from an offset. -/
def rowTimes (b : List Byte) (off slots acc : Nat) (v : List Nat) : Nat :=
  (List.range slots).foldl (fun acc i =>
    let col := u16At b (off + 6 * i + 4)
    if col = 0xFFFF then acc else fp32Mac acc (u32At b (off + 6 * i)) (v.getD col 0)) acc

/-- C · x. -/
def outputsOf (b : List Byte) (x : List Nat) : List Nat :=
  (List.range (bodyQ b)).map fun i => rowTimes b (offC (bodyN b) + 96 * i) 16 0 x

/-- x + L · inn. -/
def correct (b : List Byte) (x inn : List Nat) : List Nat :=
  (List.range (bodyN b)).map fun i => rowTimes b (offL (bodyN b) (bodyQ b) + 48 * i) 8 (x.getD i 0) inn

/-- A · x + B · u. -/
def advance (b : List Byte) (x u : List Nat) : List Nat :=
  (List.range (bodyN b)).map fun i =>
    rowTimes b (offB (bodyN b) + 48 * i) 8 (rowTimes b (offA + 96 * i) 16 0 x) u

/-- FP32 minus one. -/
def minusOne : Nat := 0xBF800000

/-- The innovations of R283. -/
def innovations (y : List Nat) (meas : List (Option Int)) : List Nat :=
  y.zipIdx.map fun yq => match meas.getD yq.2 none with
    | none => 0
    | some t => fp32Mac (fp32OfRatio t 64) minusOne yq.1

/-- The forecast: the state advanced under u_fc. -/
def forecast (b : List Byte) (u : List Nat) : Nat → List Nat → List Nat
  | 0, x => x
  | n + 1, x => forecast b u n (advance b x u)

/-! ### Measurements and inputs, R280 to R282 -/

/-- The measurement of an output, Table 10.3. -/
def State.measurement (s : State) (q : Nat) : Option Int :=
  if q < 18 then readingOf (s.getF (F.thmPairSControl q))
  else if q < 24 then readingOf (s.getF (F.thmChReading (26 + 4 * (q - 18))))
  else if q < 30 then readingOf (s.getF (F.thmChReading (27 + 4 * (q - 24))))
  else if q = 30 then readingOf (s.getF (F.thmNtcRReading 2))
  else if q = 31 then readingOf (s.getF (F.thmNtcRReading 1))
  else none

/-- The last plausible reading of a thermistor; a free value when there has been none. -/
def State.lastNtc (s : State) (n : Nat) : Int × State :=
  match (s.chan (64 + n)).last with
  | some (t, _) => (t, s)
  | none =>
    let d := s.drawFree 12161
    ((d.1 : Int) - 2560, d.2)

/-- A step boundary: what the step that ends used is what the next inputs report, R280. Energies wrap, so the difference is
modular (Table 3.5); a core group's is the sum of four 64-bit energies. -/
def State.stepBoundary (s : State) : State :=
  let old := s.model.energies
  let new := (List.range 72).map s.groupEnergy
  let used := (List.range 72).map fun g =>
    (new.getD g 0 + (2 ^ 64 - old.getD g 0 % 2 ^ 64)) % 2 ^ 64
  { s with model := { s.model with
    energies := new, used := used, railLast := s.model.railSums, beatsLast := s.model.beats
    railSums := [0, 0, 0, 0], beats := 0 } }

/-- The forecast increment of a cluster's core groups, in 0.125 A × 0.25 mV, R281. -/
def State.forecastPower (s : State) (c : Nat) : Nat :=
  sumNat ((s.clc c).table.map (·.delta)) * s.getF (F.railVtgtTarget (c / 3))

/-- The MDP writes the next inputs, R280, R285. -/
def State.writeInputs (s : State) : State :=
  let groups := (List.range 72).map fun g => fp32OfRatio (s.model.used.getD g 0 : Nat) 100
  let groupsFc := (List.range 72).map fun g =>
    fp32OfRatio (1920 * s.model.used.getD g 0 + s.forecastPower (g / 6) : Nat) 192000
  let n := max 1 s.model.beatsLast
  let p := fun k => s.model.railLast.getD k 0
  let stack := fp32OfRatio ((p 1 + p 2 : Nat) : Int) (48 * n)
  let inlet := s.lastNtc 0
  let top := inlet.2.lastNtc 2
  let rest := List.replicate 6 stack ++ [fp32OfRatio (p 0) (8 * n), fp32OfRatio (p 3) (8 * n),
    fp32OfRatio inlet.1 64, fp32OfRatio top.1 64]
  let fill := fun (l : List Nat) => (l ++ List.replicate 46 0).take (bodyM s.model.body)
  let s := top.2
  { s with model := { s.model with uNow := fill (groups ++ rest), uFc := fill (groupsFc ++ rest) } }

/-! ### Model states, Table 10.4 -/

def State.modelState (s : State) : Nat := s.getF F.modelStatusState

/-- Every cluster's limit written by the MDP, R285, R286. -/
def State.writeLimit (s : State) (c f : Nat) : State :=
  (s.keepLate (F.thmCltMdpLim c)).setF (F.thmCltMdpLim c) f

/-- Each node seeded from its SEED source, or from the inlet, R286. -/
def State.seedModel (s : State) : State :=
  let b := s.model.coef
  let inlet := s.lastNtc 0
  let s := inlet.2
  let x := (List.range (bodyN b)).map fun i =>
    let q := byteAt b (offSeed (bodyN b) (bodyQ b) + i)
    let m := if q = 0xFF then none else s.measurement q
    fp32OfRatio (m.getD inlet.1) 64
  { s with model := { s.model with x := x, loaded := true } }

/-- The model settles: SETTLE steps in which limits may only fall. -/
def State.modelSettle (s : State) : State :=
  (s.setF F.modelStatusState 2).setF F.modelStatusSettleLeft (max 1 (s.appliedF F.modelLaw2Settle))

/-! The engine's state RAM, Table 16.1: the coefficients, then x and xf, four bytes a node; packed without gaps (log 61). -/

/-- Words in which the coefficients lie, words in which x lies, and words of the whole model. -/
def coefWords (b : List Byte) : List Nat := List.range (ceilDiv (bodyLength b) 8)
def nodeWords (b : List Byte) : List Nat :=
  let first := bodyLength b / 8
  (List.range (ceilDiv (bodyLength b + 8 * bodyN b) 8 - first)).map (first + ·)
def modelWords (b : List Byte) : Nat := ceilDiv (bodyLength b + 8 * bodyN b) 8

/-- Uncorrectable error in the model's state RAM, R286, Table 16.2: a step in progress is abandoned, the model is
reseeded, MODEL_RESET. -/
def State.modelReset (s : State) : State :=
  if s.modelState = 2 ∨ s.modelState = 3 then
    let s := (s.seedModel.modelSettle).raise F.modelEvt 0
    let s := s.eccWriteAll 7 (nodeWords s.model.coef)
    { s with model := { s.model with latched := none, rewrite := true } }
  else s

/-- The bytes of x and of the coefficients as they stand in the state RAM; those of xf are not held. -/
def State.modelBytes (s : State) : List Byte :=
  (s.model.coef ++ List.replicate (bodyLength s.model.coef - s.model.coef.length) 0).take (bodyLength s.model.coef)
    ++ (s.model.x.map (toLeBytes 4)).flatten

/-- A word of the model's state RAM replaced. -/
def State.patchModel (s : State) (w d : Nat) : State :=
  let n := bodyLength s.model.coef
  let b := patchBytes s.modelBytes (8 * w) ((toLeBytes 8 d).take (s.modelBytes.length - 8 * w))
  { s with model := { s.model with coef := b.take n, x := leWords s.model.x.length (b.drop n) } }

/-- The checked reads of a step, R283, R440: whether the step goes on. An error the code misses leaves a free word. -/
def State.readModel (s : State) : Bool × State :=
  (s.badWords 7 (modelWords s.model.coef)).foldl (fun (a : Bool × State) w =>
    let r := a.2.eccRead 7 w false
    match r.1 with
    | .uncorrectable => (false, r.2)
    | .wrong => let d := r.2.drawFree (2 ^ 64); (a.1, d.2.patchModel w d.1)
    | _ => (a.1, r.2)) (true, s)

/-! ### Coolant flow, R288 to R290 -/

/-- The frequency of FLOW_TACH in 1/16 Hz from the latest pulses, R58: rising edges of pulses of at least 50 µs over the time they
span, 0 when no edge came in 2 s, at most 2,000 Hz. -/
def tachFreq (pulses : List TachPulse) : Nat :=
  let n := (pulses.filter fun p => decide (50 ≤ p.width)).length
  let span := sumNat (pulses.map (·.gap))
  if n = 0 ∨ span = 0 ∨ 2000000 * n < span then 0 else min 32000 (openDivNat 66 (16000000 * n) span)

/-- The flow in mL/min, R288. -/
def State.flowOf (s : State) (tach : Nat) : Nat := openDivNat 36 (tach * s.appliedF F.modelFlowCfgK) 256

/-- s = (flow / FLOW_REF)^0.8 clipped to 0 to 4, in 1/4,096; the power in fixed point (log 14). -/
def flowScale (flow ref : Nat) : Nat :=
  if flow = 0 then 0
  else if ref = 0 then 16384
  else min 16384 (exp2Fix (Int.fdiv (4 * log2Fix flow ref) 5) / 2 ^ 48)

/-- The side of FLOW_MIN on which the flow lies, and since when, R290. -/
def State.flowSide (s : State) : State :=
  let low := decide (s.getF F.modelFlowFlow < s.appliedF F.modelFlowCfgFlowMin)
  if s.appliedF F.modelFlowCfgTachEn = 0 then { s with model := { s.model with flowSince := none } }
  else if s.model.flowSince.isSome && s.model.flowLow == low then s
  else { s with model := { s.model with flowLow := low, flowSince := some s.beat } }

/-- MODEL.FLOW from THM.FLOW.FREQ and TACH_EN; FLOW_REF is that of tag 0x0005. -/
def State.showFlow (s : State) : State :=
  if s.appliedF F.modelFlowCfgTachEn = 0 then ((s.setF F.modelFlowScale 4096).setF F.modelFlowFlow 0).flowSide
  else
    let flow := s.flowOf (s.getF F.thmFlowFreq)
    ((s.setF F.modelFlowScale (flowScale flow (u16At s.modelTag 4))).satF F.modelFlowFlow flow).flowSide

/-- THM.FLOW and MODEL.FLOW from the tachometer. -/
def State.measureFlow (s : State) (pulses : List TachPulse) : State := (s.setF F.thmFlowFreq (tachFreq pulses)).showFlow

/-- THERM is enabled, Table 10.4, with the baseline of the calibration copy (R296); TACH_EN and K act on the flow at once (R288). -/
def State.modelEnable (s : State) : State :=
  let s := s.showFlow
  let base := u32At s.modelTag 8
  let s := if s.hasModel then (s.satF F.modelRthBase base).setF F.modelStatusBaseline (flag (base != 0)) else s
  if s.appliedF F.modelCfgModelEn = 1 then
    s.when (s.modelState == 0) (·.setF F.modelStatusState 1)
  else
    let s := { s.setF F.modelStatusState 0 with model := { s.model with latched := none, fresh := false } }
    s.forEach (List.range 12) fun s c => s.writeLimit c 1600

/-- The MDP stops, Table 10.4. -/
def State.modelStop (s : State) : State :=
  if s.modelState = 1 ∨ s.modelState = 2 ∨ s.modelState = 3 then
    { s.setF F.modelStatusState 4 with model := { s.model with latched := none, fresh := false } }
  else s

/-- The MDP is released, Table 10.4; the second in progress then gives no valid sample, Table 15.4. -/
def State.modelRelease (s : State) : State :=
  let s := { s with model := { s.model with bad := true } }
  if s.modelState = 4 then (if s.model.loaded then s.modelSettle else s.setF F.modelStatusState 1) else s

/-- MODEL_LOAD_DONE, R286. -/
def execModelLoadDone (s : State) : Outcome :=
  if s.modelState ≠ 1 ∨ !s.running 1 then .next s
  else
    let b := s.modelTag
    let s := ({ s with model := { s.model with body := b, coef := b, scale := 4096, rewrite := false } } : State).eccClear 7
    let s := ((s.setF F.modelShapeN (bodyN b)).setF F.modelShapeM (bodyM b)).setF F.modelShapeQ (bodyQ b)
    let s := s.seedModel.modelSettle
    .next (s.forEach (List.range 12) fun s c => s.setF (F.modelLimCLim c) 1600)

/-- The slot of a row that has a column, if any. -/
def slotOf (b : List Byte) (off slots col : Nat) : Option Nat :=
  (List.range slots).find? fun i => u16At b (off + 6 * i + 4) == col

/-- The coefficients of one node scaled, R289: reference values from the MDP's copy. -/
def scaleNode (body coef : List Byte) (scale i : Nat) : List Byte :=
  let n := bodyN body
  let conv := u32At body (offConv n (bodyQ body) + 4 * i)
  let offRow := offA + 96 * i
  let offIn := offB n + 48 * i
  match slotOf body offRow 16 i, slotOf body offIn 8 80 with
  | some j, some k =>
    if conv % 2 ^ 31 = 0 then coef
    else
      let a := fp32Mac (u32At body (offRow + 6 * j)) conv (fp32OfRatio (4096 - (scale : Int)) 4096)
      let b := fp32Mac (u32At body (offIn + 6 * k)) conv (fp32OfRatio ((scale : Int) - 4096) 4096)
      patchBytes (patchBytes coef (offRow + 6 * j) (toLeBytes 4 a)) (offIn + 6 * k) (toLeBytes 4 b)
  | _, _ => coef

/-- s has moved by more than 1/64 since the last rewrite, which lies 10 ms or more back, R289. -/
def State.rewriteOwed (s : State) : Bool :=
  let sc := s.getF F.modelFlowScale
  let rested := match s.model.rewritten with
    | none => true
    | some b => decide (beatsOf 10000 (s.getF F.tbSyncFreqUsed) ≤ (s.beat + 2 ^ 48 - b) % 2 ^ 48)
  decide (64 < (if sc ≤ s.model.scale then s.model.scale - sc else sc - s.model.scale)) && rested

/-- The coupled coefficients rewritten for the scale that MODEL.FLOW shows, R289. -/
def State.rewriteFlow (s : State) : State :=
  let sc := s.getF F.modelFlowScale
  let old := s.model.coef
  let new := (List.range (bodyN s.model.body)).foldl (fun c i => scaleNode s.model.body c sc i) old
  let touched := (coefWords new).filter fun w => (old.drop (8 * w)).take 8 != (new.drop (8 * w)).take 8
  ({ s with model := { s.model with coef := new, scale := sc, flowDue := false, rewritten := some s.beat } } : State).eccWriteAll 7
    touched

/-- FLOW_COEFF_REWRITE, R288, R289, R298: between steps, or after the step in progress. -/
def execFlowCoeffRewrite (tach : List TachPulse) (s : State) : Outcome :=
  let s := s.measureFlow tach
  .next (if s.running 1 && s.model.loaded && s.rewriteOwed then
    (if s.model.latched.isSome then { s with model := { s.model with flowDue := true } } else s.rewriteFlow)
  else s)

/-- MODEL_COEFF_REWRITE, R443: every coefficient word, with the flow scaling in force. -/
def execModelCoeffRewrite (s : State) : Outcome :=
  .next (if !s.running 1 || !s.model.loaded || !s.model.rewrite then s
  else
    let b := s.model.body
    let new := if s.model.scale = 4096 then b
      else (List.range (bodyN b)).foldl (fun c i => scaleNode b c s.model.scale i) b
    ({ s with model := { s.model with coef := new, rewrite := false } } : State).eccWriteAll 7 (coefWords b))

/-- The flow has lain on its side of FLOW_MIN for 1 s, R290. -/
def State.flowSettled (s : State) : Bool :=
  match s.model.flowSince with
  | none => false
  | some b => decide (beatsOf 1000000 (s.getF F.tbSyncFreqUsed) ≤ (s.beat + 2 ^ 48 - b) % 2 ^ 48)

/-- FLOW_LOST, R290: the flow has lain below FLOW_MIN, or at or above it, for 1 s. -/
def execFlowLost (tach : List TachPulse) (s : State) : Outcome :=
  let s := s.measureFlow tach
  .next (if s.appliedF F.modelFlowCfgTachEn = 0 || !s.flowSettled then s
  else if s.model.flowLow then
    (if s.isSet F.modelStatusFlowLost then s else ((s.setF F.modelStatusFlowLost 1).raise F.modelEvt 2).settleFleet)
  else (s.setF F.modelStatusFlowLost 0).settleFleet)

/-! ### The step, R283 to R285 -/

/-- HORIZON and the law's values in force, for the step that begins, R286, R298. -/
def State.lawNow (s : State) : StepLaw :=
  { horizon := s.appliedF F.modelCfgHorizon, kdown := s.appliedF F.modelLawKdown, kup := s.appliedF F.modelLawKup
    riseMax := s.appliedF F.modelLawRiseMax, margin := s.appliedF F.modelLawDramMargin
    floor := max 100 (s.appliedF F.modelLaw2Floor), target := toSigned 16 s.therm.target
    throttle := toSigned 16 (s.getF F.thmLimBDramThrottle) }

/-- Readings of the present step taken into the second's sample, R295. -/
def State.sampleStep (s : State) : State :=
  let l := (List.range 12).filterMap fun q => readingOf (s.getF (F.thmPairSControl q))
  let inlet := readingOf (s.getF (F.thmNtcRReading 0))
  let bad := decide (l.length < 6) || inlet.isNone || s.isSet F.thmStatusTrip
  { s with model := { s.model with
    logicSum := s.model.logicSum + (if l.isEmpty then 0 else openDiv 35 (l.foldl (· + ·) 0) l.length)
    inletSum := s.model.inletSum + inlet.getD 0
    steps := s.model.steps + 1
    bad := s.model.bad || bad } }

/-- After a trip the rails have all turned off, R298. -/
def State.railsGone (s : State) : Bool := s.pins.pwrOff && (List.range 8).all fun k => !s.isSet (F.railStatusOn k)

/-- A step begins, or is skipped while the one before it runs, R283, R284; none once a trip's rails are off (R298). -/
def State.stepBegin (s : State) : State :=
  if s.modelState ≠ 2 ∧ s.modelState ≠ 3 then s
  else if s.railsGone then s
  else if s.model.latched.isSome then (s.incF F.modelTimingOverruns).raise F.modelEvt 1
  else { s with model := { s.model with
    law := s.lawNow
    latched := some (s.model.uNow, s.model.uFc, (List.range (bodyQ s.model.coef)).map s.measurement) } }

/-- MODEL_STEP, R283, R284: tick 48 of the last beat of the interval. -/
def execModelStep (s : State) : Outcome :=
  .next (if s.fires (intervalKey 2 0) 48 then (s.reload (intervalKey 2 0)).stepBoundary.sampleStep.stepBegin else s)

/-- 64 times an FP32 value as an integer: an output rounded to the nearest 1/64 °C, R283. -/
def scaledOfFp32 (w : Nat) : Int :=
  match fp32Units w with
  | some u => roundFrac u (2 ^ 143)
  | none => Config.scaledOfFp32 w

/-- MODEL_STEP_DONE, R283: the outputs rounded to 1/64 °C. -/
def execModelStepDone (cycles : Nat) (s : State) : Outcome :=
  let read := s.readModel
  match s.model.latched with
  | none => .next s
  | some (uNow, uFc, meas) => if !read.1 then .next read.2.modelReset else
    let s := read.2
    let b := s.model.coef
    let x := correct b s.model.x (innovations (outputsOf b s.model.x) meas)
    let y0 := outputsOf b x
    let x1 := advance b x uNow
    let yh := outputsOf b (forecast b uFc (10 * s.model.law.horizon - 1) x1)
    let s := { s with model := { s.model with x := x1, latched := none, fresh := true } }
    let s := s.eccWriteAll 7 (nodeWords b)
    let show_ := fun (l : List Nat) (q : Nat) =>
      if q < l.length then tempField (scaledOfFp32 (l.getD q 0)) else 0x8000
    let s := s.forEach (List.range 64) fun s q =>
      (s.setF (F.modelOutQNow q) (show_ y0 q)).setF (F.modelOutQForecast q) (show_ yh q)
    let s := (s.setF F.modelStepsCount (s.getF F.modelStepsCount + 1)).satF F.modelTimingCycles cycles
    let s := s.when s.model.flowDue State.rewriteFlow
    let left := s.getF F.modelStatusSettleLeft
    .next (if s.modelState = 2 then
      (if left ≤ 1 then (s.setF F.modelStatusSettleLeft 0).setF F.modelStatusState 3
       else s.setF F.modelStatusSettleLeft (left - 1))
    else s)

/-- The forecast of an output in 1/64 °C. -/
def State.forecastOf (s : State) (q : Nat) : Int := toSigned 16 (s.getF (F.modelOutQForecast q))

/-- The law of R287 for one cluster: err in 1/64 °C, and the new limit from the old. -/
def State.lawErr (s : State) (c : Nat) : Int :=
  let v := s.model.law
  let logic := s.forecastOf c - v.target
  let dram := s.forecastOf (12 + c / 2) - (v.throttle - (64 * v.margin : Nat))
  if bodyQ s.model.coef ≤ 12 + c / 2 then logic else max logic dram

/-- round_half_up of a limit in 1/64 MHz, clipped. -/
def lawLimit (floor : Nat) (x : Int) : Nat :=
  (clampInt floor 1600 (Int.fdiv (x + 32) 64)).toNat

/-- The law of R287 for one cluster. -/
def State.lawStep (s : State) (c : Nat) : State :=
  let err := s.lawErr c
  let lim : Int := (64 * s.getF (F.modelLimCLim c) : Nat)
  let v := s.model.law
  let new := if 0 < err then lim - v.kdown * err
    else if s.modelState = 3 then lim + min ((64 * v.riseMax : Nat) : Int) ((v.kup : Int) * (-err))
    else lim
  let l := lawLimit v.floor new
  let s := s.when (l != s.getF (F.modelLimCLim c)) (·.trace 2 161 c l)
  ((s.setF (F.modelLimCLim c) l).setF (F.modelLimCErr c) (satSigned 16 err)).writeLimit c l

/-- MDP_STEP_RESPONSE, R280, R285, R287. -/
def execMdpStepResponse (s : State) : Outcome :=
  if !s.running 1 || !s.model.fresh then .next s
  else
    let s := { s with model := { s.model with fresh := false } }
    let s := s.forEach (List.range 18) fun s q =>
      (s.setF (F.thmPairPEst q) (s.getF (F.modelOutQNow q))).setPairRec q fun r => { r with estBeat := some s.beat }
    let s := if s.modelState = 2 ∨ s.modelState = 3 then s.forEach (List.range 12) State.lawStep else s
    .next (s.writeInputs.trace 2 160 (s.getF F.modelStepsCount) 0)

/-! ### Thermal resistance, R295 to R297 -/

/-- The sums of a second start again. -/
def State.newSecond (s : State) : State :=
  { s with model := { s.model with logicSum := 0, inletSum := 0, steps := 0, diePower := 0, frames := 0, bad := false } }

/-- The degradation state after a valid sample, R297. -/
def State.coolingStep (s : State) (now : Nat) : State :=
  let ratio := now * 4096 / max 1 (s.getF F.modelRthBase)
  let s := s.satF F.modelRthSRatio ratio
  let warn := s.appliedF F.modelRthCfgWarnPct
  let clear := s.appliedF F.modelRthCfgClearPct
  let clear : Int := if warn ≤ clear then (warn : Int) - 1 else clear
  let deg := s.isSet F.modelStatusCoolDeg
  let counts := if deg then decide (((ratio * 100 : Nat) : Int) < (100 + clear) * 4096)
    else decide ((100 + warn) * 4096 ≤ ratio * 100)
  let run := if counts then s.getF F.modelRthS2Run + 1 else 0
  if counts && decide (max 1 (s.appliedF F.modelRthCfg2Dwell) ≤ run) then
    (((s.setF F.modelRthS2Run 0).setF F.modelStatusCoolDeg (flag (!deg))).raise F.modelEvt (if deg then 3 else 4)).settleFleet
  else s.satF F.modelRthS2Run run

/-- A valid sample toward the baseline, R296. -/
def State.learnStep (s : State) (now : Nat) : State :=
  let n := s.getF F.modelRthSLearn + 1
  let sum := s.model.learnSum + now
  if n < 3600 then { s.setF F.modelRthSLearn n with model := { s.model with learnSum := sum } }
  else { s.setF F.modelRthSLearn 3600 with model := { s.model with learnSum := sum, learned := some (openDivNat 37 sum 3600) } }

/-- RTH_SAMPLE, R295 to R297: by the running MDP. -/
def execRthSample (s : State) : Outcome :=
  if !s.ends (intervalKey 7 0) then .next s
  else
  let s := s.reload (intervalKey 7 0)
  let m := s.model
  let p := openDivNat 38 m.diePower (max 1 m.frames)
  let valid := !m.bad && decide (0 < m.steps ∧ 0 < m.frames ∧ 0 < p) && decide (s.appliedF F.modelRthCfgPMin ≤ p)
    && !s.isSet F.thmStatusTrip
  let s := s.newSecond
  if !s.running 1 || !valid then .next s
  else
    let now := satNat 16 (openDiv 39 ((m.logicSum - m.inletSum) * (8192 * m.frames : Nat)) (m.steps * m.diePower)).toNat
    let s := s.setF F.modelRthNow now
    .next (if s.isSet F.modelStatusBaseline then s.coolingStep now
    else if s.model.learned.isSome then s else s.learnStep now)

end Sys2Proof.Machine
end

