-- ==== Sys2Proof/Machine/RailCmds.lean ====
section
/-! DEFINITION. The commands of chapter 5: rail start, bus converters, conversions, protections, telemetry. A command
whose condition does not hold in the state is a step that does not occur, and changes nothing (log 1). -/
namespace Sys2Proof.Machine

/-- R133: BC_EN of the next fitted converter, lowest first, is asserted. -/
def State.assertNextBc (s : State) : State :=
  match (indexes 4 fun i => bitOf s.fitted i && !bitOf (s.getF F.railcBcStatusEn) i).head? with
  | none => s
  | some i => { s.orF F.railcBcStatusEn (2 ^ i) with supply := { s.supply with sinceEn := 0 } }

/-- Both conditions of R133 hold, every fitted converter having its BC_EN: SOC starts at the next tick 0. -/
def State.startReady (s : State) : State :=
  let l := indexes 4 (bitOf s.fitted)
  let ok := s.supply.stage == .converters && s.isSet F.railcBcStatusPg && l.all (bitOf s.supply.voutOk)
    && l.all (bitOf (s.getF F.railcBcStatusEn))
  if ok then { s with supply := { s.supply with stage := .ready } } else s

/-- RAIL_START_BEGIN, R133: at the first RAIL enable after a cold reset. -/
def State.railStartBegin (s : State) : State :=
  if s.supply.stage = .idle then { s with supply := { s.supply with stage := .converters } }.assertNextBc else s

/-- BC_EN_NEXT, R133: 256 beats after the last. -/
def execBcEnNext (s : State) : Outcome :=
  .next (s.when (decide (s.supply.stage = .converters) && decide (256 ≤ s.supply.sinceEn)) fun s => s.assertNextBc.startReady)

/-- BC_PG_RISE, R133: Chaza starts reading READ_VOUT of the fitted converters in turn. -/
def execBcPgRise (s : State) : Outcome :=
  let s := s.setF F.railcBcStatusPg 1
  .next (if s.supply.stage = .converters then
    ({ s with supply := { s.supply with voutOk := 0, reads := (indexes 4 (bitOf s.fitted)).map (·, 1) } } : State).startReady
  else s)

/-- The number of a converter command in the order of R138. -/
def convCmdIndex : ConvCmd → Nat
  | .readVin => 0 | .readVout => 1 | .readIout => 2 | .readTemperature1 => 3 | .statusWord => 4

/-- A successful transaction decoded into the converter's telemetry, R138. -/
def State.converterValue (s : State) (i : Nat) (cmd : ConvCmd) (w : Nat) : State :=
  let s := s.setF (F.telBcStampBeat i) s.beat32
  match cmd with
  | .readVin => s.satF (F.telBcVVin i) (linear11 w 1000).toNat
  | .readVout => s.satF (F.telBcVVout i) (linear16mV w s.voutExp)
  | .readIout => s.satF (F.telBcItIout i) (linear11 w 8).toNat
  | .readTemperature1 => s.setF (F.telBcItTemp i) (tempField (linear11 w 64))
  | .statusWord =>
    let s := s.setF (F.telBcStatWord i) w
    if w = 0 then s.andNotF F.railcBcStatusFault (2 ^ i)
    else
      let s := s.when (!bitOf (s.getF F.railcBcStatusFault) i) (·.orF F.railcBcEvtFault (2 ^ i))
      s.orF F.railcBcStatusFault (2 ^ i)

/-- CONVERTER_READ_DONE, R133, R138. -/
def execConverterReadDone (conv : Fin 4) (cmd : ConvCmd) (result : Option (BitVec 16)) (s : State) : Outcome :=
  let i := conv.val
  let starting := s.supply.stage = .converters
  match result with
  | none =>
    let n := Store.read (fun _ => 0) s.supply.fails i + 1
    let s := { s with supply := { s.supply with
      fails := Store.write (fun _ => 0) s.supply.fails i n
      reads := if starting then s.supply.reads else s.supply.reads.erase (i, convCmdIndex cmd) } }
    .next (s.when (n == 3) fun s => (s.orF F.railcBcStatusStale (2 ^ i)).orF F.railcBcEvtStale (2 ^ i))
  | some w =>
    let s := { s with supply := { s.supply with fails := Store.write (fun _ => 0) s.supply.fails i 0 } }
    let s := (s.converterValue i cmd w.toNat).andNotF F.railcBcStatusStale (2 ^ i)
    let mv := s.getF (F.telBcVVout i)
    let good := decide (5000 ≤ mv ∧ mv ≤ 6000)
    if starting && cmd = .readVout && s.isSet F.railcBcStatusPg then
      let ok := if good then setBit s.supply.voutOk i else s.supply.voutOk
      .next ({ s with supply := { s.supply with
        voutOk := ok, reads := if good then s.supply.reads.erase (i, 1) else s.supply.reads } } : State).startReady
    else .next { s with supply := { s.supply with reads := s.supply.reads.erase (i, convCmdIndex cmd) } }

/-- Every fitted converter has its BC_EN, and 20 ms have passed since the last, R133. -/
def State.bcTimedOut (s : State) : Bool :=
  (indexes 4 (bitOf s.fitted)).all (bitOf (s.getF F.railcBcStatusEn))
    && decide (beatsOf 20000 (s.getF F.tbSyncFreqUsed) ≤ s.supply.sinceEn)

/-- BC_START_TIMEOUT, R136: at the end of the 20 ms, PG_TIMEOUT, every BC_EN low, no rail starts. -/
def execBcStartTimeout (s : State) : Outcome :=
  .next (if s.supply.stage = .converters ∧ s.bcTimedOut = true then
    { (s.setF F.railcBcEvtPgTimeout 1).setF F.railcBcStatusEn 0 with supply := { s.supply with stage := .off } }
  else s)

/-- The rail whose start is in progress or next. -/
def State.startingRail (s : State) : Nat := startOrder.getD s.supply.index 8

/-- PGOOD_SET, R134, R135: after 16 beats within PROT.UV; the next rail starts at the tick 0 after. -/
def execPgoodSet (rail : Fin 8) (s : State) : Outcome :=
  let k := rail.val
  let starting := s.getF (F.railStatusSeqState k) == 1
  .next (if s.isSet (F.railStatusOn k) && !s.isSet (F.railStatusPgood k) && (s.rail k).pgBeats == 16 then
    let s := s.setF (F.railStatusPgood k) 1
    if starting && s.supply.stage = .ramping && s.startingRail == k then
      { s with supply := { s.supply with
        index := s.supply.index + 1
        stage := if s.supply.index + 1 = 8 then .done else .ready } }
    else s
  else s)

/-- The start of a rail has lasted its ramp time and 1,000 beats, R136. -/
def State.startTimedOut (s : State) (k : Nat) : Bool :=
  (s.rail k).rampDone && decide ((s.rail k).rampBeats + 1000 ≤ (s.rail k).startBeats)

/-- RAIL_START_TIMEOUT, R136: START_FAIL, and the rails started are turned off. -/
def execRailStartTimeout (rail : Fin 8) (s : State) : Outcome :=
  let k := rail.val
  .next (if s.supply.stage = .ramping && s.startingRail == k && !s.isSet (F.railStatusPgood k) && s.startTimedOut k then
    { (s.setF (F.railStatusStartFail k) 1).setF F.gctlErrStartFail 1 with
      supply := { s.supply with stage := .failing } }
  else s)

/-- RAIL_SHUTDOWN_STEP, R136, R137: the rail started last among those still on goes off; after the last, BC_EN. -/
def execRailShutdownStep (s : State) : Outcome :=
  .next (if s.pins.pwrOff || s.supply.stage = .failing then
    match startOrder.reverse.find? (fun k => s.isSet (F.railStatusOn k)) with
    | some k => s.railOff k
    | none => { s.setF F.railcBcStatusEn 0 with supply := { s.supply with stage := .off } }
  else s)

/-- CONVERTER_POLL, R138: the next read of the fitted converters in turn. -/
def execConverterPoll (s : State) : Outcome :=
  let l := indexes 4 (bitOf s.fitted)
  .next (match l with
  | [] => s
  | first :: _ =>
    let cur := if bitOf s.fitted s.supply.pollConv then s.supply.pollConv else first
    let nextConv := ((l.find? (cur < ·)).getD first)
    let lastCmd := s.supply.pollCmd == 4
    { s with supply := { s.supply with
      reads := s.supply.reads ++ [(cur, s.supply.pollCmd)]
      pollCmd := if lastCmd then 0 else s.supply.pollCmd + 1
      pollConv := if lastCmd then nextConv else cur } })

/-- BC_PG_FALL, R138: while the rails run, PG_LOST and an immediate STATUS_WORD read of every fitted converter. -/
def execBcPgFall (s : State) : Outcome :=
  let runs := (List.range 8).any fun k => s.isSet (F.railStatusOn k)
  let s := s.setF F.railcBcStatusPg 0
  .next (if runs then
    { s.setF F.railcBcEvtPgLost 1 with supply := { s.supply with
      reads := s.supply.reads ++ (indexes 4 (bitOf s.fitted)).map (·, 4) } }
  else s)

/-- The classification of one ACTIVE phase at a conversion, Table 5.5: 0 none, 1 failed sense, 2 failed open, 3 imbalance
complete. -/
def classify (v : Phase) : Nat :=
  if 2 ≤ v.outOfRange then 1 else if 8 ≤ v.low then 2 else if isFrozen v then 1 else if 64 ≤ v.imbal then 3 else 0

/-- Readings of a rail's present phases: phase and µV above IMREF. -/
def State.imonReadings (s : State) (k : Nat) (uv : List Int) : List (Nat × Int) :=
  ((phasesOf k).zip uv).filter fun x => s.phaseState x.1 != 0

/-- Currents converted and written, and the peak limit of 45 A (R149). -/
def State.imonConvert (s : State) (l : List (Nat × Int)) : State :=
  s.forEach l fun s x =>
    if !imonInRange x.2 || s.phaseState x.1 == 4 then s
    else
      let a := s.imonCurrent x.1 (imonCode x.2)
      let s := s.satF (phaseCurrentF x.1) a
      s.when (decide (360 ≤ a)) fun s => (s.cutPulse x.1).incF (F.hlthStgPPeaks x.1)

/-- IMON_CONVERSION, R144, R149, R156 to R162, R166. -/
def execImonConversion (rail : Fin 8) (microvolts : List Int) (s : State) : Outcome :=
  let k := rail.val
  let l := s.imonReadings k microvolts
  let s := s.imonConvert l
  let cur := (l.filter fun x => s.phaseState x.1 == 2 && imonInRange x.2).map fun x => (x.1, s.getF (phaseCurrentF x.1))
  let trunc := s.isSet (F.railStatusTrunc k)
  let s := s.forEach l fun s x =>
    if s.phaseState x.1 == 2 then
      s.setPhase x.1 (detectPhase cur trunc (imonInRange x.2) (imonCode x.2) (s.getF (phaseCurrentF x.1)) x.1)
    else s.setPhase x.1 fun v =>
      { v with outOfRange := 0, low := 0, frozen := [], imbal := 0, inRange := imonInRange x.2 }
  let s := s.estimate k
  let amps := s.iRail k
  let val := s.validActive k
  let scaled := if val.isEmpty then 0
    else openDivNat 17 (sumNat (val.map fun p => s.getF (phaseCurrentF p)) * (s.enabledPhases k).length) val.length
  let s := s.setRail k fun r =>
    { r with beatI := amps :: r.beatI, last4 := (amps :: r.last4).take 4, beatValid := scaled :: r.beatValid }
  let act := (l.map (·.1)).filter fun p => s.phaseState p == 2
  let cls := act.map fun p => (p, classify (s.phase p))
  let pick := fun n => (cls.filter (·.2 == n)).map (·.1)
  let all := sumNat (cur.map (·.2))
  let diff := fun p => let a := s.getF (phaseCurrentF p) * cur.length; if all ≤ a then a - all else all - a
  let imb := (worstPhase diff (pick 3)).toList
  let s := s.forEach (pick 3) fun s p => s.setPhase p fun v => { v with imbal := 0 }
  let s := ((s.failOpen k (pick 2)).failSense k (pick 1) false).failSense k imb true
  .next ((s.estimate k).retarget k)

/-- TMON_CONVERSION, R156, R158, R167: the phase temperature, and the stage fault of two consecutive readings. -/
def execTmonConversion (phase : Fin 44) (millivolts : Nat) (s : State) : Outcome :=
  let p := phase.val
  let k := railOfPhase p
  if s.phaseState p == 0 then .next s
  else
    let t := tempField (((millivolts : Int) - 600) * 8 + s.tmonOffset p)
    let s := s.setF (phaseTempF p) (if 1700 ≤ millivolts then 0x8000 else t)
    let s := s.setPhase p fun v => { v with stage := if 2000 ≤ millivolts then v.stage + 1 else 0 }
    let st := s.phaseState p
    .next (if 2 ≤ (s.phase p).stage ∧ (st = 2 ∨ st = 3 ∨ st = 4) then s.failOpen k [p] else s)

/-- SETTLED, R151, R154, R155: the fourth tick in a row within BAND. -/
def execSettled (rail : Fin 8) (s : State) : Outcome :=
  let k := rail.val
  let pos := s.getF (F.railVposPosition k)
  .next (if s.getF (F.railStatusSeqState k) == 5 && pos == s.getF (F.railVposCmd k) && (s.rail k).bandTicks == 4 then
    let s := s.setRail k fun r => { r with settledPos := pos }
    let s := (s.setF (F.railStatusSettled k) 1).setF (F.railStatusSeqState k) 2
    (s.finishVset k 0x0A).recomputePerm k
  else s)

/-- SEQ_TIMEOUT, R154: TIMEOUT beats (0 acts as 1) after the position reached the command, once for each settle; the
sequencer stays in SETTLING. -/
def execSeqTimeout (rail : Fin 8) (s : State) : Outcome :=
  let k := rail.val
  .next (if s.getF (F.railStatusSeqState k) == 5 && !(s.rail k).timedOut
      && decide (max 1 (s.appliedF (F.railSettleTimeout k)) ≤ (s.rail k).settleBeats) then
    ((s.railEvent k 2).setRail k fun r => { r with timedOut := true }).finishVset k 0x06
  else s)

/-- The status a write of RAIL.VSET completes with at once, or BUSY, R155. -/
def State.vsetStatus (s : State) (writer : Writer) (k target : Nat) : Nat :=
  if target < s.appliedF (F.railVlimMin k) ∨ s.appliedF (F.railVlimMax k) < target then 0x04
  else if writer = .flp then 0x01
  else if s.getF F.gctlModeCurrent = 3 ∨ s.getF F.gctlModeCurrent = 4 then 0x01
  else 0x08

/-- RAIL_VSET_WRITE, R155; on a CORE rail the register is read-only. DESIGN CHOICE (log 66): a refused write takes TAG and
STATUS of RAIL.VCMD and leaves RAIL.VSET.TAG as it was. -/
def execRailVsetWrite (writer : Writer) (rail : Fin 8) (value : Word) (s : State) : Outcome :=
  let k := rail.val
  let tag := bitsOf value.toNat 16 8
  let target := value.toNat % 65536
  if k < 4 then .next s
  else
    let st := s.vsetStatus writer k target
    let accepted := st == 1
    let busy := s.getF (F.railVcmdStatus k) == 1
    let s := if busy then
        (s.setF (F.railVcmdPrevTag k) (s.getF (F.railVcmdTag k))).setF (F.railVcmdPrevStatus k) (if accepted then 0x05 else 0x01)
      else if accepted && s.getF (F.railVcmdPrevStatus k) == 1 then s.setF (F.railVcmdPrevStatus k) 0x05
      else s
    let s := (s.setF (F.railVcmdTag k) tag).setF (F.railVcmdStatus k) st
    .next (s.when accepted fun s =>
      ((s.setF (F.railVsetTag k) tag).setF (F.railVsetTarget k) target).setRail k
        fun r => { r with vsetNext := some target })

/-- The truncation threshold of a rail in 0.25 mV; values below 8 act as 8 (Table 5.8). -/
def State.truncLevel (s : State) (k : Nat) : Nat := 2 * max 8 (s.appliedF (F.railProtTrunc k))

/-- OVERSHOOT_DETECT, R148: the sensed voltage exceeds V_target + TRUNC; every high PWM of the rail goes low and truncation
holds. -/
def execOvershootDetect (at_ : RailSense) (s : State) : Outcome :=
  let k := at_.rail.val
  .next (if s.isSet (F.railStatusOn k) && decide (s.getF (F.railVtgtTarget k) + s.truncLevel k < at_.sense) then
    let s := s.forEach (phasesOf k) fun s p => s.cutPulse p
    (s.setF (F.railStatusTrunc k) 1).setRail k fun r => { r with truncBeat := true }
  else s)

/-- TRUNCATION_RELEASE, R148: the sensed voltage has fallen below V_target + TRUNC / 2. -/
def execTruncationRelease (at_ : RailSense) (s : State) : Outcome :=
  let k := at_.rail.val
  .next (if 2 * at_.sense < 2 * s.getF (F.railVtgtTarget k) + s.truncLevel k then s.setF (F.railStatusTrunc k) 0 else s)

/-- PGOOD cleared, R149: POWER_GOOD# latches (R405), and its count starts afresh. -/
def State.losePgood (s : State) (k : Nat) : State :=
  let s := s.when (s.isSet (F.railStatusPgood k)) (·.latchWord k 2)
  (s.setF (F.railStatusPgood k) 0).setRail k fun r => { r with pgBeats := 0 }

/-- OVERVOLTAGE_DETECT, R149: two ticks above the limit; all phases of the rail held low, PGOOD cleared, event OV. A FAILED
stage stays high-impedance, R36; a SHED one is held low with the others, as Table 5.3 states of all phases, in place of R54's
high impedance (DEDUCED, log 80). -/
def execOvervoltageDetect (rail : Fin 8) (s : State) : Outcome :=
  let k := rail.val
  .next (if s.isSet (F.railStatusOn k) && (s.rail k).ovTicks == 2 then
    let s := s.forEach ((phasesOf k).filter fun p => [2, 3, 4].contains (s.phaseState p)) fun s p => (s.cutPulse p).setPwm p .low
    ((s.setF (F.railStatusOvHold k) 1).losePgood k).railEvent k 128
  else s)

/-- UNDERVOLTAGE_DETECT, R149: 64 beats below the limit; PGOOD cleared, event UV; regulation continues. -/
def execUndervoltageDetect (rail : Fin 8) (s : State) : Outcome :=
  let k := rail.val
  .next (if s.isSet (F.railStatusOn k) && (s.rail k).uvBeats == 64 then
    (s.losePgood k).railEvent k 64
  else s)

/-- RAIL_OVER_LIMIT, R149, R159: four beats above ILIM_EFF impose phase-loss drag. -/
def execRailOverLimit (rail : Fin 8) (s : State) : Outcome :=
  let k := rail.val
  .next (if s.isSet (F.railStatusOn k) && (s.rail k).overBeats == 4 then s.imposeDrag k else s)

/-- STAGE_HOT, R149: 16 beats at or above PROT.STAGE_TLIM. -/
def execStageHot (phase : Fin 44) (s : State) : Outcome :=
  let p := phase.val
  .next (if s.phaseState p != 0 && (s.phase p).hotBeats == 16 then s.railEvent (railOfPhase p) 512 else s)

/-- RAIL_FAULT, R150: an overvoltage that has persisted 8 beats. -/
def execRailFault (rail : Fin 8) (s : State) : Outcome :=
  let k := rail.val
  .next (if s.isSet (F.railStatusOvHold k) && (s.rail k).ovBeats == 8 then
    s.railFaultAt k (s.ovLimit k) false
  else s)

/-- PLDRAG_RELEASE, R159: once the 1-beat average has been at or below 0.90 × ILIM_EFF for 64 beats in a row, the ceiling
rises by one slot at each tick 0, beginning with that at which the 64th average was formed. -/
def execPldragRelease (rail : Fin 8) (s : State) : Outcome :=
  let k := rail.val
  .next (match (s.rail k).pldrag with
  | none => s
  | some c =>
    if (s.rail k).dragCool == 64 && !(s.rail k).pldragRising then
      s.setRail k fun r => { r with pldragRising := true, pldrag := some (if s.time.tick = 0 then min 32 (c + 1) else c) }
    else s)

/-- FRAC lowered by 2, never below 8, R164; the FLP's 100 ms intervals are counted from the first lowering. -/
def State.derate (s : State) (k : Nat) : State :=
  (((s.when (!(s.rail k).derating) (·.reload (intervalKey 10 k))).keepLate (F.railcDerateKFrac k)).setF (F.railcDerateKFrac k) (max 8 (s.getF (F.railcDerateKFrac k) - 2))).setRail k
    fun r => { r with derating := true, cool := 0 }

/-- DERATE_EVALUATION, R164: made by the FLP, at the end of its own 100 ms interval, from the phase temperatures of the rail. -/
def execDerateEvaluation (rail : Fin 4) (s : State) : Outcome :=
  let k := rail.val
  if !s.running 0 || !(s.rail k).derating || !s.ends (intervalKey 10 k) then .next s
  else
    let s := s.reload (intervalKey 10 k)
    let lim : Int := (64 * s.appliedF (F.railProtStageTlim k) : Nat)
    let temps := ((s.enabledPhases k).map fun p => s.getF (phaseTempF p))
    let hot := temps.any fun t => t != 0x8000 && decide (lim ≤ toSigned 16 t)
    let coolAll := temps.all fun t => t != 0x8000 && decide (toSigned 16 t ≤ lim - 640)
    .next (if hot then s.derate k
    else if coolAll then
      let n := (s.rail k).cool + 1
      if n = 10 then
        let f := min 16 (s.getF (F.railcDerateKFrac k) + 1)
        ((s.keepLate (F.railcDerateKFrac k)).setF (F.railcDerateKFrac k) f).setRail k fun r => { r with cool := 0, derating := f != 16 }
      else s.setRail k fun r => { r with cool := n }
    else s.setRail k fun r => { r with cool := 0 })

/-- TELEMETRY_SHORT_WINDOW, R166: the window is complete, its averages are latched and a new window starts. -/
def execTelemetryShortWindow (rail : Fin 8) (s : State) : Outcome :=
  let k := rail.val
  .next (s.when (windowDone (s.rail k).sumShort (s.rail k).lenShort) (·.closeShort k))

/-- TELEMETRY_LONG_WINDOW, R166. -/
def execTelemetryLongWindow (rail : Fin 8) (s : State) : Outcome :=
  let k := rail.val
  .next (s.when (windowDone (s.rail k).sumLong (s.rail k).lenLong) (·.closeLong k s.beat32))

/-- A peak field cleared; an extreme that is new in this tick stays, R167. -/
def State.clearPeak (s : State) (f : Field) (v : Nat) : State := if s.lateF f = s.getF f then s.setF f v else s

/-- TEL_CLEAR_PEAK, R167. -/
def execTelClearPeak (rail : Fin 8) (value : Word) (s : State) : Outcome :=
  let k := rail.val
  .next (if bitOf value.toNat 0 then
    ((((s.clearPeak (F.telVPeakMax k) 0).clearPeak (F.telVPeakMin k) 0xFFFF).clearPeak (F.telIpPeakIMax k) 0).clearPeak
      (F.telIpPeakPMax k) 0).clearPeak (F.telTempPeak k) 0x8000
  else s)

end Sys2Proof.Machine
end

