-- ==== Sys2Proof/Machine/Checks.lean ====
section
/-! DEFINITION. Chapter 4, configuration: banks, images and profiles in flash, the staging of sections (R111, R119), and
the seven consistency checks (R115, R124, R127 and the chapters' own conditions). -/
namespace Sys2Proof.Machine

/-! ### Banks and profiles, R104, R115 -/

/-- The body of a bank, with its header as far as its own length reaches (R16, R104). -/
def State.bankBody (s : State) (i : Nat) : List Byte := ownHeader 0x100 (s.copyBody (s.bankCopy i))

/-- Table 4.4: the offset of a profile, 0 when absent; the profiles present. -/
def profileOff (bank : List Byte) (i : Nat) : Nat := u32At bank (0x48 + 4 * i)
def hasProfile (bank : List Byte) (i : Nat) : Bool := bitOf (byteAt bank 0x44) i && profileOff bank i != 0

/-- The bytes of a profile, from its offset. -/
def profileOf (bank : List Byte) (i : Nat) : List Byte := bank.drop (profileOff bank i)

/-- The header of a profile, Table 4.7, as far as its own length reaches (R16). -/
def headerOf (profile : List Byte) : List Byte := profile.take (min 0x50 (u16At profile 0))

/-- The coolest profile, R115: the lowest COOL_CAP, the lowest number among equals; 0 when none is present. -/
def coolest (bank : List Byte) : Nat :=
  ((List.range 8).filter (hasProfile bank)).foldr (fun i best =>
    match best with
    | none => some i
    | some j => if u16At (headerOf (profileOf bank i)) 0x14 ≤ u16At (headerOf (profileOf bank j)) 0x14 then some i
      else some j) none |>.getD 0

/-- The section of subsystem `bit` with its length word: the profile's own, else the base section (Tables 4.4, 4.7). DESIGN CHOICE
(log 58): the 32-bit length word counts bytes, itself included, and acts as at least 4; no rule gives its unit and extent. -/
def baseSection : Nat → List Byte → List Byte
  | 0, b => b
  | n + 1, b => baseSection n (b.drop (max 4 (u32At b 0)))
def sectionOf (bank profile : List Byte) (bit : Nat) : List Byte :=
  let off := u32At (headerOf profile) (0x34 + 4 * bit)
  let b := if off = 0 then baseSection bit (bank.drop (u32At bank 0x68)) else profile.drop off
  b.take (u32At b 0)

/-! ### Staging, R111, R119 -/

/-- The staged fields of a register take their bits of a word. -/
def State.stageWord (s : State) (bit off w : Nat) : State :=
  s.forEach (fieldsAt off) fun s r =>
    if r.1.acc = .staged bit then s.setF ⟨off, r.1.lo, r.1.width⟩ (bitsOf w r.1.lo r.1.width) else s

/-- Consecutive registers take the words of a section from a byte offset, as far as the section reaches. -/
def State.stageWords (s : State) (bit : Nat) (sec : List Byte) (at_ : Nat) (offs : List Nat) : State :=
  s.forEach offs.zipIdx fun s oi =>
    if at_ + 4 * oi.2 + 4 ≤ sec.length then s.stageWord bit oi.1 (u32At sec (at_ + 4 * oi.2)) else s

/-- Register offsets from one to another, word by word. -/
def offsets (lo hi : Nat) : List Nat := (List.range ((hi - lo) / 4 + 1)).map fun i => lo + 4 * i

/-- The registers of a section in its order, R169, R199, R223, R249, R276, R300, R319, R352, R372, R410. -/
def sectionRegs : Nat → List Nat
  | 1 => offsets 0xC018 0xC03C ++ offsets 0xC180 0xC1BC ++ offsets 0xE018 0xE02C ++ offsets 0xE060 0xE070
  | 2 => ((List.range 8).map fun k => offsets (0x8014 + 0x400 * k) (0x8050 + 0x400 * k)).flatten
      ++ (List.range 8).map fun k => 0x68100 + 0x40 * k
  | 3 => offsets 0x18004 0x18030
  | 4 => offsets 0x20044 0x20050 ++ offsets 0x20060 0x2006C ++ offsets 0x20100 0x201FC ++ offsets 0x21020 0x2102C
      ++ [0x3030C]
  | 5 => offsets 0x40040 0x4004C ++ [0x40410]
  | 6 => offsets 0x4020 0x4030 ++ offsets 0x4040 0x4068
  | _ => []

/-- The section of a subsystem staged; CLK's holds twelve 16-bit limits (R199), and DEFAULT_MS 0 stands for SYNC_WD_TO
(R372). -/
def State.stageSection (s : State) (bit : Nat) (sec header : List Byte) : State :=
  if bit = 0 then
    s.forEach (List.range 12) fun s c =>
      if 4 + 2 * c + 2 ≤ sec.length then s.setF (F.clcCFreqLimit c) (u16At sec (4 + 2 * c)) else s
  else
    let s := s.stageWords bit sec 4 (sectionRegs bit)
    s.when (bit == 5 && s.getF F.syncWdcfgDefaultMs == 0) (·.setF F.syncWdcfgDefaultMs (u16At header 0x24))

/-- The start values of the rails that are not CORE, from their RAIL.VSET words in the RAIL section, R134, R169. -/
def State.loadStartValues (s : State) (sec : List Byte) : State :=
  s.forEach [4, 5, 6, 7] fun s k =>
    if 12 + 64 * k ≤ sec.length then s.setF (F.railVsetTarget k) (u16At sec (8 + 64 * k)) else s

/-- The base sections of a bank and a profile's own staged for some subsystems. -/
def State.stageAll (s : State) (bits : List Nat) (bank profile : List Byte) : State :=
  s.forEach bits fun s b => s.stageSection b (sectionOf bank profile b) (headerOf profile)

/-! ### The checks, R127 -/

/-- What a check sees of a register: the staged value of a subsystem that is being checked or has passed, else the value in
force (R124). -/
def State.view (s : State) (staged : List Nat) (bit : Nat) (f : Field) : Nat :=
  if staged.contains bit then s.getF f else s.appliedF f

/-- The first failing code of a list of tests in ascending order. -/
def firstCode (l : List (Nat × Bool)) : Option Nat := (l.find? (·.2)).map (·.1)

def outside (lo hi n : Nat) : Bool := decide (n < lo ∨ hi < n)

/-- CLK, R183. -/
def State.checkClk (s : State) (v : Nat → Field → Nat) : Option Nat :=
  firstCode [(0xA3, (List.range 12).any fun c => outside 400 1600 (v 0 (F.clcCFreqLimit c))),
    (0xA4, (List.range 288).any fun n => outside 400 1600 (s.fmax n))]

/-- Table 9.2: the calibrated channels and thermistors, β and R25. -/
def State.channelMask (s : State) : Nat := if s.hasTag 4 then u64At (s.calSection 4) 4 else 0
def State.ntcMask (s : State) : Nat := if s.hasTag 4 then byteAt (s.calSection 4) 0xC else 0

/-- THERM, R255, R258, R261, R276, R299 and codes 0x20 to 0x22 on the profile's limits. -/
def State.checkTherm (s : State) (v : Nat → Field → Nat) (p : List Byte) : Option Nat :=
  let t := s16At p
  let elig := v 1 F.thmPrivEligLoMask + 2 ^ 32 * v 1 F.thmPrivEligHiMask
  let sites := countBelow siteChannels.length fun i =>
    let x := siteChannels.getD i (0, none)
    bitOf elig x.1 || (x.2.isSome && bitOf elig (x.1 + 1))
  let ch := v 1 F.thmChEnLoMask + 2 ^ 32 * v 1 F.thmChEnHiMask
  let ntc := v 1 F.thmNtcEnMask
  let ntcWord := fun n => u32At (s.calSection 4) (0x110 + 4 * n)
  firstCode [(0x20, decide (¬ (t 0x28 < t 0x2A ∧ t 0x2A < t 0x2C))),
    (0x21, decide (105 * 64 < t 0x2A ∨ 118 * 64 < t 0x2C)),
    (0x22, decide (105 * 64 < t 0x2E ∨ 110 * 64 < t 0x30 ∨ t 0x30 ≤ t 0x2E)),
    (0x23, outside 32 640 (v 1 F.thmPairTol)),
    (0x24, decide (16 < sites)),
    (0x25, ((List.range 64).any fun i => bitOf ch i && !bitOf s.channelMask i)
      || (List.range 8).any fun i => bitOf ntc i && !bitOf s.ntcMask i),
    (0x26, (List.range 8).any fun n => bitOf ntc n
      && (outside 3000 5000 (ntcWord n / 65536) || outside 4700 47000 (ntcWord n % 65536))),
    (0x27, v 1 F.modelFlowCfgTachEn == 1 && (v 1 F.modelFlowCfgK == 0
      || (s.hasModel && decide (u16At s.modelTag 4 < v 1 F.modelFlowCfgFlowMin)))),
    (0x28, (v 1 F.modelCfgModelEn == 1 && !s.hasModel)
      || (s.hasModel && decide (512 < bodyN s.modelTag ∨ 128 < bodyM s.modelTag))),
    (0x29, outside 1 20 (v 1 F.modelCfgHorizon))]

/-- Table 5.1: the ranges of the rails, 0.25 mV. -/
def railRange (k : Nat) : Nat × Nat :=
  if k < 4 then (2000, 3800) else if k = 5 then (4000, 5000) else if k = 6 then (6800, 10800) else (2400, 3600)

/-- The present phases of a rail. -/
def State.presentCount (s : State) (k : Nat) : Nat := ((phasesOf k).filter s.phasePresent).length

/-- Voltage/frequency points that break R198, or lie with the headroom above the rail's maximum, R151. -/
def badPoints (h vmax : Nat) : List (Nat × Nat) → Bool
  | [] => false
  | [(_, v)] => decide (vmax < v + h)
  | (f1, v1) :: (f2, v2) :: rest => decide (f2 ≤ f1 ∨ v2 < v1 ∨ vmax < v1 + h) || badPoints h vmax ((f2, v2) :: rest)

/-- RAIL, R110, R131, R166, R198. -/
def State.checkRail (s : State) (v : Nat → Field → Nat) : Option Nat :=
  let any := fun (p : Nat → Bool) => (List.range 8).any p
  let h := fun k => headroom (v 2 (F.railLoadlineRll k)) (v 2 (F.railIlimLimit k))
  firstCode [(0x01, any fun k => outside (railRange k).1 (railRange k).2 (v 2 (F.railVlimMin k))
      || outside (railRange k).1 (railRange k).2 (v 2 (F.railVlimMax k))),
    (0x02, any fun k => decide (v 2 (F.railVlimMax k) < v 2 (F.railVlimMin k))),
    (0x03, any fun k => decide (1000 < v 2 (F.railLoadlineRll k))),
    (0x04, any fun k => decide (240 * s.presentCount k < v 2 (F.railIlimLimit k))),
    (0x05, any fun k => decide (s.presentCount k < minPhases k)),
    (0x06, any fun k => v 2 (F.telWinShort k) == 0 || decide (10 < v 2 (F.telWinLong k))),
    (0x07, any fun k => v 2 (F.railCfgBcMask k) == 0
      || (List.range 4).any fun i => bitOf (v 2 (F.railCfgBcMask k)) i && !bitOf s.fitted i),
    (0x08, (List.range 12).any fun c => badPoints (h (c / 3)) (v 2 (F.railVlimMax (c / 3))) (s.vfPoints c))]

/-- DROOP, R174, R176, R187, R189, R191. -/
def State.checkDroop (s : State) (v : Nat → Field → Nat) : Option Nat :=
  let th := [v 3 F.clcThreshNotice, v 3 F.clcThreshShoe, v 3 F.clcThreshHard]
  let top := fun k => ((List.range 3).map fun i =>
    vfAt (s.vfPoints (3 * k + i)) (v 0 (F.clcCFreqLimit (3 * k + i)))).foldl max 0
  firstCode [(0x10, th.any (outside 10 80)),
    (0x11, decide (¬ (th.getD 0 0 < th.getD 1 0 ∧ th.getD 1 0 < th.getD 2 0))),
    (0x12, outside 1 32 (v 3 F.clcShoeSlots)),
    (0x13, v 3 F.clcDidtBudget == 0),
    (0x14, decide (v 3 F.clcPreposLead < 8)),
    (0x15, (List.range 4).any fun k => decide (v 2 (F.railVlimMax k)
      < top k + headroom (v 2 (F.railLoadlineRll k)) (v 2 (F.railIlimLimit k)) + 2 * v 3 F.clcCplRaise))]

/-- CAP, R115, R222, R248: `p` is the die's own profile that is checked; the governing one is its own or the leader's. -/
def State.checkCap (s : State) (v : Nat → Field → Nat) (p : List Byte) : Option Nat :=
  let x4 := s.isX4
  let cool := u16At p 0x14
  let lo := u16At p 0x16
  let hi := u16At p 0x18
  let own := s.ownGoverns
  let govMin := if own then lo else s.getF F.pwrProfACapMin
  let govCool := if own then cool else s.getF F.pwrProfCCoolCap
  let pbp := v 4 F.budCfgPbpEn == 1
  let noWeight := fun k => (List.range 6).all fun i => v 4 (F.pwrWKiStage k i) == 0
  firstCode [(0x40, if x4 then outside 4800 11200 cool else outside 1200 2800 cool),
    (0x41, decide (hi < lo)),
    (0x42, decide (cool < hi)),
    (0x43, outside lo hi (u16At p 0x1A) || (s.lawDie && outside lo hi (v 4 F.pwrHostcapCap))),
    (0x44, outside lo hi (u16At p 0x1C)),
    (0x45, outside 1 60 (byteAt p 0x20)),
    (0x46, decide (u16At p 0x1E < cool ∨ s.electricalPeak < u16At p 0x1E)),
    (0x47, outside 100 60000 (u16At p 0x22)),
    (0x48, (List.range 4).any noWeight || v 4 F.pwrLkgTdbl == 0 || v 4 F.pwrGrantSlotDefault == 0),
    (0x49, (pbp && (!s.isLeader || (!x4 && !s.hasPartner)))
      || (pbp && outside govMin govCool (v 4 F.budPbpCfgSilentGrant))
      || decide (govCool < v 4 F.budPbpCfgClaim)
      || v 4 F.budCfgSilentTo == 0 || decide (v 4 F.budCfgReportTo < 2)
      || v 4 F.budMarginRailFrac == 0
      || (x4 && s.isLeader && (List.range (min 4 s.dies)).all fun d => bitsOf (v 4 F.budDieW) (8 * d) 8 == 0))]

/-- SYNC, R335, R336, R338, R346, R363 and code 0x60 on SYNC_WD_TO. -/
def State.checkSync (s : State) (v : Nat → Field → Nat) (p : List Byte) : Option Nat :=
  firstCode [(0x60, outside 10 60000 (u16At p 0x24) || outside 10 60000 (v 5 F.syncWdcfgDefaultMs)),
    (0x61, outside 64 1023 (v 5 F.syncCplLead)),
    (0x62, decide (8 < v 5 F.syncCplSpread)),
    (0x63, outside 16 30 (v 5 F.syncPaircfgRealignExp)),
    (0x64, v 5 F.syncPkgHost == 1 && !s.isLeader)]

/-- DOM, R303, R305, R310, R316. -/
def checkDom (v : Nat → Field → Nat) : Option Nat :=
  let voters := ((List.range 11).filter fun j => v 6 (F.domHvmapJValid j) == 1).map fun j => v 6 (F.domHvmapJVoter j)
  let badThr := fun (en thr : Field) => v 6 en == 1 && outside 0x08 0xF8 (v 6 thr)
  firstCode [(0x80, bitsOf (v 6 (F.domLowMMask 2)) 26 6 != 0),
    (0x81, voters.any (outside 5 15) || decide (voters.eraseDups.length ≠ voters.length)),
    (0x82, badThr F.domWakeCfgWsEn F.domWakeCfgWsThr || badThr F.domWakeCfgNtcEn F.domWakeCfgNtcThr),
    (0x83, outside 32 1024 (v 6 F.domCfgAckTo))]

/-- The check of one subsystem, with the staged values of some subsystems, of a profile header; the reason of a refusal. -/
def State.check (s : State) (staged : List Nat) (p : List Byte) (bit : Nat) : Option Nat :=
  let v := s.view staged
  match bit with
  | 0 => s.checkClk v
  | 1 => s.checkTherm v p
  | 2 => s.checkRail v
  | 3 => s.checkDroop v
  | 4 => s.checkCap v p
  | 5 => s.checkSync v p
  | _ => checkDom v

/-- Subsystems checked one after another, each with the staged values of those before it: the first refusal, its subsystem
and its code. -/
def State.checkEach (s : State) (p : List Byte) : List Nat → List Nat → Option (Nat × Nat)
  | _, [] => none
  | done, b :: bs =>
    match s.check (b :: done) p b with
    | some c => some (b, c)
    | none => s.checkEach p (b :: done) bs

/-! ### Values taken into force, R122 to R124 -/

/-- The staged values of a subsystem that passed its check, to be taken into force at the next tick 0: keys whose staged
value differs from the value in force. -/
def State.passKeys (s : State) (bit : Nat) : List (Nat × Nat) :=
  ((stagedKeys bit).map fun k => (k, Store.read resetOf s.fields k)).filter fun p => p.2 != Store.read resetOf s.applied p.1

/-- A subsystem passes: the checks that follow in the same write see its values. -/
def State.passCheck (s : State) (bit : Nat) : State :=
  { s with boot := { s.boot with passing := s.boot.passing ++ [bit], passingVals := s.boot.passingVals ++ s.passKeys bit } }

/-- A write ends: the subsystems that passed in it, and their values, wait for the next tick 0, in place of what an earlier write
has left waiting for them. -/
def State.settlePass (s : State) : State :=
  let again := s.boot.passed.filter s.boot.passing.contains
  { s with boot := { s.boot with
    passed := s.boot.passed.filter (!again.contains ·) ++ s.boot.passing
    checked := s.boot.checked.filter (fun p => !again.any fun b => (stagedKeys b).contains p.1) ++ s.boot.passingVals
    passing := [], passingVals := [] } }

/-- What the enabling of a subsystem starts; `first` when it becomes active, R122. -/
def State.enableUnit (s : State) (bit : Nat) (first : Bool) : State :=
  match bit with
  | 1 => (s.channelsEnable).modelEnable
  | 2 => s.when first (·.railStartBegin)
  | 4 =>
    let s := s.setF F.pwrCapnowHost (s.appliedF F.pwrHostcapCap)
    let s := s.loadLive
    let s := s.when (!s.cap.enabled) (·.capInit)
    (s.when (!s.links.started) (·.linkStart)).portEnable
  | 5 =>
    let s := s.when first (·.setF (F.syncCtxAState 0) 1)
    (s.setF (F.syncCtxCWdMs 0) (s.appliedF F.syncWdcfgDefaultMs)).setF (F.syncCtxAAutoFault 0) (s.appliedF F.syncWdcfgCtx0Af)
  | _ => s

/-- The limits of THM.LIM_A and LIM_B from a profile, R264, and the control target of R287. -/
def State.showLimits (s : State) (p : List Byte) : State :=
  let s := { s with therm := { s.therm with target := u16At p 0x28 } }
  (((s.setF F.thmLimALogicThrottle (u16At p 0x2A)).setF F.thmLimALogicTrip (u16At p 0x2C)).setF
    F.thmLimBDramThrottle (u16At p 0x2E)).setF F.thmLimBDramTrip (u16At p 0x30)

/-- The limits in force differ from those of a profile. -/
def State.limitsDiffer (s : State) (p : List Byte) : Bool :=
  s.therm.target != u16At p 0x28 || s.getF F.thmLimALogicThrottle != u16At p 0x2A || s.getF F.thmLimALogicTrip != u16At p 0x2C
    || s.getF F.thmLimBDramThrottle != u16At p 0x2E || s.getF F.thmLimBDramTrip != u16At p 0x30

/-- One bit of GCTL.ENABLE. -/
def State.enableBit (s : State) (bit : Nat) : State := s.setF F.gctlEnable (setBit (s.getF F.gctlEnable) bit)

/-! ### The update's state, R416, Table 15.11 -/

/-- FW.UPD.STATE changes: trace point 179, and the UPDATE notification. -/
def State.setUpd (s : State) (st : Nat) : State :=
  if s.getF F.fwUpdState = st then s
  else
    let s := (s.setF F.fwUpdState st).trace 3 179 (s.word 0x78004) 0
    s.notify 6 0xF4 [s.word 0x78004, s.word 0x101C]

/-- The update ends in IDLE with a status and a reason: log code 9; trace point 179 also where FW.UPD changes and its STATE does not. -/
def State.endUpd (s : State) (status reason : Nat) : State :=
  let was := s.word 0x78004
  let idle := s.getF F.fwUpdState == 0
  let s := ((s.setF F.fwUpdLastStatus status).setF F.fwUpdReason reason).setF F.fwUpdSession 0xFF
  let s := s.when (idle && s.word 0x78004 != was) fun s => s.trace 3 179 (s.word 0x78004) 0
  let s := (s.setUpd 0).log 3 (if status = 10 then 2 else 4) 9 [s.word 0x78004, s.word 0x101C, s.update.committed]
  { s with update := { s.update with targets := [], erasing := false, takingUp := [] } }

/-- The request that awaits an operation of the update is answered. -/
def State.answerUpd (s : State) (status reason : Nat) : State :=
  match s.mailbox.awaitUpdate with
  | none => s
  | some r => if s.running 2 then (s.mapMail fun v => { v with awaitUpdate := none }).reply r status reason [] else s

/-! ### Checks started by a write, a profile switch or an update, R119, R124, R125, R422 -/

/-- GCTL_ENABLE_WRITE, R124, R125. -/
def execGctlEnableWrite (value : Word) (s : State) : Outcome :=
  .next (if s.isSet F.gctlStatusCheckBusy || s.isSet F.gctlStatusHalt || s.boot.rom then s
  else
    let old := s.getF F.gctlEnable
    let new := value.toNat % 128
    let sets := indexes 7 fun b => bitOf new b && !bitOf old b
    let s := s.setF F.gctlEnable (old &&& new)
    if sets.isEmpty then s
    else { s.setF F.gctlStatusCheckBusy 1 with boot := { s.boot with toCheck := sets } })

/-- After a refusal the staged values of some subsystems are as before. -/
def State.restoreStaged (s : State) (bits : List Nat) : State :=
  match s.boot.before with
  | none => s
  | some f =>
    { s with
      fields := ((bits.map stagedKeys).flatten).foldl (fun m k => Store.write resetOf m k (Store.read resetOf f k)) s.fields
      boot := { s.boot with before := none } }

/-- Some bytes of a header replaced by those of another. -/
def copyBytes (old new : List Byte) (off n : Nat) : List Byte :=
  patchBytes (old ++ List.replicate (off + n - old.length) 0) off ((List.range n).map fun i => new.getD (off + i) 0)

/-- A profile's header where only some subsystems have taken up the new one, Table 4.7: the fields of THERM, CAP and SYNC. -/
def mergeHeader (old new : List Byte) (bits : List Nat) : List Byte :=
  let h := if bits.contains 4 then copyBytes old new 0x14 16 else old
  let h := if bits.contains 5 then copyBytes h new 0x24 4 else h
  if bits.contains 1 then copyBytes h new 0x28 10 else h

/-- The taking up of a bank's settings ends, R422: a switch is answered and ends with it. -/
def State.endTakeUp (s : State) (status reason : Nat) : State :=
  if s.getF F.fwUpdState = 4 then (s.answerUpd status reason).endUpd status reason
  else { s with update := { s.update with takingUp := [] } }

/-- The checks have ended, with a refusal or none: REASON, and what the bits that passed then do. In the taking up of a new bank's
settings only the subsystems that did not pass go back to the previous values, and are enabled again (R124, R422). -/
def State.endChecks (s : State) (reason : Nat) : State :=
  let s := { s with boot := { s.boot with toCheck := [] } }
  if s.boot.switchTo.isSome then
    if reason = 0 then s.settlePass.setF F.gctlStatusReason 0
    else
      let last := s.getF F.gctlStatusLastCheck
      let s := s.restoreStaged (List.range 7)
      let s := ((s.setF F.gctlStatusReason reason).setF F.gctlStatusLastCheck last).setF F.gctlStatusCheckBusy 0
      let s := { s with boot := { s.boot with switchTo := none, passing := [], passingVals := [] } }
      match s.mailbox.awaitProfile with
      | none => s
      | some r => if s.running 2 then (s.mapMail fun v => { v with awaitProfile := none }).reply r 2 reason [] else s
  else
    let s := (s.setF F.gctlStatusReason reason).setF F.gctlStatusCheckBusy 0
    let ok := s.boot.passing
    let s := (s.forEach ok State.enableBit).settlePass
    if s.update.takingUp.isEmpty || reason == 0 then s
    else
      let bits := s.update.takingUp.filter (!ok.contains ·)
      let s := s.restoreStaged bits
      let s := { s with boot := { s.boot with
        merged := if ok.isEmpty then none else some (mergeHeader s.boot.profile s.boot.staging ok) } }
      (s.forEach bits State.enableBit).endTakeUp 7 reason

/-- PROFILE.PRESENT and COOLEST from a bank, R115. -/
def State.showBankProfiles (s : State) (bank : List Byte) : State :=
  (s.setF F.gctlProfilePresent (maskOf 8 (hasProfile bank))).setF F.gctlProfileCoolest (coolest bank)

/-- The profile a bank gives for the active profile number: itself, or the coolest where the bank lacks it, R114, R422. -/
def State.activeIn (s : State) (bank : List Byte) : Nat :=
  let a := s.getF F.gctlProfileActive
  if hasProfile bank a then a else coolest bank

/-- Subsystems whose values, or whose fields of the profile, differ from those in force, R422. -/
def State.differing (s : State) (header : List Byte) : List Nat :=
  let other := header != s.boot.profile
  indexes 7 fun b => !(s.passKeys b).isEmpty || (other && (b == 4 || b == 5)) || (b == 1 && s.limitsDiffer header)

/-- The new bank's settings are staged for the subsystems that differ, and their checks start, R422; none differs: DONE. -/
def State.takeUp (s : State) : State :=
  if !s.update.due || s.isSet F.gctlStatusCheckBusy || !s.boot.passed.isEmpty then s
  else
    let bank := s.bankBody s.activeBank
    let i := s.activeIn bank
    let p := profileOf bank i
    let before := s.fields
    let staged := s.stageAll (List.range 7) bank p
    let bits := staged.differing (headerOf p)
    let s := s.when (i != s.getF F.gctlProfileActive) (·.setF F.gctlStatusProfileFallback 1)
    let s := { s with update := { s.update with due := false, profile := i } }
    if bits.isEmpty then (s.setF F.gctlProfileActive i).endTakeUp 10 0
    else
      let s := (s.stageAll bits bank p).setF F.gctlEnable (bits.foldl clearBit (s.getF F.gctlEnable))
      { s.setF F.gctlStatusCheckBusy 1 with
        boot := { s.boot with before := some before, staging := headerOf p, toCheck := bits }
        update := { s.update with takingUp := bits } }

/-- CONSISTENCY_CHECK_DONE, R124, R127: the check in progress ends. -/
def execConsistencyCheckDone (s : State) : Outcome :=
  .next (match s.boot.toCheck with
  | [] => s
  | b :: rest =>
    let p := if s.boot.switchTo.isSome || !s.update.takingUp.isEmpty then s.boot.staging else s.boot.profile
    let s := s.setF F.gctlStatusLastCheck b
    match s.check (b :: s.boot.passing) p b with
    | some c => (s.endChecks c).takeUp
    | none =>
      let s := s.passCheck b
      if rest.isEmpty then (s.endChecks 0).takeUp else { s with boot := { s.boot with toCheck := rest } })

/-- What a profile switch changes at its tick 0 beside the staged values, R119, R215, R392. -/
def State.switchProfile (s : State) (i : Nat) : State :=
  let s := { s with boot := { s.boot with profile := s.boot.staging } }
  let s := (s.setF F.gctlProfileActive i).setF F.mbxHbToMs (u16At s.boot.profile 0x22)
  s.when s.ownGoverns (·.showOwnProfile)

/-- What takes effect of a header with the subsystems that passed before a refusal, R422. -/
def State.takeMerged (s : State) : State :=
  match s.boot.merged with
  | none => s
  | some h =>
    let s := { s with boot := { s.boot with profile := h, merged := none } }
    (s.setF F.mbxHbToMs (u16At h 0x22)).when s.ownGoverns (·.showOwnProfile)

/-- The rails take new values of RAIL into force: the effective limit follows (R132, R159), and a load line whose headroom
rises keeps its old resistance until SETTLED (R147); a CORE rail's permissions follow h (R151). `old` holds h and the resistance
in the load line of each rail before. -/
def State.railApply (s : State) (old : List (Nat × Nat)) : State :=
  s.forEach (List.range 8) fun s k =>
    let o := old.getD k (0, 0)
    ((s.holdLoadLine k o.1 o.2).followLimit k).when (decide (k < 4)) (·.recomputePerm k)

/-- STAGED_APPLY, R119, R122, R124: at the next tick 0, values that passed before it take effect together. The checks of a later write
may be running. A profile switch does not enable SYNC anew where its bit is 1 already, so context 0 keeps its settings (R371). -/
def execStagedApply (s : State) : Outcome :=
  let bits := s.boot.passed
  .next (if bits.isEmpty || !s.boot.applyDue then s
  else
    let own := s.boot.toCheck.isEmpty
    let oldRail := (List.range 8).map fun k => (s.railH k, s.loadRll k)
    let s := { s with applied := s.boot.checked.foldl (fun (m : Store Nat) (p : Nat × Nat) => Store.write resetOf m p.1 p.2) s.applied }
    let first := bits.filter fun b => !s.isActive b
    let switch := if own then s.boot.switchTo else none
    let whole := switch.isSome || s.boot.byRom
    let takeUp := own && !s.update.takingUp.isEmpty
    let s := match switch with
      | some i => s.switchProfile i
      | none => if takeUp then s.switchProfile s.update.profile else s.takeMerged
    let s := s.when (bits.contains 2) (·.railApply oldRail)
    let s := s.when (bits.contains 1) fun s => s.showLimits s.boot.profile
    let s := { s with boot := { s.boot with
      passed := [], checked := [], applyDue := false, active := s.boot.active ++ first, byRom := false
      switchTo := if own then none else s.boot.switchTo, before := if own then none else s.boot.before } }
    let s := s.forEach bits fun s b =>
      let kept := whole && bitOf (s.getF F.gctlEnable) b
      (s.when whole (·.enableBit b)).when (!(kept && b == 5)) fun s => s.enableUnit b (first.contains b)
    let s := s.when whole (·.setF F.gctlStatusCheckBusy 0)
    let s := s.when takeUp fun s => s.endTakeUp 10 0
    if switch.isNone then s.takeUp
    else
      let s := s.when (s.running 2) fun s => s.log 3 2 5 [s.word 0x1014]
      match s.mailbox.awaitProfile with
      | some r => if !s.running 2 then s else (s.mapMail fun v => { v with awaitProfile := none }).reply r 0 0 [s.word 0x1014]
      | none => s)

end Sys2Proof.Machine
end

