-- ==== Sys2Proof/Machine/Fw.lean ====
section
/-! DEFINITION. Chapter 15, processors: stopping, reloading and releasing a processor (R413, R414, Table 15.4), the MGP
watchdog (R415), and the check of an image (R105, R106). -/
namespace Sys2Proof.Machine

/-! ### Images, R102, R105, R106 -/

/-- The segments of an image, (offset, length), and the TCM each is loaded into, Tables 4.5 and 15.1. -/
def imageSegments (b : List Byte) : List (Nat × Nat) :=
  let b := ownHeader 0x40 b
  (List.range 3).map fun i => (u32At b (8 + 8 * i), u32At b (12 + 8 * i))
def tcmBytes (p : Nat) : Nat := [131072, 262144, 524288].getD p 0

/-- A segment too long for its TCM, or over the header, whose length FORMAT gives, the end of the body or another segment, R105.
DESIGN CHOICE (log 58): a segment that reaches past the end of the body, and a segment of length 0 whose offset lies in the header,
give 0xC9 too. -/
def segmentsBad (b : List Byte) : Bool :=
  let l := imageSegments b
  let seg := fun i => l.getD i (0, 0)
  let meets := fun (x y : Nat × Nat) => decide (0 < x.2 ∧ 0 < y.2 ∧ x.1 < y.1 + y.2 ∧ y.1 < x.1 + x.2)
  (List.range 3).any fun i => decide (tcmBytes i < (seg i).2 ∨ (seg i).1 < u16At b 0 ∨ b.length < (seg i).1 + (seg i).2)
    || (List.range i).any fun j => meets (seg i) (seg j)

/-- IMAGE_DIGEST of a bank, Table 4.4. -/
def bankDigest (bank : List Byte) : Nat := leBytes ((bank.drop 8).take 48)

/-- Why an image is not accepted for a bank, R105, R106, with some key slots revoked. -/
def State.imageCode (s : State) (image : Nat) (bank : List Byte) (revoked : Nat) : Option Nat :=
  let c := s.imageCopy image
  let b := s.copyBody c
  if !s.copyValid c || !s.signatureOk c || bitOf revoked (s.trailerSlot c) then some 0xC8
  else if byteAt b 3 != 2 then some 0xCE
  else if segmentsBad b then some 0xC9
  else if Config.sha384 b != bankDigest bank then some 0xCA
  else none

/-! ### Registers that follow the bank in use -/

/-- GCTL.STATUS.BANK and IMAGE, BANK_SEQ, KEYS and PROFILE from a bank, R421 step 1. -/
def State.useBank (s : State) (i revoked : Nat) : State :=
  let bank := s.bankBody i
  let image := u32At bank 4 % 2
  let s := ((s.setF F.gctlStatusBank i).setF F.gctlStatusImage image).setF F.gctlBankSeqSeq (s.trailerSeq (s.bankCopy i))
  let s := (s.setF F.gctlKeysRevoked revoked).setF F.gctlKeysBankSlot (s.trailerSlot (s.bankCopy i))
  (s.setF F.gctlKeysImageSlot (s.trailerSlot (s.imageCopy image))).showBankProfiles bank

/-- GCTL.STATUS.DEBUG_EN as the bank in use says. -/
def State.followDebug (s : State) : State :=
  let s := { s with update := { s.update with debugDue := false } }
  s.setF F.gctlStatusDebugEn (u32At (s.bankBody s.activeBank) 0x3C % 2)

/-- GCTL.FW_VER of an image's RELEASE word. -/
def State.showRelease (s : State) (image : Nat) : State :=
  let w := u32At (s.flashRead (s.imageCopy image).off 8) 4
  ((s.setF F.gctlFwVerMajor (w / 2 ^ 24)).setF F.gctlFwVerMinor (w / 65536)).setF F.gctlFwVerPatch w

/-- FW_P.TCM.LOADED: a processor's segment of an image, in KiB, rounded up. -/
def State.showLoaded (s : State) (p image : Nat) : State :=
  let b := s.flashRead (s.imageCopy image).off 0x40
  s.setF (F.fwPTcmLoaded p) (ceilDiv ((imageSegments b).getD p (0, 0)).2 1024)

/-! ### Stopping -/

/-- FW_P.STATUS.STATE changes: trace point 11. -/
def State.setProc (s : State) (p st : Nat) : State :=
  if s.getF (F.fwPStatusState p) = st then s else (s.setF (F.fwPStatusState p) st).trace 0 11 p st

/-- What a running MGP's stop does: loads interrupted (R414), watchdog disarmed (R415), an offline cluster
resumed (R461), a copy in progress left invalid (R465). -/
def State.mgpStop (s : State) : State :=
  let s := s.forEach [0, 1] fun s p => s.when (s.getF (F.fwPStatusState p) == 1) (·.setProc p 0)
  let s := s.setF F.hlthTestActive 0
  { s with
    procs := { s.procs with wdt := none }
    health := { s.health with
      copy := none, due := s.health.due.filter (· != .fmax), fmax := { s.health.fmax with inStep := false, begun := false } }
    update := { s.update with erasing := false } }

/-- What a running MDP's stop does, Table 15.4, Table 10.4, R466. -/
def State.mdpStop (s : State) : State :=
  let s := s.modelStop
  { s with model := { s.model with bad := true }, health := { s.health with steady := [], iSum := [] } }

/-- A processor stops, R413: a running one is HELD and stamped. -/
def State.stopProc (s : State) (p : Nat) : State :=
  if s.running p then
    let s := s.when (p == 2) State.stopWork
    let s := ((s.setF (F.fwPStopTimeBeat p) s.beat32).setF (F.fwPStatusHeld p) 1).setProc p 0
    if p = 2 then s.mgpStop else s.when (p == 1) (·.mdpStop)
  else s.setProc p 0

/-- RST.PROC of a processor. -/
def rstProcF (p : Nat) : Field := if p = 0 then F.rstProcFlp else if p = 1 then F.rstProcMdp else F.rstProcMgp

/-- MP_M.CFG.TEST_EN of every memory is cleared by every reset, R446. -/
def State.clearTestEn (s : State) : State := s.forEach (List.range 8) fun s m => s.setF (F.mpMCfgTestEn m) 0

/-- A processor's TCM is to be loaded: its memory is written afresh (R435), with the segment and then by the firmware. -/
def State.beginLoad (s : State) (p : Nat) : State := ((s.eccClear (3 + p)).eccUse [3 + p]).setProc p 1

/-- The MGP loads what needs loading, one processor at a time, the FLP first, R414. -/
def State.startLoad (s : State) : State :=
  if !s.running 2 || (List.range 2).any fun p => s.getF (F.fwPStatusState p) == 1 then s
  else match (List.range 2).find? s.procs.needed.contains with
    | none => s
    | some p => (s.flashTrace 0 (s.imageCopy (s.getF F.gctlStatusImage)).off).beginLoad p

/-- A processor has been restarted in the present tick and not run since. -/
def State.restarting (s : State) (p : Nat) : Bool :=
  Store.read (fun _ => none) s.procs.restartAt p == some s.now && s.getF (F.fwPStatusState p) < 2

/-- A processor is restarted for a cause of Table 15.3, R413; not while the boot ROM runs, nor while the die is parked. A second
cause in the tick makes no second restart, and CAUSE holds the lower code (Table 15.13). -/
def State.restart (s : State) (p cause : Nat) : State :=
  if s.boot.rom || s.isSet F.domStatusParked then s
  else if s.restarting p then s.setF (F.fwPStatusCause p) (min cause (s.getF (F.fwPStatusCause p)))
  else
    let s := { s with procs := { s.procs with restartAt := Store.write (fun _ => none) s.procs.restartAt p (some s.now) } }
    let s := (((s.stopProc p).setF (F.fwPStatusCause p) cause).incF (rstProcF p)).clearTestEn
    if p = 2 then (s.raise F.mbxMevt 1).beginLoad 2
    else
      let l := s.procs.needed
      { s with procs := { s.procs with needed := if l.contains p then l else p :: l } }.startLoad

/-! ### Releasing -/

/-- A request the MGP had taken and not answered is answered ABORTED, Table 15.4; a switch's request waits on. -/
def State.abortTaken (s : State) : State :=
  let v := s.mailbox
  let keep := s.getF F.fwUpdState == 4
  let l := v.request.toList ++ v.awaitProfile.toList ++ v.modeReply.toList ++ v.awaitAbort.map (·.2)
    ++ (if keep then [] else v.awaitUpdate.toList) ++ v.awaitCopy.toList
  let s := s.mapMail fun v => { v with
    request := none, awaitProfile := none, modeReply := none, modeNext := none, modeDue := false, awaitAbort := [], awaitCopy := none
    awaitUpdate := if keep then v.awaitUpdate else none }
  s.forEach l fun s r => s.reply r 5 0 []

/-- The update after a restart of the MGP, Table 15.7, R421 step 5. -/
def State.updateAfterRestart (s : State) : State :=
  match s.getF F.fwUpdState with
  | 1 => s.endUpd 5 0
  | 2 =>
    if s.copyValid (s.bankCopy s.otherBank) then
      { s.setUpd 3 with update := { s.update with committed := s.trailerSeq (s.bankCopy s.otherBank) } }
    else s.endUpd 5 0
  | 4 => ({ s.showRelease (s.getF F.gctlStatusImage) with update := { s.update with due := true } } : State).takeUp
  | _ => s

/-- A characterisation in progress ends ABORTED, R465. -/
def State.fmaxAfterRestart (s : State) : State :=
  if s.getF F.hlthFmaxState = 0 then s
  else
    let s := s.when (s.getF F.hlthFmaxState != 4) (·.setF F.hlthFmaxLastStatus 5)
    let s := s.setF F.hlthFmaxState 4
    s.notify 7 0xF7 [s.word 0x68420]

/-- FW_P.DOWN: the duration of the last stop in 0.1 ms, of its beats at the frequency in use; beats are whole, so its
rounding is open (log 9). -/
def State.downTime (s : State) (p : Nat) : Nat :=
  openDivNat 41 (10 * ((s.beat32 + (2 ^ 32 - s.getF (F.fwPStopTimeBeat p))) % 2 ^ 32)) (max 1 (s.getF F.tbSyncFreqUsed))

/-- The 100 ms of Table 15.3 in which ALIVE.COUNT of a processor must change begin: with its release, and with each change of the
count (DEDUCED, log 83). -/
def State.watchAlive (s : State) (p : Nat) : State :=
  { s with procs := { s.procs with aliveEnd := Store.write (fun _ => 0) s.procs.aliveEnd p (s.beatIn 100000) } }

/-- The MGP finds its keep area empty, R412: it mirrors from the oldest record of the ring, as after a wake
reset; the state of an update it takes from the registers and the flash (log 47). -/
def State.keepEmpty (s : State) : State :=
  { s with logRam := { s.logRam with mirrored := s.getF F.logTailSeq, keepLost := false } }

/-- A processor is RUNNING again, R413, Table 15.4. -/
def State.release (s : State) (p : Nat) : State :=
  let s := s.when (s.isSet (F.fwPStatusHeld p)) fun s => (s.satF (F.fwPDownTime p) (s.downTime p)).setF (F.fwPStatusHeld p) 0
  let s := { s with procs := { s.procs with needed := s.procs.needed.filter (· != p) } }
  let s := (((s.showLoaded p (s.getF F.gctlStatusImage)).setProc p 2).eccUse [6]).forEach (if p = 2 then [0, 1] else [p]) State.watchAlive
  if p = 0 then s.forEach (List.range 4) fun s k => s.setRail k fun v => { v with calPart := true }
  else if p = 1 then s.modelRelease
  else
    let s := s.setF F.fwWdtTimeoutMs 500
    let s := { s with procs := { s.procs with wdt := some (beatsOf 500000 (s.getF F.tbSyncFreqUsed)) } }
    (s.when s.logRam.keepLost State.keepEmpty).abortTaken.updateAfterRestart.fmaxAfterRestart.startLoad

/-- The switch goes on once the FLP, and then the MDP, is RUNNING again, R421 steps 3 and 4. -/
def State.switchOn (s : State) (p : Nat) : State :=
  if s.getF F.fwUpdState = 4 ∧ s.getF (F.fwPStatusCause p) = 5 ∧ s.update.takingUp = [] ∧ !s.update.due then
    if p = 0 then s.restart 1 5 else if p = 1 then s.restart 2 5 else s
  else s

/-- A reload during a switch has failed: the old bank's registers, and the processor from the old image, R421. -/
def State.switchBack (s : State) (p : Nat) : State :=
  if s.getF F.fwUpdState ≠ 4 ∨ p = 2 then s
  else
    let s := ({ s.useBank s.update.oldBank s.update.oldRevoked with update := { s.update with debugDue := true } } : State)
    (((s.restart p 5).answerUpd 7 0xC8).endUpd 7 0xC8)

/-- PROCESSOR_RESTART, R413, Table 15.3: a write of FW_P.CTRL. -/
def execProcessorRestart (writer : Writer) (proc : Fin 3) (value : Word) (s : State) : Outcome :=
  let m := s.getF F.gctlModeCurrent
  let p := proc.val
  .next (if value.toNat / 65536 ≠ 0x5253 ∨ value.toNat % 2 = 0 then s
  else match writer with
    | .host => if m = 3 ∨ m = 4 then s.restart p 2 else s
    | .flp => if p = 0 ∧ s.running 0 then s.restart p 6 else s
    | .mdp => if p = 1 ∧ s.running 1 then s.restart p 6 else s
    | .mgp => if s.running 2 then s.restart p (if p = 2 then 6 else 2) else s)

/-- PROCESSOR_RELOAD_DONE, R114, R413, R414: the image is checked under R106; log code 3, or reason 0xC8. Once the flash port
belongs to the trip path the read ends with FAULT (R272) and the check fails. -/
def execProcessorReloadDone (proc : Fin 3) (s : State) : Outcome :=
  let p := proc.val
  .next (if s.getF (F.fwPStatusState p) ≠ 1 ∨ s.boot.rom then s
  else
    let code := if s.flash.tripOwned then some 0xC8
      else s.imageCode (s.getF F.gctlStatusImage) (s.bankBody s.activeBank) (s.getF F.gctlKeysRevoked)
    match code with
    | none =>
      let s := s.release p
      let s := s.log 3 3 3 [p, s.getF (F.fwPStatusCause p), s.getF (F.fwPDownTime p)]
      (s.switchOn p).startLoad
    | some _ =>
      let s := { s with procs := { s.procs with needed := s.procs.needed.filter (· != p) } }
      let s := ((s.setProc p 3).setF F.gctlStatusReason 0xC8).setF F.gctlErrLoadFail 1
      (s.switchBack p).startLoad)

/-- ALIVE_TIMEOUT, R413 cause 4, R415: the running MGP finds FW_P.ALIVE unchanged for 100 ms. -/
def execAliveTimeout (proc : Fin 2) (s : State) : Outcome :=
  let p := proc.val
  .next (if s.running 2 && s.running p && s.beatReached (Store.read (fun _ => 0) s.procs.aliveEnd p) then s.restart p 4 else s)

/-- ALIVE_INCREMENT, R415. -/
def execAliveIncrement (proc : Fin 2) (s : State) : Outcome :=
  let p := proc.val
  .next (if s.running p then (s.setF (F.fwPAliveCount p) (s.getF (F.fwPAliveCount p) + 1)).watchAlive p else s)

/-- WDT_KICK, R415: only the MGP's writes count. -/
def execWdtKick (writer : Writer) (value : Word) (s : State) : Outcome :=
  .next (if writer = .mgp ∧ value.toNat / 65536 = 0x4B43 ∧ s.procs.wdt.isSome then
    { s with procs := { s.procs with wdt := some (beatsOf (s.getF F.fwWdtTimeoutMs * 1000) (s.getF F.tbSyncFreqUsed)) } }
  else s)

/-- The mailbox channels cleared by a reset, R383. -/
def State.clearChannels (s : State) : State :=
  let s := s.forEach (List.range 32) fun s ch =>
    let s := (((s.setF (F.mbxChCtlState ch) 0).setF (F.mbxChCtlMixed ch) 0).setF (F.mbxChCtlStamp ch) 0xFFFF).setF (F.mbxChCtlRejects ch) 0
    s.forEach (List.range 16) fun s w => s.setF (F.mbxMsgWord ch w) 0
  let s := s.forEach (List.range 16) fun s ch => s.closeSession ch
  let s := ((s.setF F.mbxQueueDepth 0).setF F.mbxQueueDropped 0).mapMail fun v => { v with
    queue := [], writers := [], served := 31, notifySeq := [], clearedAt := some s.now }
  s.raise F.mbxMevt 2

/-- The PMBus target interface is reset, R405: latched status bits stay. -/
def State.resetTarget (s : State) : State := { s with pmbus := { s.pmbus with page := 0, ack := true, answer := [], pec := 0 } }

/-- A reset before the commit point discards the learning of a baseline, R296. -/
def State.dropLearning (s : State) : State :=
  s.when (!s.isSet F.modelStatusBaseline) fun s =>
    { s.setF F.modelRthSLearn 0 with model := { s.model with learnSum := 0, learned := none } }

/-- MGP_WATCHDOG_EXPIRY, R93, R415: also the mailbox channels, the flash controller and the PMBus target are reset. -/
def execMgpWatchdogExpiry (s : State) : Outcome :=
  .next (if s.procs.wdt ≠ some 0 then s
  else
    let s := (((s.restart 2 7).clearChannels).resetTarget).dropLearning
    (s.incF F.rstLastCount).setF F.rstLastKind 5)

end Sys2Proof.Machine
end

