-- ==== Sys2Proof/Machine/Boot.lean ====
section
/-! DEFINITION. Chapter 4, the ten steps of the boot ROM (Table 4.6). -/
namespace Sys2Proof.Machine

/-- Step `n` of the boot runs: the ROM runs and it is the next step; GCTL.STATUS.STEP shows it. -/
def State.bootStep (s : State) (n : Nat) (f : State → State) : Outcome :=
  .next (if s.boot.rom && s.boot.next == n then f (s.setF F.gctlStatusStep n) else s)

/-- The next step of the boot. -/
def State.bootOn (s : State) (n : Nat) : State := { s with boot := { s.boot with next := n } }

/-- A reason code is written, R111. -/
def State.reason (s : State) (code : Nat) : State := s.setF F.gctlStatusReason code

/-- The boot halts with a code, R112. -/
def State.bootHalt (s : State) (code : Nat) : State :=
  (((s.reason code).setF F.gctlStatusHalt 1).bootOn 99).settleFleet

/-! ### Step 1, R72 -/

/-- The fastest quad read that the table declares, at up to 100 MHz, R72; the first of several as fast. Where it declares none,
the read stays in 1-1-1 mode at the 12.5 MHz of the discovery (DESIGN CHOICE, log 57). -/
def quadReadOf (f : Sfdp) : QuadRead :=
  (f.quadReads.map fun (q : QuadRead) => { q with maxKHz := min 100000 q.maxKHz }).foldl
    (fun (best q : QuadRead) => if best.mode = .m111 ∨ best.maxKHz < q.maxKHz then q else best) { mode := .m111, maxKHz := 12500, dummy := 8 }

/-- A valid SFDP table, R72: a Basic Flash Parameter Table of revision B or later that declares 4-byte addressing. -/
def sfdpValid (f : Sfdp) : Bool := f.revision == .bOrLater && f.fourByte

/-- What the ROM selects from the table, R72; reads stay in 1-1-1 mode until step 2. The software reset 0x66, 0x99 before it leaves
the array as it is. -/
def State.selectFlash (s : State) (f : Sfdp) : State :=
  let q := quadReadOf f
  { s with flash := { s.flash with
    densityMiB := f.densityMiB, maxKHz := q.maxKHz, mode := .m111, dummy := 8, quadMode := q.mode, quadDummy := q.dummy
    fourByteInstr := f.fourByteInstr
    enter4 := f.enter4, quadEnable := f.quadEnable, known := true } }

/-- BOOT_STEP_1, R72, R111: after a wake reset the mailbox part is powered again (R382). -/
def execBootStep1 (sfdp : Sfdp) (s : State) : Outcome :=
  s.bootStep 1 fun s =>
    let s := s.reason 0
    if !sfdpValid sfdp then s.bootHalt 0xC0
    else
      let s := s.selectFlash sfdp
      if sfdp.densityMiB < 32 then s.bootHalt 0xC1 else s.bootOn 2

/-! ### Step 2, R97, R98 -/

/-- The regions of a layout: offset and size, the boot header first. -/
def layoutRegions (l : Layout) : List (Nat × Nat) :=
  [(0, 0x2000), (l.calOff, l.calSize), (l.calOff + l.calSize, l.calSize), (l.bankA, l.bankSize), (l.bankB, l.bankSize),
   (l.imgA, l.imgSize), (l.imgB, l.imgSize), (l.evtOff, l.evtSize)]

/-- Whether two regions share a byte. -/
def regionsMeet (x y : Nat × Nat) : Bool := decide (x.1 < y.1 + y.2 ∧ y.1 < x.1 + x.2)

/-- Whether some two regions of a list share a byte. -/
def anyMeet : List (Nat × Nat) → Bool
  | [] => false
  | r :: l => l.any (regionsMeet r) || anyMeet l

/-- A layout that breaks R98 on a device of some bytes, or a size of Table 4.2. DESIGN CHOICE (log 58): a BANK_SIZE, IMG_SIZE or
EVT_SIZE outside its range of Table 4.2, for which Table 4.11 names no code, is refused with the others (0xC3); a CAL_SIZE of 0
counts as a multiple of 64 KiB, since Table 4.2 gives no range for it; no calibration copy of size 0 is ever valid, nor read. -/
def layoutBad (l : Layout) (bytes : Nat) : Bool :=
  let rs := layoutRegions l
  rs.tail.any (fun r => r.1 % 65536 != 0 || r.2 % 65536 != 0 || decide (bytes < r.1 + r.2))
    || anyMeet rs || decide (l.bankSize < 65536 ∨ 1048576 < l.bankSize ∨ l.imgSize < 1048576 ∨ 8388608 < l.imgSize)
    || l.evtSize != 0x40000

/-- The smallest FDIV of at least 2 for which the RCLK in force ÷ FDIV does not exceed 25 MHz: RCLK is 100 MHz on the internal
oscillator (Table 4.6 step 1), 2,000 MHz ÷ RDIV on the locked PLL. -/
def State.fdiv25 (s : State) : Nat :=
  if s.isSet F.clkStatusPllLock then clampNat 2 15 (ceilDiv 2000000 (max 1 (s.getF F.clkBusdivRdiv) * 25000)) else 4

/-- The flash port is switched to its quad read at 25 MHz, Table 4.6 step 2; a locked CLK.BUSDIV keeps its clock (R96), and a device
that declares no quad read stays at 12.5 MHz (log 57). -/
def State.quadRead (s : State) : State :=
  let q := s.flash.quadMode
  let s := { s with flash := { s.flash with mode := q, dummy := s.flash.quadDummy } }
  s.when (!s.boot.busLocked && decide (q ≠ .m111)) fun s => s.setF F.clkBusdivFdiv s.fdiv25

/-- BOOT_STEP_2, R97, R98. -/
def execBootStep2 (s : State) : Outcome :=
  s.bootStep 2 fun s =>
    let copies := [s.flashRead 0 64, s.flashRead 4096 64]
    match copies.find? fun h => headerSound h && byteAt h 7 == 2 with
    | none => s.bootHalt (if copies.any headerSound then 0xCE else 0xC2)
    | some h =>
      let l := layoutOf h
      if s.flash.densityMiB < u32At (bootFields h) 8 then s.bootHalt 0xC1
      else if layoutBad l (s.flash.densityMiB * 1048576) then s.bootHalt 0xC3
      else ({ s with boot := { s.boot with layout := l } } : State).quadRead.bootOn 3

/-! ### Step 3, R101, R108 to R110 -/

/-- A calibration copy in use. -/
def State.useCal (s : State) (i : Nat) : State :=
  let c := s.calCopy i
  { s.setF F.gctlStatusCalCopy i with
    boot := { s.boot with cal := s.sectionsAt c, calSeq := s.trailerSeq c, calChosen := true } }

/-- BOOT_STEP_3, R101, R109, R110, R168: after a cold reset the present phases become OFF. -/
def execBootStep3 (s : State) : Outcome :=
  s.bootStep 3 fun s =>
    match (s.newerFirst (s.calCopy 0) (s.calCopy 1)).find? fun c => s.calUsable c.2 with
    | none => s.bootHalt 0xC4
    | some c =>
      let s := s.useCal c.1
      let s := s.when (s.boot.kind == .cold) fun s =>
        s.forEach (List.range 44) fun s p =>
          if s.phasePresent p && s.phaseState p == 0 then s.setPhaseState p 1 else s
      s.bootOn (if s.boot.kind = .cold then 4 else 5)

/-! ### Step 4, R78 -/

/-- The smallest FDIV of at least 2 for which RCLK ÷ FDIV does not exceed the SFDP maximum. DESIGN CHOICE (log 57): where none
of 2 to 15 does so, FDIV is 15; an RDIV of 0 acts as 1. -/
def State.chooseFdiv (s : State) (rdiv : Nat) : Nat :=
  clampNat 2 15 (ceilDiv 2000000 (max 1 (max 1 rdiv * s.flash.maxKHz)))

/-- BOOT_STEP_4, R78: it waits for the crystal check of R76. -/
def execBootStep4 (pllLocked : Bool) (s : State) : Outcome :=
  if !s.isSet F.clkStatusXtalOk && !s.isSet F.clkStatusXtalFail then s.bootStep 4 fun s => s
  else s.bootStep 4 fun s =>
    let rec_ := s.xtalKHz
    let meas := s.getF F.clkXtalMeasFreq
    if s.isSet F.clkStatusXtalFail then s.bootHalt 0xA0
    else if rec_ < 20000 ∨ 40000 < rec_ ∨ 100 * meas < 98 * rec_ ∨ 102 * rec_ < 100 * meas then s.bootHalt 0xA1
    else if !pllLocked then s.bootHalt 0xA2
    else
      let s := (s.setF F.clkStatusPllLock 1).setF F.clkStatusOnXtal 1
      (s.setF F.clkBusdivFdiv (s.chooseFdiv (s.getF F.clkBusdivRdiv))).bootOn 5

/-! ### Steps 5 and 6, R101 to R107 -/

/-- Why a bank is not accepted, with some key slots revoked. -/
def State.bankCode (s : State) (i revoked : Nat) : Option Nat :=
  let c := s.bankCopy i
  if !s.copyValid c then some 0xC5
  else if byteAt (s.bankBody i) 3 != 2 then some 0xCE
  else if s.bankRevoke i = 15 then some 0xC7
  else if !s.signatureOk c || bitOf revoked (s.trailerSlot c) then some 0xC6
  else none

/-- The order in which the two banks are tried. -/
def State.bankOrder (s : State) : List Nat := (s.newerFirst (s.bankCopy 0) (s.bankCopy 1)).map (·.1)

/-- The codes of the banks that step 5 does not accept are written, R111: both trailers are read (R101), and both banks are
examined for REVOKED (R103). They are written in the order of R101 (DEDUCED, log 20). DESIGN CHOICE (log 20): 0xCE, which Table 4.6
does not list at step 5, is written of a bank only when it is tried. -/
def State.bankCodes (s : State) (revoked : Nat) : State :=
  s.forEach s.bankOrder fun s i =>
    match s.bankCode i revoked with
    | some c => if c = 0xCE then s else s.reason c
    | none => s

/-- Banks tried in order: each refusal writes its code; the first that is accepted. -/
def State.tryBanks (s : State) (revoked : Nat) : List Nat → Option Nat × State
  | [] => (none, s)
  | i :: l => match s.bankCode i revoked with
    | none => (some i, s)
    | some c => (s.reason c).tryBanks revoked l

/-- BOOT_STEP_5, R103. -/
def execBootStep5 (s : State) : Outcome :=
  s.bootStep 5 fun s =>
    let revoked := s.revoked
    let old := s.activeBank
    let s := (s.setF F.gctlKeysRevoked revoked).bankCodes revoked
    match s.tryBanks revoked s.bankOrder with
    | (none, s) => s.bootHalt 0xCB
    | (some i, s) =>
      let s := { s with boot := { s.boot with newBank := i != old } }
      ((s.setF F.gctlStatusBank i).flagF F.gctlStatusFallback (s.bankOrder.head? != some i)).bootOn 6

/-- The image a bank names is accepted with it: the registers that show what is in use, and the loaded TCMs. -/
def State.bootImage (s : State) (i : Nat) : State :=
  let new := s.boot.newBank || s.activeBank != i || s.getF F.gctlBankSeqSeq != s.trailerSeq (s.bankCopy i)
  let s := { s with boot := { s.boot with newBank := new } }
  let s := s.useBank i (s.getF F.gctlKeysRevoked)
  let image := s.getF F.gctlStatusImage
  let s := s.followDebug.showRelease image
  ((s.forEach (List.range 3) fun s p => s.showLoaded p image).eccUse [3, 4, 5]).bootOn 7

/-- BOOT_STEP_6, R106, R107. -/
def execBootStep6 (s : State) : Outcome :=
  s.bootStep 6 fun s =>
    let revoked := s.getF F.gctlKeysRevoked
    let code := fun (s : State) (i : Nat) => s.imageCode (u32At (s.bankBody i) 4 % 2) (s.bankBody i) revoked
    let i := s.activeBank
    match code s i with
    | none => s.bootImage i
    | some c =>
      let s := s.reason c
      if s.bankOrder.head? != some i then s.bootHalt 0xCB
      else match s.tryBanks revoked [1 - i] with
        | (none, s) => s.bootHalt 0xCB
        | (some j, s) => match code s j with
          | some c => (s.reason c).bootHalt 0xCB
          | none => (s.setF F.gctlStatusFallback 1).bootImage j

/-! ### Step 7, R120, R426 -/

/-- The pending trip records as the registers show them: TRIP_PENDING, and TRIP_REC at the newest. -/
def State.showPending (s : State) : State :=
  match s.pendingSlots.getLast? with
  | none => (s.setF F.gctlStatusTripPending 0).setF F.gctlTripRecValid 0
  | some k => ((s.setF F.gctlStatusTripPending 1).setF F.gctlTripRecValid 1).setF F.gctlTripRecOffset (64 * k)

/-- LOG.EVT_NEXT after a scan: the slot after the last written one, if it is erased; W is the sector of the last written one, so
that what R426 and R427 then owe is erased before the next record is mirrored. -/
def State.scanEvents (s : State) : State :=
  let last := (s.slotOrder.filter fun k => !s.slotErased k).getLast?
  let next := match last with
    | none => 0
    | some k => (k + 1) % eventSlots
  let s := (s.setF F.logEvtNextOffset (64 * next)).flagF F.logEvtNextValid (s.slotErased next)
  { s with logRam := { s.logRam with sector := (last.getD 0) / 64 } }

/-- BOOT_STEP_7, R120. -/
def execBootStep7 (readable : Bool) (s : State) : Outcome :=
  s.bootStep 7 fun s =>
    let s := if readable then s.showPending.scanEvents
      else ((s.reason 0xCF).setF F.gctlStatusTripPending 0).setF F.gctlTripRecValid 0
    s.settleFleet.bootOn 8

/-! ### Step 8, R67, R116 -/

/-- The straps disagree with the package type, R67. -/
def State.strapsBad (s : State) : Bool :=
  !s.isX4 && (!s.isSet F.idConfigLeader || s.getF F.idConfigDieId != 0)

/-- BOOT_STEP_8, R67, R114, R116. -/
def execBootStep8 (s : State) : Outcome :=
  s.bootStep 8 fun s =>
    let s := s.when s.strapsBad fun s => (s.reason 0xCD).strapFault
    let bank := s.bankBody s.activeBank
    let cool := coolest bank
    let cold := s.boot.kind == .cold
    let want := if cold then s.getF F.gctlProfileStrap else s.getF F.gctlProfileActive
    let s := if cold && s.isSet F.gctlStatusTripPending then s.setF F.gctlProfileActive cool
      else if hasProfile bank want then s.setF F.gctlProfileActive want
      else (if cold then s.reason 0xCC else s).setF F.gctlProfileActive cool |>.setF F.gctlStatusProfileFallback 1
    s.bootOn 9

/-! ### Step 9, R111, R114 -/

/-- The subsystems that step 9 stages: those whose ENABLE bit the reset cleared, R126. -/
def kindBits : BootKind → List Nat
  | .cold => List.range 7
  | .warm => [5]
  | .wake => [3, 4, 5]

/-- CLK.BUSDIV written from the bank and locked, once per cold reset. -/
def State.writeBusdiv (s : State) (bank : List Byte) : State :=
  if s.boot.busLocked then s
  else
    let w := u32At bank 0x40
    let rdiv := bitsOf w 8 8
    let fdiv := bitsOf w 24 4
    let s := ((s.setF F.clkBusdivPdiv w).setF F.clkBusdivRdiv rdiv).setF F.clkBusdivSdiv (bitsOf w 16 8)
    let s := s.setF F.clkBusdivFdiv (if fdiv < 2 then s.chooseFdiv rdiv else fdiv)
    { s with boot := { s.boot with busLocked := true } }

/-- RAIL.VSET.TARGET of the rails that are not CORE, as the ROM has loaded it, kept for their start, R134. -/
def State.keepBase (s : State) : State :=
  s.forEach [4, 5, 6, 7] fun s k => s.setRail k fun r => { r with base := some (s.getF (F.railVsetTarget k)) }

/-- The subsystems that this boot stages: those of its kind whose ENABLE bit is 0, R114. -/
def State.bootBits (s : State) : List Nat := (kindBits s.boot.kind).filter fun b => !bitOf (s.getF F.gctlEnable) b

/-- The staging of step 9 from a profile: sections, start values, the cap of R214, and the profile's own fields where CAP is
staged with them. -/
def State.bootStage (s : State) (bank : List Byte) (i : Nat) : State :=
  let p := profileOf bank i
  let h := headerOf p
  let bits := s.bootBits
  let s := (s.stageAll bits bank p).setF F.mbxHbToMs (u16At h 0x22)
  let s := s.when (bits.contains 2) fun s => (s.loadStartValues (sectionOf bank p 2)).keepBase
  s.when (bits.contains 4) fun s =>
    let s := { s with boot := { s.boot with profile := h } }
    let s := s.when s.ownGoverns (·.showOwnProfile)
    let cap := u16At h 0x1A
    let s := (s.setF F.pwrHostcapCap cap).setF F.pwrCapnowHost cap
    s.writeForce (if s.isSet F.mbxHostAbsent then min cap (u16At h 0x1C) else cap)

/-- The checks of step 9 on what is staged: the reason of the first refusal; LAST_CHECK. -/
def State.bootCheck (s : State) (bank : List Byte) (i : Nat) : Option Nat × State :=
  let p := profileOf bank i
  let bits := s.bootBits
  if byteAt p 3 != 2 then (some 0xCE, s)
  else match s.checkEach (headerOf p) [] bits with
    | some (b, c) => (some c, s.setF F.gctlStatusLastCheck b)
    | none => (none, s.setF F.gctlStatusLastCheck (bits.getLast?.getD 0))

/-- All checks of step 9 have passed: every bit is to be set at one tick 0. -/
def State.bootPass (s : State) : State :=
  let s := (s.forEach s.bootBits State.passCheck).settlePass.setF F.gctlStatusCheckBusy 1
  ({ s with boot := { s.boot with byRom := true } } : State).bootOn 10

/-- BOOT_STEP_9, R111, R114, R214. -/
def execBootStep9 (s : State) : Outcome :=
  s.bootStep 9 fun s =>
    let bank := s.bankBody s.activeBank
    let s := s.writeBusdiv bank
    let i := s.getF F.gctlProfileActive
    match (s.bootStage bank i).bootCheck bank i with
    | (none, s) => s.bootPass
    | (some c, s) =>
      let cool := coolest bank
      let s := ((s.reason c).setF F.gctlStatusProfileFallback 1).setF F.gctlProfileActive cool
      match (s.bootStage bank cool).bootCheck bank cool with
      | (none, s) => s.bootPass
      | (some c, s) => s.bootHalt c

/-! ### Step 10, R111, R129, R306, R380, R456, R465 -/

/-- Every field of a register from a word. -/
def State.putWord (s : State) (off w : Nat) : State :=
  s.forEach (fieldsAt off) fun s r => s.setF ⟨off, r.1.lo, r.1.width⟩ (bitsOf w r.1.lo r.1.width)

/-- The binding table loaded and locked, once per cold reset, R380. -/
def State.loadBinding (s : State) : State :=
  if s.isSet F.mbxBindCtlLock then s
  else
    let bank := s.bankBody s.activeBank
    let off := u32At bank 0x6C
    let s := if !s.isX4 then s
      else
        let s := s.setF F.mbxBindCtlUsed 1
        if off = 0 then s.raise F.mbxMevt 0
        else
          let t := bank.drop off
          s.forEach (List.range 28) fun s ch =>
            if 8 + 4 * ch ≤ u32At t 0 then s.putWord (F.mbxChBindMasterA ch).off (u32At t (4 + 4 * ch)) else s
    s.setF F.mbxBindCtlLock 1

/-- The counters of tag 0x0006 loaded, R456, R457. -/
def State.loadHealth (s : State) : State :=
  let b := s.calSection 6
  if !s.hasTag 6 then s
  else
    let s := s.forEach (List.range 288) fun s n => s.setF (F.hlthStressNSec n) (u32At b (0x2C + 16 * n))
    let s := s.forEach (List.range 8) fun s k =>
      (s.setF (F.hlthEmKUsed k) (u32At b (0x1220 + 8 * k))).setF (F.hlthEmRateRate k) (u32At b (0x1224 + 8 * k))
    let s := s.forEach (List.range 44) fun s p =>
      (s.setF (F.hlthStgPPeaks p) (u32At b (0x1260 + 8 * p))).setF (F.hlthStgPOnH p) (u32At b (0x1264 + 8 * p))
    { s with health := { s.health with persists := u32At b 4, hours := u32At b 0xC } }

/-- The codes 0x0101 and 0x0102 among the mirrored records of the region, newest last. -/
def State.fmaxRecords (s : State) : List Nat :=
  (s.recordSlots.filterMap fun k =>
    let b := s.slotBytes k
    if u32At b 0 = 0x4C455A43 then some (u16At b 0x14) else none).filter fun c => c == 0x101 || c == 0x102

/-- An update, or a characterisation, that a reset which runs the ROM found in progress, R420, R465: lost, or completed by
the boot itself. DESIGN CHOICE (log 49): HLTH.FMAX.STATE, which R171 keeps across the reset and of which R465 says nothing, goes
to IDLE here without passing through END. -/
def State.endInterrupted (s : State) : State :=
  let s := match s.getF F.fwUpdState with
    | 0 => s
    | 1 => s.endUpd 5 0
    | 2 => s.endUpd 5 0
    | _ => s.endUpd 10 0
  s.setF F.hlthFmaxState 0

/-- BOOT_STEP_10, R111, R129: the release, once STAGED_APPLY has enabled what step 9 passed. -/
def execBootStep10 (s : State) : Outcome :=
  if !s.boot.passed.isEmpty then .next s
  else s.bootStep 10 fun s =>
    let kind := s.boot.kind
    let cold := kind == .cold
    let warm := kind == .warm
    let s := s.log 0 2 2 [s.word 0x2040, s.word 0x1004, s.word 0x101C]
    let s := { s with boot := { s.boot with rom := false } }
    let s := (s.setF F.gctlStatusBootDone 1).setF F.gctlBootTimeBeat s.beat32
    let s := s.endInterrupted
    let s := s.forEach [0, 1, 2] fun s p => ((s.setF (F.fwPStatusCause p) 1).incF (rstProcF p)).release p
    let s := s.when (!warm) fun s =>
      let s := s.enterMode (if s.isSet F.gctlStatusTripPending || s.isSet F.gctlStatusStrapFault then 4 else 1)
      s.forEach (List.range 96) fun s d => s.orF (F.domDVoteMask d) 1
    let s := s.when cold State.loadHealth
    let s := s.loadBinding.when (!s.isSet F.mbxHostAbsent) (·.reloadHeartbeat)
    let s := s.when (kind != .wake && s.fmaxRecords.getLast? == some 0x101) fun s => s.log 3 3 0x103 []
    let s := s.when (!cold && s.boot.newBank) fun s =>
      (({ s with update := { s.update with due := true } } : State)).takeUp
    (s.settleBrake s.brakeBits).settleFleet

end Sys2Proof.Machine
end

