-- ==== Sys2Proof/Machine/Brake.lean ====
section
/-! DEFINITION. Chapter 14, the brake sources outside PMBus: the doorbell and BRAKE_N (R63, R402). -/
namespace Sys2Proof.Machine

/-- The doorbell's write: its key, and SET or CLR alone. -/
def brakeKey (value : Word) (bit : Nat) : Bool :=
  value.toNat / 65536 == 0x4252 && bitOf value.toNat bit && !bitOf value.toNat (1 - bit)

/-- BRAKE_DOORBELL_SET, R402. -/
def execBrakeDoorbellSet (value : Word) (s : State) : Outcome :=
  .next (if brakeKey value 0 then (s.setF F.mbxBrakeStatDoorbell 1).settleBrake s.brakeBits else s)

/-- BRAKE_DOORBELL_CLR, R402. -/
def execBrakeDoorbellClr (value : Word) (s : State) : Outcome :=
  .next (if brakeKey value 1 then (s.setF F.mbxBrakeStatDoorbell 0).settleBrake s.brakeBits else s)

/-- The level of BRAKE_N that is recognised. -/
def State.setBrakePin (s : State) (low : Bool) : State :=
  ({ s with pins := { s.pins with brakeLow := low } } : State).settleBrake s.brakeBits

/-- BRAKE_N_ASSERT, R63: a low pulse of less than 40 ns is ignored, one of 100 ns or longer is recognised; between them
the spec leaves it open, so a free value decides (log 3). -/
def execBrakeNAssert (lowNs : Nat) (s : State) : Outcome :=
  .next (if lowNs < 40 then s
  else if 100 ≤ lowNs then s.setBrakePin true
  else
    let (v, s) := s.drawFree 2
    if v = 1 then s.setBrakePin true else s)

/-- BRAKE_N_RELEASE, R402: a high level of 100 ns or longer. -/
def execBrakeNRelease (highNs : Nat) (s : State) : Outcome :=
  .next (if highNs < 100 then s else s.setBrakePin false)

end Sys2Proof.Machine
end

