-- ==== Sys2Proof/Machine/DomCmds.lean ====
section
/-! DEFINITION. The commands of chapter 11 on single domains: acknowledges, votes of host masters, retries. -/
namespace Sys2Proof.Machine

/-- A step's time has run out, R310: the domain is FAILED and its acknowledge, if it comes, is late. -/
def State.failAck (s : State) (d : Nat) : State :=
  let v := s.dom d
  let toOn := v.seq = .offOn || v.seq = .retOn
  let s := s.setDom d fun v =>
    { v with seq := .none, step := 0, toOn := toOn, retry := false, swOn := if toOn then false else v.swOn
             late := awaitedAck v.seq v.step, waited := 0 }
  (s.setF (F.domDStatusState d) 5).raise F.domEvt 2

/-- DOMAIN_ACK, R308, R310: the acknowledge the step waits for, or one that comes after its time. -/
def execDomainAck (domain : Fin 96) (ret level : Bool) (s : State) : Outcome :=
  let d := domain.val
  let v := s.dom d
  .next (if awaitedAck v.seq v.step == some (ret, level) then
    if s.ackOverdue d then (s.failAck d).setDom d (fun v => { v with late := none }) |>.raise F.domEvt 1
    else s.setDom d fun v => { v with acked := true }
  else if v.late == some (ret, level) then (s.setDom d fun v => { v with late := none }).raise F.domEvt 1
  else s)

/-- DOMAIN_ACK_TIMEOUT, R310: nothing while the step's time has not run out. -/
def execDomainAckTimeout (domain : Fin 96) (s : State) : Outcome :=
  .next (if s.ackOverdue domain.val then s.failAck domain.val else s)

/-- The voter that DOM.HVMAP gives a master: of the lowest-numbered valid entry that names it, R305. -/
def State.hostVoter (s : State) (master : Nat) : Option Nat :=
  ((List.range 11).find? fun j => s.appliedF (F.domHvmapJValid j) == 1
    && s.appliedF (F.domHvmapJMasterId j) == master).map fun j => s.appliedF (F.domHvmapJVoter j)

/-- DOMAIN_VOTE_SET, R305. -/
def execDomainVoteSet (master : Master) (domain : Fin 96) (s : State) : Outcome :=
  match s.hostVoter master.toNat with
  | none => .next (s.raise F.domEvt 0)
  | some v => .next (s.setF (F.domDVoteMask domain.val) (setBit (s.getF (F.domDVoteMask domain.val)) v))

/-- DOMAIN_VOTE_CLEAR, R305. -/
def execDomainVoteClear (master : Master) (domain : Fin 96) (s : State) : Outcome :=
  match s.hostVoter master.toNat with
  | none => .next (s.raise F.domEvt 0)
  | some v => .next (s.setF (F.domDVoteMask domain.val) (clearBit (s.getF (F.domDVoteMask domain.val)) v))

/-- Whether a write of HVOTE is ignored, with UNMAPPED: a host master that no valid entry names, R305. -/
def State.unmapped (s : State) : Party → Bool
  | .host m => (s.hostVoter m.toNat).isNone
  | .dbgacc => false

/-- DOMAIN_RETRY, R305, R310: ignored unless FAILED, and from a master that maps to no voter. -/
def execDomainRetry (write : RetryWrite) (s : State) : Outcome :=
  .next (if s.unmapped write.party then s.raise F.domEvt 0
  else if domState s write.domain.val == 5 then s.setDom write.domain.val fun v => { v with retry := true }
  else s)

end Sys2Proof.Machine
end

