-- ==== Sys2Proof/Machine/EccRows.lean ====
section
/-! DEFINITION. Chapter 16, the rest: the reactions of Table 16.2, the scrubbers (R444), write-backs, verify reads and
remapping (R436 to R438), and the check-bit test mode (R446). -/
namespace Sys2Proof.Machine

/-! ### What a word holds, Table 16.1 -/

/-- The data of a log record's or trace record's word, Tables 15.2 and 15.8, R430. -/
def State.logWord (s : State) (w : Nat) : Nat :=
  if w < 5120 then
    let r : LogRec := Store.read (fun _ => {}) s.logRam.ring (w / 4)
    ([r.seq + 2 ^ 32 * r.beatLo, r.beatHi + 2 ^ 32 * r.origin, r.data.getD 0 0 + 2 ^ 32 * r.data.getD 1 0,
      r.data.getD 2 0 + 2 ^ 32 * r.data.getD 3 0]).getD (w % 4) 0
  else
    let r : TraceRec := Store.read (fun _ => {}) s.logRam.trace ((w - 5120) / 2)
    if w % 2 = 0 then r.beat24 + r.tick * 2 ^ 24 + r.point * 2 ^ 32 + r.src * 2 ^ 45 + r.tseq * 2 ^ 48
    else r.data0 + 2 ^ 32 * r.data1

/-- A word of the log ring or the trace ring replaced. -/
def State.patchLog (s : State) (w d : Nat) : State :=
  let lo := d % 2 ^ 32
  let hi := d / 2 ^ 32 % 2 ^ 32
  { s with logRam :=
    if w < 5120 then
      { s.logRam with ring := Store.update (fun _ => {}) s.logRam.ring (w / 4) fun r =>
        let v := (r.data ++ [0, 0, 0, 0]).take 4
        if w % 4 = 0 then { r with seq := lo, beatLo := hi }
        else if w % 4 = 1 then { r with beatHi := lo, origin := hi }
        else if w % 4 = 2 then { r with data := [lo, hi] ++ v.drop 2 }
        else { r with data := v.take 2 ++ [lo, hi] } }
    else
      { s.logRam with trace := Store.update (fun _ => {}) s.logRam.trace ((w - 5120) / 2) fun r =>
        if w % 2 = 0 then { r with
          beat24 := lo % 2 ^ 24, tick := lo / 2 ^ 24 % 64, point := hi % 1024, src := hi / 2 ^ 13 % 8, tseq := hi / 2 ^ 16 }
        else { r with data0 := lo, data1 := hi } } }

/-- The data of a translation word: entries 2w and 2w + 1. -/
def State.xltWord (s : State) (w : Nat) : Nat :=
  let e := fun i => s.getF (F.xltEntryValid (w / 64) i) * 2 ^ 31 + s.getF (F.xltEntryFlat (w / 64) i)
  e (2 * (w % 64)) + 2 ^ 32 * e (2 * (w % 64) + 1)

/-- Data seen at a word whose layout the spec does not give. -/
def State.keepImage (s : State) (m w d : Nat) : State :=
  { s with ecc := { s.ecc with image := Store.insert s.ecc.image (cellKey m (s.cellOf m w)) d } }

/-- Whether a word has been written since its memory was cleared: by the hardware, by the firmware, or as a part of the loaded
model. -/
def State.wordUsed (s : State) (m w : Nat) : Bool :=
  Store.read (fun _ => 0) s.ecc.written (cellKey m (s.cellOf m w)) == 1 || s.ecc.used.contains m
    || (m == 7 && s.model.loaded && decide (w < modelWords s.model.coef))

/-- The data a word holds: as the state says where the layout is given; else as last seen; zero where nothing has been written
since the memory was cleared (R435); else a free value (log 60). -/
def State.dataOf (s : State) (m w : Nat) : Nat × State :=
  match s.ecc.image.find? fun p => p.1 == cellKey m (s.cellOf m w) with
  | some p => (p.2, s)
  | none =>
    if m = 2 then (s.xltWord w, s)
    else if m = 6 ∧ w < 7168 then (s.logWord w, s)
    else if m = 7 ∧ 8 * w + 8 ≤ s.modelBytes.length then (leBytes ((s.modelBytes.drop (8 * w)).take 8), s)
    else if !s.wordUsed m w then (0, s)
    else
      let d := s.drawFree (2 ^ 64)
      (d.1, d.2.keepImage m w d.1)

/-- The contents of a word replaced. What an object's or a record's word then says is free where the layout is (log 60). -/
def State.patchWord (s : State) (m w d : Nat) : State :=
  match m with
  | 0 => (s.scrambleObj (w / 4) (w % 4)).keepImage m w d
  | 1 => (s.scrambleRecord (w / 2)).keepImage m w d
  | 2 => s.patchXlt w d
  | 6 => if w < 7168 then s.patchLog w d else s.keepImage m w d
  | 7 => if 8 * w + 8 ≤ s.modelBytes.length then s.patchModel w d else s.keepImage m w d
  | _ => s.keepImage m w d

/-! ### Uncorrectable errors, R440 to R442 -/

/-- A log or trace record with an uncorrectable word is discarded, R442; a keep area counts as empty, R412: of what the model keeps
there, the MGP's place in the log and its update, its next release finds nothing (log 47). -/
def State.discard (s : State) (w : Nat) : State :=
  let s := s.incF F.logStatDiscarded
  if w < 5120 then
    let s := { s with logRam := { s.logRam with ring := Store.erase s.logRam.ring (w / 4) } }
    (s.raise F.logEvt 3).writeLogWords (4 * (w / 4)) 4
  else if w < 7168 then
    let s := { s with logRam := { s.logRam with trace := Store.erase s.logRam.trace ((w - 5120) / 2) } }
    (s.raise F.logEvt 3).writeLogWords (w - w % 2) 2
  else if w < 7680 then s
  else { s with logRam := { s.logRam with keepLost := true } }

/-- The reaction of a word's owner, Table 16.2. -/
def State.react (s : State) (m w : Nat) : State :=
  match m with
  | 0 => s.objFault (w / 4) (w % 4 == 0)
  | 1 =>
    match s.sync.records.find? (·.rid == w / 2) with
    | some r => s.recordFault r
    | none => s.forEach [w - w % 2, w - w % 2 + 1] fun s w => (s.eccWrite 1 w).keepImage 1 w 0
  | 2 => s.xltFault w
  | 6 => s.discard w
  | 7 => s.modelReset
  | _ =>
    match s.getF (F.fwPStatusState (m - 3)) with
    | 0 => s
    | 1 => (s.eccClear m).eccUse [m]
    | _ => s.restart (m - 3) 3

/-- The main word that a cell serves: the spare's remapped word while that word still reads through it. -/
def State.servedBy (s : State) (m c : Nat) : Option Nat :=
  if c < memWords m then some c
  else
    let w := s.getF (F.mpMRemapEWord m (c - memWords m))
    if s.isSet (F.mpMRemapEValid m (c - memWords m)) && s.cellOf m w == c then some w else none

/-- A checked read with its owner's reaction. -/
def State.checkedRead (s : State) (m w : Nat) (scrub : Bool) : Reading × State :=
  let r := s.eccRead m w scrub
  match r.1, s.servedBy m w with
  | .uncorrectable, some v => (.uncorrectable, r.2.react m v)
  | .wrong, some v =>
    let d := r.2.drawFree (2 ^ 64)
    (.wrong, d.2.patchWord m v d.1)
  | x, _ => (x, r.2)

/-- SCRUB_READ, R444: the next word, main words and then spares; upsets of its codeword come to light. -/
def execScrubRead (mem : Fin 8) (upset : BitVec 80) (s : State) : Outcome :=
  let m := mem.val
  .next (if !s.isSet (F.mpMCfgScrubEn m) || s.isSet F.domStatusParked then s
  else
    let w := s.getF (F.mpMScrubPosWord m)
    let s := s.setError m w (s.errorAt m w ^^^ upset.toNat)
    let s := (s.checkedRead m w true).2
    if memWords m + 8 ≤ w + 1 then
      (s.setF (F.mpMScrubPosWord m) 0).setF (F.mpMPassesCount m) (s.getF (F.mpMPassesCount m) + 1)
    else s.setF (F.mpMScrubPosWord m) (w + 1))

/-! ### Write-back, verify read, remapping -/

/-- The owed operations of a memory changed at the first one that meets a condition. -/
def changeFirst (p : WriteBack → Bool) (f : WriteBack → Option WriteBack) : List WriteBack → List WriteBack
  | [] => []
  | b :: l => if p b then (f b).toList ++ l else b :: changeFirst p f l

/-- ECC_WRITE_BACK, R436: the corrected codeword is written back, and a verify read is owed. No
memory has power while the die is PARKED, R313. -/
def execEccWriteBack (mem : Fin 8) (s : State) : Outcome :=
  let mine := fun (b : WriteBack) => b.mem == mem.val && !b.verify
  .next (match (if s.isSet F.domStatusParked then none else s.ecc.backs.find? mine) with
  | none => s
  | some b =>
    let s := { s with ecc := { s.ecc with backs := changeFirst mine (fun b => some { b with verify := true }) s.ecc.backs } }
    (s.setError b.mem b.word 0).incF (F.mpMWbDone b.mem))

/-- The lowest remap entry that has never been used and whose spare has shown no hard fault, R437, R438. -/
def State.freeEntry (s : State) (m : Nat) : Option Nat :=
  (List.range 8).find? fun e => !s.isSet (F.mpMRemapEValid m e) && !s.isSet (F.mpMRemapEDead m e)

/-- The entry of a spare with a hard fault is DEAD, whether a word reads through it or not, R438. -/
def State.markDead (s : State) (m c : Nat) : State :=
  s.when (decide (memWords m ≤ c)) (·.setF (F.mpMRemapEDead m (c - memWords m)) 1)

/-- A word with a hard fault takes the lowest unused entry, R437, R438; without one, REMAP_FULL once. -/
def State.remap (s : State) (m w : Nat) : State :=
  let old := s.cellOf m w
  let s := s.markDead m old
  match s.freeEntry m with
  | none =>
    if s.ecc.full.contains m then s
    else { s.raise F.mpEvtRemapFull m with ecc := { s.ecc with full := m :: s.ecc.full } }
  | some e =>
    let s := ((s.setF (F.mpMRemapEValid m e) 1).setF (F.mpMRemapEWord m e) w).setF (F.mpMRemapStUsed m)
      (s.getF (F.mpMRemapStUsed m) + 1)
    let s := (s.raise F.mpEvtRemap m).setError m w 0
    let u := Store.read (fun _ => 0) s.ecc.written (cellKey m old)
    let s := { s with ecc := { s.ecc with written := Store.write (fun _ => 0) s.ecc.written (cellKey m (s.cellOf m w)) u } }
    match s.ecc.image.find? fun p => p.1 == cellKey m old with
    | some p => s.keepImage m w p.2
    | none => s

/-- ECC_VERIFY_READ, R437: an error in the same symbol alone is a hard fault. The read is checked as every read is. -/
def execEccVerifyRead (mem : Fin 8) (stuck : BitVec 80) (s : State) : Outcome :=
  let m := mem.val
  let mine := fun (b : WriteBack) => b.mem == m && b.verify
  .next (match (if s.isSet F.domStatusParked then none else s.ecc.backs.find? mine) with
  | none => s
  | some b =>
    let s := { s with ecc := { s.ecc with backs := changeFirst mine (fun _ => none) s.ecc.backs } }
    let s := (s.setError m b.word stuck.toNat).checkedRead m b.word false
    if badSymbols stuck.toNat = [b.symbol] then
      let s := { s.2 with ecc := { s.2.ecc with
        backs := s.2.ecc.backs.filter fun x => !(x.mem == m && s.2.cellOf m x.word == s.2.cellOf m b.word) } }
      match s.servedBy m b.word with
      | some w => s.remap m w
      | none => s.markDead m b.word
    else s.2)

/-! ### Check-bit test mode, R446 -/

/-- Whether a raw access is refused. -/
def State.rawRefused (s : State) (m w : Nat) : Bool :=
  let mode := s.getF F.gctlModeCurrent
  !(mode == 3 || mode == 4) || !s.isSet (F.mpMCfgTestEn m) || decide (s.getF (F.mpMSizeWords m) ≤ w)

/-- A raw access, once it is not refused; TEST_CHK says how it ended. -/
def State.rawAccess (s : State) (value : Nat) (write : Bool) (g : State → Nat → Nat → State) : State :=
  let m := bitsOf value 24 3
  let w := bitsOf value 0 17
  if !bitOf value 31 || bitOf value 30 != write then s
  else if s.rawRefused m w then (s.setF F.mpTestChkDone 0).setF F.mpTestChkRefused 1
  else ((g s m w).setF F.mpTestChkRefused 0).setF F.mpTestChkDone 1

/-- The 300 errors of one symbol. -/
def symbolErrors : List Nat := (List.range 300).map fun i => (i % 15 + 1) * 2 ^ (4 * (i / 15))

/-- A codeword one symbol away from a raw codeword, else one two symbols away, if there is one: as it is read, R434. -/
def nearCodeword (c : Nat) : Option Nat :=
  let two := symbolErrors.flatMap fun a => symbolErrors.map fun b => a ^^^ b
  ((symbolErrors ++ two).map (c ^^^ ·)).find? fun v => v == codeword (v % 2 ^ 64)

/-- Data of a word without a given layout, as a raw write found it. -/
def State.keepOld (s : State) (m w : Nat) (d : Nat × State) : State :=
  if d.2.ecc.image.any fun p => p.1 == cellKey m (d.2.cellOf m w) then s.keepImage m w d.1 else s

/-- A raw codeword written: it counts as a functional write. What it decodes to is what R434 says of it. -/
def State.rawWrite (s : State) (m w : Nat) : State :=
  let c := s.getF F.mpTestLoData + 2 ^ 32 * s.getF F.mpTestHiData + 2 ^ 64 * s.getF F.mpTestChkCheck
  let d := s.dataOf m w
  let e := c ^^^ codeword d.1
  let s := d.2.eccWrite m w
  let s := s.keepOld m w d
  if c = codeword (c % 2 ^ 64) ∧ c % 2 ^ 64 ≠ d.1 then s.patchWord m w (c % 2 ^ 64)
  else if (badSymbols e).length ≤ 2 then s.setError m w e
  else match nearCodeword c with
    | some v => (s.patchWord m w (v % 2 ^ 64)).setError m w (c ^^^ v)
    | none => s.setError m w e

/-- TEST_RAW_WRITE, R446. -/
def execTestRawWrite (value : Word) (s : State) : Outcome := .next (s.rawAccess value.toNat true State.rawWrite)

/-- TEST_RAW_READ, R446: the raw codeword, without correction or counting. -/
def execTestRawRead (value : Word) (s : State) : Outcome :=
  .next (s.rawAccess value.toNat false fun s m w =>
    let d := s.dataOf m w
    let c := codeword d.1 ^^^ d.2.errorAt m w
    ((d.2.setF F.mpTestLoData c).setF F.mpTestHiData (c / 2 ^ 32)).setF F.mpTestChkCheck (c / 2 ^ 64))

end Sys2Proof.Machine
end

