-- ==== Sys2Proof/Machine/EventResponse.lean ====
section
/-! DEFINITION. What the FLP does about a raised event: log record, notification, follow-up (R163, and the event rules of
chapters 7 to 12, 16 and 17). -/
namespace Sys2Proof.Machine

/-- The answer of firmware release 2.1.0 to an event: the severity of its log record (Table 15.9: 4 for an event on INT[4],
otherwise 2), and whether an EVENT notification is sent, with its class; a class of none is one the spec does not name. -/
structure Response where
  severity : Nat
  notifies : Bool
  cls      : Option Nat
  deriving DecidableEq, Repr

/-- The events the FLP answers, by event register and bit. -/
def responseTo (off bit : Nat) : Option Response :=
  if 0x08000 ≤ off ∧ off < 0x0A000 ∧ off % 0x400 = 0xC then
    if [9, 5, 4, 3, 0].contains bit then some ⟨4, true, some 0⟩ else none
  else match off with
    | 0x2002C => if bit < 7 then some ⟨2, bit == 3 || bit == 2, some 1⟩ else none
    | 0x21004 => if [7, 5, 3].contains bit then some ⟨4, true, some 1⟩ else if bit < 2 then some ⟨2, true, some 1⟩ else none
    | 0x0C008 => if bit < 8 then some ⟨if bit < 3 then 4 else 2, [7, 3, 2, 1].contains bit, some 2⟩ else none
    | 0x0E004 => if bit < 5 then some ⟨if bit < 2 then 4 else 2, false, none⟩ else none
    | 0x04004 => if bit = 30 then some ⟨2, false, none⟩ else none
    | 0x04008 => if bit = 2 ∨ bit = 1 then some ⟨4, bit == 2, some 4⟩ else none
    | 0x4000C => if [5, 4, 3, 0].contains bit then some ⟨4, bit == 5, some 5⟩ else none
    | 0x60004 => if 8 ≤ bit then some ⟨4, bit < 16 || 24 ≤ bit, none⟩ else none
    | 0x68404 => if bit = 3 then some ⟨2, false, none⟩ else if bit < 2 then some ⟨4, false, none⟩ else none
    | _ => none

/-- The EVENT notification of R400; a class the spec does not name is free (log 3). -/
def State.notifyEvent (s : State) (cls : Option Nat) (off bit value : Nat) : State :=
  let c := match cls with
    | some c => (c, s)
    | none => s.drawFree 8
  c.2.notify c.1 0xF0 [off * 4096 + bit, s.beat32, value]

/-- FLP_EVENT_RESPONSE, R163: while the FLP runs and the event is set. STAGE_HOT on a CORE rail starts derating (R164). -/
def execFlpEventResponse (off : Offset) (bit : Fin 32) (s : State) : Outcome :=
  let o := off.toNat
  let v := s.word o
  .next (if !s.running 0 || !bitOf v bit.val then s
  else match responseTo o bit.val with
    | none => s
    | some r =>
      let s := s.log 1 r.severity 1 [o, bit.val, v]
      let s := s.when r.notifies fun s => s.notifyEvent r.cls o bit.val v
      s.when (decide (o < 0x09000 ∧ 0x08000 ≤ o) && bit.val == 9) fun s => s.derate ((o - 0x08000) / 0x400))

end Sys2Proof.Machine
end

