-- ==== Sys2Proof/Machine/Health.lean ====
section
/-! DEFINITION. Chapter 17, ageing and health: calibration copies (R100, R296, R456), the sensors (R450), electromigration
(R453), predictions (R452, R455), the warning (R458). -/
namespace Sys2Proof.Machine

/-! ### Tag 0x0006, Table 17.1, R457 -/

def State.tag6 (s : State) : List Byte := s.calSection 6
def State.factoryFmax (s : State) (n : Nat) : Nat := if s.hasTag 6 then u16At s.tag6 (0x20 + 16 * n) else s.fmax n
def State.charFmax (s : State) (n : Nat) : Nat := if s.hasTag 6 then u16At s.tag6 (0x22 + 16 * n) else s.fmax n
def State.charD (s : State) (n : Nat) : Nat := u32At s.tag6 (0x28 + 16 * n)
def State.emLife (s : State) : Nat := if s.hasTag 6 then u32At s.tag6 0x10 else 0xFFFFFFFF
def State.peakLimit (s : State) : Nat := if s.hasTag 6 then u32At s.tag6 0x14 else 0xFFFFFFFF
def State.charCount (s : State) : Nat := u16At s.tag6 8

/-- RATIO0 of a core, 2^-24: from the tag, else as first measured; 0 when none is known. A tag that holds 0 for a core holds none, as
a copy leaves it that was written before the core's first measurement (log 82). -/
def State.ratio0 (s : State) (n : Nat) : Nat :=
  let r := if s.hasTag 6 then u32At s.tag6 (0x24 + 16 * n) else 0
  if r = 0 then Store.read (fun _ => 0) s.health.ratio0 n else r

/-- Tag 0x0006 of the newest copy, which a characterisation has committed and the next boot will use (R465), or of the copy in use. -/
def State.newTag6 (s : State) : List Byte :=
  (((s.health.calNext.getD s.boot.cal).find? (·.1 == 6)).map (·.2)).getD []

/-- The section as a copy written now carries it, the latest values of all; `fresh` when the copy commits a characterisation (R463). -/
def State.writeTag6 (s : State) (fresh : Bool) : List Byte :=
  let six := s.newTag6
  let has := (s.health.calNext.getD s.boot.cal).any (·.1 == 6)
  let charF := fun n => if has then u16At six (0x22 + 16 * n) else s.fmax n
  let charD := fun n => u32At six (0x28 + 16 * n)
  let results := s.health.fmax.results
  let tested := fun n => fresh && results.any (·.1 == n)
  let last := if fresh then 10 else if s.isSet F.hlthFmaxLastStatus then s.getF F.hlthFmaxLastStatus else byteAt six 0xA
  let core := fun n =>
    toLeBytes 2 (s.factoryFmax n)
      ++ toLeBytes 2 (if tested n then Store.read (fun _ => 0) results n else charF n)
      ++ toLeBytes 4 (s.ratio0 n) ++ toLeBytes 4 (if tested n then s.getF (F.hlthAgeNDNow n) else charD n)
      ++ toLeBytes 4 (s.getF (F.hlthStressNSec n))
  let rail := fun k => toLeBytes 4 (s.getF (F.hlthEmKUsed k)) ++ toLeBytes 4 (s.getF (F.hlthEmRateRate k))
  let phase := fun p => toLeBytes 4 (s.getF (F.hlthStgPPeaks p)) ++ toLeBytes 4 (s.getF (F.hlthStgPOnH p))
  toLeBytes 2 6 ++ toLeBytes 2 0x13C0 ++ toLeBytes 4 (s.health.persists + 1) ++ toLeBytes 2 (u16At six 8 + flag fresh)
    ++ toLeBytes 1 last ++ toLeBytes 1 0 ++ toLeBytes 4 s.health.hours ++ toLeBytes 4 s.emLife ++ toLeBytes 4 s.peakLimit
    ++ toLeBytes 8 0 ++ ((List.range 288).map core).flatten ++ ((List.range 8).map rail).flatten
    ++ ((List.range 44).map phase).flatten

/-! ### Calibration copies, R100, R296, R456, R463 -/

/-- The first section of a tag replaced in a list of sections, or one added at its end. -/
def putSection (tag : Nat) (b : List Byte) : List (Nat × List Byte) → List (Nat × List Byte)
  | [] => [(tag, b)]
  | x :: l => if x.1 = tag then (tag, b) :: l else x :: putSection tag b l

/-- Bytes written at a position of a run, as far as they lie in a section body that begins at `pos` of the run, after its header of
four bytes. -/
def patchBody (b : List Byte) (pos at_ : Nat) (new : List Byte) : List Byte :=
  new.zipIdx.foldl (fun b x =>
    if pos ≤ at_ + x.2 ∧ at_ + x.2 < pos + (b.length - 4) then patchBytes b (4 + (at_ + x.2 - pos)) [x.1] else b) b

/-- The sections with a baseline in the RTH_BASE word of tag 0x0005, whose bodies are one run (R279). -/
def withBaseline (base : Nat) : Nat → List (Nat × List Byte) → List (Nat × List Byte)
  | _, [] => []
  | pos, x :: l =>
    if x.1 = 5 then (5, patchBody x.2 pos 8 (toLeBytes 4 base)) :: withBaseline base (pos + (x.2.length - 4)) l
    else x :: withBaseline base pos l

/-- The sections a copy of a kind carries: the latest values of every section. -/
def State.copySections (s : State) (kind : CopyKind) : List (Nat × List Byte) :=
  let l := s.health.calNext.getD s.boot.cal
  let l := putSection 6 (s.writeTag6 (kind == .fmax)) l
  let three := ((l.find? (·.1 == 3)).map (·.2)).getD []
  match kind with
  | .baseline => withBaseline (s.model.learned.getD 0) 0 l
  | .relearn => withBaseline 0 0 l
  | .persist => l
  | .fmax => putSection 3 (s.health.fmax.results.foldl (fun b (r : Nat × Nat) => patchBytes b (8 + 2 * r.1) (toLeBytes 2 r.2)) three) l

/-- The device commands of a copy before its trailer, R100, R72: the trailer sector erased, the blocks of the body erased, the
pages of the body programmed. DESIGN CHOICE (log 58): of a body longer than the copy has room for, only what fits is programmed,
and the copy cannot be committed. -/
def copyCmds (c : Copy) (whole : List Byte) : List DeviceCmd :=
  let body := whole.take (c.size - 4096)
  DeviceCmd.erase c.trailer 4096
    :: ((List.range (ceilDiv body.length 65536)).map fun i =>
        DeviceCmd.erase (c.off + 65536 * i) (min 65536 (c.size - 4096 - 65536 * i)))
    ++ (List.range (ceilDiv body.length 256)).map fun i => DeviceCmd.program (c.off + 256 * i) ((body.drop (256 * i)).take 256)

/-- The copy that is due next is begun, if none is being written: the trailer sector erased, the body erased and
programmed, R100. -/
def State.startCopy (s : State) : State :=
  match s.health.copy, s.health.due with
  | none, kind :: rest =>
    if !s.running 2 then s
    else
      let i := 1 - s.getF F.gctlStatusCalCopy
      let c := s.calCopy i
      let l := s.copySections kind
      let body := (l.map (·.2)).flatten
      let s := { s with health := { s.health with due := rest, copy := some ⟨kind, i, l⟩ } }
      if s.flash.tripOwned then s
      else
        let cmds := copyCmds c body
        (s.forEach cmds State.traceCmd).beginWork .copy cmds
  | _, _ => s

/-- A kind of copy is due; it is begun when no other is being written. -/
def State.dueCopy (s : State) (kind : CopyKind) : State :=
  let l := s.health.due
  ({ s with health := { s.health with due := if l.contains kind then l else l ++ [kind] } } : State).startCopy

/-- A copy's body ends before its trailer sector, R99. -/
def State.copyFits (s : State) (c : CalCopy) : Bool :=
  decide (4096 ≤ (s.calCopy c.slot).size ∧ (c.sections.map (·.2)).flatten.length ≤ (s.calCopy c.slot).size - 4096)

/-- The trailer of a copy is programmed and the copy read back: it is the copy in use. -/
def State.commitCopy (s : State) (c : CalCopy) : State :=
  let s := s.endJob .copy
  let s := ((s.traceCmd (s.copyTrailerCmd c)).runCmd (s.copyTrailerCmd c)).flashTrace 0 (s.calCopy c.slot).off
  let s := (s.setF F.gctlStatusCalCopy c.slot).incF F.hlthPersistCount
  let s := s.setF F.hlthPersistAgeH 0
  { s with
    boot := { s.boot with
      calSeq := (s.boot.calSeq + 1) % 2 ^ 32
      cal := if c.kind = .fmax then s.boot.cal else c.sections }
    health := { s.health with copy := none, persists := s.health.persists + 1
                              calNext := if c.kind = .fmax then some c.sections else s.health.calNext } }

/-- A copy is given up before its trailer: it stays invalid. -/
def State.dropCopy (s : State) : State := { s.cutJob .copy with health := { s.health with copy := none } }

/-- A copy could not be written: one of its device commands failed, freely which, the trailer's among them; it stays invalid. -/
def State.failCopy (s : State) : State :=
  let l := s.jobCmds .copy
  let l := if l.isEmpty then [] else l ++ s.health.copy.toList.map s.copyTrailerCmd
  let s := (s.breakOff l).dropJob .copy
  { s with health := { s.health with copy := none } }

/-- The baseline that a committed copy carries, R296. -/
def State.takeBaseline (s : State) (base : Nat) : State :=
  { ((s.satF F.modelRthBase base).flagF F.modelStatusBaseline (base != 0)).setF F.modelRthSLearn 0 with
    model := { s.model with learnSum := 0, learned := none } }

/-- A request that awaits a copy is answered. -/
def State.answerCopy (s : State) (status : Nat) : State :=
  match s.mailbox.awaitCopy with
  | none => s
  | some r => (s.mapMail fun v => { v with awaitCopy := none }).reply r status 0 []

/-- CALIBRATION_COPY_COMMIT, R100, R296, R456: a baseline copy, a relearn copy or a persist; one that fails raises PERSIST_FAIL. -/
def execCalibrationCopyCommit (ok : Bool) (s : State) : Outcome :=
  .next (match s.health.copy with
  | none => s
  | some c =>
    if c.kind = .fmax ∨ !s.running 2 then s
    else if ok && !s.flash.tripOwned && s.copyFits c then
      let base := s.model.learned.getD 0
      let s := s.commitCopy c
      let s := match c.kind with
        | .baseline => s.takeBaseline base
        | .relearn => (s.takeBaseline 0).answerCopy 10
        | _ => s
      s.startCopy
    else
      let s := s.failCopy
      let s := match c.kind with
        | .relearn => s.answerCopy 7
        | _ => s
      (s.raise F.hlthEvt 0).startCopy)

/-- RTH_BASELINE_COPY, R296: the MGP starts the copy that carries a learned baseline. -/
def execRthBaselineCopy (s : State) : Outcome :=
  .next (if s.running 2 && s.model.learned.isSome && !(s.health.copy.any (·.kind == .baseline)) then s.dueCopy .baseline else s)

/-- RTH_RELEARN, R296, Table 14.5. -/
def execRthRelearn (s : State) : Outcome :=
  .next (s.onOpcode 0x63 fun s r =>
    if s.mailbox.awaitCopy.isSome then s.reply r 2 0 []
    else ((s.reply r 1 0 []).mapMail fun v => { v with awaitCopy := some r }).dueCopy .relearn)

/-- CALIBRATION_PERSIST, R456: a 24-hour interval ends. -/
def execCalibrationPersist (s : State) : Outcome :=
  .next (if !s.ends (intervalKey 11 0) then s
  else
    let s := s.reload (intervalKey 11 0)
    if s.running 2 then s.dueCopy .persist else s)

/-! ### Ageing, R450, R451 -/

/-- d of a core from its counts, ppm; free where the spec gives no quotient (log 3). -/
def State.degradation (s : State) (n cs cu : Nat) : Nat × State :=
  let r := s.ratio0 n
  if cu * r = 0 then s.drawFree (2 ^ 20)
  else ((openDiv 43 (1000000 * ((cu * r : Nat) : Int) - 1000000 * ((cs * 2 ^ 24 : Nat) : Int)) (cu * r)).toNat, s)

/-- One core's measurement. -/
def State.measureCore (s : State) (n cs cu : Nat) : State :=
  let first := s.ratio0 n == 0 && cu != 0
  let s := s.when first fun s =>
    { s with health := { s.health with ratio0 := Store.write (fun _ => 0) s.health.ratio0 n (openDivNat 44 (cs * 2 ^ 24) cu) } }
  let r := s.degradation n cs cu
  let l := (r.1 :: Store.read (fun _ => []) r.2.health.degr n).take 16
  let s := { r.2 with health := { r.2.health with degr := Store.write (fun _ => []) r.2.health.degr n l } }
  s.satF (F.hlthAgeNDNow n) (sumNat l / l.length)

/-- AGEING_MEASUREMENT, R450: the counts of every core; those whose core group is ON are used. -/
def execAgeingMeasurement (counts : List (Nat × Nat)) (s : State) : Outcome :=
  if !s.ends (intervalKey 8 0) then .next s
  else
  let s := s.reload (intervalKey 8 0)
  .next (if !s.running 1 then s
  else s.forEach (List.range 288) fun s n =>
    match counts[n]? with
    | some c => if s.coreOn n then s.measureCore n c.1 c.2 else s
    | none => s)

/-- FMAX_EST, R451. -/
def State.fmaxEst (s : State) (n : Nat) : Nat :=
  s.charFmax n * (1000000 - (s.getF (F.hlthAgeNDNow n) - s.charD n)) / 1000000

/-! ### Stress and electromigration, R450, R453 -/

/-- The highest logic-pair protection reading, 1/64 °C. -/
def State.hottestLogic (s : State) : Option Int :=
  (List.range 12).foldl (fun acc q =>
    let v := s.getF (F.thmPairPProt q)
    if v = 0x8000 then acc
    else match acc with
      | none => some (toSigned 16 v)
      | some t => some (max t (toSigned 16 v))) none

/-- A number and its rest in 2^-40 of a unit. -/
def State.addRest (s : State) (f : Field) (rest inc : Nat) : State × Nat :=
  let v := s.getF f * 2 ^ 40 + rest + inc
  (s.satF f (v / 2 ^ 40), v % 2 ^ 40)

/-- USED and RATE of a rail after a second, R453: rests in 2^-40; 604,800 s are 7 days. -/
def State.emStep (s : State) (k : Nat) : State :=
  let a := Store.read (fun _ => (0, 0)) s.health.iSum k
  let rated := s.appliedF (F.railIlimLimit k)
  if a.2 = 0 ∨ rated = 0 then s
  else
    let t := s.hottestLogic.getD (105 * 64)
    let f := exp2Fix (Int.fdiv ((t - 85 * 64) * 65536) 640)
    let inc := 16 * a.1 * a.1 * f / (a.2 * a.2 * rated * rated * 3600 * 2 ^ 20)
    let u := s.addRest (F.hlthEmKUsed k) (Store.read (fun _ => 0) s.health.usedRest k) inc
    let s := u.1
    let old := s.getF (F.hlthEmRateRate k) * 2 ^ 40 + Store.read (fun _ => 0) s.health.rateRest k
    let now := inc * 3600 * 4096
    let new := (old * 604799 + now) / 604800
    let s := s.satF (F.hlthEmRateRate k) (new / 2 ^ 40)
    { s with health := { s.health with
      usedRest := Store.write (fun _ => 0) s.health.usedRest k u.2
      rateRest := Store.write (fun _ => 0) s.health.rateRest k (new % 2 ^ 40) } }

/-- EM_USAGE_UPDATE, R450, R453: a second ends. -/
def execEmUsageUpdate (s : State) : Outcome :=
  if !s.ends (intervalKey 12 0) then .next s
  else
  let s := s.reload (intervalKey 12 0)
  let s := if s.running 1 then
      let s := s.forEach s.health.steady fun s d =>
        s.forEach ((List.range 4).map (4 * d + ·)) fun s n => s.incF (F.hlthStressNSec n)
      s.forEach (List.range 8) State.emStep
    else s
  .next { s with health := { s.health with
    iSum := [], steady := if s.running 1 then (List.range 72).filter s.domOn else [] } }

/-! ### Predictions, R452, R455 -/

/-- The greatest h below `hi` for which `p h` holds, `p` holding up to some h and not beyond, by halving. -/
def greatest (p : Nat → Bool) : Nat → Nat → Nat → Nat
  | 0, lo, _ => lo
  | n + 1, lo, hi =>
    if hi ≤ lo + 1 then lo
    else
      let m := (lo + hi) / 2
      if p m then greatest p n m hi else greatest p n lo m

/-- floor(t × (dEol/dNow)^(64/n) − t) hours for t = sec ÷ 3,600, R452: the greatest h for which
(3,600 h + sec)^n × dNow^64 ≤ sec^n × dEol^64. -/
def lifeHours (sec dEol dNow n : Nat) : Nat :=
  if dEol ≤ dNow then 0
  else greatest (fun h => decide ((3600 * h + sec) ^ n * dNow ^ 64 ≤ sec ^ n * dEol ^ 64)) 33 0 (2 ^ 32)

/-- AGE_N and LIFE_N of a core. -/
def State.predictCore (s : State) (n : Nat) : State :=
  let s := s.satF (F.hlthAgeNFmaxEst n) (s.fmaxEst n)
  let sec := s.getF (F.hlthStressNSec n)
  let d := s.getF (F.hlthAgeNDNow n)
  if sec < 604800 ∨ d = 0 then (s.setF (F.hlthAgeNValid n) 0).setF (F.hlthLifeNHours n) 0xFFFFFFFF
  else
    let c := s.charFmax n
    let eol := s.getF F.hlthCfgFminEol
    let life := if c ≤ eol then 0
      else lifeHours sec (s.charD n + 1000000 * (c - eol) / c) d (max 1 (s.getF F.hlthCfgAgeExp))
    (s.setF (F.hlthAgeNValid n) 1).setF (F.hlthLifeNHours n) life

/-- The lesser of two lives, none being infinite. -/
def lesser : Option Nat → Option Nat → Option Nat
  | none, b => b
  | a, none => a
  | some a, some b => some (min a b)

/-- The remaining hours of a phase's power stage: its peaks over the last 168 hours give the rate. -/
def State.phaseLife (s : State) (p : Nat) : Option Nat :=
  let now := s.getF (F.hlthStgPPeaks p)
  let hist := Store.read (fun _ => []) s.health.peaks p
  if s.phaseState p = 5 then none
  else if s.peakLimit ≤ now then some 0
  else match hist.getLast? with
    | none => none
    | some was => if now ≤ was then none else some (openDivNat 46 ((s.peakLimit - now) * hist.length) (now - was))

/-- RLIFE_K of a rail, R455. -/
def State.predictRail (s : State) (k : Nat) : State :=
  let rate := s.getF (F.hlthEmRateRate k)
  let em := if rate = 0 then none
    else some (openDivNat 45 ((16 * s.emLife - s.getF (F.hlthEmKUsed k)) * 65536) (16 * rate))
  let l := (phasesOf k).foldl (fun a p => lesser a (s.phaseLife p)) em
  s.satF (F.hlthRlifeKHours k) (l.getD 0xFFFFFFFF)

/-- PEAKS of a phase kept for its rate. -/
def State.keepPeaks (s : State) (p : Nat) : State :=
  let l := (s.getF (F.hlthStgPPeaks p) :: Store.read (fun _ => []) s.health.peaks p).take 168
  { s with health := { s.health with peaks := Store.write (fun _ => []) s.health.peaks p l } }

/-! ### The warning, R458 -/

/-- The items that meet the condition: kind × 2^30 + index. -/
def State.healthItems (s : State) : List Nat :=
  let low := 24 * s.getF F.hlthCfgWarnD
  (indexes 288 fun n => decide (s.getF (F.hlthLifeNHours n) < low ∨ s.getF (F.hlthAgeNFmaxEst n) < s.getF F.hlthCfgFminEol))
    ++ ((indexes 8 fun k => decide (s.getF (F.hlthRlifeKHours k) < low)).map (2 ^ 30 + ·))
    ++ ((indexes 44 fun p => decide (s.peakLimit ≤ s.getF (F.hlthStgPPeaks p))).map (2 ^ 31 + ·))

/-- The lowest index below `n` at which a function is least. -/
def leastAt (n : Nat) (f : Nat → Nat) : Nat := (List.range n).foldl (fun i j => if f j < f i then j else i) 0

/-- The condition is evaluated. -/
def State.healthEvaluate (s : State) : State :=
  let items := s.healthItems
  let warn := !items.isEmpty
  let was := s.isSet F.hlthStatusWarn
  let old := s.health.items
  let s := ((s.flagF F.hlthStatusWarn warn).satF F.hlthStatusWarnCount items.length).setF F.hlthStatusWorstCore
    (leastAt 288 fun n => s.getF (F.hlthLifeNHours n))
  let s := s.setF F.hlthStatusWorstRail (leastAt 8 fun k => s.getF (F.hlthRlifeKHours k))
  let s := { s with health := { s.health with items := items } }
  if warn == was then s
  else
    let item := (if warn then items else old).headD 0
    let s := ((s.raise F.hlthEvt (if warn then 3 else 2)).flagF F.mbxFleetHealth warn).settleFleet
    let s := s.notify 7 0xF6 [s.word 0x68400, item]
    s.when (s.running 2) fun s => s.log 3 (if warn then 3 else 1) 0x104 [s.word 0x68400]

/-- LIFE_PREDICTION, R452, R454, R455, R458: an hour ends. -/
def execLifePrediction (s : State) : Outcome :=
  if !s.ends (intervalKey 9 0) then .next s
  else
  let s := (s.reload (intervalKey 9 0)).incF F.hlthPersistAgeH
  let s := { s with health := { s.health with hours := s.health.hours + 1 } }
  let s := if s.running 1 then
      let s := s.forEach s.health.steadyP fun s p => s.incF (F.hlthStgPOnH p)
      let s := s.forEach (List.range 288) State.predictCore
      let s := s.forEach (List.range 8) State.predictRail
      (s.forEach (List.range 44) State.keepPeaks).healthEvaluate
    else s
  .next { s with health := { s.health with steadyP := (List.range 44).filter s.phaseOn } }

/-- HEALTH_READ, R459. -/
def execHealthRead (s : State) : Outcome :=
  .next (s.onOpcode 0x64 fun s r =>
    let kind := r.word 2 / 2 ^ 30
    let i := r.word 2 % 512
    if kind = 0 ∧ i < 288 then
      s.reply r 0 0 [s.word (0x68800 + 8 * i), s.word (0x68804 + 8 * i), s.word (0x69100 + 4 * i),
        s.charFmax i * 65536 + s.factoryFmax i]
    else if kind = 1 ∧ i < 8 then s.reply r 0 0 ((List.range 3).map fun j => s.word (0x69600 + 0x10 * i + 4 * j))
    else if kind = 2 ∧ i < 44 then s.reply r 0 0 [s.word (0x69700 + 8 * i), s.word (0x69704 + 8 * i)]
    else s.reply r 4 0 [])

end Sys2Proof.Machine
end

