-- ==== Sys2Proof/Machine/Fmax.lean ====
section
/-! DEFINITION. Chapter 17, Fmax re-characterisation (Table 17.2, R460 to R465). -/
namespace Sys2Proof.Machine

/-- What the MGP holds of the sweep. -/
def State.mapFmax (s : State) (g : Fmax → Fmax) : State :=
  { s with health := { s.health with fmax := g s.health.fmax } }

/-- HLTH.FMAX.STATE changes: the FMAX notification, R460. -/
def State.setFmax (s : State) (st : Nat) : State :=
  if s.getF F.hlthFmaxState = st then s else (s.setF F.hlthFmaxState st).notify 7 0xF7 [(s.setF F.hlthFmaxState st).word 0x68420]

/-- A cluster has a core group ON. -/
def State.clusterHasCores (s : State) (c : Nat) : Bool := (List.range 6).any fun i => s.domOn (6 * c + i)

/-- The selected clusters from `c` on that have a core group ON. -/
def State.selectedFrom (s : State) (c : Nat) : List Nat :=
  indexes 12 fun i => decide (c ≤ i) && bitOf (s.getF F.hlthFmaxMask) i && s.clusterHasCores i

/-- END with a status, R464; the cluster under test resumes. -/
def State.fmaxStop (s : State) (status : Nat) : State :=
  ((s.setF F.hlthTestActive 0).setF F.hlthFmaxLastStatus status).setFmax 4

/-- The latest record of a code in the ring, R461. -/
def State.latestOf (s : State) (code : Nat) : Option LogRec :=
  ((List.range (min logCapacity s.logCount)).map fun i => s.logRecord ((s.getF F.logHeadSeq + (2 ^ 32 - 1 - i)) % 2 ^ 32)).find?
    fun r => r.origin % 65536 == code

/-- The program of the FMAX_BEGIN record into LOG.EVT_NEXT begins, R461; without a slot, or with the port taken, there is
none. -/
def State.beginRecord (s : State) : State :=
  match s.latestOf 0x101 with
  | none => s
  | some r =>
    if s.flash.tripOwned || !s.isSet F.logEvtNextValid then s
    else
      let slot := s.getF F.logEvtNextOffset / 64
      let c := DeviceCmd.program (s.boot.layout.evtOff + 64 * slot) (mirrorBytes r)
      ((s.traceCmd c).beginWork .fmaxRecord [c]).evtAdvance slot

/-- FMAX_START, R460, R461: the FMAX_BEGIN record is written and its program into LOG.EVT_NEXT starts. -/
def execFmaxStart (s : State) : Outcome :=
  .next (s.onOpcode 0x60 fun s r =>
    let m := s.getF F.gctlModeCurrent
    let mask := r.word 2 % 4096
    let mask := if mask = 0 then 4095 else mask
    if m ≠ 3 ∧ m ≠ 4 then s.reply r 8 0 []
    else if s.getF F.hlthFmaxState ≠ 0 then s.reply r 2 0 []
    else
      match (indexes 12 fun i => bitOf mask i && s.clusterHasCores i).head? with
      | none => s.reply r 0 0 [0]
      | some c =>
        let s := (s.reply r 1 0 []).mapMail fun v => { v with awaitFmax := some r }
        let s := (((s.setF F.hlthFmaxMask mask).setF F.hlthFmaxCluster c).setF F.hlthFmaxProgSteps 0).mapFmax fun _ =>
          { quietEnd := s.beatIn 10000000
            guard := s.getF F.hlthFcfgGuard, step := max 1 (s.getF F.hlthFcfgStep), dwell := max 1 (s.getF F.hlthFcfgDwell) }
        ((s.log 3 3 0x101 [mask]).beginRecord).setFmax 1)

/-- FMAX_BEGIN_RECORD_DONE, R461: the program has completed; without a slot, or with the port taken, it fails. -/
def execFmaxBeginRecordDone (s : State) : Outcome :=
  .next (if s.getF F.hlthFmaxState ≠ 1 ∨ s.health.fmax.begun ∨ !s.running 2 then s
  else if (s.jobCmds .fmaxRecord).isEmpty then s.fmaxStop 7
  else (s.endJob .fmaxRecord).mapFmax fun v => { v with begun := true })

/-- No engine of a cluster holds a waiter record, a busy posted slot or an outstanding request, Table 17.2. -/
def State.clusterQuiet (s : State) (c : Nat) : Bool :=
  !(s.sync.records.any fun w => w.core != hostCore && clusterOf w.core == c)
    && !(s.sync.slots.any fun p => p.2 == 1 && p.1 / 6144 == c)
    && !(s.sync.outstanding.any fun e => e / 192 == c)

/-- F0 of a cluster: the lowest FMAX_CHAR − 200 MHz rounded down to a multiple of STEP, at least 400 MHz. -/
def State.firstFreq (s : State) (c : Nat) : Nat :=
  let step := max 1 s.health.fmax.step
  let low := (coresOf c).foldl (fun a n => min a (s.charFmax n)) 65535 - 200
  max 400 (low / step * step)

/-- CLUSTER_OFFLINE, Table 17.2: QUIET to SWEEP. -/
def execClusterOffline (s : State) : Outcome :=
  let c := s.getF F.hlthFmaxCluster
  .next (if s.getF F.hlthFmaxState ≠ 1 ∨ !s.health.fmax.begun ∨ !s.running 2 ∨ !s.clusterQuiet c then s
  else
    let s := ((s.setF F.hlthTestCluster c).setF F.hlthTestFreq (s.firstFreq c)).setF F.hlthTestActive 1
    let s := s.mapFmax fun v => { v with
      passing := (coresOf c).filter s.coreOn, highest := [], out := ((coresOf c).filter fun n => !s.coreOn n) ++ v.out
      inStep := false, spoilt := false, badEnd := none }
    s.setFmax 2)

/-- FMAX_QUIET_TIMEOUT, Table 17.2: 10 s in QUIET. -/
def execFmaxQuietTimeout (s : State) : Outcome :=
  .next (if s.getF F.hlthFmaxState = 1 ∧ s.beatReached s.health.fmax.quietEnd ∧ s.running 2 then s.fmaxStop 7 else s)

/-- FMAX_STEP_BEGIN, R462: PLL_LOCK at TEST.FREQ, and SETTLED; the MGP runs the sweep. An invalid step begins again once the division
has ended. -/
def execFmaxStepBegin (s : State) : Outcome :=
  let c := s.getF F.hlthTestCluster
  let v := s.clc c
  let m := s.health.fmax
  .next (if s.getF F.hlthFmaxState = 2 ∧ s.running 2 ∧ (!m.inStep || m.spoilt && !s.divided c) ∧ !v.onRef ∧ !v.ramping ∧ v.pllFreq = s.getF F.hlthTestFreq
      ∧ s.isSet (F.railStatusSettled (c / 3)) then
    (s.mapFmax fun v => { v with
      inStep := true, spoilt := false, badEnd := none, stepEnd := s.beatIn (1000 * v.dwell) }).spoilStep c
  else s)

/-- The new Fmax of the cores of the cluster that were tested, R463. -/
def State.recordResults (s : State) (c : Nat) : State :=
  let m := s.health.fmax
  let new := fun n =>
    let f := Store.read (fun _ => 0) m.highest n
    if f = 0 then 400 else clampNat 400 1600 (f - m.guard)
  let tested := (coresOf c).filter fun n => !m.out.contains n
  s.mapFmax fun v => { v with results := tested.foldl (fun l n => Store.insert l n (new n)) v.results }

/-- A valid step that ends the cluster's sweep: the next selected cluster, or the commit. -/
def State.clusterDone (s : State) (c : Nat) : State :=
  let s := (s.recordResults c).setF F.hlthTestActive 0
  match s.selectedFrom (c + 1) with
  | d :: _ => ((s.setF F.hlthFmaxCluster d).mapFmax fun v => { v with quietEnd := s.beatIn 10000000 }).setFmax 1
  | [] => (s.setFmax 3).dueCopy .fmax

/-- FMAX_STEP_DONE, R462: DWELL ms have passed in a valid step; the cores that counted no late result. -/
def execFmaxStepDone (passed : BitVec 24) (s : State) : Outcome :=
  let c := s.getF F.hlthTestCluster
  let f := s.getF F.hlthTestFreq
  let m := s.health.fmax
  .next (if s.getF F.hlthFmaxState ≠ 2 ∨ !m.inStep ∨ !s.running 2 ∨ m.spoilt ∨ !s.beatReached m.stepEnd then s
  else
    let s := ((s.setF F.hlthTestPassMask passed.toNat).setF F.hlthFmaxProgFreq f).incF F.hlthFmaxProgSteps
    let l := m.passing.filter fun n => bitOf passed.toNat (n % 24) && !m.out.contains n
    let s := s.mapFmax fun v => { v with
      inStep := false, passing := l, highest := l.foldl (fun a n => Store.insert a n f) v.highest }
    if !l.isEmpty && decide (f < 1600) then s.setF F.hlthTestFreq (f + max 1 m.step)
    else s.clusterDone c)

/-- FMAX_STEP_INVALID_TIMEOUT, Table 17.2: a step has been invalid for 10 s, none having begun anew. -/
def execFmaxStepInvalidTimeout (s : State) : Outcome :=
  .next (if s.getF F.hlthFmaxState = 2 ∧ s.running 2 ∧ (s.health.fmax.badEnd.map s.beatReached).getD false then s.fmaxStop 7
  else s)

/-- FMAX_COMMIT, R463: the trailer of the new copy is programmed, the commit point, and read back. -/
def execFmaxCommit (ok : Bool) (s : State) : Outcome :=
  .next (match s.health.copy with
  | none => s
  | some c =>
    if c.kind ≠ .fmax ∨ s.getF F.hlthFmaxState ≠ 3 ∨ !s.running 2 then s
    else if ok && !s.flash.tripOwned && s.copyFits c then ((s.commitCopy c).fmaxStop 10).startCopy
    else ((s.failCopy.raise F.hlthEvt 0).fmaxStop 7).startCopy)

/-- FMAX_END, Table 17.2: the tick after END is entered. -/
def execFmaxEnd (s : State) : Outcome :=
  .next (if s.getF F.hlthFmaxState ≠ 4 ∨ !s.running 2 then s
  else
    let st := s.getF F.hlthFmaxLastStatus
    let count := match s.health.calNext with
      | some l => u16At (((l.find? (·.1 == 6)).map (·.2)).getD []) 8
      | none => s.charCount
    let s := (s.log 3 3 0x102 [st, count]).setF F.hlthFmaxTimeBeat s.beat32
    let s := match s.mailbox.awaitFmax with
      | none => s
      | some r => (s.mapMail fun v => { v with awaitFmax := none }).reply r st 0 []
    ((s.raise F.hlthEvt 1).mapFmax fun _ => {}).setFmax 0)

/-- FMAX_ABORT, Table 17.2, R464: before the trailer program it takes effect. -/
def execFmaxAbort (s : State) : Outcome :=
  .next (s.onOpcode 0x61 fun s r =>
    let st := s.getF F.hlthFmaxState
    if st = 1 ∨ st = 2 ∨ st = 3 then
      let s := s.when (st == 3) fun s =>
        let s := if s.health.copy.any (·.kind == .fmax) then s.dropCopy else s
        { s with health := { s.health with due := s.health.due.filter (· != .fmax) } }
      ((s.reply r 0 0 []).fmaxStop 5).startCopy
    else s.reply r 2 0 [])

/-- FMAX_STATUS, R460. -/
def execFmaxStatus (s : State) : Outcome :=
  .next (s.onOpcode 0x62 fun s r => s.reply r 0 0 [s.word 0x68420, s.word 0x68424])

end Sys2Proof.Machine
end

