-- ==== Sys2Proof/Machine/Flags.lean ====
section
/-! DEFINITION. The interrupt lines INT[7:0], R22 and Table 0.11: which enabled event bits assert each. The lines are
levels, so they are functions of the event registers and their enables. -/
namespace Sys2Proof.Machine

/-- Bits of an event register whose enable is 1, among some bits. -/
def State.pendingIn (s : State) (evt ie mask : Nat) : Bool := (s.word evt &&& s.word ie &&& mask) != 0

/-- The causes of INT[0], mailbox (Table 14.10). -/
def State.int0 (s : State) : Bool := s.pendingIn 0x30008 0x3000C 0xFFFFFFF || s.pendingIn 0x30010 0x30014 0xE

/-- The causes of INT[1], thermal warning (Table 9.8). -/
def State.int1 (s : State) : Bool := s.pendingIn 0x0C008 0x0C00C 0xF8

/-- The causes of INT[2], cap event (R220, Table 8.11). -/
def State.int2 (s : State) : Bool := s.pendingIn 0x2002C 0x20030 0x7F || s.pendingIn 0x21004 0x21008 0x57

/-- The causes of INT[3], sync watchdog (Table 13.5). -/
def State.int3 (s : State) : Bool := s.pendingIn 0x40418 0x4041C 0x6

/-- The causes of INT[4], error: R85, R130, R163, Tables 5.9, 6.6, 8.11, 9.8, 10.8, 11.7, 12.7, 14.10, R448, R467. The
enables of CLC.EVT are staged, so those in force count. -/
def State.int4 (s : State) : Bool :=
  (s.isSet F.tbStatusSubstSeen && s.isSet F.tbCtrlSubstIe)
    || s.pendingIn 0x0102C 0x01030 0xF
    || (List.range 8).any (fun k => s.pendingIn (0x0800C + 0x400 * k) (0x08010 + 0x400 * k) 0x3FF)
    || s.pendingIn 0x0A004 0x0A008 0x3FF
    || (s.getF F.clcEvtPllFail &&& s.appliedF F.clcEvtIePllFail) != 0
    || s.pendingIn 0x21004 0x21008 0xA8
    || s.pendingIn 0x0C008 0x0C00C 0x7
    || s.pendingIn 0x0E004 0x0E008 0x3
    || s.pendingIn 0x04008 0x0400C 0x7
    || s.pendingIn 0x4000C 0x40010 0x3F
    || s.pendingIn 0x40418 0x4041C 0x1
    || s.pendingIn 0x30010 0x30014 0x1
    || s.pendingIn 0x60004 0x60008 0xFFFFFFFF
    || s.pendingIn 0x68404 0x68408 0x3

/-- Whether a bit of a register is a cause of INT[4]. -/
def onInt4 (off bit : Nat) : Bool :=
  let causes :=
    if 0x0800C ≤ off ∧ off < 0x0A000 ∧ off % 0x400 = 0xC then 0x3FF
    else match off with
      | 0x02030 => 0x10 | 0x0102C => 0xF | 0x0A004 => 0x3FF | 0x18034 => 0xFFF | 0x21004 => 0xA8 | 0x0C008 => 0x7
      | 0x0E004 => 0x3 | 0x04008 => 0x7 | 0x4000C => 0x3F | 0x40418 => 0x1 | 0x30010 => 0x1 | 0x60004 => 0xFFFFFFFF
      | 0x68404 => 0x3 | _ => 0
  bitOf causes bit

/-- The causes of INT[5], log (R425). -/
def State.int5 (s : State) : Bool := s.pendingIn 0x70014 0x70018 0x1F

/-- The causes of INT[6], fleet warning (Table 10.8, R467). -/
def State.int6 (s : State) : Bool := s.pendingIn 0x0E004 0x0E008 0x1C || s.pendingIn 0x68404 0x68408 0xC

/-- The levels of INT[7:0]; INT[7] is never asserted. -/
def State.interrupts (s : State) : List Bool :=
  [s.int0, s.int1, s.int2, s.int3, s.int4, s.int5, s.int6, false]

end Sys2Proof.Machine
end

