-- ==== Sys2Proof/Machine/Log.lean ====
section
/-! DEFINITION. Chapter 15, the log: records of the ROM and the processors (R423), reading them (R424), mirroring to the
event-record region (R426, R427), and the log and trace messages of Table 15.11. -/
namespace Sys2Proof.Machine

/-- Whether firmware release 2.1.0 writes a code from a source, Table 15.9: 0 ROM, 1 FLP, 2 MDP, 3 MGP. -/
def logCode (source code : Nat) : Bool :=
  match source with
  | 0 => code == 2
  | 1 => [1, 6, 0xB, 0xC].contains code
  | 2 => code == 1 || decide (0x100 ≤ code ∧ code ≤ 0x1FF)
  | _ => [1, 3, 4, 5, 7, 8, 9, 0xA].contains code || decide (0x100 ≤ code ∧ code ≤ 0x1FF)

/-- The severity of a code, Table 15.9, R458, R461 and R465; for a code of 0x0100 to 0x01FF of which none is stated, the writer's. -/
def logSeverity (code : Nat) (data : List Nat) (given : Nat) : Nat :=
  let d := data.headD 0
  match code with
  | 1 => if onInt4 d (data.getD 1 0) then 4 else 2
  | 2 | 4 | 5 => 2
  | 3 | 7 | 8 | 0x101 | 0x103 => 3
  | 6 | 0xB | 0xC => 1
  | 9 => if d / 2 ^ 29 = 0 ∧ bitsOf d 16 8 ≠ 10 then 4 else 2
  | 0xA => 4
  | 0x104 => if bitOf d 31 then 3 else 1
  | _ => given

/-- LOG_RECORD_WRITE, R423: by the ROM while it runs, or a running processor; other codes are never written. The severity is that of
the code. -/
def execLogRecordWrite (source : Fin 4) (severity : Fin 6) (code : BitVec 16) (d0 d1 d2 d3 : Word) (s : State) : Outcome :=
  let runs := if source.val = 0 then s.boot.rom else s.running (source.val - 1)
  .next (if runs && logCode source.val code.toNat then
    let data := [d0.toNat, d1.toNat, d2.toNat, d3.toNat]
    s.log source.val (logSeverity code.toNat data severity.val) code.toNat data
  else s)

/-- The eight words of a record, Table 15.8. -/
def recordWords (r : LogRec) : List Nat :=
  [r.seq, r.beatLo, r.beatHi, r.origin] ++ (List.range 4).map fun i => r.data.getD i 0

/-- A record read, R424, R442: its four words of the log RAM are checked, and it is present only with the SEQ selected. -/
def State.readLog (s : State) (seq : Nat) : Option LogRec × State :=
  if !s.logPresent seq then (none, s)
  else
    let s := s.forEach ((List.range 4).map (4 * s.logSlot seq + ·)) fun s w => (s.checkedRead 6 w false).2
    let r := s.logRecord seq
    (if r.seq = seq ∧ r.data ≠ [] then some r else none, s)

/-- LOG_RECORD_SELECT, R424: a write of LOG.RD_SEL; the record is read as the tick ends. -/
def execLogRecordSelect (seq : Word) (s : State) : Outcome :=
  let s := s.setF F.logRdSelSeq seq.toNat
  .next { s with logRam := { s.logRam with selected := true } }

/-- The record selected is shown in LOG.RD_W, or GONE, R424: also GONE where its successor was written over it in the tick. -/
def State.showRecord (s : State) : State :=
  let r := s.readLog (s.getF F.logRdSelSeq)
  let s := (r.2.flagF F.logRdStatusValid r.1.isSome).flagF F.logRdStatusGone r.1.isNone
  let l := match r.1 with
    | some v => recordWords v
    | none => List.replicate 8 0
  s.forEach l.zipIdx fun s p => s.setF (F.logRdWWord p.2) p.1

/-- What a write of LOG.RD_SEL in the tick that ends has asked for. -/
def State.logRest (s : State) : State :=
  if s.logRam.selected then { s with logRam := { s.logRam with selected := false } }.showRecord else s

/-! ### Mirroring, R426, R427 -/

/-- The LOG notification, Table 15.11. -/
def State.notifyLog (s : State) : State := s.notify 6 0xF5 [s.word 0x70014, s.getF F.logHeadSeq]

/-- OVERWRITE is notified at most once per second. -/
def State.tellOverwrite (s : State) : State :=
  let late := match s.logRam.notified with
    | none => true
    | some b => decide (s.secondBeats ≤ (s.beat + (2 ^ 48 - b)) % 2 ^ 48)
  if s.logRam.overwrote && late then
    ({ s with logRam := { s.logRam with overwrote := false, notified := some s.beat } } : State).notifyLog
  else s

/-- A flash operation of the mirror has failed: FAILED, MIRROR_FAIL and its notification. -/
def State.mirrorFail (s : State) : State := ((s.incF F.logMirrorFailed).raise F.logEvt 4).notifyLog

/-- A record beyond the rate, or while a sector blocks the erase: it is not mirrored. -/
def State.mirrorSkip (s : State) : State := s.incF F.logMirrorSkipped

/-- A record mirrored into a slot, R427: its device commands, of which one fails unless `ok`; the slot is used up once its program
has been begun, and W advances with the erases carried out. DEDUCED (log 44): a failed erase abandons no slot. -/
def State.mirrorInto (s : State) (ok : Bool) (slot : Nat) (r : LogRec) : State :=
  let owed := s.sectorsOwed
  let l := s.mirrorCmds slot r
  let w := s.tryCmds ok l
  let n := owed.1.length
  let s := w.1.setF F.logEvtNextOffset (64 * slot)
  let s := s.when (decide (n ≤ w.2)) fun s => { s with logRam := { s.logRam with sector := owed.2 } }
  let s := s.flagF F.logEvtNextValid (decide (n ≤ w.2) || s.slotErased slot)
  let s := s.when (decide (n ≤ w.2)) (·.evtAdvance slot)
  let s := s.when (decide (n < w.2)) (·.incF F.logMirrorMirrored)
  let s := s.when (decide (n + 1 < w.2)) fun s => { s with logRam := { s.logRam with sector := (owed.2 + 1) % 64 } }
  s.when (decide (w.2 < l.length)) State.mirrorFail

/-- MIRROR_RECORD, R427, R442: the MGP reads and mirrors the next record, at most 16 per second. The port taken by the trip path
abandons the slot (R432). -/
def execMirrorRecord (ok : Bool) (s : State) : Outcome :=
  .next (if !s.running 2 then s
  else
    let s := s.tellOverwrite
    match s.mirrorNext with
    | none => s
    | some r =>
      let s := { s with logRam := { s.logRam with mirrored := (r.seq + 1) % 2 ^ 32 } }
      let n := s.inSecond
      if 16 ≤ n then s.mirrorSkip
      else
        let rd := s.readLog r.seq
        let s := rd.2
        if rd.1.isNone then s
        else match s.mirrorSlot with
          | none => s.mirrorSkip
          | some slot =>
            if s.mirrorBlocked then s.mirrorSkip
            else
              let s := { s with logRam := { s.logRam with inSecond := n + 1, second := if n = 0 then s.beat else s.logRam.second } }
              if s.flash.tripOwned then (s.evtAdvance slot).mirrorFail else s.mirrorInto ok slot r)

/-! ### Messages, Table 15.11 -/

/-- LOG_READ, R424. -/
def execLogRead (s : State) : Outcome :=
  .next (s.onOpcode 0x70 fun s q =>
    let r := s.readLog (q.word 2)
    match r.1 with
    | some v => r.2.reply q 0 0 (recordWords v)
    | none => r.2.reply q 4 0 [])

/-- LOG_STATUS. -/
def execLogStatus (s : State) : Outcome :=
  .next (s.onOpcode 0x71 fun s q =>
    s.reply q 0 0 [s.word 0x70004, s.word 0x70008, s.word 0x7001C, s.word 0x70020, s.word 0x70080])

/-- LOG.TMASK_M written; bit 0 of word 0 reads 1, R429. -/
def State.writeTmask (s : State) (m v : Nat) : State := s.setF (F.logTmaskMMask m) (if m = 0 then setBit v 0 else v)

/-- TRACE_MASK. -/
def execTraceMask (s : State) : Outcome :=
  .next (s.onOpcode 0x72 fun s q =>
    let m := q.word 2 % 32
    let s := s.writeTmask m (q.word 3)
    s.reply q 0 0 [s.getF (F.logTmaskMMask m)])

/-- A slot number, or 0xFFFF_FFFF for none. -/
def slotWord : Option Nat → Nat
  | some k => k
  | none => 0xFFFFFFFF

/-- EVENT_READ, R428; FAULT once the flash port belongs to the trip path, R272. -/
def execEventRead (s : State) : Outcome :=
  .next (s.onOpcode 0x73 fun s q =>
    let w := q.word 2
    if s.flash.tripOwned then s.reply q 7 0 []
    else if bitOf w 31 then
      (s.flashTrace 0 s.boot.layout.evtOff).reply q 0 0 [slotWord s.recordSlots.head?, slotWord s.recordSlots.getLast?]
    else
      let off := s.boot.layout.evtOff + 64 * (w % 4096) + 32 * bitsOf w 12 1
      (s.flashTrace 0 off).reply q 0 0 (leWords 8 (s.flashRead off 32)))

end Sys2Proof.Machine
end

