-- ==== Sys2Proof/Machine/Regs.lean ====
section
/-! DEFINITION. Reading the register window (R7 to R15): the fields that show what a unit holds at the moment of the read,
beside those whose value is stored; the windows that read as zero; the words read from a protected memory. -/
namespace Sys2Proof.Machine

/-- Values that fields show instead of a stored value. -/
abbrev Live := List (Field × Nat)

/-- The bits of the phases of a rail in some states. -/
def phaseBits (k : Nat) (p : Nat → Bool) : Nat :=
  maskOf (phaseCount k) fun i => p (firstPhase k + i)

/-- Chapter 5: phases, the command of a CORE rail, f_req. -/
def State.liveRail (s : State) (k o : Nat) : Live :=
  if o = 0x008 then
    [(F.railPhasesPresent k, phaseBits k s.phasePresent),
     (F.railPhasesEnabled k, if s.isSet (F.railStatusOn k) then phaseBits k s.phaseOn else 0),
     (F.railPhasesFailed k, phaseBits k (s.phaseState · == 5)), (F.railPhasesSenseEst k, phaseBits k (s.phaseState · == 4))]
  else if o = 0x018 ∧ k < 4 then [(F.railVsetTarget k, s.getF (F.railVposCmd k))]
  else if 0x058 ≤ o ∧ o < 0x064 ∧ k < 4 then [(F.railFpermReq k ((o - 0x058) / 4), s.freqRequest (3 * k + (o - 0x058) / 4))]
  else []

/-- Phases of the die in a state. -/
def State.phasesIn (s : State) (st : Nat) : Nat := countBelow 44 fun p => s.phaseState p == st

def State.liveRailc (s : State) (off : Nat) : Live :=
  if off = 0xA000 then [(F.railcBcStatusFitted, s.fitted)]
  else if off = 0xA00C then
    [(F.railcSummaryFailed, s.phasesIn 5), (F.railcSummarySenseEst, s.phasesIn 4), (F.railcSummaryShed, s.phasesIn 3),
     (F.railcSummaryRailsOn, maskOf 8 fun k => s.isSet (F.railStatusOn k))]
  else []

/-- Chapters 6 and 7: a core's agent. -/
def State.liveCpa (s : State) (n o : Nat) : Live :=
  let c := s.cpa n
  if o = 0x04 then
    [(F.cpaStatusCeil n, s.ceiling n), (F.cpaStatusSrc n, s.ceilSource n), (F.cpaStatusShoe n, flag (c.shoe != .clear)),
     (F.cpaStatusHard n, flag (c.hard != .clear)), (F.cpaStatusNotice n, flag (c.noticeAt == some (s.beat, s.time.tick))),
     (F.cpaStatusFill n, flag (s.filling n))]
  else if o = 0x18 then [(F.cpaFreqFmax n, s.fmax n), (F.cpaFreqEff n, s.fEff n)]
  else if o = 0x3C then [(F.cpaActCount n, c.counts.getD (s.getF (F.cpaActSel n)) 0)]
  else []

/-- Chapter 6: a cluster's window. -/
def State.liveClc (s : State) (c o : Nat) : Live :=
  if o = 0x04 then [(F.clcCThermLimit c, s.thermLimit c)]
  else if o = 0x08 then [(F.clcCFcEntries c, (s.clc c).table.length)]
  else if o = 0x0C then
    [(F.clcCDroopShoeNow c, ((coresOf c).filter fun n => (s.cpa n).shoe != .clear || (s.cpa n).hard != .clear).length),
     (F.clcCDroopHardNow c, ((coresOf c).filter fun n => (s.cpa n).hard != .clear).length)]
  else []

/-- Chapters 7 and 8. The figures of the package cap law read zero on a die that does not run it. -/
def State.livePower (s : State) (off : Nat) : Live :=
  let law := s.lawDie
  let hide : List Field → Live := fun l => if law then [] else l.map fun f => (f, 0)
  if off = 0x20004 then [(F.pwrStatusLaw, flag law), (F.pwrStatusHostAbsent, s.getF F.mbxHostAbsent)]
  else if off = 0x20018 then hide [F.pwrWinEPkg]
  else if off = 0x2001C then hide [F.pwrWinElecPkg]
  else if off = 0x20020 then hide [F.pwrIvlPkg]
  else if off = 0x20024 then hide [F.pwrLimAPCap, F.pwrLimAPElec]
  else if off = 0x20028 then (F.pwrLimBPGrant, min 0xFFFF (s.cap.pgrant.getD 0xFFFF)) :: hide [F.pwrLimBPLim]
  else if off = 0x21000 then
    [(F.budStatusLeader, flag s.isLeader), (F.budStatusLinkUp, maskOf 3 fun p => s.isSet (F.budIdlPUp p)),
     (F.budStatusDiesLive, maskOf 4 fun d => s.getF (F.budLdSState d) == 1)]
  else []

/-- Chapters 9 and 11: counts, and the votes that count. -/
def State.liveThermDom (s : State) (off : Nat) : Live :=
  if off = 0x0C004 then
    let w := s.thmStatusWord
    [(F.thmStatusPrivCount, bitsOf w 16 5), (F.thmStatusBrokenCount, bitsOf w 8 8), (F.thmStatusDisagreeCount, bitsOf w 0 5)]
  else if off = 0x04004 then
    [(F.domStatusOnCount, s.domCount 2), (F.domStatusRetCount, s.domCount 1), (F.domStatusFailedCount, s.domCount 5)]
  else if 0x04100 ≤ off ∧ off < 0x04700 ∧ off % 16 = 4 then
    [(F.domDVoteMask ((off - 0x04100) / 16), s.voteMask ((off - 0x04100) / 16))]
  else []

/-- Package operations are forwarded to the leader, R346. -/
def State.pkgLink (s : State) : Bool :=
  !s.isSet F.idConfigLeader && s.appliedF F.syncPkgUse != 0 && !s.isSet F.gctlStatusStrapFault
    && !s.isSet F.budStatusAutonomous && s.links.followed

/-- Chapters 12 and 13. -/
def State.liveSync (s : State) (off : Nat) : Live :=
  let head : List Nat := match s.sync.hostQ with
    | [] => [0, 0, 0]
    | r :: _ => reportWords r
  let w := head.getD ((off - 0x40430) / 4) 0
  if off = 0x40004 then
    [(F.syncStatusActive, flag s.syncActive), (F.syncStatusPkgHost, flag s.hosting), (F.syncStatusPkgLink, flag s.pkgLink)]
  else if off = 0x40414 then [(F.syncWdstatQdepth, s.sync.hostQ.length)]
  else if off = 0x40420 then [(F.syncXltPagesFree, 1024 - countBelow 1024 fun p => s.isSet (F.syncPagePMapped p))]
  else if 0x40430 ≤ off ∧ off < 0x4043C then
    (fieldsAt off).map fun r => (⟨off, r.1.lo, r.1.width⟩, bitsOf w r.1.lo r.1.width)
  else if 0x44000 ≤ off ∧ off < 0x48000 then
    let x := (off - 0x44000) / 16
    if off % 16 = 0 then [(F.syncCtxAPages x, (s.pagesOf x).length)]
    else if off % 16 = 4 then [(F.syncCtxBBound x, s.boundTo x), (F.syncCtxBRecords x, s.recordsOf x)]
    else []
  else []

/-- Chapters 3, 14, 15 and 16. -/
def State.liveRest (s : State) (off : Nat) : Live :=
  if off = 0x02020 then [(F.tbBeatLoCount, s.beat32)]
  else if off = 0x02024 then [(F.tbBeatHiCount, s.beat / 2 ^ 32)]
  else if off = 0x30004 then
    [(F.mbxStatusMgrOn, flag !s.mailboxDown), (F.mbxStatusBindLock, s.getF F.mbxBindCtlLock),
     (F.mbxStatusServing, flag (s.running 2)), (F.mbxStatusSessions, s.sessions)]
  else if off = 0x30038 then
    (List.range 8).map fun i => (⟨0x30038, i, 1⟩, bitsOf s.fleetBits i 1)
  else if off = 0x78014 then
    [(F.fwWdtLeftMs, match s.procs.wdt with
      | some b => openDivNat 42 b (s.getF F.tbSyncFreqUsed)
      | none => 0)]
  else if off = 0x60014 then
    [(F.mpGenCheckCheck, checkBits (s.getF F.mpGenLoData + 2 ^ 32 * s.getF F.mpGenHiData))]
  else []

/-- What the fields of the register at an offset show beside stored values. -/
def State.live (s : State) (off : Nat) : Live :=
  if 0x08000 ≤ off ∧ off < 0x0A000 then s.liveRail ((off - 0x08000) / 0x400) (off % 0x400)
  else if 0x0A000 ≤ off ∧ off < 0x0C000 then s.liveRailc off
  else if 0x10000 ≤ off ∧ off < 0x14800 then s.liveCpa ((off - 0x10000) / 0x40) (off % 0x40)
  else if 0x18100 ≤ off ∧ off < 0x18400 then s.liveClc ((off - 0x18100) / 0x40) (off % 0x40)
  else if 0x20000 ≤ off ∧ off < 0x30000 then s.livePower off
  else if 0x04000 ≤ off ∧ off < 0x10000 then s.liveThermDom off
  else if 0x40000 ≤ off ∧ off < 0x50000 then s.liveSync off
  else s.liveRest off

/-- Windows that read as zero and ignore writes: a core's slot but for CPA.CAP, or a cluster's window, whose domain is not
ON (R200, R201). -/
def State.windowOff (s : State) (off : Nat) : Bool :=
  (decide (0x10000 ≤ off ∧ off < 0x14800 ∧ off % 0x40 ≠ 0) && !s.coreOn ((off - 0x10000) / 0x40))
    || (decide (0x18100 ≤ off ∧ off < 0x18400) && !s.clusterOn ((off - 0x18100) / 0x40))

/-- Registers that read as zero on a die that is not leader, R250. -/
def State.leaderOnly (s : State) (off : Nat) : Bool :=
  !s.isLeader && (decide (0x21080 ≤ off ∧ off ≤ 0x210BC) || decide (0x210C0 ≤ off ∧ off ≤ 0x210D0))

/-- The value a read of a register returns where it changes nothing, R10 to R12: offsets that no chapter defines have no
fields, so they read as zero. -/
def State.shown (s : State) (off : Nat) : Nat :=
  if s.windowOff off || s.leaderOnly off then 0
  else
    let l := s.live off
    sumNat ((fieldsAt off).map fun r =>
      let f : Field := ⟨off, r.1.lo, r.1.width⟩
      let v := ((l.find? (·.1 == f)).map (·.2)).getD (s.getF f)
      if r.1.acc = .wo then 0 else v % 2 ^ f.width * 2 ^ f.lo)

/-- A word of the trace record that LOG.TR_SEL selects, read from the log RAM, R430, R442. -/
def State.readTrace (s : State) (w : Nat) : Nat × State :=
  let a := 5120 + 2 * s.getF F.logTrSelIndex + w / 2
  let s := (s.checkedRead 6 a false).2
  (s.logWord a / 2 ^ (32 * (w % 2)) % 2 ^ 32, s)

/-- A translation entry, R359: zero while its page is free; free when the word cannot be corrected (log 3). -/
def State.readXlt (s : State) (i : Nat) : Nat × State :=
  let p := i / 128
  if !s.isSet (F.syncPagePMapped p) then (0, s)
  else
    let r := s.checkXlt (64 * p + i % 128 / 2)
    if r.1 then (r.2.shown (0x80000 + 4 * i), r.2)
    else
      let d := r.2.drawFree (2 ^ 16)
      (d.1 / 2 ^ 15 * 2 ^ 31 + d.1 % 2 ^ 15, d.2)

/-- The channel whose control word or message words an offset names. -/
def channelOf (off : Nat) : Option Nat :=
  if 0x30100 ≤ off ∧ off < 0x30180 then some ((off - 0x30100) / 4)
  else if 0x31000 ≤ off ∧ off < 0x31800 then some ((off - 0x31000) / 0x40)
  else none

/-- What the gate of a channel makes of a host access at an offset. -/
def State.gateAt (s : State) (master off : Nat) : Gate :=
  match channelOf off with
  | some ch => s.hostGate master ch
  | none => .pass

/-- A read that completes without an error. -/
def State.readPlain (s : State) (off : Nat) : Nat × State :=
  if 0x70090 ≤ off ∧ off < 0x700A0 then s.readTrace ((off - 0x70090) / 4)
  else if 0x80000 ≤ off then s.readXlt ((off - 0x80000) / 4)
  else (s.shown off, s)

/-- A read of a register by a host master: none is an error completion (R382, R379, R381). -/
def State.readReg (s : State) (master off : Nat) : Option Nat × State :=
  match s.gateAt master off with
  | .error => (none, s)
  | .unbound => (none, match channelOf off with
    | some ch => s.countUnbound ch
    | none => s)
  | .pass =>
    let r := s.readPlain off
    (some r.1, r.2)

end Sys2Proof.Machine
end

