-- ==== Sys2Proof/Machine/Messages.lean ====
section
/-! DEFINITION. Chapter 14, the requests whose operation completes in the registers: cap and profiles, trip records, modes,
sync contexts, telemetry, domain votes (R396 to R399). -/
namespace Sys2Proof.Machine

/-! ### Cap and profiles, R118, R121, R214 -/

/-- A value written to a staged register and taken into force with it. -/
def State.setBoth (s : State) (f : Field) (v : Nat) : State := (s.setF f v).applyKey f.key

/-- SET_CAP, R214. -/
def execSetCap (s : State) : Outcome :=
  .next (s.onOpcode 0x10 fun s r =>
    let v := r.word 2 % 65536
    if !s.isLeader then s.reply r 8 0 []
    else if s.isSet F.gctlStatusCheckBusy then s.reply r 1 0 []
    else if v < s.getF F.pwrProfACapMin ∨ s.getF F.pwrProfACapMax < v then s.reply r 4 0 []
    else
      let s := (s.setF F.pwrCapnowHost v).setBoth F.pwrHostcapCap v
      s.reply r 0 0 [s.getF F.pwrCapnowForce])

/-- GET_CAP. -/
def execGetCap (s : State) : Outcome :=
  .next (s.onOpcode 0x11 fun s r => s.reply r 0 0 [s.word 0x20008, s.word 0x2000C, s.word 0x20010])

/-- Override values that the host staged are discarded, R119. -/
def State.discardStaged (s : State) : State :=
  let keys := ((List.range 7).map stagedKeys).flatten
  { s with fields := keys.foldl (fun (m : Store Nat) k => Store.write resetOf m k (Store.read resetOf s.applied k)) s.fields }

/-- A profile switch begins: every subsystem's values are staged, and the checks start, R119, R215. -/
def State.beginSwitch (s : State) (i : Nat) (p : List Byte) : State :=
  let before := s.fields
  let h := headerOf p
  let s := s.discardStaged.stageAll (List.range 7) (s.bankBody s.activeBank) p
  let host := if s.lawDie then clampNat (u16At h 0x16) (u16At h 0x18) (s.getF F.pwrCapnowHost) else s.appliedF F.pwrHostcapCap
  let s := s.setF F.pwrHostcapCap host
  { s.setF F.gctlStatusCheckBusy 1 with
    boot := { s.boot with before := some before, staging := h, switchTo := some i, toCheck := List.range 7 } }

/-- SELECT_PROFILE, R118; while values of an ended write await their tick 0 and no check runs, it waits for it. DESIGN CHOICE
(log 56): an absent profile is answered BAD_ARG while a trip record is pending too; R118 lists BAD_ARG first, and R121 states
NOT_PERMITTED of every SELECT_PROFILE. -/
def execSelectProfile (s : State) : Outcome :=
  .next (if !s.boot.passed.isEmpty && !s.isSet F.gctlStatusCheckBusy then s
  else s.onOpcode 0x12 fun s r =>
    let i := r.word 2 % 8
    let bank := s.bankBody s.activeBank
    if !hasProfile bank i then s.reply r 4 0 []
    else if s.isSet F.gctlStatusTripPending then s.reply r 8 0 []
    else if s.isSet F.gctlStatusCheckBusy then s.reply r 1 0 []
    else (s.beginSwitch i (profileOf bank i)).mapMail fun v => { v with awaitProfile := some r })

/-- GET_PROFILES. -/
def execGetProfiles (s : State) : Outcome :=
  .next (s.onOpcode 0x13 fun s r => s.reply r 0 0 [s.word 0x1014])

/-- ACK_TRIP_RECORD, R121: the ACK word of every pending record, oldest first; FAULT while the trip path has the flash
port (R272). -/
def execAckTripRecord (s : State) : Outcome :=
  .next (s.onOpcode 0x14 fun s r =>
    if s.flash.tripOwned then s.reply r 7 0 []
    else
      let s := s.forEach s.pendingSlots fun s k =>
        (s.traceCmd (s.ackCmd k)).runCmd (s.ackCmd k)
      let s := ((s.setF F.gctlStatusTripPending 0).setF F.gctlTripRecValid 0).settleFleet
      s.reply r 0 0 [])

/-! ### Modes, R314, R397 -/

/-- A park request is refused: a voter other than the MGP, or a FAILED domain, R314. -/
def State.parkRefused (s : State) : Bool :=
  (List.range 96).any fun d => clearBit (s.voteMask d) 0 != 0 || domState s d == 5

/-- A mode is left while a re-characterisation runs in it, R397. -/
def State.leavesFmax (s : State) (m : Nat) : Bool :=
  let cur := s.getF F.gctlModeCurrent
  s.isSet F.hlthFmaxState && (cur == 3 || cur == 4) && m != cur

/-- SET_MODE, R397; one that comes while a change waits for its tick 0 waits with it. DESIGN CHOICE (log 56): START and the
reserved modes are answered BAD_ARG while a trip record is pending too; R397 lists BAD_ARG first, and R121 states NOT_PERMITTED
of every mode but RECOVERY. -/
def execSetMode (s : State) : Outcome :=
  .next (if s.mailbox.modeNext.isSome then s
  else s.onOpcode 0x20 fun s r =>
    let m := r.word 2 % 8
    if m = 1 ∨ 5 ≤ m then s.reply r 4 0 []
    else if m ≠ 4 && s.isSet F.gctlStatusTripPending then s.reply r 8 0 []
    else if s.leavesFmax m || (m == 0 && s.parkRefused) then s.reply r 2 0 []
    else if m = 0 then
      (s.reply r 0 0 [s.modeWord]).forEach (List.range 96) fun s d =>
        s.setF (F.domDVoteMask d) (clearBit (s.getF (F.domDVoteMask d)) 0)
    else if m = s.getF F.gctlModeCurrent then s.reply r 0 0 [s.modeWord]
    else s.mapMail fun v => { v with modeNext := some m, modeReply := some r })

/-- MODE_CHANGE, R397: at the next tick 0 the mode becomes the requested one, and the reply follows; a parked die stays in
PARKED (R315). -/
def execModeChange (s : State) : Outcome :=
  .next (if s.isSet F.domStatusParked || !s.mailbox.modeDue then s
  else match s.mailbox.modeNext with
  | none => s
  | some m =>
    let w := s.mailbox.modeReply
    let s := (s.enterMode m).mapMail fun v => { v with modeNext := none, modeDue := false }
    if !s.running 2 then s
    else
      let s := (s.mapMail fun v => { v with modeReply := none }).log 3 2 4 [s.modeWord]
      match w with
      | some r => s.reply r 0 0 [s.modeWord]
      | none => s)

/-- GET_MODE. -/
def execGetMode (s : State) : Outcome :=
  .next (s.onOpcode 0x21 fun s r => s.reply r 0 0 [s.modeWord])

/-! ### Sync contexts, R357 -/

/-- CTX_COMMAND: the MGP writes CTX_ARG and CTX_CMD, and retries while BUSY; ABORT is answered BUSY and, at the end of its
walk, DONE. -/
def execCtxCommand (s : State) : Outcome :=
  .next (if s.isSet F.syncCtxResBusy then s
  else s.onOpcode 0x30 fun s r =>
    let s := (s.setF F.syncCtxArgArg (r.word 2)).ctxWrite (r.word 3)
    let s := s.reply r (s.getF F.syncCtxResStatus) 0 [s.getF F.syncCtxResValue]
    if s.isSet F.syncCtxResBusy then
      s.mapMail fun v => { v with awaitAbort := v.awaitAbort ++ [(r.word 3 % 1024, r)] }
    else s)

/-! ### Telemetry, R399 -/

/-- The highest of some temperature fields, 0x8000 when none holds a reading. -/
def State.highest (s : State) (l : List Field) : Nat := showReading (hottest (l.map fun f => readingOf (s.getF f)))

/-- The highest logic-pair protection reading, and the highest THM.STK.PROT. -/
def State.highestLogic (s : State) : Nat := s.highest ((List.range 12).map F.thmPairPProt)
def State.highestStack (s : State) : Nat := s.highest ((List.range 6).map F.thmStkProt)

/-- GET_SUMMARY. -/
def execGetSummary (s : State) : Outcome :=
  .next (s.onOpcode 0x40 fun s r =>
    let e := sumNat ((List.range 8).map fun k => s.getF (F.telEnergyLoUj k) + 2 ^ 32 * s.getF (F.telEnergyHiUj k)) % 2 ^ 64
    s.reply r 0 0
      [s.getF F.pwrIvlDie * 65536 + s.getF F.pwrCapnowForce, s.highestLogic * 65536 + s.highestStack,
       s.getF F.gctlModeCurrent * 2 ^ 29 + s.getF F.mbxHostAbsent * 2 ^ 28 + s.getF F.gctlStatusTripPending * 2 ^ 27,
       e % 2 ^ 32, e / 2 ^ 32, s.beat32])

/-- The words of consecutive registers, in ascending order. -/
def State.readWords (s : State) : List Nat → List Nat × State
  | [] => ([], s)
  | off :: l =>
    let a := s.readPlain off
    let b := a.2.readWords l
    (a.1 :: b.1, b.2)

/-- READ_REGS: a word that the sender could not read makes the whole request end with FAULT (R379, R381, R382). -/
def execReadRegs (s : State) : Outcome :=
  .next (s.onOpcode 0x41 fun s r =>
    let n := r.word 2 / 2 ^ 28
    let off := r.word 2 % 2 ^ 20
    let offs := (List.range n).map fun i => off + 4 * i
    if n = 0 ∨ n = 15 ∨ off % 4 ≠ 0 ∨ 0x100000 < off + 4 * n then s.reply r 4 0 []
    else if offs.any fun o => s.gateAt r.stamp o != .pass then s.reply r 7 0 []
    else
      let w := s.readWords offs
      w.2.reply r 0 0 w.1)

/-- GET_ABSENCE, R394. -/
def execGetAbsence (s : State) : Outcome :=
  .next (s.onOpcode 0x42 fun s r => s.reply r 0 0 s.absenceWords)

/-! ### Domain votes, R398 -/

/-- The domains whose bit is set in MSG2 to MSG4. -/
def Request.domains (r : Request) : List Nat := indexes 96 fun d => bitOf (r.word (2 + d / 32)) (d % 32)

/-- VOTE_CLEAR. -/
def execVoteClear (s : State) : Outcome :=
  .next (s.onOpcode 0x80 fun s r =>
    (s.forEach r.domains fun s d => s.setF (F.domDVoteMask d) (clearBit (s.getF (F.domDVoteMask d)) 0)).reply r 0 0 [])

/-- VOTE_SET. -/
def execVoteSet (s : State) : Outcome :=
  .next (s.onOpcode 0x81 fun s r =>
    (s.forEach r.domains fun s d => s.setF (F.domDVoteMask d) (setBit (s.getF (F.domDVoteMask d)) 0)).reply r 0 0 [])

end Sys2Proof.Machine
end

