-- ==== Sys2Proof/Machine/Pmbus.lean ====
section
/-! DEFINITION. Chapter 14, the PMBus target (R404 to R408, R73): the standard commands of Table 14.7, the Nirvos block
commands of Table 14.8, the alert. Each command stands for a transfer to the target's own address (log 77); an answer is the bytes
in the order they are sent, a block's count first. -/
namespace Sys2Proof.Machine

def State.mapPm (s : State) (g : Pmbus → Pmbus) : State := { s with pmbus := g s.pmbus }

/-- The packet error code of SMBus: CRC-8 with the polynomial x^8 + x^2 + x + 1 from 0 (PRESUMED, log 77: the SMBus standard). -/
def crc8Bit (c : Nat) : Nat := if 128 ≤ c then (2 * c % 256) ^^^ 7 else 2 * c
def crc8 (bytes : List Nat) : Nat := bytes.foldl (fun c b => (List.range 8).foldl (fun c _ => crc8Bit c) (c ^^^ b % 256)) 0

/-- The target's 7-bit address, R73. -/
def State.pmAddress (s : State) : Nat := 0x58 + s.dieId

/-- What the target answers to a write it acknowledges. -/
def State.pmAccept (s : State) : State := s.mapPm fun v => { v with ack := true, answer := [], pec := 0 }

/-- What the target answers to a read of a command: its data, and the PEC over the whole transfer, R73. -/
def State.pmAnswer (s : State) (code : Nat) (bytes : List Nat) : State :=
  s.mapPm fun v => { v with
    ack := true, answer := bytes, pec := crc8 ([2 * s.pmAddress, code, 2 * s.pmAddress + 1] ++ bytes) }

/-- The answer to a block read: the byte count comes first. -/
def State.pmBlock (s : State) (code : Nat) (bytes : List Nat) : State := s.pmAnswer code (bytes.length :: bytes)

/-- A transfer that is not acknowledged. -/
def State.pmNack (s : State) : State := s.mapPm fun v => { v with ack := false, answer := [], pec := 0 }

/-- The PEC that a controller sends with a write is checked, where it sends one, R73. -/
def State.pecWrong (s : State) (code : Nat) (data : List Nat) : Option Byte → Bool
  | none => false
  | some b => b.toNat != crc8 (2 * s.pmAddress :: code :: data)

/-- A transfer: while the part outside the AON domain is powered down, the address is not acknowledged, R404. -/
def State.onTarget (s : State) (g : State → State) : State := if s.mailboxDown then s.pmNack else g s

/-- A bit of STATUS_CML; one that latches asserts ALERT_N. -/
def State.cmlSet (s : State) (bit : Nat) : State :=
  if bitOf s.pmbus.cml bit then s else (s.mapPm fun v => { v with cml := setBit v.cml bit }).alertOn

/-- A word, low byte first. -/
def wordBytes (w : Nat) : List Nat := [w % 256, w / 256 % 256]

/-- A read that the page does not support, or of no reading: zero, and STATUS_CML bit 1. -/
def State.pmUnsupported (s : State) (code n : Nat) : State := (s.pmAnswer code (List.replicate n 0)).cmlSet 1

/-! ### Number formats, R405 -/

/-- LINEAR11 of num ÷ den: the smallest exponent from `e` upward for which the mantissa fits; how it is rounded is open
(log 9). -/
def toLinear11 (num : Int) (den : Nat) : Nat → Int → Nat
  | 0, _ => 0
  | n + 1, e =>
    let m := if 0 ≤ e then openDiv 40 num (den * 2 ^ e.toNat) else openDiv 40 (num * (2 ^ (-e).toNat : Nat)) den
    if -1024 ≤ m ∧ m ≤ 1023 then ofSigned 5 e * 2048 + ofSigned 11 m else toLinear11 num den n (e + 1)

def linear11Of (num : Int) (den : Nat) : Nat := toLinear11 num den 32 (-16)

/-- LINEAR16 with the exponent −12 of a voltage in 0.25 mV. -/
def linear16Of (v : Nat) : Nat := roundDiv (v * 4096) 4000

/-! ### Status registers, Table 14.7 -/

/-- A latched status register of the selected page: 0 VOUT, 1 IOUT, 2 TEMPERATURE, 3 MFR_SPECIFIC. -/
def State.pmStatus (s : State) (reg : Nat) : Nat := Store.read (fun _ => 0) s.pmbus.latched (4 * s.pmbus.page + reg)

/-- A bit of STATUS_WORD whose source is a level, of the selected page: 0 OFF, 1 POWER_GOOD#. It shows while its source is set, and
once that has become set until CLEAR_FAULTS, R405 (log 43). -/
def State.pmLevel (s : State) (bit : Nat) (now : Bool) : Bool :=
  now || bitOf (Store.read (fun _ => 0) s.pmbus.latched (36 + s.pmbus.page)) bit

/-- STATUS_BYTE of the selected page. -/
def State.pmByte (s : State) : Nat :=
  let k := s.pmbus.page
  let die := k == 8
  let off := s.pmLevel 0 (if die then s.isSet F.thmStatusPwrOff else !s.isSet (F.railStatusOn k))
  flag off * 64 + (if die then 0 else bitsOf (s.pmStatus 0) 7 1 * 32 + bitsOf (s.pmStatus 1) 7 1 * 16)
    + flag (s.pmStatus 2 != 0) * 4 + flag (s.pmbus.cml != 0) * 2
    + flag (s.pmStatus 0 != 0 || s.pmStatus 1 != 0 || s.pmStatus 3 != 0)

/-- STATUS_WORD of the selected page. -/
def State.pmWord (s : State) : Nat :=
  let k := s.pmbus.page
  flag (s.pmStatus 0 != 0) * 2 ^ 15 + flag (s.pmStatus 1 != 0) * 2 ^ 14 + flag (s.pmStatus 3 != 0) * 2 ^ 12
    + flag (k != 8 && s.pmLevel 1 (!s.isSet (F.railStatusPgood k))) * 2 ^ 11 + s.pmByte

/-- A reading in LINEAR11, in units of 1/den. -/
def State.pmReading (s : State) (code : Nat) (num : Int) (den : Nat) : State :=
  s.pmAnswer code (wordBytes (linear11Of num den))

/-- A temperature field read: 0x8000 is no reading. -/
def State.pmTemp (s : State) (code v : Nat) : State :=
  match readingOf v with
  | none => s.pmUnsupported code 2
  | some t => s.pmReading code t 64

/-! ### Standard commands -/

/-- PAGE. -/
def execPmPage (page pec : Option Byte) (s : State) : Outcome :=
  .next (s.onTarget fun s =>
    match page with
    | none => s.pmAnswer 0x00 [s.pmbus.page]
    | some p =>
      let s := s.pmAccept
      if s.pecWrong 0x00 [p.toNat] pec then s.cmlSet 5
      else if 8 < p.toNat then s.cmlSet 6
      else s.mapPm fun v => { v with page := p.toNat })

/-- CLEAR_FAULTS: every latched status bit of all pages, and ALERT_N released. -/
def execPmClearFaults (pec : Option Byte) (s : State) : Outcome :=
  .next (s.onTarget fun s =>
    let s := s.pmAccept
    if s.pecWrong 0x03 [] pec then s.cmlSet 5
    else
      let s := s.mapPm fun v => { v with latched := [], cml := 0 }
      { s with pins := { s.pins with alert := false } })

/-- CAPABILITY. -/
def execPmCapability (s : State) : Outcome := .next (s.onTarget (·.pmAnswer 0x19 [0xD0]))

/-- VOUT_MODE. -/
def execPmVoutMode (s : State) : Outcome :=
  .next (s.onTarget fun s => if s.pmbus.page = 8 then s.pmUnsupported 0x20 1 else s.pmAnswer 0x20 [0x14])

/-- STATUS_BYTE. -/
def execPmStatusByte (s : State) : Outcome := .next (s.onTarget fun s => s.pmAnswer 0x78 [s.pmByte])

/-- STATUS_WORD. -/
def execPmStatusWord (s : State) : Outcome := .next (s.onTarget fun s => s.pmAnswer 0x79 (wordBytes s.pmWord))

/-- STATUS_VOUT. -/
def execPmStatusVout (s : State) : Outcome := .next (s.onTarget fun s => s.pmAnswer 0x7A [s.pmStatus 0])

/-- STATUS_IOUT. -/
def execPmStatusIout (s : State) : Outcome := .next (s.onTarget fun s => s.pmAnswer 0x7B [s.pmStatus 1])

/-- STATUS_TEMPERATURE. -/
def execPmStatusTemperature (s : State) : Outcome := .next (s.onTarget fun s => s.pmAnswer 0x7D [s.pmStatus 2])

/-- STATUS_CML. -/
def execPmStatusCml (s : State) : Outcome := .next (s.onTarget fun s => s.pmAnswer 0x7E [s.pmbus.cml])

/-- STATUS_MFR_SPECIFIC. -/
def execPmStatusMfrSpecific (s : State) : Outcome := .next (s.onTarget fun s => s.pmAnswer 0x80 [s.pmStatus 3])

/-- Converters that READ_VIN of page 8 averages: fitted and not stale. -/
def State.liveConverters (s : State) : List Nat :=
  indexes 4 fun i => bitOf s.fitted i && !bitOf (s.getF F.railcBcStatusStale) i

/-- READ_VIN: the bus voltage of a rail, or the mean VIN; with no converter to average, a free value (log 3). -/
def execPmReadVin (s : State) : Outcome :=
  .next (s.onTarget fun s =>
    if s.pmbus.page < 8 then s.pmReading 0x88 (s.vBus s.pmbus.page) 1000
    else
      let l := s.liveConverters
      if l.isEmpty then
        let d := s.drawFree 65536
        d.2.pmAnswer 0x88 (wordBytes d.1)
      else s.pmReading 0x88 (sumNat (l.map fun i => s.getF (F.telBcVVin i))) (1000 * l.length))

/-- READ_VOUT. -/
def execPmReadVout (s : State) : Outcome :=
  .next (s.onTarget fun s =>
    if s.pmbus.page = 8 then s.pmUnsupported 0x8B 2
    else s.pmAnswer 0x8B (wordBytes (linear16Of (s.getF (F.telVShort s.pmbus.page)))))

/-- READ_IOUT. -/
def execPmReadIout (s : State) : Outcome :=
  .next (s.onTarget fun s =>
    if s.pmbus.page = 8 then s.pmUnsupported 0x8C 2 else s.pmReading 0x8C (s.getF (F.telIShort s.pmbus.page)) 8)

/-- READ_TEMPERATURE_1. -/
def execPmReadTemperature1 (s : State) : Outcome :=
  .next (s.onTarget fun s =>
    s.pmTemp 0x8D (if s.pmbus.page = 8 then s.highestLogic else s.getF (F.telTempNow s.pmbus.page)))

/-- READ_TEMPERATURE_2. -/
def execPmReadTemperature2 (s : State) : Outcome :=
  .next (s.onTarget fun s => if s.pmbus.page = 8 then s.pmTemp 0x8E s.highestStack else s.pmUnsupported 0x8E 2)

/-- READ_TEMPERATURE_3. -/
def execPmReadTemperature3 (s : State) : Outcome :=
  .next (s.onTarget fun s => if s.pmbus.page = 8 then s.pmTemp 0x8F (s.getF (F.thmNtcRReading 0)) else s.pmUnsupported 0x8F 2)

/-- READ_POUT. -/
def execPmReadPout (s : State) : Outcome :=
  .next (s.onTarget fun s =>
    s.pmReading 0x96 (if s.pmbus.page = 8 then s.getF F.pwrIvlDie else s.getF (F.telPShort s.pmbus.page)) 8)

/-- PMBUS_REVISION. -/
def execPmRevision (s : State) : Outcome := .next (s.onTarget (·.pmAnswer 0x98 [0x33]))

/-- MFR_ID: "NIRVOS". -/
def execPmMfrId (s : State) : Outcome := .next (s.onTarget (·.pmBlock 0x99 [0x4E, 0x49, 0x52, 0x56, 0x4F, 0x53]))

/-- MFR_MODEL: "CHAZA". -/
def execPmMfrModel (s : State) : Outcome := .next (s.onTarget (·.pmBlock 0x9A [0x43, 0x48, 0x41, 0x5A, 0x41]))

/-- The ASCII decimal digits of a number. -/
def digits : Nat → Nat → List Nat
  | 0, _ => []
  | k + 1, n => (if n < 10 then [] else digits k (n / 10)) ++ [0x30 + n % 10]

/-- MFR_REVISION: the running release. -/
def execPmMfrRevision (s : State) : Outcome :=
  .next (s.onTarget fun s => s.pmBlock 0x9B
    (digits 3 (s.getF F.gctlFwVerMajor) ++ [0x2E] ++ digits 3 (s.getF F.gctlFwVerMinor) ++ [0x2E]
      ++ digits 5 (s.getF F.gctlFwVerPatch)))

/-! ### Nirvos block commands, R406, R407 -/

/-- Bytes of a register, least significant first. -/
def State.regBytes (s : State) (off : Nat) : List Nat := (toLeBytes 4 (s.shown off)).map (·.toNat)

/-- NV_FLEET. -/
def execNvFleet (s : State) : Outcome :=
  .next (s.onTarget fun s => s.pmBlock 0xD0
    ([s.fleetBits, s.getF F.idConfigLeader * 4 + s.getF F.idConfigDieId, s.getF F.gctlModeCurrent, 0]
      ++ wordBytes (s.getF F.pwrCapnowForce) ++ wordBytes (s.getF F.pwrIvlDie)))

/-- NV_BRAKE, write word, R402. -/
def execNvBrakeWrite (word : BitVec 16) (pec : Option Byte) (s : State) : Outcome :=
  .next (s.onTarget fun s =>
    let s := s.pmAccept
    if s.pecWrong 0xD1 (wordBytes word.toNat) pec then s.cmlSet 5
    else if word.toNat = 0x4252 then (s.setF F.mbxBrakeStatPmbus 1).settleBrake s.brakeBits
    else if word.toNat = 0 then (s.setF F.mbxBrakeStatPmbus 0).settleBrake s.brakeBits
    else s.cmlSet 6)

/-- NV_BRAKE, read word. -/
def execNvBrakeRead (s : State) : Outcome :=
  .next (s.onTarget fun s => s.pmAnswer 0xD1 (wordBytes (s.getF F.mbxBrakeStatPmbus)))

/-- NV_BRIDGE_TX, R407: the message words of channel 30, then GO. -/
def execNvBridgeTx (bytes : List Byte) (pec : Option Byte) (s : State) : Outcome :=
  .next (s.onTarget fun s =>
    let n := bytes.length
    if s.channelFull 30 || decide (n < 32 ∨ 64 < n ∨ n % 4 ≠ 0) then s.pmNack.cmlSet 1
    else
      let s := s.pmAccept
      if s.pecWrong 0xD2 (n :: bytes.map (·.toNat)) pec then s.cmlSet 5
      else
        let s := s.forEach (leWords (n / 4) bytes).zipIdx fun s p => s.setF (F.mbxMsgWord 30 p.2) p.1
        s.setF (F.mbxChCtlState 30) 1)

/-- NV_BRIDGE_RX, R407: read to its end, it empties channel 31. -/
def execNvBridgeRx (complete : Bool) (s : State) : Outcome :=
  .next (s.onTarget fun s =>
    if !s.channelFull 31 then s.pmBlock 0xD3 [0]
    else
      let n := min 16 (8 + bitsOf (s.getF (F.mbxMsgWord 31 0)) 4 4)
      let words := (List.range n).map fun i => s.getF (F.mbxMsgWord 31 i)
      (s.pmBlock 0xD3 (1 :: (words.map fun w => (toLeBytes 4 w).map (·.toNat)).flatten)).when complete
        (·.setF (F.mbxChCtlState 31) 0))

/-- NV_IDENTITY. -/
def execNvIdentity (s : State) : Outcome :=
  .next (s.onTarget fun s => s.pmBlock 0xD4 ([0x00000, 0x00004, 0x00008, 0x0101C].map s.regBytes).flatten)

/-! ### The alert, unsupported codes, the interface's reset -/

/-- A read of the Alert Response Address, R408: the target's address, and ALERT_N released. -/
def execAlertResponse (s : State) : Outcome :=
  .next (s.onTarget fun s =>
    if !s.pins.alert then s.pmNack
    else
      let s := s.mapPm fun v => { v with
        ack := true, answer := [s.pmAddress], pec := crc8 [2 * 0x0C + 1, 2 * s.pmAddress] }
      { s with pins := { s.pins with alert := false } })

/-- The command codes of Tables 14.7 and 14.8. -/
def pmCodes : List Nat :=
  [0x00, 0x03, 0x19, 0x20, 0x78, 0x79, 0x7A, 0x7B, 0x7D, 0x7E, 0x80, 0x88, 0x8B, 0x8C, 0x8D, 0x8E, 0x8F, 0x96, 0x98, 0x99,
   0x9A, 0x9B, 0xD0, 0xD1, 0xD2, 0xD3, 0xD4]

/-- An unsupported command code, R405. -/
def execPmUnsupported (code : Byte) (s : State) : Outcome :=
  .next (if pmCodes.contains code.toNat then s else s.onTarget fun s => s.pmNack.cmlSet 7)

/-- SMBUS_SCL_TIMEOUT, R73: SCL low for more than 25 ms. -/
def execSmbusSclTimeout (lowUs : Nat) (s : State) : Outcome :=
  .next (if 25000 < lowUs then s.resetTarget else s)

end Sys2Proof.Machine
end

