-- ==== Sys2Proof/Machine/Resets.lean ====
section
/-! DEFINITION. Chapters 3 and 11, resets (R93 to R95, Table 3.6), parking and waking (R313, R317). -/
namespace Sys2Proof.Machine

/-! ### Cold reset -/

/-- The block as a cold reset leaves it: everything as after reset but the flash's contents and what lies outside the block;
straps sampled (R66). -/
def State.coldStart (s : State) (straps : Straps) : State :=
  let t : State := { State.reset with
    flash := { bytes := s.flash.bytes }
    pins := { brakeLow := s.pins.brakeLow, wakeSense := s.pins.wakeSense, inlet := s.pins.inlet, straps := straps }
    mailbox := { clearedAt := some 0 }
    jtag := s.jtag, free := s.free, pending := s.pending }
  ((t.setF F.idConfigDieId straps.dieId.toNat).flagF F.idConfigLeader straps.leader).setF F.gctlProfileStrap
    straps.profileSel.toNat

/-- A cold reset; what firmware's flash work was doing is broken off as by R272 (log 7). -/
def State.coldReset (s : State) (straps : Straps) : State := (s.workNow.2.abortWork s.workNow.1).coldStart straps

/-- COLD_RESET, R60: low pulses shorter than 1 µs are ignored. -/
def execColdReset (lowNs : Nat) (straps : Straps) (s : State) : Outcome :=
  .next (if lowNs < 1000 then s else s.coldReset straps)

/-- SUPPLY_MONITOR_RESET, R60: a fall of V3P3_AUX below 2.9 V. -/
def execSupplyMonitorReset (millivolts : Nat) (straps : Straps) (s : State) : Outcome :=
  .next (if millivolts < 2900 then s.coldReset straps else s)

/-! ### The sync fabric cleared, R94, R349, R353, R371 -/

/-- Every outstanding sync wait completes with FAULT, one of a release in progress too; what has completed already is delivered; the
other dies are told, R94, R349. -/
def State.faultWaits (s : State) : State :=
  let lead := s.hosting && s.isX4
  let s := s.when lead fun s => s.forEach ((List.range 4).filter (· != s.dieId)) fun s d => s.sendRelease d 0 7 0 0 0 0
  let s := s.forEach s.sync.dues fun s c => s.finish c.core c.eng c.status c.value
  let s := s.forEach s.sync.records fun s w => s.endRecord { w with back := false } 7 none false
  let s := { s with sync := { s.sync with slots := s.sync.slots.map fun (p : Nat × Nat) => if p.2 = 1 then (p.1, 3) else p } }
  let s := s.forEach s.sync.collects fun s c => s.tryCollect c.core c.eng
  let s := s.forEach s.sync.outstanding fun s e => s.deliverOpen (e / 8) (e % 8) 7
  s.when (s.isX4 && !lead) fun s =>
    s.sendDie [msgWord0 4 s.dieId s.leaderDie 0 0 0, 2 ^ 31, 0, 0]

/-- The fabric, its contexts, pages, entries and bindings, its counters and results cleared. -/
def State.clearSync (s : State) : State :=
  let s := { s with sync := { slots := s.sync.slots, scpl := s.sync.scpl, outAt := s.sync.outAt, outbox := s.sync.outbox } }
  let s := s.setF F.syncStatusRecordsUsed 0
  let s := (s.clearRange 0x40008 0x4000C).clearRange 0x40014 0x40030
  let s := (s.clearRange 0x40038 0x40040).clearRange 0x40408 0x40410
  let s := ((s.clearRange 0x40414 0x40418).clearRange 0x40420 0x40440).clearRange 0x40800 0x48000
  ((((s.clearRange 0x80000 0x100000).eccClear 0).eccClear 1).eccClear 2)

/-! ### Resets that run the ROM, R114, R125, R126 -/

/-- What every reset that runs the ROM does but for the state its own kind clears. -/
def State.reboot (s : State) (kind : BootKind) (cleared : List Nat) : State :=
  let s := s.forEach [0, 1, 2] fun s p => s.stopProc p
  let s := ((s.setF F.gctlStatusBootDone 0).setF F.gctlStatusCheckBusy 0).setF F.gctlStatusStep 0
  let s := (s.reason 0).setF F.gctlEnable (cleared.foldl clearBit (s.getF F.gctlEnable))
  let s := (s.setF F.hlthTestActive 0).clearTestEn
  let s := s.clearChannels.clearSync
  let s := s.forEach [3, 4, 5] fun s m => s.eccClear m
  let s := s.mapMail fun v => { v with
    request := none, modeNext := none, modeDue := false, modeReply := none, awaitProfile := none, awaitAbort := [], awaitUpdate := none
    awaitFmax := none, awaitCopy := none }
  let s := s.dropLearning
  { s with
    boot := { s.boot with
      rom := true, kind := kind, next := 1, toCheck := [], passing := [], passingVals := [], passed := [], checked := []
      switchTo := none, byRom := false, newBank := false, applyDue := false, before := none, merged := none
      active := s.boot.active.filter fun b => !cleared.contains b }
    procs := {}
    update := { committed := s.update.committed }
    health := { s.health with copy := none, due := s.health.due.filter (· == .persist), fmax := {} } }

/-- A warm reset, R94, R129, R218: ignored while the boot is halted and while the die is parked. DESIGN CHOICE (log 20): one that
comes while the ROM of a cold or wake boot still runs begins that boot anew, with what is particular to its kind: what step 9
stages, the entries held back until step 10, the mode at release (R114, R317). -/
def State.warmReset (s : State) (kind : Nat) : State :=
  if s.isSet F.gctlStatusHalt || s.isSet F.domStatusParked then s
  else
    let s := (s.setF F.pwrOvrSlots 32).faultWaits.reboot (if s.boot.rom then s.boot.kind else .warm) [5]
    (s.incF F.rstLastCount).setF F.rstLastKind kind

/-- WARM_RESET, R129. -/
def execWarmReset (value : Word) (s : State) : Outcome :=
  .next (if value.toNat / 65536 = 0x5752 ∧ value.toNat % 2 = 1 then s.warmReset 2 else s)

/-- FABRIC_WARM_RESET, R93. -/
def execFabricWarmReset (s : State) : Outcome := .next (s.warmReset 3)

/-! ### Parking and waking -/

/-- PARK, R313: the first tick 0 at which all domains are OFF; what runs outside the AON domain, a ROM included, stops;
a write-back owed is lost (R447). -/
def execPark (s : State) : Outcome :=
  .next (if !s.parks then s
  else
    let s := (s.enterMode 0).setF F.domStatusParked 1
    let s := s.forEach [0, 1, 2] fun s p => s.stopProc p
    let s := { s with
      procs := { s.procs with wdt := none }
      boot := { s.boot with rom := false }
      pins := { s.pins with alert := false }, away := false
      ecc := { s.ecc with backs := [] } }
    let s := s.mapMail fun v => { v with modeNext := none, modeDue := false, modeReply := none }
    s.settleBrake s.brakeBits)

/-- The log RAM cleared, R433. -/
def State.clearLogRam (s : State) : State :=
  let s := ((s.setF F.logHeadSeq 0).setF F.logTailSeq 0).setF F.logRdPtrSeq 0
  let s := ((s.setF F.logTrHeadIndex 0).setF F.logTrHeadTseq 0).eccClear 6
  { s with logRam := { s.logRam with ring := [], trace := [], put := 0, mirrored := 0, inSecond := 0, overwrote := false, notified := none, keepLost := false } }

/-- A wake source's debounce is complete, R316: its comparator was active at DEBOUNCE tick 0s in a row (0 acts as 1). -/
def State.woken (s : State) (count : Nat) : Bool := decide (max 1 (s.appliedF F.domWakeCfgDebounce) ≤ count)

/-- A parked die wakes by every source whose debounce has completed, R316, R317. -/
def State.wakeUp (s : State) : State :=
  let a := s.woken s.pins.wsCount
  let b := s.woken s.pins.ntcCount
  if !s.isSet F.domStatusParked || s.isSet F.gctlStatusHalt || !(a || b) then s
  else
    let s := s.setF F.domStatusParked 0
    let s := { s with pins := { s.pins with wsCount := 0, ntcCount := 0 } }
    let s := s.forEach (List.range 96) fun s d => s.andNotF (F.domDVoteMask d) 15
    let s := ((s.reboot .wake [3, 4, 5]).clearLogRam.eccClear 7).resetTarget
    let s := s.forEach [2, 6, 7, 8, 9, 11, 12] fun s i => s.reload (intervalKey i 0)
    let s := (s.flagF F.domLastWakeSense a).flagF F.domLastWakeNtc b
    let s := ((s.incF F.domLastWakeCount).setF F.domWakeTimeBeat s.beat32).setF F.domStatusWakeFlag 1
    let s := (s.incF F.rstLastCount).setF F.rstLastKind 4
    { s with
      cap := { pgrant := s.cap.pgrant }
      health := { s.health with steady := [], iSum := [], steadyP := (List.range 44).filter s.phaseOn }
      links := { s.links with written := [] }
      model := { s.model with loaded := false, x := [], body := [], coef := [], latched := none, fresh := false
                              flowDue := false } }

/-- WAKE_RESET, R316, R317: the voltages that WAKE_SENSE and NTC[0] have from now on, and the wake where it is due. -/
def execWakeReset (sense ntc : Nat) (s : State) : Outcome :=
  .next ({ s with pins := { s.pins with wakeSense := sense, inlet := ntc } } : State).wakeUp

end Sys2Proof.Machine
end

