-- ==== Sys2Proof/Machine/Update.lean ====
section
/-! DEFINITION. Chapter 15, live update (Tables 15.5 and 15.6, R416 to R422). -/
namespace Sys2Proof.Machine

def State.mapUpd (s : State) (g : Update → Update) : State := { s with update := g s.update }

/-- A flash operation of the update has failed: log code 0x000A with its kind and offset, Table 15.9. -/
def State.flashError (s : State) (kind off : Nat) : State := s.log 3 4 0xA [kind, off, 7]

/-- The device command that has failed is logged. -/
def State.portError (s : State) (l : List DeviceCmd) : State :=
  match l with
  | .erase off _ :: _ => s.flashError 2 off
  | .program off _ :: _ => s.flashError 1 off
  | [] => s

/-- A message of the update, from a session that may send it. -/
def State.onUpdate (s : State) (op : Nat) (g : State → Request → State) : State :=
  s.onOpcode op fun s r => if s.ownsUpd r then g s r else s.reply r 8 0 []

/-- A target of the update changed. -/
def State.setTarget (s : State) (i : Nat) (t : Target) : State := s.mapUpd fun u => { u with targets := u.targets.set i t }

/-! ### Opening, R416 -/

/-- The body lengths of UPDATE_OPEN are valid. -/
def State.lengthsOk (s : State) (bank image : Nat) : Bool :=
  bank % 4 == 0 && image % 4 == 0 && decide (256 ≤ bank ∧ bank ≤ s.boot.layout.bankSize - 4096
    ∧ image ≤ s.boot.layout.imgSize - 4096)

/-- UPDATE_OPEN: the erase of the trailer sectors of the inactive copies starts. -/
def execUpdateOpen (s : State) : Outcome :=
  .next (s.onUpdate 0x50 fun s r =>
    if s.updState ≠ 0 ∨ s.update.erasing then s.reply r 2 0 []
    else if !s.lengthsOk (r.word 2) (r.word 3) then s.reply r 4 0 []
    else
      let n := r.word 3
      let cmds := DeviceCmd.erase s.newBank.trailer 4096 :: if n = 0 then [] else [DeviceCmd.erase s.newImage.trailer 4096]
      let s := (s.forEach cmds State.traceCmd).when (!s.flash.tripOwned) (·.beginWork .update cmds)
      let s := s.mapUpd fun u => { u with
        erasing := true, committed := 0
        targets := [{ len := r.word 2 }, { len := n }, { len := 212 }, { len := if n = 0 then 0 else 212 }] }
      ((s.setF F.fwUpdBytesCount 0).reply r 1 0 []).mapMail fun v => { v with awaitUpdate := some r })

/-- UPDATE_ERASE_DONE: DONE, and the session owns the update; an erase that failed ends it with FAULT. -/
def execUpdateEraseDone (ok : Bool) (s : State) : Outcome :=
  .next (if !s.update.erasing || !s.running 2 then s
  else
    let s := s.mapUpd fun u => { u with erasing := false }
    if !ok || s.flash.tripOwned then (((s.cutJob .update).flashError 2 s.newBank.trailer).answerUpd 7 0).endUpd 7 0
    else
      let s := s.endJob .update
      let ch := (s.mailbox.awaitUpdate.map (·.channel)).getD 0xFF
      ((s.setF F.fwUpdSession ch).setUpd 1).answerUpd 10 0)

/-! ### Writing, R417 -/

/-- UPDATE_WRITE. -/
def execUpdateWrite (ok : Bool) (s : State) : Outcome :=
  .next (s.onUpdate 0x51 fun s r =>
    let i := r.word 2 / 2 ^ 30
    let t := s.target i
    let d := writeData r (t.len - t.got)
    if s.updState ≠ 1 then s.reply r 2 0 []
    else if !s.writeTaken r then s.reply r 4 0 []
    else
      let l := s.writeCmds r
      if !l.isEmpty && s.flash.tripOwned then (s.portError (l.take 1)).reply r 7 0 []
      else if !l.isEmpty && !ok then
        let w := s.tryCmds false l
        (w.1.portError (l.drop w.2)).reply r 7 0 []
      else
        let s := (s.tryCmds true l).1
        let s := s.setTarget i { t with
          got := t.got + d.length, buf := if i ≤ 1 then (t.take_ d).2.2.2 else t.buf ++ d }
        (s.addF F.fwUpdBytesCount d.length).reply r 0 0 [t.got + d.length])

/-! ### Verifying, R418 -/

/-- A body is signed under the fields of its trailer, R102, apart from revocation. -/
def fieldsSigned (fields body : List Byte) : Bool :=
  let key := (fields.drop 0x10).take 100
  Config.sha384 key == Config.romKeyHash (u32At fields 0 % 4)
    && Config.ecdsaP384Valid key (Config.sha384 body) ((fields.drop 0x74).take 96)

/-- The profiles of a bank that are to be known: those present. -/
def profileMajorBad (bank : List Byte) : Bool :=
  (List.range 8).any fun i => hasProfile bank i && byteAt (profileOf bank i) 3 != 2

/-- Check 3: the image that the bank names, the new one or the one in the slot. -/
def State.namedImage (s : State) (bank : List Byte) : Option Nat :=
  let slot := u32At bank 4 % 2
  if s.hasImage && slot == s.otherSlot then
    (if Config.sha384 (s.newBody 1) = bankDigest bank then none else some 0xCA)
  else if !s.copyValid (s.imageCopy slot) then some 0xC8
  else if Config.sha384 (s.copyBody (s.imageCopy slot)) = bankDigest bank then none else some 0xCA

/-- The five checks in their order: the reason of the first that fails. -/
def State.updateCode (s : State) : Option Nat :=
  let bank := ownHeader 0x100 (s.newBody 0)
  let image := s.newBody 1
  let revoke := u32At bank 0x38 % 16
  let revoked := s.getF F.gctlKeysRevoked
  let slot := u32At (s.newFields 0) 0 % 4
  let p := profileOf bank (s.activeIn bank)
  let early := firstCode [
    (0xCE, byteAt bank 3 != 2 || (s.hasImage && byteAt image 3 != 2) || profileMajorBad bank),
    (0xC7, revoke == 15),
    (0xC6, !fieldsSigned (s.newFields 0) (s.newBody 0) || bitOf revoked slot || bitOf revoke slot || revoke &&& revoked != revoked)]
  let signed := fieldsSigned (s.newFields 1) image && !bitOf revoked (u32At (s.newFields 1) 0 % 4)
    && !bitOf revoke (u32At (s.newFields 1) 0 % 4)
  let late := firstCode [(0xC8, s.hasImage && !signed), (0xC9, s.hasImage && segmentsBad image)]
  (early.or (s.namedImage bank)).or (late.or
    (((s.stageAll (List.range 7) bank p).checkEach (headerOf p) [] (List.range 7)).map (·.2)))

/-- A trailer programmed from the fields received. -/
def State.writeTrailer (s : State) (i seq : Nat) : State :=
  (s.traceCmd (s.trailerCmd i seq)).runCmd (s.trailerCmd i seq)

/-- The new bodies read for the checks, R418: trace point 178. -/
def State.readBodies (s : State) : State :=
  (s.flashTrace 0 s.newBank.off).when s.hasImage (·.flashTrace 0 s.newImage.off)

/-- UPDATE_VERIFY: the checks, and the trailer of a new image. The SEQ of an image's trailer is not used, and what it is
set to is free (log 64). -/
def execUpdateVerify (ok : Bool) (s : State) : Outcome :=
  .next (s.onUpdate 0x52 fun s r =>
    if s.updState ≠ 1 ∨ !s.complete4 then s.reply r 2 0 []
    else
      let s := ((s.reply r 1 0 []).mapMail fun v => { v with awaitUpdate := some r }).setUpd 2
      let s := s.when (!s.flash.tripOwned) State.readBodies
      if !ok || s.flash.tripOwned then ((s.flashError 0 s.newBank.off).answerUpd 7 0).endUpd 7 0
      else match s.updateCode with
        | some c => (s.answerUpd 2 c).endUpd 2 c
        | none =>
          if s.hasImage then
            let q := s.drawFree (2 ^ 32)
            (q.2.writeTrailer 1 q.1).flashTrace 0 s.newImage.trailer
          else s)

/-- UPDATE_COMMIT, R100, R419: the bank trailer, with the active bank's SEQ plus 1, is programmed and the bank read back. -/
def execUpdateCommit (ok : Bool) (s : State) : Outcome :=
  .next (if s.updState ≠ 2 ∨ !s.running 2 then s
  else if s.flash.tripOwned then ((s.flashError 1 s.newBank.trailer).answerUpd 7 0).endUpd 7 0
  else
  let seq := (s.getF F.gctlBankSeqSeq + 1) % 2 ^ 32
  if !ok then
    let c := s.trailerCmd 0 seq
    ((((s.traceCmd c).abortCmd c).flashError 1 s.newBank.trailer).answerUpd 7 0).endUpd 7 0
  else
    let s := ((s.writeTrailer 0 seq).flashTrace 0 s.newBank.off).mapUpd fun u => { u with committed := seq }
    (s.setUpd 3).answerUpd 10 0)

/-! ### Switching, aborting, status -/

/-- UPDATE_SWITCH, R421 steps 1 and 2. -/
def execUpdateSwitch (s : State) : Outcome :=
  .next (s.onUpdate 0x53 fun s r =>
    if s.updState ≠ 3 then s.reply r 2 0 []
    else
      let s := ((s.reply r 1 0 []).mapMail fun v => { v with awaitUpdate := some r }).setUpd 4
      let s := s.mapUpd fun u => { u with
        oldBank := s.activeBank, oldRevoked := s.getF F.gctlKeysRevoked, debugDue := true }
      let new := s.otherBank
      (s.useBank new (s.bankRevoke new)).restart 0 5)

/-- UPDATE_ABORT, Table 15.6, R419. -/
def execUpdateAbort (s : State) : Outcome :=
  .next (s.onUpdate 0x54 fun s r =>
    if s.updState = 1 ∨ s.updState = 2 then ((s.answerUpd 5 0).reply r 0 0 []).endUpd 5 0 else s.reply r 2 0 [])

/-- UPDATE_STATUS: any session may send it. -/
def execUpdateStatus (s : State) : Outcome :=
  .next (s.onOpcode 0x55 fun s r =>
    s.reply r 0 0 [s.word 0x78004, s.word 0x78008, if 3 ≤ s.updState then s.update.committed else 0])

end Sys2Proof.Machine
end

