-- ==== Sys2Proof/Machine/HostPort.lean ====
section
/-! DEFINITION. The host target port: writes of registers by their access type (R9 to R13, R123), each register's own
command where a write starts one, and the 64-bit registers of R14. -/
namespace Sys2Proof.Machine

/-! ### Writes by access type -/

/-- A staged register of a subsystem accepts writes, R123. -/
def State.stagedOpen (s : State) (bit : Nat) : Bool :=
  !bitOf (s.getF F.gctlEnable) bit && !s.isSet F.gctlStatusCheckBusy

/-- Whether a write of a field takes effect, Table 0.5. CLK.BUSDIV is the one register with a lock (R96). -/
def State.accepts (s : State) (a : Access) : Bool :=
  match a with
  | .rw | .w1c => true
  | .rwl => !s.boot.busLocked
  | .staged b => s.stagedOpen b
  | .ro | .wo => false

/-- A field written with its bits of a word. -/
def State.writeField (s : State) (off w : Nat) (r : Row) : State :=
  let f : Field := ⟨off, r.lo, r.width⟩
  let v := bitsOf w r.lo r.width
  if !s.accepts r.acc then s else if r.acc = .w1c then s.andNotF f v else s.setF f v

/-- A write of a register whose fields have no action of their own; where no field is defined, nothing changes (R10). -/
def State.plainWrite (s : State) (off w : Nat) : State := s.forEach (fieldsAt off) fun s r => s.writeField off w r.1

/-! ### The 64-bit registers, R14 -/

/-- The low offset of a 64-bit register: TB.BEAT, TEL.ENERGY, CPA.E, PWR.FILL, THM.PRIV_ELIG, THM.CH_EN, MP.GEN. -/
def isPair (off : Nat) : Bool :=
  [0x02020, 0x20038, 0x0C030, 0x0C038, 0x6000C].contains off
    || decide (0x6811C ≤ off ∧ off < 0x6831C ∧ (off - 0x6811C) % 0x40 = 0)
    || decide (0x10030 ≤ off ∧ off < 0x14830 ∧ (off - 0x10030) % 0x40 = 0)

/-- Whether a word of a 64-bit register can be written. -/
def isWritablePair (off : Nat) : Bool := [0x0C030, 0x0C038, 0x6000C].contains off

/-- The writable word takes writes now: staged masks only under R123. -/
def State.pairOpen (s : State) (off : Nat) : Bool := (fieldsAt off).any fun r => s.accepts r.1.acc

/-- The word a master holds for a register in the shadows or holds, if the tag names it. -/
def heldFor (m : Store (Option (Nat × Nat))) (off tag : Nat) : Option Nat :=
  match Store.read (fun _ => none) m off with
  | some (t, v) => if t = tag then some v else none
  | none => none

def State.setShadow (s : State) (off : Nat) (v : Option (Nat × Nat)) : State :=
  { s with port := { s.port with shadows := Store.write (fun _ => none) s.port.shadows off v } }
def State.setHold (s : State) (off : Nat) (v : Option (Nat × Nat)) : State :=
  { s with port := { s.port with holds := Store.write (fun _ => none) s.port.holds off v } }

/-- A write of the low word: held, tagged with its master. -/
def State.holdLow (s : State) (tag off w : Nat) : State := if s.pairOpen off then s.setHold off (some (tag, w)) else s

/-- A write of the high word: with the held low word of the same master, or alone. -/
def State.writeHigh (s : State) (tag low w : Nat) : State :=
  match heldFor s.port.holds low tag with
  | some v => ((s.plainWrite low v).plainWrite (low + 4) w).setHold low none
  | none => s.plainWrite (low + 4) w

/-- A read of a register through its window, with the shadow of a 64-bit register. -/
def State.readShadowed (s : State) (tag off : Nat) (r : Option Nat × State) : Option Nat × State :=
  match r.1 with
  | none => r
  | some v =>
    if isPair off then (some v, r.2.setShadow off (some (tag, s.shown (off + 4))))
    else if 4 ≤ off && isPair (off - 4) then
      match heldFor s.port.shadows (off - 4) tag with
      | some h => (some h, r.2.setShadow (off - 4) none)
      | none => r
    else r

/-! ### Writes with an action -/

/-- Who writes: a host master, or the debug port, whose accesses carry no master ID. -/
def tagOf : Party → Nat
  | .host m => m.toNat
  | .dbgacc => 0x10000

/-- DOM_D.HVOTE: SET or CLR for the writer's voter, RETRY (R305, R310); the debug port is voter 4 (Table 11.3). -/
def State.writeHvote (s : State) (p : Party) (d w : Nat) : State :=
  let dom := Fin.ofNat 96 d
  let vote := s.getF (F.domDVoteMask d)
  let put := fun (s : State) (set : Bool) => match p with
    | .host m => if set then s.act (execDomainVoteSet m dom) else s.act (execDomainVoteClear m dom)
    | .dbgacc => s.setF (F.domDVoteMask d) (if set then setBit vote 4 else clearBit vote 4)
  if s.unmapped p then s.raise F.domEvt 0
  else if w % 4 = 3 then s
  else
    let s := if w % 4 = 0 then s else put s (w % 4 = 2)
    s.when (bitOf w 2) fun s => s.act (execDomainRetry { party := p, domain := dom })

/-- MP_M.CFG: SCRUB_EN and PERIOD only in TEST or RECOVERY, R445. -/
def State.writeMpCfg (s : State) (m w : Nat) : State :=
  let s := s.setF (F.mpMCfgTestEn m) (bitsOf w 30 1)
  s.when s.overrideMode fun s => (s.setF (F.mpMCfgScrubEn m) (bitsOf w 31 1)).setF (F.mpMCfgPeriod m) w

/-- CLK.CLKMON written, R83: a reserved CLUSTER or CORE makes the whole write ignored (R11). -/
def State.writeClkmon (s : State) (w : Nat) : State :=
  if 12 ≤ bitsOf w 23 4 ∨ 288 ≤ bitsOf w 14 9 then s else s.plainWrite 0x02010 w

/-- CLK.BUSDIV, Table 3.7: a reserved FDIV makes the whole write ignored (R11). -/
def State.writeBusdivReg (s : State) (w : Nat) : State := if bitsOf w 24 4 < 2 then s else s.plainWrite 0x0200C w

/-- A write to a channel's control word or to a message word, R375, R376; one that the gate turns away is one access, R379. -/
def State.writeChannel (s : State) (p : Party) (ch off w : Nat) : State :=
  let c := Fin.ofNat 32 ch
  if 0x31000 ≤ off then s.act (execMailboxWordWrite p c (Fin.ofNat 16 (off % 0x40 / 4)) (BitVec.ofNat 32 w))
  else
    let away := match p with
      | .host m => s.hostGate m.toNat ch != .pass
      | .dbgacc => false
    if w / 2 ^ 30 = 0 || away then s.channelWrite p ch (fun s => s)
    else
      let s := s.when (bitOf w 31) fun s => s.act (execMailboxGo p c)
      s.when (bitOf w 30) fun s => s.act (execMailboxDone p c)

/-- The offset lies at instance `i` of a register repeated every `step` from `base`, `n` times. -/
def instanceAt (off base step n : Nat) : Option Nat :=
  if base ≤ off ∧ off < base + step * n ∧ (off - base) % step = 0 then some ((off - base) / step) else none

/-- Writes of single registers that start an action, or have a rule of their own. -/
def State.actionWrite (s : State) (p : Party) (off w : Nat) : Option State :=
  let v : Word := BitVec.ofNat 32 w
  match off with
  | 0x0100C => some (s.act (execWarmReset v))
  | 0x01010 => some (s.act (execGctlEnableWrite v))
  | 0x02010 => some (s.writeClkmon w)
  | 0x0200C => some (s.writeBusdivReg w)
  | 0x20034 => some (s.act (execCapOverrideWrite .host v))
  | 0x40034 => some (s.hopWrite w)
  | 0x40404 => some (s.ctxWrite w)
  | 0x4043C => some (s.act (execWdqPop v))
  | 0x50004 => some (s.act (execDebugSelect v))
  | 0x30300 => some ((s.act (execBrakeDoorbellSet v)).act (execBrakeDoorbellClr v))
  | 0x70040 => some (s.act (execLogRecordSelect v))
  | 0x78010 => some (s.act (execWdtKick .host v))
  | 0x60020 => some (if bitOf w 30 then s.act (execTestRawWrite v) else s.act (execTestRawRead v))
  | _ =>
    if isWritablePair off then some (s.holdLow (tagOf p) off w)
    else if 4 ≤ off && isWritablePair (off - 4) then some (s.writeHigh (tagOf p) (off - 4) w)
    else none

/-- Writes of repeated registers that start an action, or have a rule of their own. -/
def State.unitWrite (s : State) (p : Party) (off w : Nat) : Option State :=
  let v : Word := BitVec.ofNat 32 w
  if off < 0x08000 then (instanceAt off 0x04108 0x10 96).map fun d => s.writeHvote p d w
  else if off < 0x10000 then
    (instanceAt off 0x08018 0x400 8).map fun k => s.act (execRailVsetWrite .host (Fin.ofNat 8 k) v)
  else if off < 0x18000 then
    if off % 0x40 = 0x10 then (instanceAt off 0x10010 0x40 288).map fun n => s.act (execCpaCounterClear (Fin.ofNat 288 n) v)
    else (instanceAt off 0x10014 0x40 288).map fun n => s.act (execDragOverrideWrite .host (Fin.ofNat 288 n) v)
  else if off < 0x60000 then
    (instanceAt off 0x40800 4 288).map fun n => s.act (execCorectxWrite (Fin.ofNat 288 n) v)
  else if off < 0x68000 then (instanceAt off 0x60100 0x80 8).map fun m => s.writeMpCfg m w
  else if off < 0x70000 then
    (instanceAt off 0x68128 0x40 8).map fun k => s.act (execTelClearPeak (Fin.ofNat 8 k) v)
  else if off < 0x78000 then (instanceAt off 0x70100 4 32).map fun m => s.writeTmask m w
  else if off < 0x80000 then
    (instanceAt off 0x78104 0x20 3).map fun i => s.act (execProcessorRestart .host (Fin.ofNat 3 i) v)
  else some (s.act (execTranslationEntryWrite (Fin.ofNat 131072 ((off - 0x80000) / 4)) v))

/-- A write of a register outside the mailbox channels. -/
def State.writeReg (s : State) (p : Party) (off w : Nat) : State :=
  if s.windowOff off then s
  else match s.actionWrite p off w with
    | some t => t
    | none => match s.unitWrite p off w with
      | some t => t
      | none => s.plainWrite off w

/-- A write of the window, and its completion. -/
def State.hostWrite (s : State) (p : Party) (off w : Nat) : State :=
  match channelOf off with
  | some ch => s.writeChannel p ch off w
  | none => (s.writeReg p off w).complete 0 false

/-! ### The commands -/

/-- REGISTER_WRITE, R11, R12. -/
def execRegisterWrite (master : Master) (off : Offset) (value : Word) (s : State) : Outcome :=
  .next (if off.toNat % 4 ≠ 0 then s.complete 0 true else s.hostWrite (.host master) off.toNat value.toNat)

/-- MISALIGNED_ACCESS, R9: an error completion and no effect; an aligned access of four bytes is not this event. -/
def execMisalignedAccess (off : Offset) (bytes : Nat) (s : State) : Outcome :=
  .next (if off.toNat % 4 = 0 ∧ bytes = 4 then s else s.complete 0 true)

/-- A host read, and its completion. -/
def State.hostRead (s : State) (master off : Nat) : State :=
  let r := s.readShadowed master off (s.readReg master off)
  match r.1 with
  | some v => r.2.complete v false
  | none => r.2.complete 0 true

/-- READ_64_LOW_WORD, R14; at any other offset it is an ordinary read. -/
def execRead64LowWord (master : Master) (off : Offset) (s : State) : Outcome :=
  .next (if off.toNat % 4 ≠ 0 then s.complete 0 true else s.hostRead master.toNat off.toNat)

/-- READ_64_HIGH_WORD, R14; at any other offset it is an ordinary read. -/
def execRead64HighWord (master : Master) (off : Offset) (s : State) : Outcome :=
  .next (if off.toNat % 4 ≠ 0 then s.complete 0 true else s.hostRead master.toNat off.toNat)

/-- WRITE_64_LOW_WORD, R14; at any other offset it is an ordinary write. -/
def execWrite64LowWord (master : Master) (off : Offset) (value : Word) (s : State) : Outcome :=
  .next (if off.toNat % 4 ≠ 0 then s.complete 0 true else s.hostWrite (.host master) off.toNat value.toNat)

/-- WRITE_64_HIGH_WORD, R14; at any other offset it is an ordinary write. -/
def execWrite64HighWord (master : Master) (off : Offset) (value : Word) (s : State) : Outcome :=
  .next (if off.toNat % 4 ≠ 0 then s.complete 0 true else s.hostWrite (.host master) off.toNat value.toNat)

/-- CLKMON_WRITE, R83. -/
def execClkmonWrite (value : Word) (s : State) : Outcome := .next (s.writeClkmon value.toNat)

end Sys2Proof.Machine
end

