-- ==== Sys2Proof/Machine/Jtag.lean ====
section
/-! DEFINITION. The IEEE 1149.1 debug port: the instructions of Table 2.8 (R74), what they do to the pins (R75), and
accesses under DBGACC. -/
namespace Sys2Proof.Machine

/-- The codes of Table 2.8 that select an instruction of their own. -/
def jtagDefined (code : Nat) : Bool := [0, 1, 2, 4, 5, 16].contains code

/-- The code of BYPASS. -/
def bypassCode : Nat := 63

/-- The value of IDCODE, R74. -/
def idcodeValue : Nat := 0x0C4A2E3B

def State.mapJtag (s : State) (f : Jtag → Jtag) : State := { s with jtag := f s.jtag }

/-! ### The pins, R75 -/

/-- The boundary register drives the pins. -/
def State.scanDrives (s : State) : Bool := s.jtag.instr == 0 || s.jtag.instr == 4

/-- A trip is asserted: THERMTRIP_N or PWR_OFF_REQ. -/
def State.tripAsserted (s : State) : Bool := s.pins.thermTrip || s.pins.pwrOff

/-- The level of THERMTRIP_N at its pin; none is high-impedance. While a trip is asserted it follows the trip. DESIGN CHOICE
(log 67): HIGHZ makes it high-impedance in a trip as well; Table 2.8 says so of all boundary outputs, while R75 says that the
trip outputs follow the trip and not the scan data, and HIGHZ drives no scan data. -/
def State.thermTripPin (s : State) : Option Bool :=
  if s.jtag.instr = 5 then none
  else if s.tripAsserted then some (!s.pins.thermTrip)
  else if s.scanDrives then some s.jtag.boundary.thermTripN
  else some true

/-- The level of PWR_OFF_REQ at its pin; none is high-impedance (as for THERMTRIP_N, log 67). While a trip is asserted it
follows the trip: low until the trip path raises it. -/
def State.pwrOffPin (s : State) : Option Bool :=
  if s.jtag.instr = 5 then none
  else if s.tripAsserted then some s.pins.pwrOff
  else if s.scanDrives then some s.jtag.boundary.pwrOffReq
  else some false

/-- What an output pin shows: a level, nothing, or the waveform of a clock or of a serial port. -/
inductive PinLevel where
  | low | high | highZ | waveform
  deriving DecidableEq, Repr

def PinLevel.of (b : Bool) : PinLevel := if b then .high else .low

/-- CLKMON outside boundary scan: low while disabled, else the clock it divides (R62, R83). -/
def State.clkmonPin (s : State) : PinLevel := if s.isSet F.clkClkmonEn then .waveform else .low

/-- The other outputs of the boundary register outside boundary scan, in its order: BC_EN as asserted (R55), ALERT_N low or
released, the package budget port high-impedance while it is not enabled (R70), an inter-die port unused on a die with a
strap fault (R69). -/
def State.outputPin (s : State) (i : Nat) : PinLevel :=
  if i = 0 then s.clkmonPin
  else if i = 9 then (if s.pins.alert then .low else .highZ)
  else if 12 ≤ i ∧ i < 16 then .of (bitOf (s.getF F.railcBcStatusEn) (i - 12))
  else if 22 ≤ i then (if s.isLeader && s.appliedF F.budCfgPbpEn == 1 then .waveform else .highZ)
  else .waveform

/-- An output of the boundary register at its pin. -/
def State.boundaryPin (s : State) (i : Nat) : PinLevel :=
  if s.jtag.instr = 5 then .highZ
  else if s.scanDrives then .of (s.jtag.boundary.outputs.getD i false)
  else s.outputPin i

/-- Any BC_EN is high, R75: as asserted, or at its pin under boundary scan. -/
def State.anyBcEn (s : State) : Bool :=
  s.isSet F.railcBcStatusEn || [12, 13, 14, 15].any fun i => s.boundaryPin i == .high

/-- The level of PWM[p] at its pin. -/
def State.pwmPin (s : State) (p : Nat) : Pwm :=
  if s.jtag.instr = 5 then .highZ
  else if s.scanDrives then
    if s.anyBcEn || !s.jtag.boundary.pwmEnable.getD p false then .highZ
    else if s.jtag.boundary.pwmData.getD p false then .high else .low
  else (s.phase p).pwm

/-- A cell that captures a pin at a level; where the block gives the pin no level of its own the pin shows `ext`. -/
def captureLevel (l : PinLevel) (ext : Bool) : Bool :=
  match l with
  | .low => false
  | .high => true
  | .highZ | .waveform => ext

/-- The boundary register as SAMPLE captures it: the outputs as the block drives them; what the block does not drive to a level
as the pins show it. -/
def State.sampled (s : State) (pins : Boundary) : Boundary :=
  { pwmData := (List.range 44).map fun p =>
      match (s.phase p).pwm with
      | .high => true
      | .low => false
      | .highZ => pins.pwmData.getD p false
    pwmEnable := (List.range 44).map fun p => (s.phase p).pwm != .highZ
    thermTripN := !s.pins.thermTrip, pwrOffReq := s.pins.pwrOff
    outputs := (List.range 24).map fun i => captureLevel (s.outputPin i) (pins.outputs.getD i false)
    inputs := pins.inputs }

/-! ### The commands -/

/-- An instruction is selected, which takes the TAP out of Test-Logic-Reset. -/
def Jtag.select (j : Jtag) (code : Nat) : Jtag := { j with resting := false, instr := code }

/-- EXTEST, R74, R75: the boundary register drives the pins, with new bits if some were shifted in. -/
def execJtagExtest (scan : Option Boundary) (s : State) : Outcome :=
  .next (s.mapJtag fun j => { j.select 0 with boundary := scan.getD j.boundary })

/-- IDCODE, R74. -/
def execJtagIdcode (s : State) : Outcome := .next (s.mapJtag fun j => { j.select 1 with data := idcodeValue })

/-- SAMPLE_PRELOAD, R74: the pins captured, those that the block drives as it drives them, and the boundary register
loaded. -/
def execJtagSamplePreload (pins load : Boundary) (s : State) : Outcome :=
  .next (s.mapJtag fun j => { j.select 2 with captured := s.sampled pins, boundary := load })

/-- CLAMP, R74, R75. -/
def execJtagClamp (s : State) : Outcome := .next (s.mapJtag (·.select 4))

/-- HIGHZ, R74. -/
def execJtagHighz (s : State) : Outcome := .next (s.mapJtag (·.select 5))

/-- A read of the window under DBGACC; an access that completes in error returns an open value (R382, log 3). -/
def State.debugRead (s : State) (off : Nat) : State :=
  if off % 4 ≠ 0 ∨ ((channelOf off).isSome ∧ s.channelsDown) then
    let d := s.drawFree (2 ^ 32)
    d.2.mapJtag fun j => { j with data := d.1 }
  else
    let r := s.readShadowed 0x10000 off (let q := s.readPlain off; (some q.1, q.2))
    r.2.mapJtag fun j => { j with data := r.1.getD 0 }

/-- DBGACC, R74, R75: BYPASS unless the active bank enables debug; a misaligned access has no effect (R9). -/
def execJtagDbgacc (access : DebugAccess) (s : State) : Outcome :=
  if !s.isSet F.gctlStatusDebugEn then .next (s.mapJtag (·.select bypassCode))
  else
    let s := s.mapJtag (·.select 16)
    .next (match access with
      | .none => s
      | .read off => s.debugRead off.toNat
      | .write off v =>
        let t := s.hostWrite .dbgacc off.toNat v.toNat
        if off.toNat % 4 ≠ 0 then s
        else { t with port := { t.port with value := s.port.value, error := s.port.error } })

/-- BYPASS, R74: its own code, or one that selects no instruction. -/
def execJtagBypass (code : BitVec 6) (s : State) : Outcome :=
  .next (if jtagDefined code.toNat then s else s.mapJtag (·.select bypassCode))

/-- TEST_LOGIC_RESET, R74: by TRST_N or by TMS; selects IDCODE. -/
def execTestLogicReset (s : State) : Outcome := .next (s.mapJtag fun j => { j with resting := true, instr := 1, data := idcodeValue })

end Sys2Proof.Machine
end

