-- ==== Sys2Proof/Machine/TimeBase.lean ====
section
/-! DEFINITION. Chapter 3, the crystal check (R76, R79), SYNC_IN, beats and ticks (R84 to R91), and what every tick 0 does
in the units (R27, R143, R151, R186, R206, R308, R392). -/
namespace Sys2Proof.Machine

def State.mapTime (s : State) (f : TimeBase → TimeBase) : State := { s with time := f s.time }

/-! ### Crystal, R76, R79, R89 -/

/-- XTAL_DELAY_END, R76: the measurement starts. -/
def execXtalDelayEnd (s : State) : Outcome := .next (s.mapTime fun v => { v with delayDone := true })

/-- XTAL_MEASUREMENT_DONE, R76: crystal cycles counted over 16,384 cycles of the 100 MHz oscillator. -/
def execXtalMeasurementDone (count : Nat) (s : State) : Outcome :=
  .next (if !s.time.delayDone || s.isSet F.clkStatusXtalOk || s.isSet F.clkStatusXtalFail then s
  else
    let ok := decide (19500 * 16384 ≤ count * 100000 ∧ count * 100000 ≤ 41000 * 16384)
    let s := s.satF F.clkXtalMeasFreq (openDivNat 49 (count * 100000) 16384)
    if ok then s.setF F.clkStatusXtalOk 1 else s.setF F.clkStatusXtalFail 1)

/-- The crystal counts as failed, R79: it stopped, or its count over 64 µs is more than 5 % from the recorded frequency. -/
def crystalFailed (count khz : Nat) : Bool :=
  let c := 1000 * count
  let e := 64 * khz
  count == 0 || decide (e < 20 * (if c ≤ e then e - c else c - e))

/-- CRYSTAL_MONITOR_WINDOW, R79, R89, R130. -/
def execCrystalMonitorWindow (count : Nat) (s : State) : Outcome :=
  .next (if s.isSet F.clkStatusOnXtal && crystalFailed count s.xtalKHz then
    (((s.setF F.clkStatusXtalFail 1).setF F.clkStatusOnXtal 0).setF F.gctlErrXtalFail 1).setF F.tbStatusOnOsc 1
  else s)

/-! ### Ticks -/

/-- Barrier releases whose tick T has come, R334. -/
def State.releasesDue (s : State) : List Nat := (s.sync.releases.filter fun r => s.reached r.at_).map (·.flat)

/-- The epoch record of a beat with BEAT_COUNT[22:0] = 0, Table 15.12; FREEZE set in its tick counts it as dropped, Table 15.13. -/
def State.epochRecord (s : State) : State :=
  s.when (s.beat % 2 ^ 23 == 0) fun s => s.trace 0 0 s.beat32 (s.getF F.tbEraCount * 65536 + s.beat / 2 ^ 32)

/-- The actions of tick 0, in order: staged values and a mode that are due (R124, R397), timers and acknowledges whose time has
run out (R69, R82, R310, R392, R415), a die that parks (R313) or wakes (R316), a sweep and a thermal frame that begin (R256, R364). -/
def State.actionsAt0 (s : State) : State :=
  let s := s.epochRecord.owedBands.act execStagedApply
  let s := s.act execModeChange
  let s := s.act execHeartbeatExpiry
  let s := (s.act execMgpWatchdogExpiry).act execLeaderIdentityTimeout
  let s := s.forEach (List.finRange 12) fun s c => s.act (execPllLockTimeout c)
  let s := s.forEach (List.finRange 96) fun s d => s.act (execDomainAckTimeout d)
  let s := (s.act execPark).wakeUp
  let s := s.act execWatchdogSweep
  s.act execThermalFrame

/-- The actions of tick 16: the budget frames (Table 1.3), and a peer, a leader or a supply found silent (R238, R239, R244). -/
def State.actionsAt16 (s : State) : State :=
  let s := s.owedFrames.forEach (List.finRange 4) fun s d => s.act (execDieLost d)
  let s := s.act execLeaderLost
  s.act execPbpSilent

/-- A barrier release whose tick has come, R334. -/
def State.releaseDue (s : State) (f : Nat) : State :=
  if h : f < 18432 then s.act (execBarrierRelease ⟨f, h⟩) else s

/-- The named actions that the present tick still owes, R27, R84, Table 1.3: those of tick 0, the budget frames at tick 16, the
barrier releases from tick 32, the model step at tick 48. Each is done once: its interval has then begun again. -/
def State.tickActions (s : State) : State :=
  if s.time.tick = 0 then s.actionsAt0
  else if s.time.tick = 16 then s.actionsAt16
  else if s.time.tick = 32 then s.forEach s.releasesDue State.releaseDue
  else if s.time.tick = 48 then s.act execModelStep
  else s

/-- All that a tick still owes as it ends: its named actions, those of the sync fabric, and a log record selected (R424). -/
def State.namedActions (s : State) : State := s.tickActions.fabricRest.contextRest.logRest

/-- The samples of the remote-sense window converters in a tick, R146: those presented for it, or as last sampled (log 16). -/
def State.sample (s : State) : State :=
  let l := s.pins.ahead
  let s := s.forEach (List.range 8) fun s k => s.setRail k fun r => { r with sense := l.getD k r.sense }
  { s with pins := { s.pins with ahead := l.drop 8 } }

/-- The next tick of the beat, with its samples: what the tick before still owes, then its own work and that of the sync fabric
(R84, R326); none after tick 63. In a catch-up, those that had not begun when the beat ended are issued at its end. -/
def State.issueTick (s : State) (catchUp : Bool) : State :=
  if 63 ≤ s.time.tick then s
  else
    let s := (s.namedActions.mapTime fun v => { v with tick := v.tick + 1 }).sample
    (s.tickWork (catchUp && decide (s.time.ended < s.tickPs))).fabricBegin

/-- The ticks a beat has not reached, in order, R84. -/
def State.issueRest (s : State) (catchUp : Bool) : State :=
  s.forEach (List.range (63 - s.time.tick)) fun s _ => s.issueTick catchUp

/-- A beat ends, after a length in ps: the ticks it has not reached are issued, and the intervals that end with it begin
again (R26, R84). The sample that follows is that of the next tick 0. -/
def State.endBeat (s : State) (len : Nat) (catchUp : Bool) : State :=
  let s := s.mapTime fun v => { v with ended := len }
  ((s.issueRest catchUp).namedActions.rollIntervals).sample

/-- TICK, R84: with the remote-sense voltages of this tick, and of those that follow without a TICK; none after tick 63. -/
def execTick (sense : List Nat) (s : State) : Outcome :=
  .next (if 63 ≤ s.time.tick then s else ({ s with pins := { s.pins with ahead := sense } } : State).issueTick false)

/-! ### Tick 0 -/

/-- BEAT_COUNT and ERA step, R90. -/
def State.stepBeat (s : State) : State :=
  let s := s.mapTime fun v => { v with beat := v.beat + 1, tick := 0 }
  s.when (s.beat == 0) fun s => s.setF F.tbEraCount (s.getF F.tbEraCount + 1)

/-- Scheduled actions fire at the first tick 0 at which their beat is no longer after BEAT_COUNT, R91. -/
def State.fireDue (s : State) : State :=
  let due := fun (b : BitVec 48) => !isAfter 48 b.toNat s.beat
  s.mapTime fun v => { v with fired := v.scheduled.filter due, scheduled := v.scheduled.filter fun b => !due b }

/-- Counts of beats outside the units: intervals (R26), the heartbeat timer (R392), the MGP watchdog (R415), the beats since
a BC_EN was asserted (R133). -/
def State.countBeat (s : State) : State :=
  let s := s.countIntervals
  let s := { s with supply := { s.supply with
    sinceEn := if s.supply.stage = StartStage.converters then s.supply.sinceEn + 1 else s.supply.sinceEn } }
  let s := s.when (s.mailbox.hbLen != 0) fun s => s.setF F.mbxHbLeftBeats (s.getF F.mbxHbLeftBeats - 1)
  { s with procs := { s.procs with wdt := s.procs.wdt.map (· - 1) } }

/-- Staged values and a mode that wait for a tick 0 are due in this one, R124, R397. -/
def State.markDue (s : State) : State :=
  { s with
    boot := { s.boot with applyDue := !s.boot.passed.isEmpty }
    mailbox := { s.mailbox with modeDue := s.mailbox.modeNext.isSome } }

/-- The sections of a calibration copy that a commit has left for this tick 0, R456, R463. -/
def State.takeCal (s : State) : State :=
  match s.health.calNext with
  | some c => { s with boot := { s.boot with cal := c }, health := { s.health with calNext := none } }
  | none => s

/-- What was held for the next tick 0: live weights (R206), staged values and a mode, calibration sections, DEBUG_EN (R421),
the substitute's reference (R89). -/
def State.takeHeld (s : State) : State :=
  let s := s.liveTick0.markDue.takeCal
  let s := { s with therm := { s.therm with bandDue := s.therm.bandNext, bandNext := [] } }
  let s := s.when s.update.debugDue State.followDebug
  s.when (s.isSet F.clkStatusOnXtal) (·.setF F.tbStatusOnOsc 0)

/-- Tick 0 of the rail controllers: the rails, then the start of the next rail of Table 5.1, then the control law of this
tick on the targets of the tick before (R28). -/
def State.railsTick0 (s : State) : State :=
  let demanded := s.demanded
  let old := (List.range 8).map fun k => s.getF (F.railVtgtTarget k)
  let s := s.forEach (List.range 4) fun s k => s.raiseTick0 k
  let s := s.forEach (List.range 8) fun s k => s.railTick0 demanded k
  let s := s.when (s.supply.stage == .ready) fun s =>
    let s := (s.startRail s.startingRail).retarget s.startingRail
    { s with supply := { s.supply with stage := .ramping } }
  let new := (List.range 8).map fun k => s.getF (F.railVtgtTarget k)
  let put := fun (s : State) (l : List Nat) =>
    s.forEach (List.range 8) fun s k => s.setF (F.railVtgtTarget k) (l.getD k 0)
  put ((put s old).tickWork false) new

/-- A comparator with 25 mV of hysteresis on its release side, R64, R316: `above` names its active side; voltages in µV, the
threshold in 1.80 V × code / 256. -/
def comparator (was above : Bool) (uv code : Nat) : Bool :=
  let thr := 1800000 * code
  if above then decide (thr < 256 * uv) || (was && decide (thr ≤ 256 * (uv + 25000)))
  else decide (256 * uv < thr) || (was && decide (256 * uv ≤ thr + 256 * 25000))

/-- A wake source counted at a tick 0, R316: tick 0s in a row, up to 255, at which it is active on a parked die. -/
def countWake (counts : Bool) (n : Nat) : Nat := if counts then min 255 (n + 1) else 0

/-- The wake comparators at a tick 0, R316. -/
def State.wakeTick0 (s : State) : State :=
  let a := comparator s.pins.wsActive (s.appliedF F.domWakeCfgWsPol == 0) s.pins.wakeSense (s.appliedF F.domWakeCfgWsThr)
  let b := comparator s.pins.ntcActive (s.appliedF F.domWakeCfgNtcPol == 1) s.pins.inlet (s.appliedF F.domWakeCfgNtcThr)
  let parked := s.isSet F.domStatusParked
  { s with pins := { s.pins with
    wsActive := a, ntcActive := b
    wsCount := countWake (parked && a && s.appliedF F.domWakeCfgWsEn == 1) s.pins.wsCount
    ntcCount := countWake (parked && b && s.appliedF F.domWakeCfgNtcEn == 1) s.pins.ntcCount } }

/-- Everything a tick 0 does once the time base has chosen its source; the domain controller evaluates the state in force as
it begins (R28). -/
def State.tick0 (s : State) : State :=
  let s := s.stepBeat
  let s := s.fireDue.countBeat.takeHeld.shiftEdges.wakeTick0
  (State.domainTick0 s s.railsTick0).fabricBegin

/-! ### The source of beats, R84 to R89 -/

/-- The frequency of a period, in kHz. -/
def khzOf (p : Nat) : Nat := openDivNat 47 1000000000 p

/-- P is outside 490–2,040 ns, R85. -/
def periodOut (p : Nat) : Bool := decide (p < 490000 ∨ 2040000 < p)

/-- 1/P differs from USED by more than 0.5 %, R88. -/
def usedStale (used p : Nat) : Bool :=
  let q := used * p
  decide (q < 200 * (if q ≤ 1000000000 then 1000000000 - q else q - 1000000000))

/-- Trace point 12: TB.STATUS.SUBST has changed. -/
def State.traceSubst (s : State) : State := s.trace 0 12 (s.word 0x02030) (s.word 0x0202C)

/-- A beat that starts on SYNC_IN or on the flywheel: tick 0 with USED as R88 says. -/
def State.syncBeat (s : State) (flywheel : Bool) : State :=
  let p := s.time.period
  let s := (s.flagF F.tbStatusFlywheel flywheel).setF F.tbSyncFreqMeas (khzOf p)
  (s.when (usedStale (s.getF F.tbSyncFreqUsed) p) (·.setF F.tbSyncFreqUsed (khzOf p))).tick0

/-- The first substitute beat, R85, R88. -/
def State.substitute (s : State) : State :=
  let s := (((s.setF F.tbStatusSubst 1).setF F.tbStatusSubstSeen 1).incF F.tbStatusSubstCount).setF F.tbStatusQualifying 1
  let s := ((s.setF F.tbStatusFlywheel 0).setF F.tbSyncFreqMeas 0).setF F.tbSyncFreqUsed 1000
  let s := s.mapTime fun v => { v with period := 1000000, periods := [], missed := 0, qualified := [] }
  s.tick0.traceSubst

/-- The mean of some periods. -/
def periodMean (l : List Nat) : Nat := openDivNat 48 (sumNat l) (max 1 l.length)

/-- An accepted edge starts the next beat, R84. DESIGN CHOICE (log 68): only the interval between accepted edges of successive
beats is an accepted period; the one across a flywheel beat does not enter P. -/
def State.acceptEdge (s : State) (at_ : Nat) : State :=
  let out := periodOut s.time.period
  let s := s.endBeat at_ true
  let s := s.mapTime fun v =>
    let l := if v.missed = 0 then (at_ :: v.periods).take 16 else v.periods
    let p := if l.isEmpty then v.period else periodMean l
    { v with periods := l, period := p, expected := 50 * p, lastEdge := some 0, missed := 0 }
  if out then s.substitute else s.syncBeat false

/-- The 64th qualified period ends the substitute beat in progress, R87. -/
def State.endSubstitute (s : State) (at_ : Nat) (l : List Nat) : State :=
  let s := s.endBeat at_ true
  let p := periodMean l
  let s := s.mapTime fun v =>
    { v with period := p, periods := l.take 16, expected := 50 * p, lastEdge := some 0, missed := 0, qualified := [] }
  let s := (s.setF F.tbStatusSubst 0).setF F.tbStatusQualifying 0
  ((s.setF F.tbSyncFreqUsed (khzOf p)).syncBeat false).traceSubst

/-- The run of qualified periods with one more, R87. -/
def qualify (run : List Nat) (p : Nat) : List Nat :=
  if periodOut p then []
  else match run with
    | q :: _ => if 100 * (if p ≤ q then q - p else p - q) ≤ q then p :: run else [p]
    | [] => [p]

/-- SYNC_IN_EDGE, R84, R87. DESIGN CHOICE (log 68): an edge inside R84's window is accepted also where its period differs from
the one before by more than the 1 % of R86; R86 calls that a loss and R84 accepts it. -/
def execSyncInEdge (at_ : Nat) (s : State) : Outcome :=
  .next (if s.isSet F.tbStatusSubst then
    let run := match s.time.lastEdge with
      | some e => qualify s.time.qualified ((at_ : Int) - e).toNat
      | none => []
    if 64 ≤ run.length then s.endSubstitute at_ run
    else s.mapTime fun v => { v with lastEdge := some at_, qualified := run }
  else
    let d := if 50 * at_ ≤ s.time.expected then s.time.expected - 50 * at_ else 50 * at_ - s.time.expected
    if d ≤ s.time.period then s.acceptEdge at_
    else (s.incF F.tbStatusIgnored).mapTime fun v => { v with lastEdge := some at_ })

/-- The last edge, seen from a beat that starts after some fiftieths of a picosecond. -/
def shiftEdge (e : Option Int) (after : Nat) : Option Int := e.map fun t => t - Int.fdiv after 50

/-- SYNC_WINDOW_CLOSE, R85: a flywheel beat, and at the second window in a row the first substitute beat. -/
def execSyncWindowClose (s : State) : Outcome :=
  .next (if s.isSet F.tbStatusSubst then s
  else
    let p := s.time.period
    let s := s.endBeat ((s.time.expected + p) / 50) false
    let s := s.mapTime fun v => { v with lastEdge := shiftEdge v.lastEdge (v.expected + p) }
    if s.time.missed = 0 ∧ !periodOut p then
      (s.mapTime fun v => { v with missed := 1, expected := 49 * p }).syncBeat true
    else s.substitute)

/-- SUBSTITUTE_BEAT_START, R85, R90: a substitute beat ends and the next one starts. -/
def execSubstituteBeatStart (s : State) : Outcome :=
  .next (if s.isSet F.tbStatusSubst then
    ((s.endBeat 1000000 false).mapTime fun v => { v with lastEdge := shiftEdge v.lastEdge 50000000 }).tick0
  else s)

/-- SCHEDULED_ACTION, R91: an action asked for at a beat waits for the tick 0 at which it fires; a beat that does not lie
in 1 to 2^47 − 1 beats after the present one is answered BAD_ARG. -/
def execScheduledAction (beat : BitVec 48) (s : State) : Outcome :=
  .next (s.mapTime fun v =>
    if isAfter 48 beat.toNat s.beat then { v with scheduled := v.scheduled ++ [beat], answered := 0 }
    else { v with answered := 4 })

end Sys2Proof.Machine
end

