-- ==== Sys2Proof/Machine/Dispatch.lean ====
section
/-! DEFINITION. The dispatch: one arm per command, each one call of its meaning. -/
namespace Sys2Proof.Machine

/-- The effect of a command on everything but the queue. -/
def exec (i : Instr) (s : State) : Host.Outcome State Fault Refusal :=
  match i with
  | .coldReset lowNs straps => Sys2Proof.Machine.execColdReset lowNs straps s
  | .supplyMonitorReset millivolts straps => Sys2Proof.Machine.execSupplyMonitorReset millivolts straps s
  | .warmReset value => Sys2Proof.Machine.execWarmReset value s
  | .fabricWarmReset => Sys2Proof.Machine.execFabricWarmReset s
  | .registerWrite master off value => Sys2Proof.Machine.execRegisterWrite master off value s
  | .misalignedAccess off bytes => Sys2Proof.Machine.execMisalignedAccess off bytes s
  | .read64LowWord master off => Sys2Proof.Machine.execRead64LowWord master off s
  | .read64HighWord master off => Sys2Proof.Machine.execRead64HighWord master off s
  | .write64LowWord master off value => Sys2Proof.Machine.execWrite64LowWord master off value s
  | .write64HighWord master off value => Sys2Proof.Machine.execWrite64HighWord master off value s
  | .xtalDelayEnd => Sys2Proof.Machine.execXtalDelayEnd s
  | .xtalMeasurementDone count => Sys2Proof.Machine.execXtalMeasurementDone count s
  | .crystalMonitorWindow count => Sys2Proof.Machine.execCrystalMonitorWindow count s
  | .clkmonWrite value => Sys2Proof.Machine.execClkmonWrite value s
  | .syncInEdge at_ => Sys2Proof.Machine.execSyncInEdge at_ s
  | .tick sense => Sys2Proof.Machine.execTick sense s
  | .syncWindowClose => Sys2Proof.Machine.execSyncWindowClose s
  | .substituteBeatStart => Sys2Proof.Machine.execSubstituteBeatStart s
  | .scheduledAction beat => Sys2Proof.Machine.execScheduledAction beat s
  | .pllLock cluster => Sys2Proof.Machine.execPllLock cluster s
  | .pllLockTimeout cluster => Sys2Proof.Machine.execPllLockTimeout cluster s
  | .dividerRampStep cluster => Sys2Proof.Machine.execDividerRampStep cluster s
  | .clusterFreqRetarget cluster => Sys2Proof.Machine.execClusterFreqRetarget cluster s
  | .bootStep1 sfdp => Sys2Proof.Machine.execBootStep1 sfdp s
  | .bootStep2 => Sys2Proof.Machine.execBootStep2 s
  | .bootStep3 => Sys2Proof.Machine.execBootStep3 s
  | .calibrationApply => Sys2Proof.Machine.execCalibrationApply s
  | .bootStep4 pllLocked => Sys2Proof.Machine.execBootStep4 pllLocked s
  | .bootStep5 => Sys2Proof.Machine.execBootStep5 s
  | .bootStep6 => Sys2Proof.Machine.execBootStep6 s
  | .bootStep7 readable => Sys2Proof.Machine.execBootStep7 readable s
  | .bootStep8 => Sys2Proof.Machine.execBootStep8 s
  | .bootStep9 => Sys2Proof.Machine.execBootStep9 s
  | .bootStep10 => Sys2Proof.Machine.execBootStep10 s
  | .gctlEnableWrite value => Sys2Proof.Machine.execGctlEnableWrite value s
  | .consistencyCheckDone => Sys2Proof.Machine.execConsistencyCheckDone s
  | .stagedApply => Sys2Proof.Machine.execStagedApply s
  | .leaderIdentityTimeout => Sys2Proof.Machine.execLeaderIdentityTimeout s
  | .identityFrame port frame => Sys2Proof.Machine.execIdentityFrame port frame s
  | .bcEnNext => Sys2Proof.Machine.execBcEnNext s
  | .bcPgRise => Sys2Proof.Machine.execBcPgRise s
  | .converterReadDone conv cmd result => Sys2Proof.Machine.execConverterReadDone conv cmd result s
  | .bcStartTimeout => Sys2Proof.Machine.execBcStartTimeout s
  | .pgoodSet rail => Sys2Proof.Machine.execPgoodSet rail s
  | .railStartTimeout rail => Sys2Proof.Machine.execRailStartTimeout rail s
  | .railShutdownStep => Sys2Proof.Machine.execRailShutdownStep s
  | .converterPoll => Sys2Proof.Machine.execConverterPoll s
  | .bcPgFall => Sys2Proof.Machine.execBcPgFall s
  | .imonConversion rail microvolts => Sys2Proof.Machine.execImonConversion rail microvolts s
  | .tmonConversion phase millivolts => Sys2Proof.Machine.execTmonConversion phase millivolts s
  | .settled rail => Sys2Proof.Machine.execSettled rail s
  | .seqTimeout rail => Sys2Proof.Machine.execSeqTimeout rail s
  | .railVsetWrite writer rail value => Sys2Proof.Machine.execRailVsetWrite writer rail value s
  | .overshootDetect at_ => Sys2Proof.Machine.execOvershootDetect at_ s
  | .truncationRelease at_ => Sys2Proof.Machine.execTruncationRelease at_ s
  | .overvoltageDetect rail => Sys2Proof.Machine.execOvervoltageDetect rail s
  | .undervoltageDetect rail => Sys2Proof.Machine.execUndervoltageDetect rail s
  | .railOverLimit rail => Sys2Proof.Machine.execRailOverLimit rail s
  | .stageHot phase => Sys2Proof.Machine.execStageHot phase s
  | .railFault rail => Sys2Proof.Machine.execRailFault rail s
  | .pldragRelease rail => Sys2Proof.Machine.execPldragRelease rail s
  | .flpEventResponse off bit => Sys2Proof.Machine.execFlpEventResponse off bit s
  | .derateEvaluation rail => Sys2Proof.Machine.execDerateEvaluation rail s
  | .telemetryShortWindow rail => Sys2Proof.Machine.execTelemetryShortWindow rail s
  | .telemetryLongWindow rail => Sys2Proof.Machine.execTelemetryLongWindow rail s
  | .telClearPeak rail value => Sys2Proof.Machine.execTelClearPeak rail value s
  | .noticeCrossing core sample => Sys2Proof.Machine.execNoticeCrossing core sample s
  | .shoeCrossing core sample => Sys2Proof.Machine.execShoeCrossing core sample s
  | .hardCrossing core sample => Sys2Proof.Machine.execHardCrossing core sample s
  | .shoeHoldExpiry core => Sys2Proof.Machine.execShoeHoldExpiry core s
  | .shoeRampStep core => Sys2Proof.Machine.execShoeRampStep core s
  | .hardHoldExpiry core => Sys2Proof.Machine.execHardHoldExpiry core s
  | .hardRampStep core => Sys2Proof.Machine.execHardRampStep core s
  | .cpaCounterClear core value => Sys2Proof.Machine.execCpaCounterClear core value s
  | .dragOverrideWrite writer core value => Sys2Proof.Machine.execDragOverrideWrite writer core value s
  | .loadNotice core cls density lead engines => Sys2Proof.Machine.execLoadNotice core cls density lead engines s
  | .clcNoticeTake cluster => Sys2Proof.Machine.execClcNoticeTake cluster s
  | .couplingRaiseEnd rail => Sys2Proof.Machine.execCouplingRaiseEnd rail s
  | .issueWindowStart core issued => Sys2Proof.Machine.execIssueWindowStart core issued s
  | .didtPeriod cluster => Sys2Proof.Machine.execDidtPeriod cluster s
  | .fillerDecay core => Sys2Proof.Machine.execFillerDecay core s
  | .meterInterval core counts fillIssue => Sys2Proof.Machine.execMeterInterval core counts fillIssue s
  | .recalibrationPeriod rail => Sys2Proof.Machine.execRecalibrationPeriod rail s
  | .coreGrantFrame cluster => Sys2Proof.Machine.execCoreGrantFrame cluster s
  | .dieBudgetFrame => Sys2Proof.Machine.execDieBudgetFrame s
  | .flpCapUpdate => Sys2Proof.Machine.execFlpCapUpdate s
  | .capOverrideWrite writer value => Sys2Proof.Machine.execCapOverrideWrite writer value s
  | .flpDieBudgetWrite => Sys2Proof.Machine.execFlpDieBudgetWrite s
  | .reportFrame port frame => Sys2Proof.Machine.execReportFrame port frame s
  | .grantFrame port frame => Sys2Proof.Machine.execGrantFrame port frame s
  | .dieLost die => Sys2Proof.Machine.execDieLost die s
  | .leaderLost => Sys2Proof.Machine.execLeaderLost s
  | .packageFrame => Sys2Proof.Machine.execPackageFrame s
  | .flpPbpTxWrite => Sys2Proof.Machine.execFlpPbpTxWrite s
  | .pFrame frame => Sys2Proof.Machine.execPFrame frame s
  | .pbpSilent => Sys2Proof.Machine.execPbpSilent s
  | .thermalFrame => Sys2Proof.Machine.execThermalFrame s
  | .bandUpd stack => Sys2Proof.Machine.execBandUpd stack s
  | .throttleDividerStep cluster => Sys2Proof.Machine.execThrottleDividerStep cluster s
  | .diodeConversionDone unit_ even odd => Sys2Proof.Machine.execDiodeConversionDone unit_ even odd s
  | .thermistorConversionDone ntc microvolts => Sys2Proof.Machine.execThermistorConversionDone ntc microvolts s
  | .tripFlashAbortDone => Sys2Proof.Machine.execTripFlashAbortDone s
  | .tripRecordProgramDone => Sys2Proof.Machine.execTripRecordProgramDone s
  | .tripRecordReadbackDone good elapsedUs => Sys2Proof.Machine.execTripRecordReadbackDone good elapsedUs s
  | .tripPwrOffTimeout => Sys2Proof.Machine.execTripPwrOffTimeout s
  | .modelStep => Sys2Proof.Machine.execModelStep s
  | .modelStepDone cycles => Sys2Proof.Machine.execModelStepDone cycles s
  | .mdpStepResponse => Sys2Proof.Machine.execMdpStepResponse s
  | .modelLoadDone => Sys2Proof.Machine.execModelLoadDone s
  | .flowCoeffRewrite tach => Sys2Proof.Machine.execFlowCoeffRewrite tach s
  | .flowLost tach => Sys2Proof.Machine.execFlowLost tach s
  | .rthSample => Sys2Proof.Machine.execRthSample s
  | .rthBaselineCopy => Sys2Proof.Machine.execRthBaselineCopy s
  | .domainAck domain ret level => Sys2Proof.Machine.execDomainAck domain ret level s
  | .domainAckTimeout domain => Sys2Proof.Machine.execDomainAckTimeout domain s
  | .domainVoteSet master domain => Sys2Proof.Machine.execDomainVoteSet master domain s
  | .domainVoteClear master domain => Sys2Proof.Machine.execDomainVoteClear master domain s
  | .domainRetry write => Sys2Proof.Machine.execDomainRetry write s
  | .park => Sys2Proof.Machine.execPark s
  | .wakeReset sense ntc => Sys2Proof.Machine.execWakeReset sense ntc s
  | .syncRequestTaken core engine word arg => Sys2Proof.Machine.execSyncRequestTaken core engine word arg s
  | .syncRead => Sys2Proof.Machine.execSyncRead s
  | .syncInit => Sys2Proof.Machine.execSyncInit s
  | .syncSignal => Sys2Proof.Machine.execSyncSignal s
  | .syncWait => Sys2Proof.Machine.execSyncWait s
  | .syncTry => Sys2Proof.Machine.execSyncTry s
  | .syncArrive => Sys2Proof.Machine.execSyncArrive s
  | .syncArriveNw => Sys2Proof.Machine.execSyncArriveNw s
  | .syncEvSet => Sys2Proof.Machine.execSyncEvSet s
  | .syncEvClear => Sys2Proof.Machine.execSyncEvClear s
  | .syncEvWait => Sys2Proof.Machine.execSyncEvWait s
  | .syncEvTake => Sys2Proof.Machine.execSyncEvTake s
  | .syncProduce => Sys2Proof.Machine.execSyncProduce s
  | .syncConsume => Sys2Proof.Machine.execSyncConsume s
  | .syncWaitData => Sys2Proof.Machine.execSyncWaitData s
  | .syncWaitSpace => Sys2Proof.Machine.execSyncWaitSpace s
  | .syncRealign => Sys2Proof.Machine.execSyncRealign s
  | .syncCollect => Sys2Proof.Machine.execSyncCollect s
  | .couplingNotice object => Sys2Proof.Machine.execCouplingNotice object s
  | .barrierRelease object => Sys2Proof.Machine.execBarrierRelease object s
  | .clusterRelease cluster => Sys2Proof.Machine.execClusterRelease cluster s
  | .syncPollReissue core engine => Sys2Proof.Machine.execSyncPollReissue core engine s
  | .opreq w0 w1 w2 w3 => Sys2Proof.Machine.execOpreq w0 w1 w2 w3 s
  | .oprsp w0 w1 w2 w3 => Sys2Proof.Machine.execOprsp w0 w1 w2 w3 s
  | .pkgRelease w0 w1 w2 w3 => Sys2Proof.Machine.execPkgRelease w0 w1 w2 w3 s
  | .pkgWithdraw w0 w1 w2 w3 => Sys2Proof.Machine.execPkgWithdraw w0 w1 w2 w3 s
  | .pkgReturn w0 w1 w2 w3 => Sys2Proof.Machine.execPkgReturn w0 w1 w2 w3 s
  | .ctxCreate ctx => Sys2Proof.Machine.execCtxCreate ctx s
  | .ctxDestroy ctx => Sys2Proof.Machine.execCtxDestroy ctx s
  | .ctxAbort ctx => Sys2Proof.Machine.execCtxAbort ctx s
  | .abortWalkEnd ctx => Sys2Proof.Machine.execAbortWalkEnd ctx s
  | .ctxResume ctx => Sys2Proof.Machine.execCtxResume ctx s
  | .ctxMap ctx => Sys2Proof.Machine.execCtxMap ctx s
  | .ctxUnmap ctx => Sys2Proof.Machine.execCtxUnmap ctx s
  | .ctxSetWd ctx => Sys2Proof.Machine.execCtxSetWd ctx s
  | .corectxWrite core value => Sys2Proof.Machine.execCorectxWrite core value s
  | .translationEntryWrite index value => Sys2Proof.Machine.execTranslationEntryWrite index value s
  | .watchdogSweep => Sys2Proof.Machine.execWatchdogSweep s
  | .wdqPop value => Sys2Proof.Machine.execWdqPop value s
  | .mgpWdqReport => Sys2Proof.Machine.execMgpWdqReport s
  | .debugSelect value => Sys2Proof.Machine.execDebugSelect value s
  | .debugSnapshot => Sys2Proof.Machine.execDebugSnapshot s
  | .mailboxWordWrite party channel word value => Sys2Proof.Machine.execMailboxWordWrite party channel word value s
  | .mailboxGo party channel => Sys2Proof.Machine.execMailboxGo party channel s
  | .mailboxDone party channel => Sys2Proof.Machine.execMailboxDone party channel s
  | .mgpTakeMessage => Sys2Proof.Machine.execMgpTakeMessage s
  | .outboundQueueDrain channel => Sys2Proof.Machine.execOutboundQueueDrain channel s
  | .heartbeatExpiry => Sys2Proof.Machine.execHeartbeatExpiry s
  | .sessionOpen => Sys2Proof.Machine.execSessionOpen s
  | .sessionClose => Sys2Proof.Machine.execSessionClose s
  | .heartbeat => Sys2Proof.Machine.execHeartbeat s
  | .setCap => Sys2Proof.Machine.execSetCap s
  | .getCap => Sys2Proof.Machine.execGetCap s
  | .selectProfile => Sys2Proof.Machine.execSelectProfile s
  | .getProfiles => Sys2Proof.Machine.execGetProfiles s
  | .ackTripRecord => Sys2Proof.Machine.execAckTripRecord s
  | .setMode => Sys2Proof.Machine.execSetMode s
  | .modeChange => Sys2Proof.Machine.execModeChange s
  | .getMode => Sys2Proof.Machine.execGetMode s
  | .ctxCommand => Sys2Proof.Machine.execCtxCommand s
  | .getSummary => Sys2Proof.Machine.execGetSummary s
  | .readRegs => Sys2Proof.Machine.execReadRegs s
  | .getAbsence => Sys2Proof.Machine.execGetAbsence s
  | .updateOpen => Sys2Proof.Machine.execUpdateOpen s
  | .updateEraseDone ok => Sys2Proof.Machine.execUpdateEraseDone ok s
  | .updateWrite ok => Sys2Proof.Machine.execUpdateWrite ok s
  | .updateVerify ok => Sys2Proof.Machine.execUpdateVerify ok s
  | .updateCommit ok => Sys2Proof.Machine.execUpdateCommit ok s
  | .updateSwitch => Sys2Proof.Machine.execUpdateSwitch s
  | .updateAbort => Sys2Proof.Machine.execUpdateAbort s
  | .updateStatus => Sys2Proof.Machine.execUpdateStatus s
  | .fmaxStart => Sys2Proof.Machine.execFmaxStart s
  | .fmaxBeginRecordDone => Sys2Proof.Machine.execFmaxBeginRecordDone s
  | .clusterOffline => Sys2Proof.Machine.execClusterOffline s
  | .fmaxQuietTimeout => Sys2Proof.Machine.execFmaxQuietTimeout s
  | .fmaxStepBegin => Sys2Proof.Machine.execFmaxStepBegin s
  | .fmaxStepDone passed => Sys2Proof.Machine.execFmaxStepDone passed s
  | .fmaxStepInvalidTimeout => Sys2Proof.Machine.execFmaxStepInvalidTimeout s
  | .fmaxCommit ok => Sys2Proof.Machine.execFmaxCommit ok s
  | .fmaxEnd => Sys2Proof.Machine.execFmaxEnd s
  | .fmaxAbort => Sys2Proof.Machine.execFmaxAbort s
  | .fmaxStatus => Sys2Proof.Machine.execFmaxStatus s
  | .rthRelearn => Sys2Proof.Machine.execRthRelearn s
  | .healthRead => Sys2Proof.Machine.execHealthRead s
  | .logRead => Sys2Proof.Machine.execLogRead s
  | .logStatus => Sys2Proof.Machine.execLogStatus s
  | .traceMask => Sys2Proof.Machine.execTraceMask s
  | .eventRead => Sys2Proof.Machine.execEventRead s
  | .voteClear => Sys2Proof.Machine.execVoteClear s
  | .voteSet => Sys2Proof.Machine.execVoteSet s
  | .brakeDoorbellSet value => Sys2Proof.Machine.execBrakeDoorbellSet value s
  | .brakeDoorbellClr value => Sys2Proof.Machine.execBrakeDoorbellClr value s
  | .brakeNAssert lowNs => Sys2Proof.Machine.execBrakeNAssert lowNs s
  | .brakeNRelease highNs => Sys2Proof.Machine.execBrakeNRelease highNs s
  | .pmPage page pec => Sys2Proof.Machine.execPmPage page pec s
  | .pmClearFaults pec => Sys2Proof.Machine.execPmClearFaults pec s
  | .pmCapability => Sys2Proof.Machine.execPmCapability s
  | .pmVoutMode => Sys2Proof.Machine.execPmVoutMode s
  | .pmStatusByte => Sys2Proof.Machine.execPmStatusByte s
  | .pmStatusWord => Sys2Proof.Machine.execPmStatusWord s
  | .pmStatusVout => Sys2Proof.Machine.execPmStatusVout s
  | .pmStatusIout => Sys2Proof.Machine.execPmStatusIout s
  | .pmStatusTemperature => Sys2Proof.Machine.execPmStatusTemperature s
  | .pmStatusCml => Sys2Proof.Machine.execPmStatusCml s
  | .pmStatusMfrSpecific => Sys2Proof.Machine.execPmStatusMfrSpecific s
  | .pmReadVin => Sys2Proof.Machine.execPmReadVin s
  | .pmReadVout => Sys2Proof.Machine.execPmReadVout s
  | .pmReadIout => Sys2Proof.Machine.execPmReadIout s
  | .pmReadTemperature1 => Sys2Proof.Machine.execPmReadTemperature1 s
  | .pmReadTemperature2 => Sys2Proof.Machine.execPmReadTemperature2 s
  | .pmReadTemperature3 => Sys2Proof.Machine.execPmReadTemperature3 s
  | .pmReadPout => Sys2Proof.Machine.execPmReadPout s
  | .pmRevision => Sys2Proof.Machine.execPmRevision s
  | .pmMfrId => Sys2Proof.Machine.execPmMfrId s
  | .pmMfrModel => Sys2Proof.Machine.execPmMfrModel s
  | .pmMfrRevision => Sys2Proof.Machine.execPmMfrRevision s
  | .nvFleet => Sys2Proof.Machine.execNvFleet s
  | .nvBrakeWrite word pec => Sys2Proof.Machine.execNvBrakeWrite word pec s
  | .nvBrakeRead => Sys2Proof.Machine.execNvBrakeRead s
  | .nvBridgeTx bytes pec => Sys2Proof.Machine.execNvBridgeTx bytes pec s
  | .nvBridgeRx complete => Sys2Proof.Machine.execNvBridgeRx complete s
  | .nvIdentity => Sys2Proof.Machine.execNvIdentity s
  | .alertResponse => Sys2Proof.Machine.execAlertResponse s
  | .pmUnsupported code => Sys2Proof.Machine.execPmUnsupported code s
  | .smbusSclTimeout lowUs => Sys2Proof.Machine.execSmbusSclTimeout lowUs s
  | .jtagExtest scan => Sys2Proof.Machine.execJtagExtest scan s
  | .jtagIdcode => Sys2Proof.Machine.execJtagIdcode s
  | .jtagSamplePreload pins load => Sys2Proof.Machine.execJtagSamplePreload pins load s
  | .jtagClamp => Sys2Proof.Machine.execJtagClamp s
  | .jtagHighz => Sys2Proof.Machine.execJtagHighz s
  | .jtagDbgacc access => Sys2Proof.Machine.execJtagDbgacc access s
  | .jtagBypass code => Sys2Proof.Machine.execJtagBypass code s
  | .processorRestart writer proc value => Sys2Proof.Machine.execProcessorRestart writer proc value s
  | .processorReloadDone proc => Sys2Proof.Machine.execProcessorReloadDone proc s
  | .aliveTimeout proc => Sys2Proof.Machine.execAliveTimeout proc s
  | .wdtKick writer value => Sys2Proof.Machine.execWdtKick writer value s
  | .mgpWatchdogExpiry => Sys2Proof.Machine.execMgpWatchdogExpiry s
  | .logRecordWrite source severity code d0 d1 d2 d3 => Sys2Proof.Machine.execLogRecordWrite source severity code d0 d1 d2 d3 s
  | .logRecordSelect seq => Sys2Proof.Machine.execLogRecordSelect seq s
  | .mirrorRecord ok => Sys2Proof.Machine.execMirrorRecord ok s
  | .scrubRead mem upset => Sys2Proof.Machine.execScrubRead mem upset s
  | .eccWriteBack mem => Sys2Proof.Machine.execEccWriteBack mem s
  | .eccVerifyRead mem stuck => Sys2Proof.Machine.execEccVerifyRead mem stuck s
  | .modelCoeffRewrite => Sys2Proof.Machine.execModelCoeffRewrite s
  | .testRawWrite value => Sys2Proof.Machine.execTestRawWrite value s
  | .testRawRead value => Sys2Proof.Machine.execTestRawRead value s
  | .ageingMeasurement counts => Sys2Proof.Machine.execAgeingMeasurement counts s
  | .emUsageUpdate => Sys2Proof.Machine.execEmUsageUpdate s
  | .lifePrediction => Sys2Proof.Machine.execLifePrediction s
  | .calibrationPersist => Sys2Proof.Machine.execCalibrationPersist s
  | .calibrationCopyCommit ok => Sys2Proof.Machine.execCalibrationCopyCommit ok s
  | .aliveIncrement proc => Sys2Proof.Machine.execAliveIncrement proc s
  | .testLogicReset => Sys2Proof.Machine.execTestLogicReset s

end Sys2Proof.Machine
end

