-- ==== Sys2Proof/Safety.lean ====
section
/-! DEFINITION. What statements about runs are made of: the parts of the state, what a command keeps of them, canonical
register files, and reading one register field before and after. -/
namespace Sys2Proof.Machine

/-- The parts of the state beside the queue. `beat`, `straps` and `trips` are finer than the parts that hold them:
BEAT_COUNT, the sampled straps, and the release of THERMTRIP_N or PWR_OFF_REQ once asserted. -/
inductive Part where
  | fields | applied | time | port | pins | logRam | mailbox | flash | boot | trip | supply | rails | phases | clcs | cpas
  | doms | away | cap | links | therm | model | sync | ecc | pmbus | jtag | procs | update | health | intervals | held | free
  | beat | straps | trips
  deriving DecidableEq, Repr

/-- A part is the same in two states; for `trips`, an asserted trip output is still asserted. -/
def State.same (s t : State) : Part → Prop
  | .fields => t.fields = s.fields
  | .applied => t.applied = s.applied
  | .time => t.time = s.time
  | .port => t.port = s.port
  | .pins => t.pins = s.pins
  | .logRam => t.logRam = s.logRam
  | .mailbox => t.mailbox = s.mailbox
  | .flash => t.flash = s.flash
  | .boot => t.boot = s.boot
  | .trip => t.trip = s.trip
  | .supply => t.supply = s.supply
  | .rails => t.rails = s.rails
  | .phases => t.phases = s.phases
  | .clcs => t.clcs = s.clcs
  | .cpas => t.cpas = s.cpas
  | .doms => t.doms = s.doms
  | .away => t.away = s.away
  | .cap => t.cap = s.cap
  | .links => t.links = s.links
  | .therm => t.therm = s.therm
  | .model => t.model = s.model
  | .sync => t.sync = s.sync
  | .ecc => t.ecc = s.ecc
  | .pmbus => t.pmbus = s.pmbus
  | .jtag => t.jtag = s.jtag
  | .procs => t.procs = s.procs
  | .update => t.update = s.update
  | .health => t.health = s.health
  | .intervals => t.intervals = s.intervals
  | .held => t.held = s.held
  | .free => t.free = s.free
  | .beat => t.time.beat = s.time.beat
  | .straps => t.pins.straps = s.pins.straps
  | .trips => (s.pins.thermTrip = true → t.pins.thermTrip = true) ∧ (s.pins.pwrOff = true → t.pins.pwrOff = true)

/-- The register file, and the values in force of the staged registers, are in canonical form: one entry for each field
that differs from its reset value, in order. -/
abbrev State.Canonical (s : State) : Prop := Store.wf resetOf s.fields ∧ Store.wf resetOf s.applied

/-- `t` keeps the queue of `s`, its canonical form, and every part that `p` does not name. -/
def State.Kept (p : Part → Bool) (s t : State) : Prop :=
  t.pending = s.pending ∧ (s.Canonical → t.Canonical) ∧ ∀ x, p x = false → s.same t x

/-- What a meaning answers keeps these parts. -/
def Outcome.Kept (p : Part → Bool) (s : State) : Outcome → Prop
  | .next t => s.Kept p t
  | _ => True

/-- Beside some parts and some register fields, `t` is as `s`: the frame of a command. -/
def State.Frame (s t : State) (ps : List Part) (l : List Field) : Prop :=
  t.pending = s.pending ∧ (∀ x, x ∉ ps → x ≠ .fields → s.same t x) ∧ ∀ f : Field, (∀ g ∈ l, f.key ≠ g.key) → t.getF f = s.getF f

/-- A command completes: it has a next state, of which `P` holds. -/
def Completes (c : Instr) (s : State) (P : State → Prop) : Prop := ∃ t, exec c s = .next t ∧ P t

/-- The PEC of a read of a command from this target, R73: of the address for writing, the code, the address for reading and
the bytes answered. -/
def State.readPec (s : State) (code : Nat) (bytes : List Nat) : Nat :=
  let a := 2 * (0x58 + s.getF F.idConfigDieId)
  crc8 (a :: code :: (a + 1) :: bytes)

/-- The PEC of a write of a command to this target, R73. -/
def State.writePec (s : State) (code : Nat) (data : List Nat) : Nat := crc8 (2 * (0x58 + s.getF F.idConfigDieId) :: code :: data)

/-- A PMBus read of a command is acknowledged and answered with these bytes and their PEC; nothing else changes. -/
def Answered (c : Instr) (s : State) (code : Nat) (bytes : List Nat) : Prop :=
  Completes c s fun t => t.pmbus = { s.pmbus with ack := true, answer := bytes, pec := s.readPec code bytes }
    ∧ s.Frame t [.pmbus] []

/-- A PMBus transfer sets a bit of STATUS_CML, which asserts ALERT_N if the bit rises; nothing else changes. -/
def SetsCml (c : Instr) (s : State) (ack : Bool) (bytes : List Nat) (pec bit : Nat) : Prop :=
  Completes c s fun t => t.pmbus = { s.pmbus with ack := ack, answer := bytes, pec := pec, cml := setBit s.pmbus.cml bit }
    ∧ t.pins = { s.pins with alert := s.pins.alert || !bitOf s.pmbus.cml bit } ∧ s.Frame t [.pmbus, .pins] []

/-- A PMBus read that the page does not support is answered with zeros and sets STATUS_CML bit 1. -/
def NotSupported (c : Instr) (s : State) (code n : Nat) : Prop :=
  SetsCml c s true (List.replicate n 0) (s.readPec code (List.replicate n 0)) 1

/-- A PMBus write is acknowledged, and has an effect that `P` describes. -/
def Accepted (c : Instr) (s : State) (P : State → Prop) : Prop :=
  Completes c s fun t => t.pmbus.ack = true ∧ t.pmbus.answer = [] ∧ t.pmbus.pec = 0 ∧ P t

/-- The registers a trace record may change: the ring's head, its count of dropped records, and write-backs cancelled. -/
def traceFields : List Field := [F.logTrHeadIndex, F.logTrHeadTseq, F.logTrStatDropped, F.mpMWbCancelled 6]

/-- The brake after a change of its sources, R402, R63: the three source bits, and while the sources are evaluated ACTIVE
when any is set; a rise from no source is counted (saturating) and stamped. -/
def BrakeSettled (s t : State) (door pin pmb : Nat) : Prop :=
  let on := s.brakeRuns && door + pin + pmb != 0
  let rises := on && !s.isSet F.mbxBrakeStatActive
  t.getF F.mbxBrakeStatDoorbell = door ∧ t.getF F.mbxBrakeStatPin = pin ∧ t.getF F.mbxBrakeStatPmbus = pmb
    ∧ t.getF F.mbxBrakeStatActive = flag on
    ∧ t.getF F.mbxBrakeStatAsserts =
        (if rises then min (s.getF F.mbxBrakeStatAsserts + 1) (2 ^ F.mbxBrakeStatAsserts.width - 1) else s.getF F.mbxBrakeStatAsserts)
    ∧ t.getF F.mbxBrakeTimeBeat = (if rises then s.beat32 else s.getF F.mbxBrakeTimeBeat)

/-- The registers that the brake sources change. -/
def brakeFields : List Field :=
  [F.mbxBrakeStatDoorbell, F.mbxBrakeStatPin, F.mbxBrakeStatPmbus, F.mbxBrakeStatActive, F.mbxBrakeStatAsserts,
   F.mbxBrakeTimeBeat] ++ traceFields

/-- The MGP, running, has in hand a request of this opcode. -/
def State.serves (s : State) (op : Nat) (r : Request) : Prop :=
  s.mailbox.request = some r ∧ r.opcode = op ∧ s.running 2 = true

/-- The state with no request in hand. -/
def State.taken (s : State) : State := { s with mailbox := { s.mailbox with request := none } }

/-- A request is answered with a status, a reason and data, and has no other effect. -/
def Replied (c : Instr) (s : State) (r : Request) (status reason : Nat) (data : List Nat) : Prop :=
  exec c s = .next (s.taken.reply r status reason data)

/-- A request has an effect that `P` describes, and is then answered. -/
def RepliedAfter (c : Instr) (s : State) (r : Request) (P : State → Prop) (status : Nat) (data : State → List Nat) : Prop :=
  ∃ u, P u ∧ exec c s = .next (u.reply r status 0 (data u))

/-- A boot step is due: the ROM runs and has come to it. -/
def State.atStep (s : State) (n : Nat) : Prop := s.boot.rom = true ∧ s.boot.next = n

/-- Step `n` of the boot halts it with a code, R111, R112. -/
def Halts (c : Instr) (s : State) (n code : Nat) : Prop :=
  Completes c s fun t => t.isSet F.gctlStatusHalt = true ∧ t.getF F.gctlStatusReason = code ∧ t.getF F.gctlStatusStep = n
    ∧ t.boot.next = 99

/-- The registers a log record may change, R423. -/
def logFields : List Field := [F.logHeadSeq, F.logTailSeq, F.logStatOverwritten, F.logEvt, F.mpMWbCancelled 6]

/-- The command that applies a sync operation of a code, Table 12.4. -/
def syncCommand : Nat → Instr
  | 1 => .syncRead | 2 => .syncInit | 3 => .syncSignal | 4 => .syncWait | 5 => .syncTry | 6 => .syncArrive
  | 7 => .syncArriveNw | 8 => .syncEvSet | 9 => .syncEvClear | 10 => .syncEvWait | 11 => .syncEvTake | 12 => .syncProduce
  | 13 => .syncConsume | 14 => .syncWaitData | 15 => .syncWaitSpace | 16 => .syncRealign | _ => .syncCollect

/-- The request at the head of the batch, taken in an earlier tick from an engine, no reissue and not posted, is in order
and names object `f`, which is hosted on this die and whose words hold no error. -/
def State.applies (s : State) (q : SyncReq) (rest : List SyncReq) (f : Nat) : Prop :=
  s.sync.batch = q :: rest ∧ s.past q.at_ = true ∧ s.syncActive = true ∧ q.poll = false ∧ q.core < 288 ∧ q.eng < 7
    ∧ 1 ≤ q.op ∧ q.op ≤ 16 ∧ bitOf q.word 3 = false ∧ requestOk q.op q.word q.arg q.core = true
    ∧ flatOf q.word q.core = some f ∧ (isPackage f = true → s.hosting = true) ∧ ∀ i < 4, s.errorAt 0 (4 * f + i) = 0

/-- The last completion driven to an engine: status and value. -/
def State.scplOf (s : State) (e : Nat) : Option (Nat × Nat) := Store.read (fun _ => none) s.sync.scpl e

/-- An operation of an engine is to complete some ticks from now with a status, and with a value, or with a free one where the
spec states none, R326. -/
def State.owes (t : State) (n core eng status : Nat) (value : Option Nat) : Prop :=
  ({ core := core, eng := eng, status := status, value := value, at_ := (t.now + n) % 2 ^ 54 } : Completion) ∈ t.sync.dues

/-- A record in use leaves in the next tick with a status and a value, or a free one; `back` as in `Waiter`. -/
def State.leaves (t : State) (w : Waiter) (status : Nat) (value : Option Nat) (back : Bool) : Prop :=
  ({ w with due := some ((t.now + 1) % 2 ^ 54), fate := (status, value), coupled := false, back := back } : Waiter)
    ∈ t.sync.records

/-- Every part. -/
def allParts : List Part :=
  [.fields, .applied, .time, .port, .pins, .logRam, .mailbox, .flash, .boot, .trip, .supply, .rails, .phases, .clcs, .cpas,
   .doms, .away, .cap, .links, .therm, .model, .sync, .ecc, .pmbus, .jtag, .procs, .update, .health, .intervals, .free,
   .beat, .straps, .trips, .held]

/-- The parts of the state that a command may change. -/
def footprint : Instr → List Part
  | .coldReset _ _ | .supplyMonitorReset _ _ => allParts
  | .warmReset _ | .fabricWarmReset =>
    [.fields, .logRam, .mailbox, .flash, .boot, .cpas, .model, .sync, .ecc, .procs, .update, .health, .free, .held]
  | .registerWrite _ _ _ | .write64LowWord _ _ _ | .write64HighWord _ _ _ =>
    [.fields, .port, .logRam, .mailbox, .flash, .boot, .rails, .cpas, .doms, .model, .sync, .ecc, .procs, .update,
     .health, .free, .held]
  | .misalignedAccess _ _ => [.port]
  | .read64LowWord _ _ | .read64HighWord _ _ =>
    [.fields, .port, .logRam, .flash, .boot, .model, .sync, .ecc, .procs, .update, .health, .free, .held]
  | .xtalDelayEnd | .scheduledAction _ => [.time]
  | .xtalMeasurementDone _ | .crystalMonitorWindow _ | .clkmonWrite _ | .truncationRelease _ | .telClearPeak _ _
  | .cpaCounterClear _ _ | .dragOverrideWrite _ _ _ | .capOverrideWrite _ _ | .dieLost _ | .domainVoteSet _ _
  | .domainVoteClear _ _ => [.fields]
  | .syncInEdge _ | .syncWindowClose | .substituteBeatStart =>
    [.fields, .applied, .time, .pins, .logRam, .mailbox, .flash, .boot, .trip, .supply, .rails, .phases, .clcs,
     .cpas, .doms, .away, .cap, .links, .therm, .model, .sync, .ecc, .pmbus, .procs, .update, .health, .intervals,
     .free, .beat, .held]
  | .tick _ =>
    [.fields, .applied, .time, .pins, .logRam, .mailbox, .flash, .boot, .trip, .supply, .rails, .phases, .clcs,
     .cpas, .doms, .away, .cap, .links, .therm, .model, .sync, .ecc, .pmbus, .procs, .update, .health, .intervals,
     .free, .held]
  | .pllLock _ | .dividerRampStep _ | .clusterFreqRetarget _ | .clcNoticeTake _ | .didtPeriod _ =>
    [.fields, .clcs, .cpas]
  | .pllLockTimeout _ => [.fields, .clcs]
  | .bootStep1 _ | .bootStep2 => [.fields, .pins, .mailbox, .flash, .boot, .pmbus]
  | .bootStep3 => [.fields, .pins, .logRam, .mailbox, .boot, .ecc, .pmbus, .health]
  | .calibrationApply | .bandUpd _ => [.fields, .therm]
  | .bootStep4 _ | .bootStep5 => [.fields, .pins, .mailbox, .boot, .pmbus]
  | .bootStep6 => [.fields, .pins, .mailbox, .boot, .ecc, .pmbus, .update]
  | .bootStep7 _ => [.fields, .pins, .logRam, .mailbox, .boot, .pmbus]
  | .bootStep8 => [.fields, .pins, .logRam, .mailbox, .boot, .cap, .links, .ecc, .pmbus]
  | .bootStep9 => [.fields, .pins, .mailbox, .boot, .rails, .pmbus]
  | .bootStep10 => [.fields, .pins, .logRam, .mailbox, .boot, .rails, .model, .ecc, .pmbus, .procs, .update, .health]
  | .gctlEnableWrite _ => [.fields, .boot]
  | .consistencyCheckDone => [.fields, .logRam, .mailbox, .boot, .ecc, .update]
  | .stagedApply =>
    [.fields, .applied, .pins, .logRam, .mailbox, .boot, .supply, .rails, .cap, .links, .therm, .model, .ecc, .pmbus,
     .update, .held]
  | .leaderIdentityTimeout | .leaderLost => [.fields, .links]
  | .identityFrame _ _ =>
    [.fields, .pins, .logRam, .mailbox, .cpas, .cap, .links, .model, .ecc, .pmbus, .intervals, .free, .held]
  | .bcEnNext | .bcPgRise | .converterReadDone _ _ _ | .bcStartTimeout | .pgoodSet _ | .railStartTimeout _
  | .bcPgFall => [.fields, .supply]
  | .railShutdownStep => [.fields, .pins, .logRam, .supply, .phases, .ecc, .pmbus, .health]
  | .converterPoll => [.supply]
  | .imonConversion _ _ | .tmonConversion _ _ =>
    [.fields, .pins, .logRam, .mailbox, .flash, .trip, .rails, .phases, .ecc, .pmbus, .health, .free, .held]
  | .settled _ => [.fields, .rails, .held]
  | .seqTimeout _ | .undervoltageDetect _ | .railOverLimit _ => [.fields, .pins, .logRam, .rails, .ecc, .pmbus]
  | .railVsetWrite _ _ _ | .telemetryLongWindow _ | .couplingRaiseEnd _ => [.fields, .rails]
  | .overshootDetect _ => [.fields, .rails, .phases]
  | .overvoltageDetect _ => [.fields, .pins, .logRam, .rails, .phases, .ecc, .pmbus]
  | .stageHot _ | .nvBrakeWrite _ _ => [.fields, .pins, .logRam, .ecc, .pmbus]
  | .railFault _ => [.fields, .pins, .logRam, .flash, .trip, .phases, .ecc, .pmbus, .health, .free]
  | .pldragRelease _ => [.rails]
  | .flpEventResponse _ _ => [.fields, .logRam, .mailbox, .rails, .ecc, .intervals, .free, .held]
  | .derateEvaluation _ => [.fields, .rails, .intervals, .held]
  | .telemetryShortWindow _ => [.fields, .rails, .health]
  | .noticeCrossing _ _ | .shoeCrossing _ _ | .hardCrossing _ _ | .loadNotice _ _ _ _ _ | .issueWindowStart _ _
  | .fillerDecay _ => [.fields, .cpas]
  | .shoeHoldExpiry _ | .shoeRampStep _ | .hardHoldExpiry _ | .hardRampStep _ => [.cpas]
  | .meterInterval _ _ _ => [.fields, .logRam, .rails, .cpas, .cap, .links, .model, .ecc, .intervals, .free, .held]
  | .recalibrationPeriod _ => [.fields, .logRam, .rails, .cap, .ecc, .intervals, .free]
  | .coreGrantFrame _ | .flpCapUpdate | .flpDieBudgetWrite | .reportFrame _ _ | .grantFrame _ _ | .flpPbpTxWrite
  | .pFrame _ | .pbpSilent => [.fields, .logRam, .cpas, .cap, .links, .model, .ecc, .intervals, .free, .held]
  | .dieBudgetFrame => [.fields, .logRam, .cap, .links, .model, .ecc, .intervals]
  | .packageFrame => [.fields, .links, .intervals]
  | .thermalFrame => [.fields, .pins, .logRam, .clcs, .therm, .ecc, .pmbus, .health, .intervals, .held]
  | .throttleDividerStep _ => [.clcs, .cpas]
  | .diodeConversionDone _ _ _ | .thermistorConversionDone _ _ =>
    [.fields, .pins, .logRam, .flash, .trip, .clcs, .therm, .ecc, .pmbus, .health, .free, .held]
  | .tripFlashAbortDone | .tripRecordReadbackDone _ _ => [.fields, .trip]
  | .tripRecordProgramDone => [.flash, .trip]
  | .tripPwrOffTimeout => [.fields, .pins, .logRam, .supply, .doms, .ecc, .pmbus]
  | .modelStep => [.fields, .model, .intervals]
  | .modelStepDone _ | .modelLoadDone => [.fields, .model, .ecc, .free]
  | .mdpStepResponse => [.fields, .logRam, .therm, .model, .ecc, .free, .held]
  | .flowCoeffRewrite _ | .modelCoeffRewrite => [.fields, .model, .ecc]
  | .flowLost _ => [.fields, .pins, .mailbox, .model, .pmbus]
  | .rthSample => [.fields, .pins, .mailbox, .model, .pmbus, .intervals]
  | .rthBaselineCopy => [.fields, .logRam, .flash, .ecc, .health]
  | .domainAck _ _ _ | .domainAckTimeout _ | .domainRetry _ => [.fields, .doms]
  | .park => [.fields, .pins, .logRam, .mailbox, .flash, .boot, .away, .model, .ecc, .procs, .update, .health, .free]
  | .wakeReset _ _ =>
    [.fields, .pins, .logRam, .mailbox, .flash, .boot, .cap, .links, .model, .sync, .ecc, .pmbus, .procs, .update,
     .health, .intervals, .free]
  | .syncRequestTaken _ _ _ _ | .translationEntryWrite _ _ => [.fields, .sync, .ecc, .free, .held]
  | .syncRead | .syncInit | .syncSignal | .syncWait | .syncTry | .syncArrive | .syncArriveNw | .syncEvSet
  | .syncEvClear | .syncEvWait | .syncEvTake | .syncProduce | .syncConsume | .syncWaitData | .syncWaitSpace
  | .syncRealign => [.fields, .cpas, .sync, .ecc, .free]
  | .syncCollect => [.fields, .cpas, .sync]
  | .couplingNotice _ => [.rails, .sync]
  | .barrierRelease _ => [.fields, .logRam, .cpas, .sync, .ecc, .free, .held]
  | .clusterRelease _ => [.fields, .cpas, .sync, .free, .held]
  | .syncPollReissue _ _ => [.fields, .cpas, .sync, .ecc, .free, .held]
  | .opreq _ _ _ _ | .oprsp _ _ _ _ | .pkgRelease _ _ _ _ | .pkgWithdraw _ _ _ _ | .pkgReturn _ _ _ _ | .wdqPop _ =>
    [.sync]
  | .ctxCreate _ | .ctxResume _ | .ctxUnmap _ | .ctxSetWd _ | .corectxWrite _ _ => [.fields, .held]
  | .ctxDestroy _ | .ctxMap _ => [.fields, .ecc, .held]
  | .ctxAbort _ => [.fields, .sync, .held]
  | .abortWalkEnd _ | .ctxCommand => [.fields, .logRam, .mailbox, .sync, .ecc, .held]
  | .watchdogSweep => [.fields, .sync, .ecc, .intervals, .free]
  | .mgpWdqReport => [.fields, .logRam, .mailbox, .sync, .ecc]
  | .debugSelect _ => [.fields, .sync]
  | .debugSnapshot => [.fields, .sync, .ecc, .free]
  | .mailboxWordWrite _ _ _ _ => [.fields, .port, .mailbox, .boot]
  | .mailboxGo _ _ | .mailboxDone _ _ => [.fields, .port, .boot]
  | .mgpTakeMessage | .getCap | .getProfiles | .setMode | .modeChange | .getMode | .getSummary | .getAbsence
  | .updateStatus | .fmaxStatus | .healthRead | .logStatus | .traceMask | .eventRead | .voteClear | .voteSet =>
    [.fields, .logRam, .mailbox, .ecc]
  | .outboundQueueDrain _ | .fmaxQuietTimeout | .fmaxStepInvalidTimeout => [.fields, .mailbox]
  | .heartbeatExpiry | .sessionOpen | .sessionClose | .heartbeat => [.fields, .pins, .logRam, .mailbox, .ecc, .pmbus]
  | .setCap => [.fields, .applied, .logRam, .mailbox, .ecc]
  | .selectProfile => [.fields, .logRam, .mailbox, .boot, .ecc]
  | .ackTripRecord => [.fields, .pins, .logRam, .mailbox, .flash, .ecc, .pmbus]
  | .readRegs =>
    [.fields, .logRam, .mailbox, .flash, .boot, .model, .sync, .ecc, .procs, .update, .health, .free, .held]
  | .updateOpen => [.fields, .logRam, .mailbox, .flash, .ecc, .update]
  | .updateEraseDone _ | .updateWrite _ | .updateVerify _ | .updateCommit _ =>
    [.fields, .logRam, .mailbox, .flash, .ecc, .update, .free]
  | .updateSwitch => [.fields, .logRam, .mailbox, .flash, .model, .ecc, .procs, .update, .health, .free]
  | .updateAbort => [.fields, .logRam, .mailbox, .ecc, .update]
  | .fmaxStart | .fmaxStepDone _ | .rthRelearn => [.fields, .logRam, .mailbox, .flash, .ecc, .health]
  | .fmaxBeginRecordDone => [.fields, .mailbox, .flash, .health]
  | .clusterOffline => [.fields, .mailbox, .health]
  | .fmaxStepBegin => [.health]
  | .fmaxCommit _ => [.fields, .logRam, .mailbox, .flash, .boot, .ecc, .health, .free]
  | .fmaxEnd => [.fields, .logRam, .mailbox, .ecc, .health]
  | .fmaxAbort => [.fields, .logRam, .mailbox, .flash, .ecc, .health, .free]
  | .logRead | .mirrorRecord _ =>
    [.fields, .logRam, .mailbox, .flash, .model, .sync, .ecc, .procs, .update, .health, .free, .held]
  | .brakeDoorbellSet _ | .brakeDoorbellClr _ | .logRecordWrite _ _ _ _ _ _ _ => [.fields, .logRam, .ecc]
  | .brakeNAssert _ => [.fields, .pins, .logRam, .ecc, .free]
  | .brakeNRelease _ => [.fields, .pins, .logRam, .ecc]
  | .pmPage _ _ | .pmClearFaults _ | .pmVoutMode | .pmReadVout | .pmReadIout | .pmReadTemperature1
  | .pmReadTemperature2 | .pmReadTemperature3 | .alertResponse | .pmUnsupported _ => [.pins, .pmbus]
  | .pmCapability | .pmStatusByte | .pmStatusWord | .pmStatusVout | .pmStatusIout | .pmStatusTemperature
  | .pmStatusCml | .pmStatusMfrSpecific | .pmReadPout | .pmRevision | .pmMfrId | .pmMfrModel | .pmMfrRevision
  | .nvFleet | .nvBrakeRead | .nvIdentity | .smbusSclTimeout _ => [.pmbus]
  | .pmReadVin => [.pmbus, .free]
  | .nvBridgeTx _ _ => [.fields, .pins, .pmbus]
  | .nvBridgeRx _ => [.fields, .pmbus]
  | .jtagExtest _ | .jtagIdcode | .jtagSamplePreload _ _ | .jtagClamp | .jtagHighz | .jtagBypass _ | .testLogicReset =>
    [.jtag]
  | .jtagDbgacc _ =>
    [.fields, .port, .logRam, .mailbox, .flash, .boot, .rails, .cpas, .doms, .model, .sync, .ecc, .jtag, .procs,
     .update, .health, .free, .held]
  | .processorRestart _ _ _ | .aliveTimeout _ =>
    [.fields, .logRam, .flash, .model, .ecc, .procs, .update, .health, .free]
  | .processorReloadDone _ =>
    [.fields, .logRam, .mailbox, .flash, .boot, .rails, .model, .ecc, .procs, .update, .health, .free]
  | .wdtKick _ _ => [.procs]
  | .mgpWatchdogExpiry => [.fields, .logRam, .mailbox, .flash, .model, .ecc, .pmbus, .procs, .update, .health, .free]
  | .logRecordSelect _ => [.fields, .logRam]
  | .scrubRead _ _ | .eccVerifyRead _ _ =>
    [.fields, .logRam, .flash, .model, .sync, .ecc, .procs, .update, .health, .free, .held]
  | .eccWriteBack _ => [.fields, .ecc]
  | .testRawWrite _ => [.fields, .logRam, .model, .sync, .ecc, .free]
  | .testRawRead _ => [.fields, .ecc, .free]
  | .ageingMeasurement _ => [.fields, .health, .intervals, .free]
  | .emUsageUpdate => [.fields, .health, .intervals]
  | .lifePrediction => [.fields, .pins, .logRam, .mailbox, .ecc, .pmbus, .health, .intervals]
  | .calibrationPersist => [.fields, .logRam, .flash, .ecc, .health, .intervals]
  | .calibrationCopyCommit _ => [.fields, .logRam, .mailbox, .flash, .boot, .model, .ecc, .health, .free]
  | .aliveIncrement _ => [.fields, .procs]

end Sys2Proof.Machine
end

