-- ==== Sys2Proof/Certificates/Slice0/Obligations.lean ====
section
/-! DEFINITION. The statements for the provers. -/
section
open Sys2Proof Sys2Proof.Machine

/-! ### The PMBus target, chapter 14 -/

/-- R405, Tables 14.7, R73: the commands with a constant answer, on a powered target, each with its PEC; a block's byte count
comes first.
R406, Table 14.8: the block reads NV_FLEET, NV_BRAKE, NV_IDENTITY, and MFR_REVISION of Table 14.7.
That State holds an answer as its bytes with the PEC last is the model's choice (log 43), and the PEC's polynomial is presumed
(log 77).
Completes: CAPABILITY, VOUT_MODE, PMBUS_REVISION, MFR_ID, MFR_MODEL, MFR_REVISION, NV_FLEET, NV_BRAKE_READ, NV_IDENTITY. -/
def Obligations.PmbusConstantsAndBlocks : Prop :=
  (∀ s : State, s.mailboxDown = false →
    Answered .pmCapability s 0x19 [0xD0] ∧ Answered .pmRevision s 0x98 [0x33]
    ∧ Answered .pmMfrId s 0x99 [6, 0x4E, 0x49, 0x52, 0x56, 0x4F, 0x53]
    ∧ Answered .pmMfrModel s 0x9A [5, 0x43, 0x48, 0x41, 0x5A, 0x41]
    ∧ (s.pmbus.page < 8 → Answered .pmVoutMode s 0x20 [0x14]) ∧ (s.pmbus.page = 8 → NotSupported .pmVoutMode s 0x20 1))
  ∧ (∀ s : State, s.mailboxDown = false →
    Answered .nvFleet s 0xD0 [8, s.fleetBits, s.getF F.idConfigLeader * 4 + s.getF F.idConfigDieId, s.getF F.gctlModeCurrent, 0,
      s.getF F.pwrCapnowForce % 256, s.getF F.pwrCapnowForce / 256 % 256, s.getF F.pwrIvlDie % 256,
      s.getF F.pwrIvlDie / 256 % 256]
    ∧ Answered .nvBrakeRead s 0xD1 [s.getF F.mbxBrakeStatPmbus % 256, s.getF F.mbxBrakeStatPmbus / 256 % 256]
    ∧ Answered .nvIdentity s 0xD4
        (16 :: (s.regBytes 0x00000 ++ s.regBytes 0x00004 ++ s.regBytes 0x00008 ++ s.regBytes 0x0101C))
    ∧ (∀ a b c, a < 10 → b < 10 → c < 10 → s.getF F.gctlFwVerMajor = a → s.getF F.gctlFwVerMinor = b →
        s.getF F.gctlFwVerPatch = c → Answered .pmMfrRevision s 0x9B [5, 0x30 + a, 0x2E, 0x30 + b, 0x2E, 0x30 + c]))

/-- R405, Table 14.7: the status registers of the selected page, and the summary bits of STATUS_BYTE and STATUS_WORD. OFF and
POWER_GOOD# show their source, or that it has been set since CLEAR_FAULTS: the model's choice (log 43), as is the form of an
answer; its PEC is presumed (log 77).
Completes: STATUS_BYTE, STATUS_WORD, STATUS_VOUT, STATUS_IOUT, STATUS_TEMPERATURE, STATUS_CML, STATUS_MFR_SPECIFIC. -/
def Obligations.PmbusStatus : Prop :=
  ∀ s : State, s.mailboxDown = false →
    Answered .pmStatusVout s 0x7A [s.pmStatus 0] ∧ Answered .pmStatusIout s 0x7B [s.pmStatus 1]
    ∧ Answered .pmStatusTemperature s 0x7D [s.pmStatus 2] ∧ Answered .pmStatusMfrSpecific s 0x80 [s.pmStatus 3]
    ∧ Answered .pmStatusCml s 0x7E [s.pmbus.cml] ∧ Answered .pmStatusByte s 0x78 [s.pmByte]
    ∧ Answered .pmStatusWord s 0x79 [s.pmWord % 256, s.pmWord / 256 % 256]
    ∧ (bitOf s.pmByte 6 = ((if s.pmbus.page = 8 then s.isSet F.thmStatusPwrOff else !s.isSet (F.railStatusOn s.pmbus.page))
        || bitOf (Store.read (fun _ => 0) s.pmbus.latched (36 + s.pmbus.page)) 0))
    ∧ (s.pmbus.page ≠ 8 → bitOf s.pmByte 5 = bitOf (s.pmStatus 0) 7 ∧ bitOf s.pmByte 4 = bitOf (s.pmStatus 1) 7)
    ∧ bitOf s.pmByte 2 = (s.pmStatus 2 != 0) ∧ bitOf s.pmByte 1 = (s.pmbus.cml != 0)
    ∧ bitOf s.pmByte 0 = (s.pmStatus 0 != 0 || s.pmStatus 1 != 0 || s.pmStatus 3 != 0)
    ∧ bitOf s.pmWord 15 = (s.pmStatus 0 != 0) ∧ bitOf s.pmWord 14 = (s.pmStatus 1 != 0)
    ∧ bitOf s.pmWord 12 = (s.pmStatus 3 != 0)
    ∧ bitOf s.pmWord 11 = (s.pmbus.page != 8 && (!s.isSet (F.railStatusPgood s.pmbus.page)
        || bitOf (Store.read (fun _ => 0) s.pmbus.latched (36 + s.pmbus.page)) 1))

/-- R405, Table 14.7: the readings. A command that the page does not support, or a reading of 0x8000, returns 0x0000 and
sets STATUS_CML bit 1. The form of an answer is the model's choice (log 43), its PEC is presumed (log 77), and how a reading is
rounded is open (log 9).
Completes: READ_VIN, READ_VOUT, READ_IOUT, READ_TEMPERATURE_1, READ_TEMPERATURE_2, READ_TEMPERATURE_3, READ_POUT. -/
def Obligations.PmbusReadings : Prop :=
  ∀ s : State, s.mailboxDown = false →
    (s.pmbus.page < 8 →
      Answered .pmReadVin s 0x88 (wordBytes (linear11Of (s.vBus s.pmbus.page) 1000))
      ∧ Answered .pmReadVout s 0x8B (wordBytes (roundDiv (s.getF (F.telVShort s.pmbus.page) * 4096) 4000))
      ∧ Answered .pmReadIout s 0x8C (wordBytes (linear11Of (s.getF (F.telIShort s.pmbus.page)) 8))
      ∧ Answered .pmReadPout s 0x96 (wordBytes (linear11Of (s.getF (F.telPShort s.pmbus.page)) 8))
      ∧ (∀ t, readingOf (s.getF (F.telTempNow s.pmbus.page)) = some t →
          Answered .pmReadTemperature1 s 0x8D (wordBytes (linear11Of t 64)))
      ∧ (readingOf (s.getF (F.telTempNow s.pmbus.page)) = none → NotSupported .pmReadTemperature1 s 0x8D 2)
      ∧ NotSupported .pmReadTemperature2 s 0x8E 2 ∧ NotSupported .pmReadTemperature3 s 0x8F 2)
    ∧ (s.pmbus.page = 8 →
      NotSupported .pmReadVout s 0x8B 2 ∧ NotSupported .pmReadIout s 0x8C 2
      ∧ Answered .pmReadPout s 0x96 (wordBytes (linear11Of (s.getF F.pwrIvlDie) 8))
      ∧ (s.liveConverters ≠ [] → Answered .pmReadVin s 0x88 (wordBytes (linear11Of
          (sumNat (s.liveConverters.map fun i => s.getF (F.telBcVVin i)) : Nat) (1000 * s.liveConverters.length))))
      ∧ (∀ t, readingOf s.highestLogic = some t → Answered .pmReadTemperature1 s 0x8D (wordBytes (linear11Of t 64)))
      ∧ (∀ t, readingOf s.highestStack = some t → Answered .pmReadTemperature2 s 0x8E (wordBytes (linear11Of t 64)))
      ∧ (∀ t, readingOf (s.getF (F.thmNtcRReading 0)) = some t →
          Answered .pmReadTemperature3 s 0x8F (wordBytes (linear11Of t 64))))

/-- R405, R408, R73: PAGE, CLEAR_FAULTS, an unsupported code, the Alert Response Address, and the SCL timeout; a write with a
wrong PEC has no effect but STATUS_CML bit 5.
R404: while the target is powered down, no command of Tables 14.7 and 14.8 is acknowledged, and nothing else changes.
That a write with a wrong PEC is acknowledged, and the form of an answer, are the model's choice (log 43); the PEC is presumed
(log 77).
Completes: PAGE, CLEAR_FAULTS, CAPABILITY, VOUT_MODE, STATUS_BYTE, STATUS_WORD, STATUS_VOUT, STATUS_IOUT, STATUS_TEMPERATURE,
STATUS_CML, STATUS_MFR_SPECIFIC, READ_VIN, READ_VOUT, READ_IOUT, READ_TEMPERATURE_1, READ_TEMPERATURE_2, READ_TEMPERATURE_3,
READ_POUT, PMBUS_REVISION, MFR_ID, MFR_MODEL, MFR_REVISION, NV_FLEET, NV_BRAKE_READ, NV_IDENTITY, ALERT_RESPONSE,
PMBUS_UNSUPPORTED_COMMAND, SMBUS_SCL_TIMEOUT. -/
def Obligations.PmbusTransfers : Prop :=
  (∀ s : State, s.mailboxDown = false →
    Answered (.pmPage none none) s 0x00 [s.pmbus.page]
    ∧ (∀ (p : Byte) (pec : Option Byte), (pec = none ∨ pec = some (BitVec.ofNat 8 (s.writePec 0x00 [p.toNat]))) →
      (p.toNat ≤ 8 → Accepted (.pmPage (some p) pec) s fun t => t.pmbus.page = p.toNat ∧ t.pmbus.cml = s.pmbus.cml
        ∧ t.pmbus.latched = s.pmbus.latched ∧ s.Frame t [.pmbus] [])
      ∧ (8 < p.toNat → SetsCml (.pmPage (some p) pec) s true [] 0 6))
    ∧ (∀ p b : Byte, b.toNat ≠ s.writePec 0x00 [p.toNat] → SetsCml (.pmPage (some p) (some b)) s true [] 0 5)
    ∧ (∀ b : Byte, b.toNat ≠ s.writePec 0x03 [] → SetsCml (.pmClearFaults (some b)) s true [] 0 5)
    ∧ (∀ pec : Option Byte, (pec = none ∨ pec = some (BitVec.ofNat 8 (s.writePec 0x03 []))) →
      Accepted (.pmClearFaults pec) s fun t => t.pmbus.latched = [] ∧ t.pmbus.cml = 0 ∧ t.pmbus.page = s.pmbus.page
        ∧ t.pins = { s.pins with alert := false } ∧ s.Frame t [.pmbus, .pins] [])
    ∧ (∀ c : Byte, c.toNat ∉ pmCodes → SetsCml (.pmUnsupported c) s false [] 0 7)
    ∧ (s.pins.alert = true → Completes .alertResponse s fun t =>
        t.pmbus.ack = true ∧ t.pmbus.answer = [0x58 + s.getF F.idConfigDieId] ∧ t.pmbus.page = s.pmbus.page
        ∧ t.pmbus.latched = s.pmbus.latched ∧ t.pmbus.cml = s.pmbus.cml
        ∧ t.pins = { s.pins with alert := false } ∧ s.Frame t [.pmbus, .pins] [])
    ∧ (∀ n, 25000 < n → Completes (.smbusSclTimeout n) s fun t =>
        t.pmbus.page = 0 ∧ t.pmbus.latched = s.pmbus.latched ∧ t.pmbus.cml = s.pmbus.cml ∧ s.Frame t [.pmbus] []))
  ∧ (∀ s : State, s.mailboxDown = true →
    ∀ (b pec : Option Byte) (w : BitVec 16) (l : List Byte) (d : Bool),
    ∀ c ∈ [Instr.pmPage b pec, .pmClearFaults pec, .nvBrakeWrite w pec, .nvBridgeTx l pec, .nvBridgeRx d, .pmCapability, .pmVoutMode, 
      .pmStatusByte, .pmStatusWord, .pmStatusVout, .pmStatusIout, .pmStatusTemperature, .pmStatusCml, .pmStatusMfrSpecific, .pmReadVin, .pmReadVout, .pmReadIout, .pmReadTemperature1,
      .pmReadTemperature2, .pmReadTemperature3, .pmReadPout, .pmRevision, .pmMfrId, .pmMfrModel, .pmMfrRevision, .nvFleet,
      .nvBrakeRead, .nvIdentity, .alertResponse],
    exec c s = .next { s with pmbus := { s.pmbus with ack := false, answer := [], pec := 0 } })

/-- R407: NV_BRIDGE_TX refused by a FULL channel 30 or its byte count sets STATUS_CML bit 1; else it writes the words of
channel 30 and GO, unless its PEC is wrong. A complete NV_BRIDGE_RX empties channel 31; one broken off does not.
That the byte count and FULL are tested before the PEC, and what a wrong PEC leads to, are the model's choice (log 43); the
PEC itself is presumed (log 77).
Completes: NV_BRIDGE_TX, NV_BRIDGE_RX. -/
def Obligations.PmbusBridge : Prop :=
  ∀ s : State, s.mailboxDown = false →
    (∀ b e, (s.channelFull 30 = true ∨ b.length < 32 ∨ 64 < b.length ∨ b.length % 4 ≠ 0) →
      SetsCml (.nvBridgeTx b e) s false [] 0 1)
    ∧ (∀ b, s.channelFull 30 = false → 32 ≤ b.length → b.length ≤ 64 → b.length % 4 = 0 →
      let pec := s.writePec 0xD2 (b.length :: b.map (·.toNat))
      (∀ e : Byte, e.toNat ≠ pec → SetsCml (.nvBridgeTx b (some e)) s true [] 0 5)
      ∧ ∀ e : Option Byte, (e = none ∨ e = some (BitVec.ofNat 8 pec)) → Accepted (.nvBridgeTx b e) s fun t =>
        (∀ i < b.length / 4, t.getF (F.mbxMsgWord 30 i) = leBytes ((b.drop (4 * i)).take 4))
        ∧ t.getF (F.mbxChCtlState 30) = 1 ∧ t.pmbus.cml = s.pmbus.cml
        ∧ s.Frame t [.pmbus] (F.mbxChCtlState 30 :: (List.range (b.length / 4)).map (F.mbxMsgWord 30)))
    ∧ (s.channelFull 31 = false → ∀ c, Answered (.nvBridgeRx c) s 0xD3 [1, 0])
    ∧ (s.channelFull 31 = true → ∀ c, Completes (.nvBridgeRx c) s fun t =>
        let n := min 16 (8 + bitsOf (s.getF (F.mbxMsgWord 31 0)) 4 4)
        t.pmbus.ack = true ∧ t.pmbus.answer.take 2 = [1 + 4 * n, 1] ∧ t.pmbus.answer.length = 2 + 4 * n
        ∧ (∀ i < n, leBytes (((t.pmbus.answer.drop (2 + 4 * i)).take 4).map (BitVec.ofNat 8)) = s.getF (F.mbxMsgWord 31 i) % 2 ^ 32)
        ∧ t.channelFull 31 = !c ∧ s.Frame t [.pmbus] [F.mbxChCtlState 31])

/-- R402, R63, Table 14.6: what activates and releases the three brake sources; of a write of MBX.BRAKE only KEY, SET and CLR
count. That the bits are kept while the brake is not evaluated, and that a low of 40 to 99 ns may be recognised or not, is the
model's reading (log 42); what the PMBus target answers rests on logs 43 and 77.
Completes: BRAKE_DOORBELL_SET, BRAKE_DOORBELL_CLR, BRAKE_N_ASSERT, BRAKE_N_RELEASE, NV_BRAKE_WRITE. -/
def Obligations.BrakeSources : Prop :=
  ∀ s : State, s.getF F.mbxBrakeStatDoorbell < 2 → s.getF F.mbxBrakeStatPmbus < 2 →
    let pin (low : Bool) := if s.brakeRuns then flag low else s.getF F.mbxBrakeStatPin
    let door := s.getF F.mbxBrakeStatDoorbell
    let pmb := s.getF F.mbxBrakeStatPmbus
    (∀ w : Word, w.toNat / 65536 = 0x4252 → w.toNat % 4 = 1 → Completes (.brakeDoorbellSet w) s fun t =>
        BrakeSettled s t 1 (pin s.pins.brakeLow) pmb ∧ s.Frame t [.logRam, .ecc] brakeFields)
    ∧ (∀ w : Word, w.toNat / 65536 = 0x4252 → w.toNat % 4 = 2 → Completes (.brakeDoorbellClr w) s fun t =>
        BrakeSettled s t 0 (pin s.pins.brakeLow) pmb ∧ s.Frame t [.logRam, .ecc] brakeFields)
    ∧ (∀ w : Word, (w.toNat / 65536 ≠ 0x4252 ∨ w.toNat % 4 ≠ 1 → exec (.brakeDoorbellSet w) s = .next s)
        ∧ (w.toNat / 65536 ≠ 0x4252 ∨ w.toNat % 4 ≠ 2 → exec (.brakeDoorbellClr w) s = .next s))
    ∧ (∀ n, 100 ≤ n → Completes (.brakeNAssert n) s fun t =>
        BrakeSettled s t door (pin true) pmb ∧ t.pins = { s.pins with brakeLow := true }
        ∧ s.Frame t [.pins, .logRam, .ecc] brakeFields)
    ∧ (∀ n, n < 40 → exec (.brakeNAssert n) s = .next s)
    ∧ (∀ n, 40 ≤ n → n < 100 → Completes (.brakeNAssert n) s fun t =>
        s.Frame t [.free] []
        ∨ (BrakeSettled s t door (pin true) pmb ∧ t.pins = { s.pins with brakeLow := true }
          ∧ s.Frame t [.pins, .logRam, .ecc, .free] brakeFields))
    ∧ (∀ n, n < 100 → exec (.brakeNRelease n) s = .next s)
    ∧ (∀ n, 100 ≤ n → Completes (.brakeNRelease n) s fun t =>
        BrakeSettled s t door (pin false) pmb ∧ t.pins = { s.pins with brakeLow := false }
        ∧ s.Frame t [.pins, .logRam, .ecc] brakeFields)
    ∧ (s.mailboxDown = false →
        (∀ b : Byte, ∀ w : BitVec 16, b.toNat ≠ s.writePec 0xD1 [w.toNat % 256, w.toNat / 256] →
          SetsCml (.nvBrakeWrite w (some b)) s true [] 0 5)
        ∧ ∀ w : BitVec 16, ∀ pec : Option Byte,
          (pec = none ∨ pec = some (BitVec.ofNat 8 (s.writePec 0xD1 [w.toNat % 256, w.toNat / 256]))) →
          (w = 0x4252#16 → Accepted (.nvBrakeWrite w pec) s fun t =>
            BrakeSettled s t door (pin s.pins.brakeLow) 1 ∧ t.pmbus.cml = s.pmbus.cml ∧ s.Frame t [.pmbus, .logRam, .ecc] brakeFields)
          ∧ (w = 0#16 → Accepted (.nvBrakeWrite w pec) s fun t =>
            BrakeSettled s t door (pin s.pins.brakeLow) 0 ∧ t.pmbus.cml = s.pmbus.cml ∧ s.Frame t [.pmbus, .logRam, .ecc] brakeFields)
          ∧ (w ≠ 0x4252#16 → w ≠ 0#16 → SetsCml (.nvBrakeWrite w pec) s true [] 0 6))

/-! ### The debug port -/

/-- R74, R75, R62, Table 2.8: the instruction each command selects, what it captures and loads, and the pins under it: HIGHZ
makes the outputs high-impedance (in a trip too: the model's choice, log 67); EXTEST and CLAMP keep every PWM high-impedance while
a BC_EN is high, as asserted or as scanned; a trip asserted shows at the two trip pins whatever the scan data; SAMPLE captures the
PWM and trip outputs as
the block drives them; CLKMON is low while disabled.
Completes: EXTEST, IDCODE, SAMPLE_PRELOAD, CLAMP, HIGHZ, DBGACC, BYPASS, TEST_LOGIC_RESET. -/
def Obligations.DebugPort : Prop :=
  ∀ s : State,
    (∀ b, Completes (.jtagExtest b) s fun t =>
      t.jtag = { s.jtag with resting := false, instr := 0, boundary := b.getD s.jtag.boundary }
      ∧ (s.isSet F.railcBcStatusEn = true ∨ (∃ i, 12 ≤ i ∧ i < 16 ∧ t.boundaryPin i = .high) → ∀ p, t.pwmPin p = .highZ)
      ∧ (s.pins.thermTrip = true → t.thermTripPin = some false)
      ∧ (s.pins.thermTrip = true ∨ s.pins.pwrOff = true → t.pwrOffPin = some s.pins.pwrOff)
      ∧ (∀ i, t.boundaryPin i = if (b.getD s.jtag.boundary).outputs.getD i false then .high else .low)
      ∧ s.Frame t [.jtag] [])
    ∧ (∀ a b, Completes (.jtagSamplePreload a b) s fun t =>
      (∃ c, t.jtag = { s.jtag with resting := false, instr := 2, captured := c, boundary := b }
        ∧ c.thermTripN = !s.pins.thermTrip ∧ c.pwrOffReq = s.pins.pwrOff ∧ c.inputs = a.inputs
        ∧ (∀ p < 44, ((s.phase p).pwm = .high → c.pwmData.getD p false = true)
            ∧ ((s.phase p).pwm = .low → c.pwmData.getD p false = false) ∧ c.pwmEnable.getD p false = ((s.phase p).pwm != .highZ)))
      ∧ s.Frame t [.jtag] [])
    ∧ (Completes .jtagClamp s fun t => t.jtag = { s.jtag with resting := false, instr := 4 }
      ∧ (s.isSet F.railcBcStatusEn = true ∨ (∃ i, 12 ≤ i ∧ i < 16 ∧ t.boundaryPin i = .high) → ∀ p, t.pwmPin p = .highZ)
      ∧ (s.pins.thermTrip = true → t.thermTripPin = some false) ∧ s.Frame t [.jtag] [])
    ∧ (Completes .jtagHighz s fun t => t.jtag = { s.jtag with resting := false, instr := 5 } ∧ (∀ p, t.pwmPin p = .highZ)
      ∧ (∀ i, t.boundaryPin i = .highZ) ∧ t.thermTripPin = none ∧ t.pwrOffPin = none ∧ s.Frame t [.jtag] [])
    ∧ (Completes .jtagIdcode s fun t => t.jtag = { s.jtag with resting := false, instr := 1, data := 0x0C4A2E3B }
      ∧ s.Frame t [.jtag] [])
    ∧ (Completes .testLogicReset s fun t => t.jtag = { s.jtag with resting := true, instr := 1, data := 0x0C4A2E3B }
      ∧ (s.isSet F.clkClkmonEn = false → t.boundaryPin 0 = .low) ∧ s.Frame t [.jtag] [])
    ∧ (∀ c : BitVec 6, jtagDefined c.toNat = false → Completes (.jtagBypass c) s fun t =>
      t.jtag = { s.jtag with resting := false, instr := 63 } ∧ s.Frame t [.jtag] [])
    ∧ (s.isSet F.gctlStatusDebugEn = false → ∀ a, Completes (.jtagDbgacc a) s fun t =>
      t.jtag = { s.jtag with resting := false, instr := 63 } ∧ s.Frame t [.jtag] [])
    ∧ (s.isSet F.gctlStatusDebugEn = true → Completes (.jtagDbgacc .none) s fun t =>
      t.jtag = { s.jtag with resting := false, instr := 16 } ∧ s.Frame t [.jtag] [])

/-! ### Mailboxes and messages, chapter 14 -/

/-- R375, R376, R378, R379: a master with access to an EMPTY request channel writes its words and makes it FULL with GO;
to a FULL channel both are ignored and counted, as is a write by a party without that role; DONE empties a reply channel. R409: a
GO in the tick of a reset that has cleared the channels has no effect. R75: the debug port does so on channels 28 and 29
while DBGACC is selected and debug enabled.
R379, R382: a host access to a channel is an error completion while the mailbox part is powered down, and when the
binding does not name its master, which is also counted and raises BIND_REJECT. The value 0 that the port returns with a write is
the model's choice (log 18).
Completes: MAILBOX_WORD_WRITE, MAILBOX_GO, MAILBOX_DONE. -/
def Obligations.MailboxChannels : Prop :=
  (∀ (s : State) (m : Master) (ch : Fin 32), s.hostGate m.toNat ch.val = .pass →
    (ch.val < 16 → s.channelFull ch.val = false →
      (∀ w v, Completes (.mailboxWordWrite (.host m) ch w v) s fun t =>
        t.getF (F.mbxMsgWord ch.val w.val) = v.toNat ∧ m.toNat ∈ t.writersOf ch.val
        ∧ t.port = { s.port with value := 0, error := false } ∧ s.Frame t [.port, .mailbox] [F.mbxMsgWord ch.val w.val])
      ∧ (s.mailbox.clearedAt ≠ some s.now → Completes (.mailboxGo (.host m) ch) s fun t =>
        t.channelFull ch.val = true ∧ t.getF (F.mbxChCtlStamp ch.val) = m.toNat
        ∧ t.getF (F.mbxChCtlMixed ch.val) = flag ((s.writersOf ch.val).any (· != m.toNat))
        ∧ s.Frame t [.port] [F.mbxChCtlState ch.val, F.mbxChCtlStamp ch.val, F.mbxChCtlMixed ch.val]))
    ∧ (s.mailbox.clearedAt = some s.now → Completes (.mailboxGo (.host m) ch) s fun t => s.Frame t [.port] [])
    ∧ (16 ≤ ch.val → ch.val < 28 → Completes (.mailboxDone (.host m) ch) s fun t =>
        t.channelFull ch.val = false ∧ s.Frame t [.port] [F.mbxChCtlState ch.val])
    ∧ (s.channelFull ch.val = true ∨ 16 ≤ ch.val →
      let counted (t : State) := t.getF (F.mbxChCtlRejects ch.val) = min (s.getF (F.mbxChCtlRejects ch.val) + 1) 255
        ∧ t.port = { s.port with value := 0, error := false } ∧ s.Frame t [.port] [F.mbxChCtlRejects ch.val]
      (∀ w v, Completes (.mailboxWordWrite (.host m) ch w v) s counted)
      ∧ (s.mailbox.clearedAt ≠ some s.now → Completes (.mailboxGo (.host m) ch) s counted))
    ∧ (ch.val < 16 → Completes (.mailboxDone (.host m) ch) s fun t =>
        t.getF (F.mbxChCtlRejects ch.val) = min (s.getF (F.mbxChCtlRejects ch.val) + 1) 255 ∧ s.Frame t [.port] [F.mbxChCtlRejects ch.val]))
  ∧ (∀ s : State,
    (s.debugAccess = true → s.channelsDown = false → s.channelFull 28 = false →
      (∀ w v, Completes (.mailboxWordWrite .dbgacc 28 w v) s fun t =>
        t.getF (F.mbxMsgWord 28 w.val) = v.toNat ∧ s.Frame t [] [F.mbxMsgWord 28 w.val])
      ∧ (s.mailbox.clearedAt ≠ some s.now →
        Completes (.mailboxGo .dbgacc 28) s fun t => t.channelFull 28 = true ∧ s.Frame t [] [F.mbxChCtlState 28]))
    ∧ (s.debugAccess = true → s.channelsDown = false → Completes (.mailboxDone .dbgacc 29) s fun t =>
        t.channelFull 29 = false ∧ s.Frame t [] [F.mbxChCtlState 29])
    ∧ (s.debugAccess = false → ∀ ch w v, exec (.mailboxWordWrite .dbgacc ch w v) s = .next s
        ∧ exec (.mailboxGo .dbgacc ch) s = .next s ∧ exec (.mailboxDone .dbgacc ch) s = .next s))
  ∧ (∀ (s : State) (m : Master) (ch : Fin 32),
    ∀ c ∈ [Instr.mailboxGo (.host m) ch, .mailboxDone (.host m) ch, .mailboxWordWrite (.host m) ch 0 0],
      (s.hostGate m.toNat ch.val = .error → exec c s = .next { s with port := { s.port with value := 0, error := true } })
      ∧ (s.hostGate m.toNat ch.val = .unbound → Completes c s fun t =>
          t.port.error = true ∧ bitOf (t.getF F.mbxMevt) 0 = true
          ∧ t.getF (F.mbxChCtlRejects ch.val) = min (s.getF (F.mbxChCtlRejects ch.val) + 1) 255 ∧ s.Frame t [.port] [F.mbxChCtlRejects ch.val, F.mbxMevt])
      ∧ (28 ≤ ch.val ∨ s.channelsDown = true → s.hostGate m.toNat ch.val = .error)
      ∧ (s.channelsDown = false → ch.val < 28 → s.hostGate m.toNat ch.val =
          if s.packageX4 = false then .pass else if s.isSet F.mbxBindCtlLock = false then .error
          else if s.bound m.toNat ch.val then .pass else .unbound))

/-- R384, R386: the MGP takes the next FULL request channel; the channel becomes EMPTY, and a request that passes the checks
is in hand; one that fails a check is answered with the status, and the data, of that check.
R386: which checks fail in which order, for a host request; that an OPEN meets check 7 on a channel with a session is the model's
reading (log 39).
Completes: MGP_TAKE_MESSAGE. -/
def Obligations.RequestsTaken : Prop :=
  (∀ (s : State) (ch : Nat), s.running 2 = true → s.mailbox.request = none → s.nextRequest = some ch → ch < 32 →
    s.channelFull ch = true
    ∧ (s.checkRequest (s.requestIn ch) = none → Completes .mgpTakeMessage s fun t =>
        t.channelFull ch = false ∧ t.mailbox.request = some (s.requestIn ch) ∧ t.mailbox.served = ch
        ∧ (ch < 16 → bitOf (t.getF F.mbxHevtEmpty) ch = true)
        ∧ s.Frame t [.mailbox, .logRam, .ecc] ([F.mbxChCtlState ch, F.mbxHevtEmpty] ++ traceFields))
    ∧ (∀ st data, s.checkRequest (s.requestIn ch) = some (st, data) → Completes .mgpTakeMessage s fun t =>
        let r := s.requestIn ch
        t.mailbox.request = none ∧ t.mailbox.served = ch
        ∧ ∃ u : State, t = u.reply (if data = [4] then { r with minor := 1 } else r) st 0 data
          ∧ u.channelFull ch = false ∧ u.mailbox.request = none ∧ u.mailbox.served = ch
          ∧ (ch < 16 → bitOf (u.getF F.mbxHevtEmpty) ch = true)
          ∧ s.Frame u [.mailbox, .logRam, .ecc] ([F.mbxChCtlState ch, F.mbxHevtEmpty] ++ traceFields)))
  ∧ (∀ (s : State) (r : Request), r.channel < 16 →
    (r.mixed = true → s.checkRequest r = some (8, []))
    ∧ (r.mixed = false → r.word 0 / 2 ^ 28 ≠ 2 → s.checkRequest r = some (3, [4]))
    ∧ (r.mixed = false → r.word 0 / 2 ^ 28 = 2 →
        (8 < bitsOf (r.word 0) 4 4 ∨ bitsOf (r.word 0) 1 3 ≠ 0 ∨ r.opcode ∉ opcodes → s.checkRequest r = some (4, []))
        ∧ (bitsOf (r.word 0) 4 4 ≤ 8 → bitsOf (r.word 0) 1 3 = 0 → r.opcode = 1 → s.checkRequest r =
            if s.sessionOn r.channel = true ∧ r.minor < bitsOf (r.word 0) 24 4 then some (3, []) else none)
        ∧ (bitsOf (r.word 0) 4 4 ≤ 8 → bitsOf (r.word 0) 1 3 = 0 → r.opcode ∈ opcodes → r.opcode ≠ 1 →
            (s.sessionOn r.channel = false ∨ r.stamp ≠ s.getF (F.mbxSesBMaster r.channel) → s.checkRequest r = some (8, []))
            ∧ (s.sessionOn r.channel = true → r.stamp = s.getF (F.mbxSesBMaster r.channel) →
                (r.minor < bitsOf (r.word 0) 24 4 → s.checkRequest r = some (3, []))
                ∧ (bitsOf (r.word 0) 24 4 ≤ r.minor → s.checkRequest r = none)))))

/-- R385, R387: a reply carries the opcode and SEQ of its request, the minor, the status word with the channel, and its
data; written at once when its channel is EMPTY and nothing queued must leave first. A QUIET request answered OK has no
reply. A request on channel 28 or 30 is answered on 29 or 31, another on the channel of its session, or the one that an OPEN
names, or on 16 + channel mod 12.
R391: while its channel is FULL, a reply waits in the outbound queue; a message that arrives at a full queue drops the
oldest notification, or else the oldest reply, counts the drop and raises QUEUE_DROP. The queue drains into an EMPTY channel, in
order, but replies before notifications; a message that waited while the host was absent carries QUEUED.
Completes: OUTBOUND_QUEUE_DRAIN. -/
def Obligations.RepliesAndQueue : Prop :=
  (∀ (s : State) (ch : Nat),
    let r := s.requestIn ch
    let named := s.getF (F.mbxMsgWord ch 2) / 2 ^ 24
    (s.sessionOn ch = true → r.minor = s.getF (F.mbxSesAMinor ch))
    ∧ (ch = 28 ∨ ch = 30 → r.reply = ch + 1)
    ∧ (ch ≠ 28 → ch ≠ 30 →
      (r.opcode = 1 → (16 ≤ named → named ≤ 27 → r.reply = named) ∧ (named < 16 ∨ 27 < named → r.reply = 16 + ch % 12))
      ∧ (r.opcode ≠ 1 → r.reply = if s.sessionOn ch then s.getF (F.mbxSesAReply ch) else 16 + ch % 12))) ∧
  (∀ (s : State) (r : Request) (status reason : Nat) (data : List Nat),
    (bitOf (r.word 0) 0 = true → s.reply r 0 reason data = s)
    ∧ (¬ (status = 0 ∧ bitOf (r.word 0) 0 = true) → s.channelFull r.reply = false →
        (∀ q ∈ s.mailbox.queue, q.channel = r.reply → q.isReply = false) → data.length ≤ 14 → r.reply < 32 → r.minor < 16 →
        status < 256 → reason < 256 → r.channel < 32 → (∀ d ∈ data, d < 2 ^ 32) →
      let t := s.reply r status reason data
      let h := t.getF (F.mbxMsgWord r.reply 0)
      t.channelFull r.reply = true ∧ bitsOf h 28 4 = 2 ∧ bitsOf h 24 4 = r.minor ∧ bitsOf h 16 8 = r.opcode
        ∧ bitsOf h 8 8 = bitsOf (r.word 0) 8 8 ∧ bitsOf h 4 4 = max 8 (data.length + 2) - 8 ∧ bitsOf h 0 4 = 0
        ∧ t.getF (F.mbxMsgWord r.reply 1) = status * 2 ^ 24 + reason * 2 ^ 16 + r.channel
        ∧ (∀ i < data.length, t.getF (F.mbxMsgWord r.reply (i + 2)) = data.getD i 0)
        ∧ s.Frame t [.logRam, .ecc] ([F.mbxChCtlState r.reply, F.mbxHevtFull] ++ traceFields
            ++ (List.range 16).map (F.mbxMsgWord r.reply))))
  ∧ (∀ s : State,
    (∀ q ∈ s.beginAbsence.mailbox.queue, q.absent = true)
    ∧ (∀ m, s.channelFull m.channel = true → s.mailbox.queue.length < 64 →
      (s.send m).mailbox.queue = s.mailbox.queue ++ [{ m with absent := s.isSet F.mbxHostAbsent }]
      ∧ (s.send m).getF F.mbxQueueDepth = s.mailbox.queue.length + 1)
    ∧ (∀ m, s.channelFull m.channel = true → s.mailbox.queue.length = 64 →
      bitOf ((s.send m).getF F.mbxMevt) 3 = true ∧ (s.send m).mailbox.queue.length = 64
      ∧ (s.send m).getF F.mbxQueueDropped = min (s.getF F.mbxQueueDropped + 1) (2 ^ F.mbxQueueDropped.width - 1)
      ∧ (s.send m).getF F.mbxQueueDepth = 64
      ∧ (∀ a q b, s.mailbox.queue = a ++ q :: b → (∀ x ∈ a, x.isReply = true) → q.isReply = false →
          (s.send m).mailbox.queue = a ++ b ++ [{ m with absent := s.isSet F.mbxHostAbsent }])
      ∧ ((∀ q ∈ s.mailbox.queue, q.isReply = true) →
          (s.send m).mailbox.queue = s.mailbox.queue.tail ++ [{ m with absent := s.isSet F.mbxHostAbsent }]))
    ∧ (∀ (ch : Fin 32) (m : OutMsg), s.running 2 = true → s.channelFull ch.val = false → nextFor ch.val s.mailbox.queue = some m →
      Completes (.outboundQueueDrain ch) s fun t =>
        t.channelFull ch.val = true ∧ t.mailbox.queue = dropFirst (· == m) s.mailbox.queue
        ∧ (∃ a b, s.mailbox.queue = a ++ m :: b ∧ t.mailbox.queue = a ++ b
            ∧ ∀ q ∈ a, q.channel = ch.val → m.isReply = true ∧ q.isReply = false)
        ∧ ((∃ q ∈ s.mailbox.queue, q.channel = ch.val ∧ q.isReply = true) → m.isReply = true)
        ∧ (m.absent = true → m.words ≠ [] → bitOf (t.getF (F.mbxMsgWord ch.val 0)) 0 = true)
        ∧ (∀ i < (queuedWords m).length, i < 16 →
            t.getF (F.mbxMsgWord ch.val i) = (queuedWords m).getD i 0 % 2 ^ 32)))

/-- R392, R393, R394: the heartbeat timer expires with no reload, and absence begins, stamped; an OPEN or a HEARTBEAT
reloads the timer and ends absence; CLOSE of the last session begins it with BY_CLOSE. That an OPEN on channel 28 is answered and
opens nothing is the model's reading of R396 (log 39).
Completes: HEARTBEAT_EXPIRY, OPEN, CLOSE, HEARTBEAT. -/
def Obligations.SessionsAndAbsence : Prop :=
  ∀ (s : State) (r : Request),
    (s.isSet F.mbxHostAbsent = false → s.mailbox.hbLen ≠ 0 → s.getF F.mbxHbLeftBeats = 0 → Completes .heartbeatExpiry s fun t =>
      t.isSet F.mbxHostAbsent = true ∧ t.getF F.mbxAbsStartBeat = s.beat32)
    ∧ (s.serves 1 r → r.channel < 16 → s.sessionOn r.channel = false → 16 ≤ r.word 2 / 2 ^ 24 → r.word 2 / 2 ^ 24 ≤ 27 →
        r.reply < 32 → r.stamp < 2 ^ 16 → Completes .sessionOpen s fun t =>
      t.sessionOn r.channel = true ∧ t.getF (F.mbxSesBMaster r.channel) = r.stamp
        ∧ t.getF (F.mbxSesAMinor r.channel) = min (r.word 2 % 256) 1 ∧ t.isSet F.mbxHostAbsent = false
        ∧ t.mailbox.hbLen = beatsOf (s.getF F.mbxHbToMs * 1000) (s.getF F.tbSyncFreqUsed) ∧ t.mailbox.request = none)
    ∧ (s.serves 1 r → r.channel < 16 → s.sessionOn r.channel = true → r.stamp ≠ s.getF (F.mbxSesBMaster r.channel) →
        s.isX4 = false ∨ s.bound r.stamp r.channel = false → Replied .sessionOpen s r 8 0 [])
    ∧ (s.serves 1 r → 16 ≤ r.channel → let n := min (r.word 2 % 256) 1
        Replied .sessionOpen s { r with minor := n } 0 0 (s.openWords n r.stamp))
    ∧ (s.serves 2 r → r.channel < 16 → s.sessions = 1 → s.sessionOn r.channel = true → s.isSet F.mbxHostAbsent = false →
        Completes .sessionClose s fun t =>
      t.sessionOn r.channel = false ∧ t.isSet F.mbxHostAbsent = true ∧ t.isSet F.mbxHostByClose = true
        ∧ t.getF F.mbxAbsStartBeat = s.beat32)
    ∧ (s.serves 3 r → r.channel < 16 → Completes .heartbeat s fun t =>
      t.isSet F.mbxHostAbsent = false ∧ t.mailbox.hbLen = beatsOf (s.getF F.mbxHbToMs * 1000) (s.getF F.tbSyncFreqUsed)
        ∧ (s.isSet F.mbxHostAbsent = true → t.getF F.mbxAbsEndBeat = s.beat32 ∧ t.isSet F.mbxHostByClose = false))

/-- R396, R399, R394: the requests answered from registers alone.
Completes: GET_CAP, GET_PROFILES, GET_MODE, GET_SUMMARY, READ_REGS, GET_ABSENCE. -/
def Obligations.RequestsThatRead : Prop :=
  ∀ (s : State) (r : Request),
    (s.serves 0x11 r → Replied .getCap s r 0 0 [s.word 0x20008, s.word 0x2000C, s.word 0x20010])
    ∧ (s.serves 0x13 r → Replied .getProfiles s r 0 0 [s.word 0x01014])
    ∧ (s.serves 0x21 r → Replied .getMode s r 0 0 [s.modeWord])
    ∧ (s.serves 0x42 r → Replied .getAbsence s r 0 0 s.absenceWords)
    ∧ (s.serves 0x40 r → ∃ e, Replied .getSummary s r 0 0
        [s.getF F.pwrIvlDie * 2 ^ 16 + s.getF F.pwrCapnowForce, s.highestLogic * 2 ^ 16 + s.highestStack,
         s.getF F.gctlModeCurrent * 2 ^ 29 + s.getF F.mbxHostAbsent * 2 ^ 28 + s.getF F.gctlStatusTripPending * 2 ^ 27,
         e % 2 ^ 32, e / 2 ^ 32, s.beat32]
        ∧ e = sumNat ((List.range 8).map fun k => s.getF (F.telEnergyLoUj k) + 2 ^ 32 * s.getF (F.telEnergyHiUj k)) % 2 ^ 64)
    ∧ (s.serves 0x41 r → (r.word 2 / 2 ^ 28 = 0 ∨ r.word 2 / 2 ^ 28 = 15 ∨ r.word 2 % 4 ≠ 0) → Replied .readRegs s r 4 0 [])
    ∧ (s.serves 0x41 r → r.word 2 / 2 ^ 28 = 1 → r.word 2 % 4 = 0 → s.gateAt r.stamp (r.word 2 % 2 ^ 20) = .pass →
        RepliedAfter .readRegs s r (fun u => u = (s.taken.readPlain (r.word 2 % 2 ^ 20)).2) 0
          fun _ => [(s.taken.readPlain (r.word 2 % 2 ^ 20)).1])

/-- R214, R118, R121: the requests that change the cap, the profile and the trip records, and when each is refused; that an absent
profile is answered before a pending trip record is looked at is the model's choice (log 56), as are NOT_PERMITTED on a die that is
not leader (log 40) and FAULT while the trip path has the flash port (R272, log 31).
Completes: SET_CAP, SELECT_PROFILE, ACK_TRIP_RECORD. -/
def Obligations.CapProfileTripRequests : Prop :=
  ∀ (s : State) (r : Request),
    (s.serves 0x10 r → s.isLeader = false → Replied .setCap s r 8 0 [])
    ∧ (s.serves 0x10 r → s.isLeader = true → s.isSet F.gctlStatusCheckBusy = true → Replied .setCap s r 1 0 [])
    ∧ (s.serves 0x10 r → s.isLeader = true → s.isSet F.gctlStatusCheckBusy = false →
        (r.word 2 % 65536 < s.getF F.pwrProfACapMin ∨ s.getF F.pwrProfACapMax < r.word 2 % 65536) → Replied .setCap s r 4 0 [])
    ∧ (s.serves 0x10 r → s.isLeader = true → s.isSet F.gctlStatusCheckBusy = false →
        s.getF F.pwrProfACapMin ≤ r.word 2 % 65536 → r.word 2 % 65536 ≤ s.getF F.pwrProfACapMax →
        RepliedAfter .setCap s r (fun u => u.getF F.pwrCapnowHost = r.word 2 % 65536 ∧ u.appliedF F.pwrHostcapCap = r.word 2 % 65536
          ∧ s.Frame u [.mailbox, .applied] [F.pwrCapnowHost, F.pwrHostcapCap]) 0 fun u => [u.getF F.pwrCapnowForce])
    ∧ (s.serves 0x12 r → (s.boot.passed = [] ∨ s.isSet F.gctlStatusCheckBusy = true) →
        (hasProfile (s.bankBody s.activeBank) (r.word 2 % 8) = false → Replied .selectProfile s r 4 0 [])
        ∧ (hasProfile (s.bankBody s.activeBank) (r.word 2 % 8) = true → s.isSet F.gctlStatusTripPending = true →
          Replied .selectProfile s r 8 0 [])
        ∧ (hasProfile (s.bankBody s.activeBank) (r.word 2 % 8) = true → s.isSet F.gctlStatusTripPending = false →
          s.isSet F.gctlStatusCheckBusy = true → Replied .selectProfile s r 1 0 []))
    ∧ (s.serves 0x12 r → s.boot.passed = [] → hasProfile (s.bankBody s.activeBank) (r.word 2 % 8) = true →
        s.isSet F.gctlStatusTripPending = false → s.isSet F.gctlStatusCheckBusy = false →
        Completes .selectProfile s fun t => t.isSet F.gctlStatusCheckBusy = true ∧ t.boot.switchTo = some (r.word 2 % 8)
          ∧ t.boot.toCheck = [0, 1, 2, 3, 4, 5, 6] ∧ t.mailbox.awaitProfile = some r ∧ t.mailbox.request = none)
    ∧ (s.serves 0x14 r → s.flash.tripOwned = true → Replied .ackTripRecord s r 7 0 [])
    ∧ (s.serves 0x14 r → s.flash.tripOwned = false → Completes .ackTripRecord s fun t =>
        t.isSet F.gctlStatusTripPending = false ∧ t.isSet F.gctlTripRecValid = false ∧ t.mailbox.request = none
        ∧ t.flash = (s.forEach s.pendingSlots fun s k =>
            s.program (s.boot.layout.evtOff + 64 * k + 0x3C) (toLeBytes 4 0)).flash)

/-- R397, R314, R398, R357: SET_MODE, the change of mode at the next tick 0, the domain votes and CTX_COMMAND; that a mode that
cannot be asked for is answered before a pending trip record is looked at is the model's choice (log 56).
Completes: SET_MODE, MODE_CHANGE, CTX_COMMAND, VOTE_CLEAR, VOTE_SET. -/
def Obligations.ModeAndVoteRequests : Prop :=
  ∀ (s : State) (r : Request),
    (s.serves 0x20 r → s.mailbox.modeNext = none → (r.word 2 % 8 = 1 ∨ 5 ≤ r.word 2 % 8) → Replied .setMode s r 4 0 [])
    ∧ (s.serves 0x20 r → s.mailbox.modeNext = none → (r.word 2 % 8 = 2 ∨ r.word 2 % 8 = 3) → s.isSet F.gctlStatusTripPending = true →
        Replied .setMode s r 8 0 [])
    ∧ (s.serves 0x20 r → s.mailbox.modeNext = none → 2 ≤ r.word 2 % 8 → r.word 2 % 8 ≤ 4 → s.isSet F.gctlStatusTripPending = false →
        s.isSet F.hlthFmaxState = false → r.word 2 % 8 ≠ s.getF F.gctlModeCurrent →
        Completes .setMode s fun t => t.mailbox.modeNext = some (r.word 2 % 8) ∧ t.mailbox.modeReply = some r
          ∧ s.Frame t [.mailbox] [])
    ∧ (s.mailbox.modeDue = false → exec .modeChange s = .next s)
    ∧ (∀ m, s.mailbox.modeDue = true → s.isSet F.domStatusParked = false → s.mailbox.modeNext = some m → m < 8 → m ≠ s.getF F.gctlModeCurrent → s.getF F.gctlModeCurrent < 8 →
        Completes .modeChange s fun t => t.getF F.gctlModeCurrent = m
          ∧ t.getF F.gctlModePrevious = s.getF F.gctlModeCurrent ∧ t.mailbox.modeNext = none)
    ∧ (s.serves 0x80 r → RepliedAfter .voteClear s r (fun u =>
          (∀ d < 96, bitOf (r.word (2 + d / 32)) (d % 32) = true → bitOf (u.getF (F.domDVoteMask d)) 0 = false)
          ∧ s.Frame u [.mailbox] ((List.range 96).map F.domDVoteMask)) 0 fun _ => [])
    ∧ (s.serves 0x81 r → RepliedAfter .voteSet s r (fun u =>
          (∀ d < 96, bitOf (r.word (2 + d / 32)) (d % 32) = true → bitOf (u.getF (F.domDVoteMask d)) 0 = true)
          ∧ s.Frame u [.mailbox] ((List.range 96).map F.domDVoteMask)) 0 fun _ => [])
    ∧ (s.serves 0x30 r → s.isSet F.syncCtxResBusy = false → r.word 3 / 2 ^ 28 ≠ 3 → ∃ u : State,
        exec .ctxCommand s = .next (u.reply r (u.getF F.syncCtxResStatus) 0 [u.getF F.syncCtxResValue])
        ∧ u = ({ s.taken with fields := (s.setF F.syncCtxArgArg (r.word 2)).fields } : State).ctxWrite (r.word 3)
        ∧ u.isSet F.syncCtxResBusy = false)

/-! ### Log, processors, update: chapter 15 -/

/-- R423, R425, Table 15.9: a record takes the next SEQ, with the beat, tick, source, severity of its code and code at which it is
written; a full ring loses its oldest record, which is counted.
R424: a write of LOG.RD_SEL has the record of a SEQ presented as its tick ends, and LOG_READ presents it, while the ring holds it;
GONE or BAD_ARG otherwise; here with no error in the words read.
Table 15.11, R428, R429, R427: LOG_STATUS, TRACE_MASK, EVENT_READ, and the mirroring of the next record into its slot
of the event-record region, counted; one beyond 16 a second, or blocked by a pending trip record, is skipped and counted; a flash
operation that fails is counted and raises MIRROR_FAIL. That LOG.RD_SEL is answered as the tick ends, and EVENT_READ by FAULT once the
trip path has the flash port, are the model's readings (logs 40 and 31), as are the places of erases and what a failed one leaves
(log 44).
Completes: LOG_READ, LOG_STATUS, TRACE_MASK, EVENT_READ, LOG_RECORD_WRITE, LOG_RECORD_SELECT, MIRROR_RECORD. -/
def Obligations.LogRecords : Prop :=
  (∀ (s : State) (src : Fin 4) (sev : Fin 6) (code : BitVec 16) (d0 d1 d2 d3 : Word), s.getF F.logHeadSeq < 2 ^ 32 →
    (if src.val = 0 then s.boot.rom else s.running (src.val - 1)) = true → logCode src.val code.toNat = true →
    Completes (.logRecordWrite src sev code d0 d1 d2 d3) s fun t =>
      t.logRecord (s.getF F.logHeadSeq) = ⟨s.getF F.logHeadSeq, s.beat32, s.getF F.tbEraCount * 2 ^ 16 + s.beat / 2 ^ 32,
          src.val * 2 ^ 28 + logSeverity code.toNat [d0.toNat, d1.toNat, d2.toNat, d3.toNat] sev.val * 2 ^ 24 + s.time.tick * 2 ^ 16
            + code.toNat,
          [d0.toNat, d1.toNat, d2.toNat, d3.toNat]⟩
      ∧ t.getF F.logHeadSeq = (s.getF F.logHeadSeq + 1) % 2 ^ 32
      ∧ t.getF F.logTailSeq = (if 1280 ≤ s.logCount then (s.getF F.logTailSeq + 1) % 2 ^ 32 else s.getF F.logTailSeq)
      ∧ t.getF F.logStatOverwritten = (if 1280 ≤ s.logCount
          then min (s.getF F.logStatOverwritten + 1) (2 ^ F.logStatOverwritten.width - 1) else s.getF F.logStatOverwritten)
      ∧ (s.getF F.logCfgIntSev ≤ logSeverity code.toNat [d0.toNat, d1.toNat, d2.toNat, d3.toNat] sev.val →
          bitOf (t.getF F.logEvt) 0 = true)
      ∧ s.Frame t [.logRam, .ecc] logFields)
  ∧ (∀ (s : State) (q : Word) (r : Request),
    (Completes (.logRecordSelect q) s fun t => t.getF F.logRdSelSeq = q.toNat
      ∧ t.logRam = { s.logRam with selected := true } ∧ s.Frame t [.logRam] [F.logRdSelSeq])
    ∧ (s.logRam.selected = true →
      let n := s.getF F.logRdSelSeq
      let t := s.logRest
      (s.logPresent n = false → t.getF F.logRdStatusValid = 0 ∧ t.getF F.logRdStatusGone = 1
        ∧ (∀ i < 8, t.getF (F.logRdWWord i) = 0)
        ∧ s.Frame t [.logRam] ([F.logRdStatusValid, F.logRdStatusGone] ++ (List.range 8).map F.logRdWWord))
      ∧ ((∀ i < 4, s.errorAt 6 (4 * s.logSlot n + i) = 0) → s.logPresent n = true → (s.logRecord n).seq = n →
          (s.logRecord n).data ≠ [] → t.getF F.logRdStatusValid = 1 ∧ t.getF F.logRdStatusGone = 0
        ∧ (∀ i < 8, t.getF (F.logRdWWord i) = (recordWords (s.logRecord n)).getD i 0 % 2 ^ 32)
        ∧ s.Frame t [.logRam] ([F.logRdStatusValid, F.logRdStatusGone] ++ (List.range 8).map F.logRdWWord)))
    ∧ (s.serves 0x70 r → s.logPresent (r.word 2) = false → Replied .logRead s r 4 0 [])
    ∧ (s.serves 0x70 r → (∀ i < 4, s.errorAt 6 (4 * s.logSlot (r.word 2) + i) = 0) → s.logPresent (r.word 2) = true →
        (s.logRecord (r.word 2)).seq = r.word 2 → (s.logRecord (r.word 2)).data ≠ [] →
        Replied .logRead s r 0 0 (recordWords (s.logRecord (r.word 2)))))
  ∧ (∀ (s : State) (r : Request),
    (s.serves 0x71 r → Replied .logStatus s r 0 0 [s.word 0x70004, s.word 0x70008, s.word 0x7001C, s.word 0x70020, s.word 0x70080])
    ∧ (s.serves 0x72 r → r.word 3 < 2 ^ 32 → RepliedAfter .traceMask s r (fun u =>
        u.getF (F.logTmaskMMask (r.word 2 % 32)) = (if r.word 2 % 32 = 0 then setBit (r.word 3) 0 else r.word 3)
        ∧ s.Frame u [.mailbox] [F.logTmaskMMask (r.word 2 % 32)]) 0 fun u => [u.getF (F.logTmaskMMask (r.word 2 % 32))])
    ∧ (s.serves 0x73 r → s.flash.tripOwned = true → Replied .eventRead s r 7 0 [])
    ∧ (s.serves 0x73 r → s.flash.tripOwned = false → bitOf (r.word 2) 31 = true →
        RepliedAfter .eventRead s r (fun u => s.Frame u [.mailbox, .logRam, .ecc] traceFields) 0
          fun _ => [slotWord s.recordSlots.head?, slotWord s.recordSlots.getLast?])
    ∧ (s.serves 0x73 r → s.flash.tripOwned = false → bitOf (r.word 2) 31 = false →
        let off := s.boot.layout.evtOff + 64 * (r.word 2 % 4096) + 32 * bitsOf (r.word 2) 12 1
        RepliedAfter .eventRead s r (fun u => s.Frame u [.mailbox, .logRam, .ecc] traceFields) 0
          fun _ => leWords 8 (s.flashRead off 32))
    ∧ (∀ ok, s.running 2 = true → s.logRam.overwrote = false → s.nextMirror (min 1280 s.logCount) s.mirrorFrom = none →
        exec (.mirrorRecord ok) s = .next s)
    ∧ (∀ m, s.running 2 = true → s.logRam.overwrote = false → s.nextMirror (min 1280 s.logCount) s.mirrorFrom = some m →
        let next (t : State) := t.logRam.mirrored = (m.seq + 1) % 2 ^ 32
        let more (f : Field) := min (s.getF f + 1) (2 ^ f.width - 1)
        let skips (t : State) := next t ∧ t.getF F.logMirrorSkipped = more F.logMirrorSkipped ∧ t.flash = s.flash
        (16 ≤ s.inSecond → ∀ ok, Completes (.mirrorRecord ok) s skips)
        ∧ (s.inSecond < 16 → (∀ i < 4, s.errorAt 6 (4 * s.logSlot m.seq + i) = 0) →
          (s.mirrorSlot = none ∨ s.mirrorBlocked = true → ∀ ok, Completes (.mirrorRecord ok) s skips)
          ∧ (∀ slot, s.mirrorSlot = some slot → s.mirrorBlocked = false →
            (s.flash.tripOwned = true → ∀ ok, Completes (.mirrorRecord ok) s fun t =>
              next t ∧ t.getF F.logMirrorFailed = more F.logMirrorFailed ∧ bitOf (t.getF F.logEvt) 4 = true ∧ t.flash = s.flash)
            ∧ (s.flash.tripOwned = false →
              (Completes (.mirrorRecord true) s fun t => next t ∧ t.getF F.logMirrorMirrored = more F.logMirrorMirrored
                ∧ t.flash = (s.forEach (s.mirrorCmds slot m) State.runCmd).flash
                ∧ (s.sectorsOwed.1 = [] → slot % 64 ≠ 63 →
                    t.flash = (s.program (s.boot.layout.evtOff + 64 * slot) (mirrorBytes m)).flash)
                ∧ t.getF F.logEvtNextOffset = 64 * ((slot + 1) % 4096))
              ∧ (Completes (.mirrorRecord false) s fun t =>
                  next t ∧ t.getF F.logMirrorFailed = more F.logMirrorFailed ∧ bitOf (t.getF F.logEvt) 4 = true))))))

/-- R413, R414, R415, Tables 15.3 and 15.4: what stops a processor, with the cause, the stamp and the count; a restart not
asked for with its key, or by the host outside TEST and RECOVERY, is ignored. R432: a second cause in the tick makes no second
restart, and CAUSE holds the lower code. That ALIVE is watched over beats, from the count's last change, is the model's reading
(log 83).
Completes: PROCESSOR_RESTART, ALIVE_TIMEOUT, MGP_WATCHDOG_EXPIRY. -/
def Obligations.ProcessorsStop : Prop :=
  ∀ s : State, s.boot.rom = false → s.isSet F.domStatusParked = false →
    (∀ p : Fin 3, (s.getF F.gctlModeCurrent = 3 ∨ s.getF F.gctlModeCurrent = 4) →
      (s.restarting p.val = true → Completes (.processorRestart .host p 0x52530001#32) s fun t =>
        t.getF (F.fwPStatusCause p.val) = min 2 (s.getF (F.fwPStatusCause p.val)) ∧ s.Frame t [] [F.fwPStatusCause p.val])
      ∧ (s.restarting p.val = false → Completes (.processorRestart .host p 0x52530001#32) s fun t =>
        t.running p.val = false ∧ t.getF (F.fwPStatusCause p.val) = 2
        ∧ t.getF (rstProcF p.val) = min (s.getF (rstProcF p.val) + 1) 255
        ∧ (s.running p.val = true → t.getF (F.fwPStopTimeBeat p.val) = s.beat32)))
    ∧ (∀ (p : Fin 3) (v : Word), (s.getF F.gctlModeCurrent < 3 ∨ v.toNat / 65536 ≠ 0x5253) →
        exec (.processorRestart .host p v) s = .next s)
    ∧ (∀ p : Fin 2, s.beatReached (Store.read (fun _ => 0) s.procs.aliveEnd p.val) = false → exec (.aliveTimeout p) s = .next s)
    ∧ (∀ p : Fin 2, s.running 2 = true → s.running p.val = true →
        s.beatReached (Store.read (fun _ => 0) s.procs.aliveEnd p.val) = true → Completes (.aliveTimeout p) s fun t =>
        t.running p.val = false ∧ t.running 2 = true ∧ t.getF (F.fwPStatusCause p.val) = 4
        ∧ t.getF (F.fwPStopTimeBeat p.val) = s.beat32)
    ∧ (s.procs.wdt = some 0 → s.restarting 2 = false → Completes .mgpWatchdogExpiry s fun t =>
        t.running 2 = false ∧ t.getF (F.fwPStatusCause 2) = 7 ∧ t.getF F.rstLastKind = 5
        ∧ (∀ ch < 32, t.channelFull ch = false) ∧ (∀ ch < 16, t.sessionOn ch = false) ∧ t.mailbox.queue = []
        ∧ bitOf (t.getF F.mbxMevt) 2 = true ∧ t.pmbus.page = 0)

/-- R414, R415, Table 15.4: a reload ends with the processor RUNNING, or FAILED with reason 0xC8 when its image is not
accepted, or the flash port belongs to the trip path (log 31); R421: a reload that fails in a switch ends the update and has the
processor restarted from the old image; ALIVE counts, and its watch begins anew (log 83); the watchdog is reloaded by its key alone.
Completes: PROCESSOR_RELOAD_DONE, WDT_KICK, ALIVE_INCREMENT. -/
def Obligations.ProcessorsRun : Prop :=
  ∀ s : State,
    (∀ p : Fin 3, s.boot.rom = false → s.getF (F.fwPStatusState p.val) = 1 → s.isSet F.domStatusParked = false → s.restarting p.val = false →
      let code := if s.flash.tripOwned then some 0xC8 else s.imageCode (s.getF F.gctlStatusImage) (s.bankBody s.activeBank) (s.getF F.gctlKeysRevoked)
      Completes (.processorReloadDone p) s fun t =>
        if code = none then t.running p.val = true ∧ t.isSet (F.fwPStatusHeld p.val) = false
        else t.getF F.gctlStatusReason = 0xC8 ∧ t.isSet F.gctlErrLoadFail = true
          ∧ (s.getF F.fwUpdState ≠ 4 ∨ p.val = 2 → t.getF (F.fwPStatusState p.val) = 3)
          ∧ (s.getF F.fwUpdState = 4 → p.val < 2 → t.running p.val = false ∧ t.getF (F.fwPStatusCause p.val) = 5
            ∧ t.getF F.gctlStatusBank = s.update.oldBank % 2 ∧ t.getF F.fwUpdState = 0 ∧ t.getF F.fwUpdLastStatus = 7))
    ∧ (∀ p : Fin 2, s.running p.val = true → Completes (.aliveIncrement p) s fun t =>
        t.getF (F.fwPAliveCount p.val) = (s.getF (F.fwPAliveCount p.val) + 1) % 2 ^ 32
        ∧ t.procs = { s.procs with aliveEnd := Store.write (fun _ => 0) s.procs.aliveEnd p.val (s.beatIn 100000) }
        ∧ s.Frame t [.procs] [F.fwPAliveCount p.val])
    ∧ (∀ v : Word, v.toNat / 65536 = 0x4B43 → s.procs.wdt ≠ none → Completes (.wdtKick .mgp v) s fun t =>
        t.procs = { s.procs with wdt := some (beatsOf (s.getF F.fwWdtTimeoutMs * 1000) (s.getF F.tbSyncFreqUsed)) }
        ∧ s.Frame t [.procs] [])
    ∧ (∀ (w : Writer) (v : Word), w ≠ .mgp ∨ v.toNat / 65536 ≠ 0x4B43 → exec (.wdtKick w v) s = .next s)

/-- R416, R417, Table 15.6: opening an update begins the erase of the trailer sectors of the inactive copies, which read 0xFF
once it is done; the session that opened it owns it; each UPDATE_WRITE continues its target where the last one ended, and its device
commands are carried out. The job of the erase, and that it is cut into device commands, is the model's choice (log 7), as are the
words of an eight-word message that count (log 63) and the answers in other states (log 40).
Completes: UPDATE_OPEN, UPDATE_ERASE_DONE, UPDATE_WRITE. -/
def Obligations.UpdateReceives : Prop :=
  ∀ (s : State) (r : Request),
    (s.serves 0x50 r → s.getF F.fwUpdState = 0 → s.update.erasing = false → s.lengthsOk (r.word 2) (r.word 3) = true →
        Completes .updateOpen s fun t => t.update.erasing = true ∧ t.getF F.fwUpdBytesCount = 0
          ∧ t.mailbox.awaitUpdate = some r ∧ t.update.targets.map (·.len) =
              [r.word 2, r.word 3, 212, if r.word 3 = 0 then 0 else 212]
          ∧ t.flash.bytes = s.flash.bytes
          ∧ (s.flash.tripOwned = false → t.jobCmds .update = s.jobCmds .update ++ DeviceCmd.erase s.newBank.trailer 4096 ::
              if r.word 3 = 0 then [] else [DeviceCmd.erase s.newImage.trailer 4096]))
    ∧ (s.serves 0x50 r → s.getF F.fwUpdState ≠ 0 → s.getF F.fwUpdSession = r.channel → Replied .updateOpen s r 2 0 [])
    ∧ (s.update.erasing = true → s.running 2 = true → s.flash.tripOwned = false → s.mailbox.awaitUpdate = some r →
        r.channel < 32 → Completes (.updateEraseDone true) s fun t =>
          t.getF F.fwUpdState = 1 ∧ t.getF F.fwUpdSession = r.channel ∧ t.update.erasing = false
          ∧ t.mailbox.awaitUpdate = none
          ∧ ∀ off n, s.jobCmds .update = [DeviceCmd.erase off n] → t.jobCmds .update = []
            ∧ ∀ a, off ≤ a → a < off + n → t.flashByte a = 0xFF)
    ∧ (s.serves 0x51 r → s.getF F.fwUpdState = 1 → s.getF F.fwUpdSession = r.channel →
        let i := r.word 2 / 2 ^ 30
        let got := (s.target i).got
        let d := writeData r ((s.target i).len - got)
        (r.word 2 % 2 ^ 24 ≠ got ∨ d = [] ∨ (s.target i).len < got + d.length → Replied (.updateWrite true) s r 4 0 [])
        ∧ (r.word 2 % 2 ^ 24 = got → d ≠ [] → got + d.length ≤ (s.target i).len → i < s.update.targets.length →
            s.flash.tripOwned = false → RepliedAfter (.updateWrite true) s r (fun u =>
              (u.target i).got = got + d.length ∧ (u.target i).len = (s.target i).len
              ∧ u.flash = (s.forEach (s.writeCmds r) State.runCmd).flash
              ∧ s.Frame u [.mailbox, .flash, .update, .logRam, .ecc] (F.fwUpdBytesCount :: traceFields)) 0
              fun _ => [got + d.length]))
    ∧ (s.serves 0x51 r → s.getF F.fwUpdState = 1 → s.getF F.fwUpdSession ≠ r.channel → Replied (.updateWrite true) s r 8 0 [])

/-- R418 to R421, Table 15.6: verifying, committing with the active bank's SEQ plus 1, switching to the new bank, aborting
an uncommitted update, and the status. The answers in states that Table 15.6 does not list, and the committed SEQ that the status
shows in states 3 and 4 only, are the model's readings (log 40), as is what an update keeps between its messages (log 47).
Completes: UPDATE_VERIFY, UPDATE_COMMIT, UPDATE_SWITCH, UPDATE_ABORT, UPDATE_STATUS. -/
def Obligations.UpdateCompletes : Prop :=
  ∀ (s : State) (r : Request),
    (s.serves 0x52 r → s.getF F.fwUpdState = 1 → s.getF F.fwUpdSession = r.channel →
        (s.complete4 = false → Replied (.updateVerify true) s r 2 0 [])
        ∧ (s.complete4 = true → s.flash.tripOwned = false →
            let u := ((s.taken.reply r 1 0 []).mapMail fun v => { v with awaitUpdate := some r }).setUpd 2
            Completes (.updateVerify true) s fun t => match u.updateCode with
              | none => t.getF F.fwUpdState = 2 ∧ t.mailbox.awaitUpdate = some r
              | some c => t.getF F.fwUpdState = 0 ∧ t.getF F.fwUpdLastStatus = 2 ∧ t.getF F.fwUpdReason = c % 256
                  ∧ t.mailbox.awaitUpdate = none))
    ∧ (s.getF F.fwUpdState = 2 → s.running 2 = true → s.flash.tripOwned = false → Completes (.updateCommit true) s fun t =>
        t.getF F.fwUpdState = 3 ∧ t.update.committed = (s.getF F.gctlBankSeqSeq + 1) % 2 ^ 32
        ∧ t.flash = (s.runCmd (s.trailerCmd 0 ((s.getF F.gctlBankSeqSeq + 1) % 2 ^ 32))).flash
        ∧ t.mailbox.awaitUpdate = none)
    ∧ (s.serves 0x53 r → s.getF F.fwUpdState = 3 → s.getF F.fwUpdSession = r.channel → s.getF F.gctlStatusBank < 2 →
        Completes .updateSwitch s fun t => t.getF F.fwUpdState = 4 ∧ t.update.oldBank = s.getF F.gctlStatusBank
          ∧ t.getF F.gctlStatusBank = 1 - s.getF F.gctlStatusBank ∧ t.mailbox.awaitUpdate = some r)
    ∧ (s.serves 0x54 r → (s.getF F.fwUpdState = 1 ∨ s.getF F.fwUpdState = 2) → s.getF F.fwUpdSession = r.channel →
        Completes .updateAbort s fun t => t.getF F.fwUpdState = 0 ∧ t.getF F.fwUpdLastStatus = 5 ∧ t.update.targets = [])
    ∧ (s.serves 0x54 r → 3 ≤ s.getF F.fwUpdState → s.getF F.fwUpdSession = r.channel → Replied .updateAbort s r 2 0 [])
    ∧ (s.serves 0x55 r → Replied .updateStatus s r 0 0
        [s.word 0x78004, s.word 0x78008, if 3 ≤ s.getF F.fwUpdState then s.update.committed else 0])

/-! ### Memory protection, chapter 16 -/

/-- R434, R436, R437, R438, R444: a scrub read of a right word only moves on; one wrong symbol is corrected, counted and a
write-back owed; the write-back makes the word right and owes a verify read; a clean verify read remaps nothing, and a hard
fault in the same symbol remaps the word to the lowest unused spare, or raises REMAP_FULL; while the die is PARKED neither happens.
Completes: SCRUB_READ, ECC_WRITE_BACK, ECC_VERIFY_READ. -/
def Obligations.ScrubAndRemap : Prop :=
  ∀ (s : State) (m : Fin 8),
    (∀ (u : BitVec 80), s.isSet (F.mpMCfgScrubEn m.val) = true → s.isSet F.domStatusParked = false →
      let w := s.getF (F.mpMScrubPosWord m.val)
      let e := s.errorAt m.val w ^^^ u.toNat
      w + 1 < memWords m.val + 8 →
      (badSymbols e = [] → Completes (.scrubRead m u) s fun t =>
        t.getF (F.mpMScrubPosWord m.val) = w + 1 ∧ t.errorAt m.val w = e ∧ s.Frame t [.ecc] [F.mpMScrubPosWord m.val])
      ∧ (∀ i, badSymbols e = [i] → (∀ b ∈ s.ecc.backs, ¬ (b.mem = m.val ∧ s.cellOf m.val b.word = s.cellOf m.val w ∧ b.verify = false)) →
          Completes (.scrubRead m u) s fun t =>
        t.getF (F.mpMScrubPosWord m.val) = w + 1
        ∧ t.getF (F.mpMCntCorrected m.val) = min (s.getF (F.mpMCntCorrected m.val) + 1) (2 ^ (F.mpMCntCorrected m.val).width - 1)
        ∧ bitOf (t.getF F.mpEvtCorr) m.val = true ∧ t.getF (F.mpMLastCeValid m.val) = 1
        ∧ t.getF (F.mpMLastCeScrub m.val) = 1 ∧ t.getF (F.mpMLastCeSymbol m.val) = i
        ∧ ({ mem := m.val, word := w, symbol := i } : WriteBack) ∈ t.ecc.backs
        ∧ s.Frame t [.ecc] [F.mpMScrubPosWord m.val, F.mpMCntCorrected m.val, F.mpEvtCorr, F.mpMLastCeValid m.val,
            F.mpMLastCeScrub m.val, F.mpMLastCeSymbol m.val, F.mpMLastCeWord m.val]))
    ∧ (s.isSet F.domStatusParked = true → exec (.eccWriteBack m) s = .next s ∧ ∀ u, exec (.eccVerifyRead m u) s = .next s)
    ∧ (∀ b, s.isSet F.domStatusParked = false → s.ecc.backs.find? (fun x => x.mem == m.val && !x.verify) = some b → Completes (.eccWriteBack m) s fun t =>
        t.errorAt m.val b.word = 0 ∧ { b with verify := true } ∈ t.ecc.backs
        ∧ t.getF (F.mpMWbDone m.val) = min (s.getF (F.mpMWbDone m.val) + 1) (2 ^ (F.mpMWbDone m.val).width - 1)
        ∧ s.Frame t [.ecc] [F.mpMWbDone m.val])
    ∧ (∀ b, s.isSet F.domStatusParked = false → s.ecc.backs.find? (fun x => x.mem == m.val && x.verify) = some b →
        (Completes (.eccVerifyRead m 0#80) s fun t => t.errorAt m.val b.word = 0 ∧ s.Frame t [.ecc] [])
        ∧ (∀ (u : BitVec 80) w, badSymbols u.toNat = [b.symbol] → s.servedBy m.val b.word = some w →
            (∀ e, s.freeEntry m.val = some e → s.getF (F.mpMRemapStUsed m.val) < 8 → Completes (.eccVerifyRead m u) s fun t =>
              t.getF (F.mpMRemapStUsed m.val) = s.getF (F.mpMRemapStUsed m.val) + 1
              ∧ t.getF (F.mpMRemapEValid m.val e) = 1 ∧ t.getF (F.mpMRemapEWord m.val e) = w % 2 ^ 17
              ∧ bitOf (t.getF F.mpEvtRemap) m.val = true)
            ∧ (s.freeEntry m.val = none → m.val ∉ s.ecc.full → Completes (.eccVerifyRead m u) s fun t =>
              bitOf (t.getF F.mpEvtRemapFull) m.val = true)))

/-- R446: a raw access is refused outside TEST and RECOVERY, with TEST_EN 0, or beyond the memory; else it is done, and a
raw read shows the codeword without correcting or counting, and a raw write leaves what the raw codeword decodes to: its own data
where it is a codeword, else the word's old data with the symbols that differ as errors, if they are two at most. The data of a word
whose layout no rule gives is the model's (log 60).
Completes: TEST_RAW_WRITE, TEST_RAW_READ. -/
def Obligations.RawAccess : Prop :=
  ∀ (s : State) (v : Word), bitOf v.toNat 31 = true →
    let m := bitsOf v.toNat 24 3
    let w := bitsOf v.toNat 0 17
    (s.rawRefused m w = true →
      (bitOf v.toNat 30 = true → Completes (.testRawWrite v) s fun t => t.getF F.mpTestChkRefused = 1
        ∧ t.getF F.mpTestChkDone = 0 ∧ s.Frame t [] [F.mpTestChkRefused, F.mpTestChkDone])
      ∧ (bitOf v.toNat 30 = false → Completes (.testRawRead v) s fun t => t.getF F.mpTestChkRefused = 1
        ∧ t.getF F.mpTestChkDone = 0 ∧ s.Frame t [] [F.mpTestChkRefused, F.mpTestChkDone]))
    ∧ (s.rawRefused m w = false →
      (bitOf v.toNat 30 = true → Completes (.testRawWrite v) s fun t => t.getF F.mpTestChkRefused = 0
        ∧ t.getF F.mpTestChkDone = 1 ∧ (s.rawWrite m w).Frame t [] [F.mpTestChkRefused, F.mpTestChkDone]
        ∧ let c := s.getF F.mpTestLoData + 2 ^ 32 * s.getF F.mpTestHiData + 2 ^ 64 * s.getF F.mpTestChkCheck
          let d := (s.dataOf m w).1
          (c = codeword (c % 2 ^ 64) → c % 2 ^ 64 ≠ d → t.errorAt m w = 0
            ∧ (m ∈ [0, 1, 3, 4, 5] → (t.dataOf m w).1 = c % 2 ^ 64))
          ∧ (¬ (c = codeword (c % 2 ^ 64) ∧ c % 2 ^ 64 ≠ d) → (badSymbols (c ^^^ codeword d)).length ≤ 2 →
            t.errorAt m w = c ^^^ codeword d))
      ∧ (bitOf v.toNat 30 = false → Completes (.testRawRead v) s fun t => t.getF F.mpTestChkRefused = 0
        ∧ t.getF F.mpTestChkDone = 1 ∧ s.Frame t [.ecc, .free] [F.mpTestChkRefused, F.mpTestChkDone, F.mpTestLoData,
            F.mpTestHiData, F.mpTestChkCheck]
        ∧ let d := (s.dataOf m w).1
          t.getF F.mpTestLoData = (codeword d ^^^ s.errorAt m w) % 2 ^ 32
          ∧ t.getF F.mpTestHiData = (codeword d ^^^ s.errorAt m w) / 2 ^ 32 % 2 ^ 32
          ∧ t.getF F.mpTestChkCheck = (codeword d ^^^ s.errorAt m w) / 2 ^ 64 % 2 ^ 16))

/-! ### Resets and parking, chapters 2, 3 and 11 -/

/-- R60, R66, R95: a cold reset leaves every register at its reset value but the sampled straps', and keeps the flash, but for
what firmware's flash work was doing (log 7); the values that no table gives are the model's (log 5), as is what counts as outside
the block (log 23); a shorter low pulse, and a supply that has not fallen below 2.9 V, do nothing.
Completes: COLD_RESET, SUPPLY_MONITOR_RESET. -/
def Obligations.ColdResets : Prop :=
  ∀ (s : State) (st : Straps),
    let cold (t : State) : Prop :=
      t.pins.straps = st ∧ t.pins.thermTrip = false ∧ t.pins.pwrOff = false ∧ t.pins.brakeLow = s.pins.brakeLow
      ∧ t.flash = { bytes := t.flash.bytes } ∧ (s.workNow.1 = [] → t.flash.bytes = s.flash.bytes)
      ∧ t.mailbox = { clearedAt := some 0 }
      ∧ t.getF F.idConfigDieId = st.dieId.toNat ∧ t.getF F.idConfigLeader = flag st.leader
      ∧ t.getF F.gctlProfileStrap = st.profileSel.toNat
      ∧ (∀ f : Field, (∀ g ∈ [F.idConfigDieId, F.idConfigLeader, F.gctlProfileStrap], f.key ≠ g.key) →
          t.getF f = State.reset.getF f)
      ∧ (∀ x ∉ [Part.fields, .flash, .pins, .mailbox, .jtag, .free, .straps, .trips], State.reset.same t x)
      ∧ t.pending = s.pending
    (∀ n, 1000 ≤ n → Completes (.coldReset n st) s cold) ∧ (∀ n, n < 1000 → exec (.coldReset n st) s = .next s)
    ∧ (∀ mV, mV < 2900 → Completes (.supplyMonitorReset mV st) s cold)
    ∧ ∀ mV, 2900 ≤ mV → exec (.supplyMonitorReset mV st) s = .next s

/-- R93, R94, R125, R126, R129: a warm reset starts only with its key, and neither while the boot is halted nor while the
die is parked; it runs the ROM from step 1, clears the SYNC bit of GCTL.ENABLE and the channels, and stops the processors. That the
host fabric's is ignored in the same states (log 23), and that one in a cold or wake boot begins that boot anew (log 20), is the
model's choice.
Completes: WARM_RESET, FABRIC_WARM_RESET. -/
def Obligations.WarmResets : Prop :=
  ∀ s : State,
    let warm (kind : Nat) (t : State) : Prop :=
      t.boot.rom = true ∧ t.boot.kind = (if s.boot.rom then s.boot.kind else .warm) ∧ t.boot.next = 1 ∧ t.isSet F.gctlStatusBootDone = false
      ∧ t.isSet F.gctlStatusCheckBusy = false ∧ bitOf (t.getF F.gctlEnable) 5 = false ∧ t.getF F.rstLastKind = kind
      ∧ (∀ ch < 32, t.channelFull ch = false) ∧ (∀ ch < 16, t.sessionOn ch = false) ∧ t.mailbox.queue = []
      ∧ (∀ p < 3, t.running p = false) ∧ (∀ m < 8, t.isSet (F.mpMCfgTestEn m) = false)
    (s.isSet F.gctlStatusHalt = false → s.isSet F.domStatusParked = false →
      (∀ v : Word, v.toNat / 65536 = 0x5752 → v.toNat % 2 = 1 → Completes (.warmReset v) s (warm 2))
      ∧ Completes .fabricWarmReset s (warm 3))
    ∧ (s.isSet F.gctlStatusHalt = true ∨ s.isSet F.domStatusParked = true →
      (∀ v, exec (.warmReset v) s = .next s) ∧ exec .fabricWarmReset s = .next s)
    ∧ ∀ v : Word, v.toNat / 65536 ≠ 0x5752 ∨ v.toNat % 2 = 0 → exec (.warmReset v) s = .next s

/-- R313, R316, R317, R126: at a tick 0 the die parks once all domains are OFF again after some was not, or with none demanded once
it is released (log 74); a wake source is due at its DEBOUNCE count of tick 0s, clears the votes of voters 0 to 3, the log and the
bits 3 to 5 of GCTL.ENABLE, and runs the ROM; R112: neither while a boot is halted. How the debounce counts is the model's reading
(log 33). R64: a comparator releases 25 mV beyond its threshold.
Completes: PARK, WAKE_RESET. -/
def Obligations.ParkAndWake : Prop :=
  ∀ s : State,
    (s.time.tick = 0 → s.allOff = true → s.isSet F.domStatusParked = false → s.isSet F.gctlStatusHalt = false →
        (s.away = true ∨ s.isSet F.gctlStatusBootDone = true ∧ ∀ d < 96, s.demanded d = false) → Completes .park s fun t =>
      t.isSet F.domStatusParked = true ∧ t.getF F.gctlModeCurrent = 0 ∧ (∀ p < 3, t.running p = false)
      ∧ t.procs.wdt = none ∧ t.pins.alert = false ∧ t.away = false ∧ t.boot.rom = false
      ∧ t.mailbox.modeNext = none ∧ t.ecc.backs = [])
    ∧ ((s.time.tick ≠ 0 ∨ s.allOff = false ∨ s.isSet F.domStatusParked = true ∨ s.isSet F.gctlStatusHalt = true
        ∨ (s.away = false ∧ (s.isSet F.gctlStatusBootDone = false ∨ ∃ d < 96, s.demanded d = true))) → exec .park s = .next s)
    ∧ (∀ was above uv code, (256 * (uv + 25000) < 1800000 * code → comparator was above uv code = !above)
      ∧ (1800000 * code + 256 * 25000 < 256 * uv → comparator was above uv code = above)
      ∧ (256 * uv = 1800000 * code → comparator was above uv code = was))
    ∧ ∀ sense ntc : Nat,
      let a := decide (max 1 (s.appliedF F.domWakeCfgDebounce) ≤ s.pins.wsCount)
      let b := decide (max 1 (s.appliedF F.domWakeCfgDebounce) ≤ s.pins.ntcCount)
      (s.isSet F.domStatusParked = true → s.isSet F.gctlStatusHalt = false → (a || b) = true → Completes (.wakeReset sense ntc) s fun t =>
        t.isSet F.domStatusParked = false ∧ t.boot.rom = true ∧ t.boot.kind = .wake ∧ t.boot.next = 1
        ∧ t.isSet F.gctlStatusBootDone = false ∧ t.getF F.rstLastKind = 4
        ∧ t.getF F.domLastWakeSense = flag a ∧ t.getF F.domLastWakeNtc = flag b ∧ t.isSet F.domStatusWakeFlag = true
        ∧ t.getF F.domWakeTimeBeat = s.beat32
        ∧ (∀ b ∈ [3, 4, 5], bitOf (t.getF F.gctlEnable) b = false)
        ∧ (∀ d < 96, ∀ v < 4, bitOf (t.getF (F.domDVoteMask d)) v = false)
        ∧ t.logRam.ring = [] ∧ t.getF F.logHeadSeq = 0 ∧ t.model.loaded = false ∧ t.pmbus.page = 0
        ∧ t.pins.wakeSense = sense ∧ t.pins.inlet = ntc)
      ∧ (s.isSet F.domStatusParked = false ∨ s.isSet F.gctlStatusHalt = true ∨ (a || b) = false →
          exec (.wakeReset sense ntc) s = .next { s with pins := { s.pins with wakeSense := sense, inlet := ntc } })

/-! ### The boot, chapter 4 -/

/-- R72, R97, R98, R101, R78, R103, Table 4.6: steps 1 to 5, and CALIBRATION_APPLY of R254. Which quad read is taken of equally fast
ones, and FDIV where none fits, is the model's choice (log 57), as are the sizes that step 2 refuses (log 58) and the order in which
the codes of step 5 are written (log 20).
Completes: BOOT_STEP_1, BOOT_STEP_2, BOOT_STEP_3, CALIBRATION_APPLY, BOOT_STEP_4, BOOT_STEP_5. -/
def Obligations.BootStepsToBank : Prop :=
  ∀ s : State,
    (∀ f : Sfdp, s.atStep 1 →
      (f.revision ≠ .bOrLater ∨ f.fourByte = false → Halts (.bootStep1 f) s 1 0xC0)
      ∧ (f.revision = .bOrLater → f.fourByte = true → f.densityMiB < 32 → Halts (.bootStep1 f) s 1 0xC1)
      ∧ (f.revision = .bOrLater → f.fourByte = true → 32 ≤ f.densityMiB → Completes (.bootStep1 f) s fun t => t.boot.next = 2
        ∧ t.flash.bytes = s.flash.bytes ∧ t.flash.known = true ∧ t.flash.densityMiB = f.densityMiB
        ∧ t.flash.fourByteInstr = f.fourByteInstr ∧ t.flash.enter4 = f.enter4 ∧ t.flash.quadEnable = f.quadEnable
        ∧ t.flash.mode = .m111
        ∧ (f.quadReads ≠ [] → (∀ q ∈ f.quadReads, q.mode ≠ .m111) → ∃ q ∈ f.quadReads, t.flash.quadMode = q.mode
          ∧ t.flash.quadDummy = q.dummy ∧ t.flash.maxKHz = min 100000 q.maxKHz
          ∧ ∀ r ∈ f.quadReads, min 100000 r.maxKHz ≤ min 100000 q.maxKHz)
        ∧ s.Frame t [.boot, .flash] [F.gctlStatusStep, F.gctlStatusReason]))
    ∧ (s.atStep 2 →
      let copies := [s.flashRead 0 64, s.flashRead 4096 64]
      let good := copies.find? fun h => headerSound h && byteAt h 7 == 2
      (good = none → Halts .bootStep2 s 2 (if copies.any headerSound then 0xCE else 0xC2))
      ∧ ∀ h, good = some h →
        (s.flash.densityMiB < u32At (bootFields h) 8 → Halts .bootStep2 s 2 0xC1)
        ∧ (u32At (bootFields h) 8 ≤ s.flash.densityMiB →
          (layoutBad (layoutOf h) (s.flash.densityMiB * 1048576) = true → Halts .bootStep2 s 2 0xC3)
          ∧ (layoutBad (layoutOf h) (s.flash.densityMiB * 1048576) = false → Completes .bootStep2 s fun t =>
            t.boot = { s.boot with layout := layoutOf h, next := 3 }
            ∧ t.flash = { s.flash with mode := s.flash.quadMode, dummy := s.flash.quadDummy }
            ∧ t.getF F.clkBusdivFdiv = (if s.boot.busLocked = false ∧ s.flash.quadMode ≠ .m111 then s.fdiv25 else s.getF F.clkBusdivFdiv)
            ∧ (s.isSet F.clkStatusPllLock = false → s.fdiv25 = 4)
            ∧ s.Frame t [.boot, .flash] [F.gctlStatusStep, F.clkBusdivFdiv])))
    ∧ (s.atStep 3 →
      match (s.newerFirst (s.calCopy 0) (s.calCopy 1)).find? fun c => s.calUsable c.2 with
      | none => Halts .bootStep3 s 3 0xC4
      | some c => Completes .bootStep3 s fun t => t.getF F.gctlStatusCalCopy = c.1
        ∧ t.boot.cal = s.sectionsAt c.2 ∧ t.boot.calChosen = true ∧ t.boot.next = (if s.boot.kind = .cold then 4 else 5)
        ∧ (s.boot.kind = .cold → ∀ p < 44, t.phasePresent p = true → s.phaseState p = 0 → t.phaseState p = 1))
    ∧ (s.boot.calChosen = true → Completes .calibrationApply s fun t => t.isSet F.thmStatusCalApplied = true
        ∧ t.therm = { s.therm with cal := s.calSection 4 } ∧ s.Frame t [.therm] [F.thmStatusCalApplied])
    ∧ (s.atStep 4 → ∀ lock,
      let meas := s.getF F.clkXtalMeasFreq
      (s.isSet F.clkStatusXtalFail = true → Halts (.bootStep4 lock) s 4 0xA0)
      ∧ (s.isSet F.clkStatusXtalFail = false → s.isSet F.clkStatusXtalOk = false → Completes (.bootStep4 lock) s fun t =>
        t.getF F.gctlStatusStep = 4 ∧ s.Frame t [] [F.gctlStatusStep])
      ∧ (s.isSet F.clkStatusXtalFail = false → s.isSet F.clkStatusXtalOk = true →
        (100 * meas < 98 * s.xtalKHz ∨ 102 * s.xtalKHz < 100 * meas → Halts (.bootStep4 lock) s 4 0xA1)
        ∧ (20000 ≤ s.xtalKHz → s.xtalKHz ≤ 40000 → 98 * s.xtalKHz ≤ 100 * meas → 100 * meas ≤ 102 * s.xtalKHz →
          (lock = false → Halts (.bootStep4 lock) s 4 0xA2)
          ∧ (lock = true → Completes (.bootStep4 lock) s fun t => t.boot.next = 5 ∧ t.isSet F.clkStatusPllLock = true
            ∧ t.isSet F.clkStatusOnXtal = true ∧ t.getF F.clkBusdivFdiv = s.chooseFdiv (s.getF F.clkBusdivRdiv)
            ∧ s.Frame t [.boot] [F.gctlStatusStep, F.clkStatusPllLock, F.clkStatusOnXtal, F.clkBusdivFdiv]))))
    ∧ (s.atStep 5 →
      match s.bankOrder.find? fun i => (s.bankCode i s.revoked).isNone with
      | none => Halts .bootStep5 s 5 0xCB
      | some i => Completes .bootStep5 s fun t => t.boot.next = 6 ∧ t.activeBank = i
        ∧ t.getF F.gctlKeysRevoked = s.revoked % 16 ∧ t.getF F.gctlStatusFallback = flag (s.bankOrder.head? != some i)
        ∧ s.Frame t [.boot] [F.gctlStatusStep, F.gctlStatusReason, F.gctlStatusBank, F.gctlKeysRevoked, F.gctlStatusFallback])

/-- R106, R107, R120, R67, R116, R111, R113, R413, Table 4.6: steps 6 to 10; the release of step 10 is a restart of cause 1 of each
processor. What each kind of boot stages, and when PROFILE_FALLBACK is set, is the model's reading (log 20).
Completes: BOOT_STEP_6, BOOT_STEP_7, BOOT_STEP_8, BOOT_STEP_9, BOOT_STEP_10. -/
def Obligations.BootStepsToRelease : Prop :=
  ∀ s : State,
    (s.atStep 6 → s.activeBank < 2 →
      let code (i : Nat) := s.imageCode (u32At (s.bankBody i) 4 % 2) (s.bankBody i) (s.getF F.gctlKeysRevoked)
      let i := s.activeBank
      if code i = none then Completes .bootStep6 s fun t => t.boot.next = 7 ∧ t.activeBank = i
        ∧ t.getF F.gctlStatusImage = u32At (s.bankBody i) 4 % 2 ∧ t.getF F.gctlStatusDebugEn = u32At (s.bankBody i) 0x3C % 2
      else if s.bankOrder.head? = some i ∧ s.bankCode (1 - i) (s.getF F.gctlKeysRevoked) = none ∧ code (1 - i) = none then
        Completes .bootStep6 s fun t => t.boot.next = 7 ∧ t.activeBank = 1 - i ∧ t.isSet F.gctlStatusFallback = true
      else Halts .bootStep6 s 6 0xCB)
    ∧ (s.atStep 7 →
      (∀ k, s.pendingSlots.getLast? = some k → Completes (.bootStep7 true) s fun t => t.boot.next = 8
        ∧ t.isSet F.gctlStatusTripPending = true ∧ t.isSet F.gctlTripRecValid = true
        ∧ t.getF F.gctlTripRecOffset = 64 * k % 2 ^ 18)
      ∧ (s.pendingSlots = [] → Completes (.bootStep7 true) s fun t => t.boot.next = 8
        ∧ t.isSet F.gctlStatusTripPending = false ∧ t.isSet F.gctlTripRecValid = false)
      ∧ Completes (.bootStep7 false) s fun t => t.boot.next = 8 ∧ t.getF F.gctlStatusReason = 0xCF
        ∧ t.isSet F.gctlStatusTripPending = false ∧ t.isSet F.gctlTripRecValid = false)
    ∧ (s.atStep 8 → Completes .bootStep8 s fun t => t.boot.next = 9
      ∧ (s.strapsBad = true → t.isSet F.gctlStatusStrapFault = true)
      ∧ (s.boot.kind = .cold → s.isSet F.gctlStatusTripPending = true →
          t.getF F.gctlProfileActive = coolest (s.bankBody s.activeBank) % 8)
      ∧ let want := if s.boot.kind = .cold then s.getF F.gctlProfileStrap else s.getF F.gctlProfileActive
        (s.boot.kind = .cold → s.isSet F.gctlStatusTripPending = false) →
          (hasProfile (s.bankBody s.activeBank) want = true → want < 8 → t.getF F.gctlProfileActive = want)
          ∧ (hasProfile (s.bankBody s.activeBank) want = false → t.isSet F.gctlStatusProfileFallback = true
            ∧ t.getF F.gctlProfileActive = coolest (s.bankBody s.activeBank) % 8
            ∧ (s.boot.kind = .cold → t.getF F.gctlStatusReason = 0xCC)))
    ∧ (s.atStep 9 → s.boot.passing = [] → Completes .bootStep9 s fun t => t.boot.busLocked = true
      ∧ (s.boot.busLocked = false → t.getF F.clkBusdivPdiv = u32At (s.bankBody s.activeBank) 0x40 % 256)
      ∧ ((t.boot.next = 10 ∧ t.isSet F.gctlStatusCheckBusy = true ∧ t.boot.passed = s.boot.passed.filter (fun b => !s.bootBits.contains b) ++ s.bootBits)
        ∨ (t.boot.next = 99 ∧ t.isSet F.gctlStatusHalt = true ∧ t.isSet F.gctlStatusProfileFallback = true)))
    ∧ (s.boot.passed ≠ [] → exec .bootStep10 s = .next s)
    ∧ (s.atStep 10 → s.boot.passed = [] → Completes .bootStep10 s fun t => t.boot.rom = false
      ∧ t.isSet F.gctlStatusBootDone = true ∧ t.getF F.gctlBootTimeBeat = s.beat32 ∧ (∀ p < 3, t.running p = true
        ∧ t.getF (F.fwPStatusCause p) = 1 ∧ t.getF (rstProcF p) = min (s.getF (rstProcF p) + 1) 255)
      ∧ (s.boot.kind ≠ .warm → t.getF F.gctlModeCurrent =
          (if s.isSet F.gctlStatusTripPending || s.isSet F.gctlStatusStrapFault then 4 else 1)
        ∧ ∀ d < 96, bitOf (t.getF (F.domDVoteMask d)) 0 = true)
      ∧ (s.boot.kind = .warm → t.getF F.gctlModeCurrent = s.getF F.gctlModeCurrent))

/-- R124, R125, R127, R122, R119: a write of GCTL.ENABLE clears bits at once and starts the checks of the bits it sets; each check
leaves the next; one that fails ends them with its code and sets no bit of its own; values that passed take effect together at the
tick 0 at which they are due, and the bits are set; a profile switch, of all seven subsystems, and the ROM's enable do so at once, and
a switch that is refused is answered REFUSED with its code. Which values a check passes, and when CHECK_BUSY falls, is the model's
reading (log 21).
Completes: GCTL_ENABLE_WRITE, CONSISTENCY_CHECK_DONE, STAGED_APPLY. -/
def Obligations.ChecksAndStaging : Prop :=
  ∀ s : State,
    (∀ v : Word, s.isSet F.gctlStatusCheckBusy = false → s.isSet F.gctlStatusHalt = false → s.boot.rom = false →
      let sets := (List.range 7).filter fun b => bitOf v.toNat b && !bitOf (s.getF F.gctlEnable) b
      Completes (.gctlEnableWrite v) s fun t => t.getF F.gctlEnable = s.getF F.gctlEnable &&& v.toNat % 128
        ∧ t.boot.toCheck = (if sets = [] then s.boot.toCheck else sets)
        ∧ t.isSet F.gctlStatusCheckBusy = !sets.isEmpty
        ∧ s.Frame t [.boot] [F.gctlEnable, F.gctlStatusCheckBusy])
    ∧ (∀ v : Word, (s.isSet F.gctlStatusCheckBusy = true ∨ s.isSet F.gctlStatusHalt = true ∨ s.boot.rom = true) →
      exec (.gctlEnableWrite v) s = .next s)
    ∧ (s.boot.toCheck = [] → exec .consistencyCheckDone s = .next s)
    ∧ (∀ b c rest, b < 7 → s.boot.toCheck = b :: rest → s.boot.switchTo = none → s.update.takingUp = [] → s.update.due = false →
        c < 256 → (s.setF F.gctlStatusLastCheck b).check (b :: s.boot.passing) s.boot.profile b = some c →
      Completes .consistencyCheckDone s fun t => t.getF F.gctlStatusReason = c ∧ t.getF F.gctlStatusLastCheck = b
        ∧ t.isSet F.gctlStatusCheckBusy = false ∧ t.boot.toCheck = []
        ∧ t.boot.passed = s.boot.passed.filter (fun x => !s.boot.passing.contains x) ++ s.boot.passing
        ∧ (∀ x < 7, bitOf (t.getF F.gctlEnable) x = (bitOf (s.getF F.gctlEnable) x || s.boot.passing.contains x))
        ∧ s.Frame t [.boot] [F.gctlStatusReason, F.gctlStatusLastCheck, F.gctlStatusCheckBusy, F.gctlEnable])
    ∧ (∀ b c rest, b < 7 → s.boot.toCheck = b :: c :: rest → s.boot.switchTo = none → s.update.takingUp = [] →
        (s.setF F.gctlStatusLastCheck b).check (b :: s.boot.passing) s.boot.profile b = none →
      Completes .consistencyCheckDone s fun t => t.getF F.gctlStatusLastCheck = b ∧ t.boot.toCheck = c :: rest
        ∧ t.boot.passing = s.boot.passing ++ [b] ∧ t.boot.passed = s.boot.passed ∧ s.Frame t [.boot] [F.gctlStatusLastCheck])
    ∧ (∀ b, b < 7 → s.boot.toCheck = [b] → s.boot.switchTo = none → s.update.takingUp = [] → s.update.due = false →
        (s.setF F.gctlStatusLastCheck b).check (b :: s.boot.passing) s.boot.profile b = none →
      Completes .consistencyCheckDone s fun t => t.getF F.gctlStatusReason = 0 ∧ t.getF F.gctlStatusLastCheck = b
        ∧ t.isSet F.gctlStatusCheckBusy = false 
        ∧ t.boot.passed = s.boot.passed.filter (fun x => !(s.boot.passing ++ [b]).contains x) ++ (s.boot.passing ++ [b])
        ∧ (∀ x < 7, bitOf (t.getF F.gctlEnable) x = (bitOf (s.getF F.gctlEnable) x || (s.boot.passing ++ [b]).contains x))
        ∧ s.Frame t [.boot] [F.gctlStatusReason, F.gctlStatusLastCheck, F.gctlStatusCheckBusy, F.gctlEnable])
    ∧ (∀ b c i r rest, b < 7 → s.boot.toCheck = b :: rest → s.boot.switchTo = some i → s.update.due = false → c < 256 →
        (s.setF F.gctlStatusLastCheck b).check (b :: s.boot.passing) s.boot.staging b = some c → s.running 2 = true →
        s.mailbox.awaitProfile = some r → ∃ u : State, exec .consistencyCheckDone s = .next (u.reply r 2 c [])
          ∧ u.getF F.gctlStatusReason = c ∧ u.getF F.gctlStatusLastCheck = b ∧ u.isSet F.gctlStatusCheckBusy = false
          ∧ u.boot.switchTo = none ∧ u.boot.toCheck = [] ∧ u.boot.passed = s.boot.passed ∧ u.applied = s.applied
          ∧ u.mailbox = { s.mailbox with awaitProfile := none })
    ∧ (s.boot.passed = [] ∨ s.boot.applyDue = false → exec .stagedApply s = .next s)
    ∧ (s.boot.passed ≠ [] → s.boot.applyDue = true → Completes .stagedApply s fun t =>
      t.applied = s.boot.checked.foldl (fun (m : Store Nat) p => Store.write resetOf m p.1 p.2) s.applied
      ∧ (∀ k v, s.boot.checked = [(k, v)] → Store.read resetOf t.applied k = v)
      ∧ (∀ b ∈ s.boot.passed, b ∈ t.boot.active) ∧ t.boot.passed = [] ∧ t.boot.checked = [] ∧ t.boot.applyDue = false)
    ∧ (∀ b, b ∈ [0, 3, 6] → s.boot.passed = [b] → s.boot.applyDue = true → s.boot.toCheck = [] → s.boot.switchTo = none →
        s.boot.byRom = false → s.boot.merged = none → s.update.takingUp = [] → s.update.due = false → Completes .stagedApply s fun t =>
      s.Frame t [.boot, .applied] [])
    ∧ (∀ i, i < 8 → s.boot.switchTo = some i → s.boot.passed = List.range 7 → s.boot.applyDue = true → s.boot.toCheck = [] →
        s.update.takingUp = [] → s.mailbox.awaitProfile = none → Completes .stagedApply s fun t => t.getF F.gctlProfileActive = i
          ∧ (∀ b < 7, bitOf (t.getF F.gctlEnable) b = true) ∧ t.isSet F.gctlStatusCheckBusy = false
          ∧ t.boot.switchTo = none ∧ t.boot.profile = s.boot.staging
          ∧ t.getF F.mbxHbToMs = u16At s.boot.staging 0x22)
    ∧ (s.boot.byRom = true → s.boot.switchTo = none → s.boot.passed ≠ [] → s.boot.applyDue = true → s.boot.toCheck = [] →
        s.update.takingUp = [] → s.update.due = false → Completes .stagedApply s fun t =>
          (∀ b ∈ s.boot.passed, b < 7 → bitOf (t.getF F.gctlEnable) b = true) ∧ t.isSet F.gctlStatusCheckBusy = false
          ∧ t.boot.byRom = false)

/-! ### The host target port and the time base, chapters 0 and 3 -/

/-- R9 to R12, R123: an access that is not one aligned word is an error completion without effect. An ordinary write takes
each field by its access type; here of a register whose write starts no action, each field at bits of its own. An ordinary
read answers what the register shows: each field that can be read and has no live view as it is stored, at its bits, and zero where
no field is defined. R382, R379: a read of a channel's registers meets the channel's gate. What the port returns with a write, or with
an error, is the model's choice (log 18).
R14: a read of the low word of a 64-bit register fills its shadow for the master, from which a read of the high word by
the same master is answered once; a write of the low word is held for its master until its write of the high word.
Completes: REGISTER_WRITE, MISALIGNED_ACCESS, READ_64_LOW_WORD, READ_64_HIGH_WORD, WRITE_64_LOW_WORD, WRITE_64_HIGH_WORD. -/
def Obligations.RegisterWindow : Prop :=
  (∀ (s : State) (m : Master) (off : Offset) (v : Word),
    (off.toNat % 4 ≠ 0 → ∀ c ∈ [Instr.registerWrite m off v, .write64LowWord m off v, .write64HighWord m off v,
        .read64LowWord m off, .read64HighWord m off, .misalignedAccess off 4],
      exec c s = .next { s with port := { s.port with value := 0, error := true } })
    ∧ (∀ n, n ≠ 4 → exec (.misalignedAccess off n) s = .next { s with port := { s.port with value := 0, error := true } })
    ∧ (off.toNat % 4 = 0 → channelOf off.toNat = none → s.windowOff off.toNat = false →
        s.actionWrite (.host m) off.toNat v.toNat = none → s.unitWrite (.host m) off.toNat v.toNat = none →
        (fieldsAt off.toNat).Pairwise (fun a b => a.1.lo ≠ b.1.lo) → Completes (.registerWrite m off v) s fun t =>
      (∀ r ∈ fieldsAt off.toNat,
        let f : Field := ⟨off.toNat, r.1.lo, r.1.width⟩
        let new := bitsOf v.toNat r.1.lo r.1.width
        (r.1.acc = .rw → t.getF f = new)
        ∧ (r.1.acc = .ro ∨ r.1.acc = .wo → t.getF f = s.getF f)
        ∧ (∀ b, r.1.acc = .staged b → t.getF f =
            if bitOf (s.getF F.gctlEnable) b = false ∧ s.isSet F.gctlStatusCheckBusy = false then new else s.getF f)
        ∧ (r.1.acc = .w1c → ∀ i < r.1.width, bitOf (t.getF f) i = (bitOf (s.getF f) i && !bitOf new i)))
      ∧ t.port = { s.port with value := 0, error := false }
      ∧ s.Frame t [.port] ((fieldsAt off.toNat).map fun r => ⟨off.toNat, r.1.lo, r.1.width⟩))
    ∧ (off.toNat % 4 = 0 → s.windowOff off.toNat = true →
        exec (.registerWrite m off v) s = .next { s with port := { s.port with value := 0, error := false } })
    ∧ (off.toNat % 4 = 0 → isPair off.toNat = false → isPair (off.toNat - 4) = false →
        ∀ c ∈ [Instr.read64LowWord m off, .read64HighWord m off],
        (s.gateAt m.toNat off.toNat = .pass → off.toNat < 0x80000 → (off.toNat < 0x70090 ∨ 0x700A0 ≤ off.toNat) →
          exec c s = .next { s with port := { s.port with value := s.shown off.toNat, error := false } })
        ∧ (s.gateAt m.toNat off.toNat = .error → exec c s = .next { s with port := { s.port with value := 0, error := true } })
        ∧ (∀ ch, channelOf off.toNat = some ch → s.gateAt m.toNat off.toNat = .unbound → Completes c s fun t =>
            t.port = { s.port with value := 0, error := true } ∧ bitOf (t.getF F.mbxMevt) 0 = true
            ∧ t.getF (F.mbxChCtlRejects ch) = min (s.getF (F.mbxChCtlRejects ch) + 1) 255
            ∧ s.Frame t [.port] [F.mbxChCtlRejects ch, F.mbxMevt])
        ∧ (0x80000 ≤ off.toNat → s.isSet (F.syncPagePMapped ((off.toNat - 0x80000) / 4 / 128)) = false →
          exec c s = .next { s with port := { s.port with value := 0, error := false } }))
    ∧ (fieldsAt off.toNat = [] → s.shown off.toNat = 0)
    ∧ (s.windowOff off.toNat = true ∨ s.leaderOnly off.toNat = true → s.shown off.toNat = 0)
    ∧ (s.windowOff off.toNat = false → s.leaderOnly off.toNat = false → s.live off.toNat = [] →
        (fieldsAt off.toNat).Pairwise (fun a b => a.1.lo + a.1.width ≤ b.1.lo ∨ b.1.lo + b.1.width ≤ a.1.lo) →
        ∀ r ∈ fieldsAt off.toNat, bitsOf (s.shown off.toNat) r.1.lo r.1.width =
          if r.1.acc = .wo then 0 else s.getF ⟨off.toNat, r.1.lo, r.1.width⟩ % 2 ^ r.1.width))
  ∧ (∀ (s : State) (m : Master),
    (∀ off : Offset, isPair off.toNat = true → Completes (.read64LowWord m off) s fun t =>
      t.port.value = s.shown off.toNat ∧ t.port.error = false
      ∧ heldFor t.port.shadows off.toNat m.toNat = some (s.shown (off.toNat + 4)) ∧ s.Frame t [.port] [])
    ∧ (∀ off hi : Offset, isPair off.toNat = true → hi.toNat = off.toNat + 4 →
      (∀ h, heldFor s.port.shadows off.toNat m.toNat = some h → Completes (.read64HighWord m hi) s fun t =>
        t.port.value = h ∧ t.port.error = false ∧ (∀ n, heldFor t.port.shadows off.toNat n = none) ∧ s.Frame t [.port] [])
      ∧ (heldFor s.port.shadows off.toNat m.toNat = none →
        exec (.read64HighWord m hi) s = .next { s with port := { s.port with value := s.shown hi.toNat, error := false } }))
    ∧ ∀ x ∈ [(0x0C030#20, 0x0C034#20, F.thmPrivEligLoMask, F.thmPrivEligHiMask),
        (0x0C038#20, 0x0C03C#20, F.thmChEnLoMask, F.thmChEnHiMask), (0x6000C#20, 0x60010#20, F.mpGenLoData, F.mpGenHiData)],
      (∀ v : Word, s.pairOpen x.1.toNat = true → Completes (.write64LowWord m x.1 v) s fun t =>
        heldFor t.port.holds x.1.toNat m.toNat = some v.toNat ∧ s.Frame t [.port] [])
      ∧ (∀ v w : Word, s.pairOpen x.1.toNat = true → heldFor s.port.holds x.1.toNat m.toNat = some v.toNat →
        Completes (.write64HighWord m x.2.1 w) s fun t =>
          t.getF x.2.2.1 = v.toNat ∧ t.getF x.2.2.2 = w.toNat ∧ (∀ n, heldFor t.port.holds x.1.toNat n = none)
          ∧ s.Frame t [.port] [x.2.2.1, x.2.2.2]))

/-- R76, R79, R89, R83: the crystal is measured once after its delay; on the crystal, a bad window of 64 µs moves the block
to the oscillator; a CLK.CLKMON write with a reserved cluster or core is ignored. What XTAL_MEAS counts, and which bits stay set,
is the model's reading
(log 17), and the rounding of its quotient is open (log 9).
Completes: XTAL_DELAY_END, XTAL_MEASUREMENT_DONE, CRYSTAL_MONITOR_WINDOW, CLKMON_WRITE. -/
def Obligations.CrystalAndMonitor : Prop :=
  ∀ s : State,
    (Completes .xtalDelayEnd s fun t => t.time = { s.time with delayDone := true } ∧ s.Frame t [.time] [])
    ∧ (∀ n, s.time.delayDone = true → s.isSet F.clkStatusXtalOk = false → s.isSet F.clkStatusXtalFail = false →
        Completes (.xtalMeasurementDone n) s fun t =>
      (t.isSet F.clkStatusXtalOk = decide (19500 * 16384 ≤ n * 100000 ∧ n * 100000 ≤ 41000 * 16384))
      ∧ (t.isSet F.clkStatusXtalFail = !t.isSet F.clkStatusXtalOk)
      ∧ (n * 100000 / 16384 < 65535 → t.getF F.clkXtalMeasFreq = n * 100000 / 16384
          ∨ t.getF F.clkXtalMeasFreq = n * 100000 / 16384 + 1)
      ∧ s.Frame t [] [F.clkStatusXtalOk, F.clkStatusXtalFail, F.clkXtalMeasFreq])
    ∧ (∀ n, s.isSet F.clkStatusOnXtal = true → crystalFailed n s.xtalKHz = true →
        Completes (.crystalMonitorWindow n) s fun t =>
      t.isSet F.clkStatusXtalFail = true ∧ t.isSet F.clkStatusOnXtal = false ∧ t.isSet F.gctlErrXtalFail = true
      ∧ t.isSet F.tbStatusOnOsc = true
      ∧ s.Frame t [] [F.clkStatusXtalFail, F.clkStatusOnXtal, F.gctlErrXtalFail, F.tbStatusOnOsc])
    ∧ (∀ n, s.isSet F.clkStatusOnXtal = false ∨ crystalFailed n s.xtalKHz = false →
        exec (.crystalMonitorWindow n) s = .next s)
    ∧ crystalFailed 0 s.xtalKHz = true
    ∧ (∀ v : Word, bitsOf v.toNat 23 4 < 12 → bitsOf v.toNat 14 9 < 288 → Completes (.clkmonWrite v) s fun t =>
      t.getF F.clkClkmonEn = bitsOf v.toNat 31 1 ∧ t.getF F.clkClkmonSel = bitsOf v.toNat 27 4
      ∧ t.getF F.clkClkmonCluster = bitsOf v.toNat 23 4 ∧ t.getF F.clkClkmonCore = bitsOf v.toNat 14 9
      ∧ t.getF F.clkClkmonDiv = bitsOf v.toNat 0 12
      ∧ s.Frame t [] [F.clkClkmonEn, F.clkClkmonSel, F.clkClkmonCluster, F.clkClkmonCore, F.clkClkmonDiv])
    ∧ (∀ v : Word, 12 ≤ bitsOf v.toNat 23 4 ∨ 288 ≤ bitsOf v.toNat 14 9 → exec (.clkmonWrite v) s = .next s)

/-- R84 to R87, R90, R91: an edge within 2 % of P of where it is expected starts the next beat, with P the mean of the last
accepted periods; another is ignored and counted; a window without one starts a flywheel beat, and the second in a row, or a
P out of range, the substitute beats of 1 µs, from which 64 qualified periods lead back. What an edge inside the window of R84 is
under R86, and that the interval across a flywheel beat does not enter P, are the model's choices (log 68), as are the times in
picoseconds and what enters a qualified run (log 15), and how an action is asked for (log 52). Each beat begins with tick 0, has
ticks to 63, and fires the actions scheduled for it.
Completes: SYNC_IN_EDGE, TICK, SYNC_WINDOW_CLOSE, SUBSTITUTE_BEAT_START, SCHEDULED_ACTION. -/
def Obligations.Beats : Prop :=
  ∀ s : State,
    let next (t : State) : Prop := t.time.beat = s.time.beat + 1 ∧ t.time.tick = 0
      ∧ t.time.fired = s.time.scheduled.filter (fun b => !isAfter 48 b.toNat (s.time.beat + 1).toNat)
      ∧ t.time.scheduled = s.time.scheduled.filter (fun b => isAfter 48 b.toNat (s.time.beat + 1).toNat)
    let substituted (t : State) : Prop := t.time.period = 1000000 ∧ t.time.periods = [] ∧ t.time.missed = 0
      ∧ t.time.qualified = []
    (s.isSet F.tbStatusSubst = false →
      (∀ n, s.time.expected ≤ 50 * n + s.time.period → 50 * n ≤ s.time.expected + s.time.period →
        (periodOut s.time.period = false → Completes (.syncInEdge n) s fun t => next t
          ∧ (let l := if s.time.missed = 0 then (n :: s.time.periods).take 16 else s.time.periods
            let p := if l = [] then s.time.period else periodMean l
            t.time.periods = l ∧ t.time.period = p ∧ t.time.expected = 50 * p)
          ∧ t.time.lastEdge = some 0 ∧ t.time.missed = 0)
        ∧ (periodOut s.time.period = true → Completes (.syncInEdge n) s fun t => next t ∧ substituted t))
      ∧ (∀ n, 50 * n + s.time.period < s.time.expected ∨ s.time.expected + s.time.period < 50 * n →
        Completes (.syncInEdge n) s fun t => t.time = { s.time with lastEdge := some n }
          ∧ t.getF F.tbStatusIgnored = min (s.getF F.tbStatusIgnored + 1) (2 ^ F.tbStatusIgnored.width - 1)
          ∧ s.Frame t [.time] [F.tbStatusIgnored])
      ∧ (s.time.missed = 0 → periodOut s.time.period = false → Completes .syncWindowClose s fun t => next t
          ∧ t.time.missed = 1 ∧ t.time.expected = 49 * s.time.period ∧ t.time.period = s.time.period)
      ∧ (s.time.missed ≠ 0 ∨ periodOut s.time.period = true → Completes .syncWindowClose s fun t => next t ∧ substituted t)
      ∧ exec .substituteBeatStart s = .next s)
    ∧ (s.isSet F.tbStatusSubst = true →
      exec .syncWindowClose s = .next s ∧ Completes .substituteBeatStart s next
      ∧ ∀ (n : Nat) (e : Int), s.time.lastEdge = some e →
        let run := qualify s.time.qualified ((n : Int) - e).toNat
        (run.length < 64 → exec (.syncInEdge n) s = .next { s with time := { s.time with lastEdge := some n, qualified := run } })
        ∧ (64 ≤ run.length → Completes (.syncInEdge n) s fun t => next t ∧ t.time.period = periodMean run
            ∧ t.time.periods = run.take 16 ∧ t.time.expected = 50 * periodMean run ∧ t.time.qualified = []))
    ∧ (∀ l, s.time.tick < 63 → Completes (.tick l) s fun t => t.time = { s.time with tick := s.time.tick + 1 }
        ∧ (0 < s.time.tick → ∀ k < 8, (t.rail k).sense = l.getD k (s.rail k).sense))
    ∧ (∀ l, 63 ≤ s.time.tick → exec (.tick l) s = .next s)
    ∧ ∀ b : BitVec 48, Completes (.scheduledAction b) s fun t => s.Frame t [.time] []
        ∧ t.time = (if isAfter 48 b.toNat s.beat then { s.time with scheduled := s.time.scheduled ++ [b], answered := 0 }
          else { s.time with answered := 4 })

/-- R81, R82, R152, R183: a cluster changes its source through the divider steps of R81; on CLK_REF its PLL is retargeted, also
where the permission has fallen below what it waits for; a lock leads back; the second lock that does not come leaves the cluster
on CLK_REF with PLL_FAIL, 20 µs after each request (for which request: the model's choice, log 53; that a request during a change
waits for its end: log 27; f_req until CLK is active: log 25). R181: each step reduces the accumulators of its agents.
Completes: PLL_LOCK, PLL_LOCK_TIMEOUT, DIVIDER_RAMP_STEP, CLUSTER_FREQ_RETARGET. -/
def Obligations.ClusterClocks : Prop :=
  ∀ (s : State) (c : Fin 12),
    let v := s.clc c.val
    let f := s.freqTarget c.val
    let run := F.clcCFreqRun c.val
    let only (t : State) (l : List Field) : Prop := s.Frame t [.clcs] l ∧ ∀ d, d ≠ c.val → t.clc d = s.clc d
    let moves (t : State) : Prop := s.Frame t [.clcs, .cpas] [run] ∧ (∀ d, d ≠ c.val → t.clc d = s.clc d)
      ∧ ∀ n, t.cpa n = { s.cpa n with acc := (t.cpa n).acc } ∧ (clusterOf n ≠ c.val → t.cpa n = s.cpa n)
    let asked (x : Clc) : Clc :=
      { x with target := max 400 f, pllFreq := max 400 f, pllReq := true, pllLocked := false, lockEnd := s.beatIn 20 }
    (v.pllReq = true →
      ((v.pllFreq ≤ f ∨ v.pllFreq ≤ 400) → Completes (.pllLock c) s fun t => (t.clc c.val).pllReq = false
        ∧ (t.clc c.val).pllLocked = true ∧ (t.clc c.val).steps = (rampSteps v.div .toPll).tail
        ∧ (t.clc c.val).ramping = !(rampSteps v.div .toPll).tail.isEmpty ∧ moves t)
      ∧ (f < v.pllFreq → 400 < v.pllFreq → Completes (.pllLock c) s fun t =>
        t.clc c.val = asked { v with retried := false } ∧ t.getF run = 400 ∧ only t [run])
      ∧ (s.beatReached v.lockEnd = false → exec (.pllLockTimeout c) s = .next s)
      ∧ (s.beatReached v.lockEnd = true → v.retried = false → Completes (.pllLockTimeout c) s fun t =>
        t.clc c.val = { v with retried := true, lockEnd := s.beatIn 20 } ∧ only t [])
      ∧ (s.beatReached v.lockEnd = true → v.retried = true → Completes (.pllLockTimeout c) s fun t =>
        t.clc c.val = { v with pllReq := false, failedFor := some (s.freqRequest c.val) }
        ∧ bitOf (t.getF F.clcEvtPllFail) c.val = true ∧ t.getF run = 400 ∧ only t [F.clcEvtPllFail, run]))
    ∧ (v.pllReq = false → exec (.pllLock c) s = .next s ∧ exec (.pllLockTimeout c) s = .next s)
    ∧ (v.ramping = false → exec (.dividerRampStep c) s = .next s)
    ∧ (∀ st rest, v.ramping = true → v.again = false → v.steps = st :: rest → Completes (.dividerRampStep c) s fun t =>
        (t.clc c.val).steps = rest ∧ ((t.clc c.val).ramping = !rest.isEmpty)
        ∧ (∀ d, st = .divide d → (t.clc c.val).div = d ∧ (t.clc c.val).onRef = v.onRef)
        ∧ (st = .toRef → (t.clc c.val).onRef = true) ∧ (st = .toPll → (t.clc c.val).onRef = false)
        ∧ (rest = [] → (t.clc c.val).onRef = true →
            (t.clc c.val).pllReq = true ∧ (t.clc c.val).pllFreq = max 400 f ∧ t.getF run = 400)
        ∧ (rest = [] → (t.clc c.val).onRef = false → t.getF run = v.pllFreq % 2 ^ run.width) ∧ moves t)
    ∧ ((s.isActive 0 = false ∨ s.clusterOn c.val = false ∨ f < 400) →
        exec (.clusterFreqRetarget c) s = .next s)
    ∧ (s.isActive 0 = true → s.clusterOn c.val = true → 400 ≤ f →
      (v.pllReq = true → v.ramping = false → f < v.pllFreq → Completes (.clusterFreqRetarget c) s fun t =>
        t.clc c.val = asked { v with retried := false, again := true } ∧ t.getF run = 400 ∧ only t [run])
      ∧ (v.ramping = true ∨ (v.pllReq = true ∧ v.pllFreq ≤ f) → Completes (.clusterFreqRetarget c) s fun t =>
        t.clc c.val = { v with again := true } ∧ only t [])
      ∧ (v.ramping = false → v.pllReq = false → v.failedFor = some (s.freqRequest c.val) →
        exec (.clusterFreqRetarget c) s = .next s)
      ∧ (v.ramping = false → v.pllReq = false → v.failedFor ≠ some (s.freqRequest c.val) →
        (v.onRef = true → Completes (.clusterFreqRetarget c) s fun t =>
          t.clc c.val = asked { v with retried := false, failedFor := none, again := false } ∧ t.getF run = 400 ∧ only t [run])
        ∧ (v.onRef = false → v.pllFreq ≠ f → Completes (.clusterFreqRetarget c) s fun t =>
          (t.clc c.val).target = f ∧ (t.clc c.val).steps = (rampSteps v.div .toRef).tail ∧ moves t)
        ∧ (v.onRef = false → v.pllFreq = f → Completes (.clusterFreqRetarget c) s fun t =>
          t.clc c.val = { v with again := false } ∧ only t [])))

/-! ### Rails and bus converters, chapter 5 -/

/-- R133 to R137: BC_EN of the fitted converters in turn, lowest first; BC_PG; the rails in the order of Table 5.1, each on
PGOOD; what a timeout of either turns off; and the shutdown, the rail started last first. That PGOOD and SETTLED are cleared when a
rail goes off is the model's reading (log 26), as are the levels latched then (log 43).
Completes: BC_EN_NEXT, BC_PG_RISE, BC_START_TIMEOUT, PGOOD_SET, RAIL_START_TIMEOUT, RAIL_SHUTDOWN_STEP. -/
def Obligations.RailStart : Prop :=
  ∀ s : State,
    (∀ i, s.supply.stage = .converters →
        ((List.range 4).find? fun i => bitOf s.fitted i && !bitOf (s.getF F.railcBcStatusEn) i) = some i →
        256 ≤ s.supply.sinceEn → Completes .bcEnNext s fun t => bitOf (t.getF F.railcBcStatusEn) i = true
          ∧ t.supply = { s.supply with
              sinceEn := 0
              stage := if s.isSet F.railcBcStatusPg && ((List.range 4).filter (bitOf s.fitted)).all fun j =>
                bitOf s.supply.voutOk j && (j == i || bitOf (s.getF F.railcBcStatusEn) j) then .ready else .converters }
          ∧ s.Frame t [.supply] [F.railcBcStatusEn])
    ∧ (s.supply.sinceEn < 256 → exec .bcEnNext s = .next s)
    ∧ (s.supply.stage ≠ .converters → exec .bcEnNext s = .next s ∧ exec .bcStartTimeout s = .next s)
    ∧ (Completes .bcPgRise s fun t => t.isSet F.railcBcStatusPg = true ∧ s.Frame t [.supply] [F.railcBcStatusPg]
        ∧ t.supply = if s.supply.stage = .converters then
            { s.supply with voutOk := 0, reads := ((List.range 4).filter (bitOf s.fitted)).map fun i => (i, 1),
                            stage := if s.fitted = 0 then .ready else .converters } else s.supply)
    ∧ (s.supply.stage = .converters →
        (∀ i < 4, bitOf s.fitted i = true → bitOf (s.getF F.railcBcStatusEn) i = true) →
        beatsOf 20000 (s.getF F.tbSyncFreqUsed) ≤ s.supply.sinceEn → Completes .bcStartTimeout s fun t =>
        t.isSet F.railcBcEvtPgTimeout = true ∧ t.getF F.railcBcStatusEn = 0 ∧ t.supply = { s.supply with stage := .off }
        ∧ s.Frame t [.supply] [F.railcBcEvtPgTimeout, F.railcBcStatusEn])
    ∧ (s.supply.sinceEn < beatsOf 20000 (s.getF F.tbSyncFreqUsed) → exec .bcStartTimeout s = .next s)
    ∧ (∀ k : Fin 8, s.isSet (F.railStatusOn k.val) = true → s.isSet (F.railStatusPgood k.val) = false →
        (s.rail k.val).pgBeats = 16 → s.getF (F.railStatusSeqState k.val) = 1 → s.supply.stage = .ramping →
        s.startingRail = k.val → Completes (.pgoodSet k) s fun t => t.isSet (F.railStatusPgood k.val) = true
          ∧ t.supply = { s.supply with index := s.supply.index + 1, stage := if s.supply.index + 1 = 8 then .done else .ready }
          ∧ s.Frame t [.supply] [F.railStatusPgood k.val])
    ∧ (∀ k : Fin 8, s.isSet (F.railStatusOn k.val) = true → s.isSet (F.railStatusPgood k.val) = false →
        (s.rail k.val).pgBeats = 16 → s.getF (F.railStatusSeqState k.val) ≠ 1 → Completes (.pgoodSet k) s fun t =>
          t.isSet (F.railStatusPgood k.val) = true ∧ s.Frame t [] [F.railStatusPgood k.val])
    ∧ (∀ k : Fin 8, (s.isSet (F.railStatusOn k.val) = false ∨ s.isSet (F.railStatusPgood k.val) = true
        ∨ (s.rail k.val).pgBeats ≠ 16) → exec (.pgoodSet k) s = .next s)
    ∧ (∀ k : Fin 8, (s.rail k.val).rampDone = false ∨ (s.rail k.val).startBeats < (s.rail k.val).rampBeats + 1000 →
        exec (.railStartTimeout k) s = .next s)
    ∧ (∀ k : Fin 8, s.supply.stage = .ramping → s.startingRail = k.val → s.isSet (F.railStatusPgood k.val) = false →
        (s.rail k.val).rampDone = true → (s.rail k.val).rampBeats + 1000 ≤ (s.rail k.val).startBeats → Completes (.railStartTimeout k) s fun t => t.isSet (F.railStatusStartFail k.val) = true
          ∧ t.isSet F.gctlErrStartFail = true ∧ t.supply = { s.supply with stage := .failing }
          ∧ s.Frame t [.supply] [F.railStatusStartFail k.val, F.gctlErrStartFail])
    ∧ ((s.pins.pwrOff = true ∨ s.supply.stage = .failing) →
      (∀ k, ([7, 4, 6, 5, 0, 1, 2, 3].reverse.find? fun k => s.isSet (F.railStatusOn k)) = some k →
        Completes .railShutdownStep s fun t => t.isSet (F.railStatusOn k) = false ∧ t.isSet (F.railStatusPgood k) = false
          ∧ t.getF (F.railStatusSeqState k) = 0
          ∧ (∀ p ∈ phasesOf k, (t.phase p).pwm = .highZ
              ∧ t.phaseState p = if s.phaseState p = 2 ∨ s.phaseState p = 3 then 1 else s.phaseState p)
          ∧ s.Frame t [.pins, .logRam, .phases, .ecc, .pmbus, .health] ([F.railStatusOn k, F.railStatusPgood k, F.railStatusSeqState k,
              F.railStatusSettled k] ++ (phasesOf k).map phaseStateF ++ traceFields))
      ∧ ((∀ k < 8, s.isSet (F.railStatusOn k) = false) → Completes .railShutdownStep s fun t =>
          t.getF F.railcBcStatusEn = 0 ∧ t.supply = { s.supply with stage := .off } ∧ s.Frame t [.supply] [F.railcBcStatusEn]))
    ∧ (s.pins.pwrOff = false → s.supply.stage ≠ .failing → exec .railShutdownStep s = .next s)

/-- R138, R133: reads of the converters in turn; three failed in a row make a converter stale; a good one refreshes its
value and stamp; while the converters start, READ_VOUT in range of all of them, every BC_EN asserted, ends the wait; BC_PG low
while a rail is on
reads every STATUS_WORD at once. How a number is rounded is open (log 9); that a good read clears STALE is the model's reading
(log 26).
Completes: CONVERTER_READ_DONE, CONVERTER_POLL, BC_PG_FALL. -/
def Obligations.ConverterReads : Prop :=
  ∀ (s : State) (i : Fin 4) (c : ConvCmd),
    let fails := Store.read (fun _ => 0) s.supply.fails i.val
    let fitted := (List.range 4).filter (bitOf s.fitted)
    (Completes (.converterReadDone i c none) s fun t => Store.read (fun _ => 0) t.supply.fails i.val = fails + 1
        ∧ (bitOf (t.getF F.railcBcStatusStale) i.val = (fails == 2 || bitOf (s.getF F.railcBcStatusStale) i.val))
        ∧ (fails = 2 → bitOf (t.getF F.railcBcEvtStale) i.val = true)
        ∧ s.Frame t [.supply] [F.railcBcStatusStale, F.railcBcEvtStale])
    ∧ (∀ w : BitVec 16, Completes (.converterReadDone i c (some w)) s fun t =>
        Store.read (fun _ => 0) t.supply.fails i.val = 0 ∧ bitOf (t.getF F.railcBcStatusStale) i.val = false
        ∧ t.getF (F.telBcStampBeat i.val) = s.beat32
        ∧ (match c with
          | .readVin => t.getF (F.telBcVVin i.val) = satNat 16 (linear11 w.toNat 1000).toNat
          | .readVout => t.getF (F.telBcVVout i.val) = satNat 16 (linear16mV w.toNat s.voutExp)
          | .readIout => t.getF (F.telBcItIout i.val) = satNat 16 (linear11 w.toNat 8).toNat
          | .readTemperature1 => t.getF (F.telBcItTemp i.val) = tempField (linear11 w.toNat 64)
          | .statusWord => t.getF (F.telBcStatWord i.val) = w.toNat
            ∧ bitOf (t.getF F.railcBcStatusFault) i.val = decide (w.toNat ≠ 0)
            ∧ (w.toNat ≠ 0 → bitOf (s.getF F.railcBcStatusFault) i.val = false →
                bitOf (t.getF F.railcBcEvtFault) i.val = true))
        ∧ (c = .readVout → s.supply.stage = .converters → s.isSet F.railcBcStatusPg = true →
            5000 ≤ t.getF (F.telBcVVout i.val) → t.getF (F.telBcVVout i.val) ≤ 6000 →
            bitOf t.supply.voutOk i.val = true
            ∧ t.supply.stage = if fitted.all (fun j => bitOf t.supply.voutOk j && bitOf (s.getF F.railcBcStatusEn) j) then .ready
                else .converters)
        ∧ s.Frame t [.supply] [F.railcBcStatusStale, F.railcBcStatusFault, F.railcBcEvtFault, F.telBcStampBeat i.val,
            F.telBcVVin i.val, F.telBcVVout i.val, F.telBcItIout i.val, F.telBcItTemp i.val, F.telBcStatWord i.val])
    ∧ (fitted = [] → exec .converterPoll s = .next s)
    ∧ (bitOf s.fitted s.supply.pollConv = true → s.supply.pollConv < 4 → Completes .converterPoll s fun t =>
        t.supply.reads = s.supply.reads ++ [(s.supply.pollConv, s.supply.pollCmd)]
        ∧ t.supply.pollCmd = (if s.supply.pollCmd = 4 then 0 else s.supply.pollCmd + 1)
        ∧ (s.supply.pollCmd ≠ 4 → t.supply.pollConv = s.supply.pollConv) ∧ s.Frame t [.supply] [])
    ∧ (Completes .bcPgFall s fun t => t.isSet F.railcBcStatusPg = false
        ∧ ((∃ k < 8, s.isSet (F.railStatusOn k) = true) → t.isSet F.railcBcEvtPgLost = true
            ∧ t.supply = { s.supply with reads := s.supply.reads ++ fitted.map fun i => (i, 4) })
        ∧ ((∀ k < 8, s.isSet (F.railStatusOn k) = false) → s.Frame t [] [F.railcBcStatusPg])
        ∧ s.Frame t [.supply] [F.railcBcStatusPg, F.railcBcEvtPgLost])

/-- R151, R154, R155, R188, R164: SETTLED and SEQ_TIMEOUT; a write of RAIL.VSET of a rail that is not CORE, in range and
allowed, is taken up, and its status shown (that a refused one leaves RAIL.VSET.TAG is the model's choice, log 66; who has a write
taken, and the order of its refusals: log
25); the end of a coupling raise; derating by FRAC.
Completes: SETTLED, SEQ_TIMEOUT, RAIL_VSET_WRITE, DERATE_EVALUATION, COUPLING_RAISE_END. -/
def Obligations.RailSequencer : Prop :=
  ∀ s : State,
    (∀ k : Fin 8, s.getF (F.railStatusSeqState k.val) = 5 →
      (s.getF (F.railVposPosition k.val) = s.getF (F.railVposCmd k.val) → (s.rail k.val).bandTicks = 4 →
          Completes (.settled k) s fun t =>
        t.isSet (F.railStatusSettled k.val) = true ∧ t.getF (F.railStatusSeqState k.val) = 2
        ∧ (t.rail k.val).settledPos = s.getF (F.railVposPosition k.val)
        ∧ (s.getF (F.railVcmdStatus k.val) = 1 → (s.rail k.val).vsetNext = none → t.getF (F.railVcmdStatus k.val) = 0x0A)
        ∧ ((s.rail k.val).vsetNext ≠ none → t.getF (F.railVcmdStatus k.val) = s.getF (F.railVcmdStatus k.val))
        ∧ s.Frame t [.rails, .held] [F.railStatusSettled k.val, F.railStatusSeqState k.val, F.railVcmdStatus k.val,
            F.railVcmdPrevStatus k.val, F.railFpermPerm k.val 0, F.railFpermPerm k.val 1, F.railFpermPerm k.val 2])
      ∧ (s.getF (F.railVposPosition k.val) ≠ s.getF (F.railVposCmd k.val) ∨ (s.rail k.val).bandTicks ≠ 4 →
        exec (.settled k) s = .next s)
      ∧ ((s.rail k.val).timedOut = true ∨ (s.rail k.val).settleBeats < max 1 (s.appliedF (F.railSettleTimeout k.val)) →
        exec (.seqTimeout k) s = .next s)
      ∧ ((s.rail k.val).timedOut = false → max 1 (s.appliedF (F.railSettleTimeout k.val)) ≤ (s.rail k.val).settleBeats →
        Completes (.seqTimeout k) s fun t => (t.rail k.val).timedOut = true
        ∧ bitOf (t.getF (F.railEvt k.val)) 1 = true ∧ t.getF (F.railStatusSeqState k.val) = 5
        ∧ (s.getF (F.railVcmdStatus k.val) = 1 → (s.rail k.val).vsetNext = none → t.getF (F.railVcmdStatus k.val) = 6)
        ∧ s.Frame t [.pins, .logRam, .rails, .ecc, .pmbus] ([F.railEvt k.val, F.railVcmdStatus k.val,
            F.railVcmdPrevStatus k.val] ++ traceFields)))
    ∧ (∀ k : Fin 8, s.getF (F.railStatusSeqState k.val) ≠ 5 →
        exec (.settled k) s = .next s ∧ exec (.seqTimeout k) s = .next s)
    ∧ (∀ (w : Writer) (k : Fin 8) (v : Word), k.val < 4 → exec (.railVsetWrite w k v) s = .next s)
    ∧ (∀ (w : Writer) (k : Fin 8) (v : Word), 4 ≤ k.val →
      let target := v.toNat % 65536
      let tag := bitsOf v.toNat 16 8
      let inRange := decide (s.appliedF (F.railVlimMin k.val) ≤ target ∧ target ≤ s.appliedF (F.railVlimMax k.val))
      let allowed := w = .flp ∨ s.getF F.gctlModeCurrent = 3 ∨ s.getF F.gctlModeCurrent = 4
      Completes (.railVsetWrite w k v) s fun t => t.getF (F.railVcmdTag k.val) = tag
        ∧ (inRange = false → t.getF (F.railVcmdStatus k.val) = 4 ∧ t.rails = s.rails)
        ∧ (inRange = true → ¬ allowed → t.getF (F.railVcmdStatus k.val) = 8 ∧ t.rails = s.rails)
        ∧ (inRange = true → allowed → t.getF (F.railVcmdStatus k.val) = 1 ∧ t.getF (F.railVsetTarget k.val) = target
            ∧ t.getF (F.railVsetTag k.val) = tag ∧ (t.rail k.val).vsetNext = some target
            ∧ (s.getF (F.railVcmdStatus k.val) = 1 → t.getF (F.railVcmdPrevTag k.val) = s.getF (F.railVcmdTag k.val) % 256
                ∧ t.getF (F.railVcmdPrevStatus k.val) = 5))
        ∧ s.Frame t [.rails] [F.railVcmdTag k.val, F.railVcmdStatus k.val, F.railVcmdPrevTag k.val,
            F.railVcmdPrevStatus k.val, F.railVsetTag k.val, F.railVsetTarget k.val])
    ∧ (∀ k : Fin 4, ((s.rail k.val).cplLast = none → exec (.couplingRaiseEnd k) s = .next s)
      ∧ ∀ b, (s.rail k.val).cplLast = some b →
        (isAfter 48 (b + s.appliedF F.clcCplHold) s.beat = true → exec (.couplingRaiseEnd k) s = .next s)
        ∧ (isAfter 48 (b + s.appliedF F.clcCplHold) s.beat = false → Completes (.couplingRaiseEnd k) s fun t =>
          t.getF (F.clcRaiseKCpl k.val) = 0 ∧ (t.rail k.val).cplLast = none ∧ s.Frame t [.rails] [F.clcRaiseKCpl k.val]))
    ∧ ∀ k : Fin 4,
      let lim : Int := (64 * s.appliedF (F.railProtStageTlim k.val) : Nat)
      let temps := (s.enabledPhases k.val).map fun p => s.getF (phaseTempF p)
      let frac := F.railcDerateKFrac k.val
      (s.running 0 = false ∨ (s.rail k.val).derating = false ∨ s.ends (intervalKey 10 k.val) = false →
        exec (.derateEvaluation k) s = .next s)
      ∧ (s.running 0 = true → (s.rail k.val).derating = true → s.ends (intervalKey 10 k.val) = true →
        ((∃ x ∈ temps, x ≠ 0x8000 ∧ lim ≤ toSigned 16 x) → Completes (.derateEvaluation k) s fun t =>
          t.getF frac = max 8 (s.getF frac - 2) % 32 ∧ (t.rail k.val).cool = 0 ∧ s.Frame t [.rails, .intervals, .held] [frac])
        ∧ ((∀ x ∈ temps, x ≠ 0x8000 ∧ toSigned 16 x ≤ lim - 640) → Completes (.derateEvaluation k) s fun t =>
          ((s.rail k.val).cool = 9 → t.getF frac = min 16 (s.getF frac + 1) ∧ (t.rail k.val).cool = 0)
          ∧ ((s.rail k.val).cool ≠ 9 → t.getF frac = s.getF frac ∧ (t.rail k.val).cool = (s.rail k.val).cool + 1)
          ∧ s.Frame t [.rails, .intervals, .held] [frac]))

/-- R148 to R150, R156 to R162, R159, Table 5.5: what the detections of a rail and its phases do, at the levels and after the counts
of Table 5.3. The code of a conversion and its scale are the model's (log 12), as are the rows that bring it (log 26); that the hold of
an overvoltage drives shed phases low as well is the model's reading (log 80).
Completes: IMON_CONVERSION, TMON_CONVERSION, OVERSHOOT_DETECT, TRUNCATION_RELEASE, OVERVOLTAGE_DETECT, UNDERVOLTAGE_DETECT,
RAIL_OVER_LIMIT, STAGE_HOT, RAIL_FAULT, PLDRAG_RELEASE. -/
def Obligations.RailProtection : Prop :=
  ∀ s : State,
    (∀ (k : Fin 8) (v : Nat),
      let half := max 8 (s.appliedF (F.railProtTrunc k.val))
      let target := s.getF (F.railVtgtTarget k.val)
      (s.isSet (F.railStatusOn k.val) = true → target + 2 * half < v → Completes (.overshootDetect ⟨k, v⟩) s fun t =>
        (∀ p ∈ phasesOf k.val, (t.phase p).pwm ≠ .high)
        ∧ t.isSet (F.railStatusTrunc k.val) = true ∧ (t.rail k.val).truncBeat = true
        ∧ s.Frame t [.rails, .phases] [F.railStatusTrunc k.val])
      ∧ (s.isSet (F.railStatusOn k.val) = false ∨ v ≤ target + 2 * half → exec (.overshootDetect ⟨k, v⟩) s = .next s)
      ∧ (v < target + half → Completes (.truncationRelease ⟨k, v⟩) s fun t =>
        t.isSet (F.railStatusTrunc k.val) = false ∧ s.Frame t [] [F.railStatusTrunc k.val])
      ∧ (target + half ≤ v → exec (.truncationRelease ⟨k, v⟩) s = .next s))
    ∧ (∀ k : Fin 8, s.isSet (F.railStatusOn k.val) = true →
      ((s.rail k.val).ovTicks = 2 → Completes (.overvoltageDetect k) s fun t =>
        (∀ p ∈ phasesOf k.val, s.phaseState p ∈ [2, 3, 4] → (t.phase p).pwm = .low)
        ∧ t.isSet (F.railStatusOvHold k.val) = true ∧ t.isSet (F.railStatusPgood k.val) = false
        ∧ bitOf (t.getF (F.railEvt k.val)) 7 = true ∧ t.rail k.val = { s.rail k.val with pgBeats := 0 }
        ∧ s.Frame t [.pins, .logRam, .rails, .phases, .ecc, .pmbus] ([F.railStatusOvHold k.val, F.railStatusPgood k.val,
            F.railEvt k.val] ++ traceFields))
      ∧ ((s.rail k.val).uvBeats = 64 → Completes (.undervoltageDetect k) s fun t => t.isSet (F.railStatusPgood k.val) = false
        ∧ bitOf (t.getF (F.railEvt k.val)) 6 = true ∧ t.rail k.val = { s.rail k.val with pgBeats := 0 }
        ∧ s.Frame t [.pins, .logRam, .rails, .ecc, .pmbus] ([F.railStatusPgood k.val, F.railEvt k.val] ++ traceFields))
      ∧ ((s.rail k.val).overBeats = 4 → Completes (.railOverLimit k) s fun t =>
        (t.rail k.val).pldrag = some (min 32 (s.appliedF (F.railPldragSlots k.val))) ∧ (t.rail k.val).pldragRising = false
        ∧ t.isSet (F.railStatusPldrag k.val) = true ∧ bitOf (t.getF (F.railEvt k.val)) 2 = true
        ∧ s.Frame t [.pins, .logRam, .rails, .ecc, .pmbus] ([F.railStatusPldrag k.val, F.railEvt k.val] ++ traceFields)))
    ∧ (∀ k : Fin 8,
        (s.isSet (F.railStatusOn k.val) = false ∨ (s.rail k.val).ovTicks ≠ 2 → exec (.overvoltageDetect k) s = .next s)
        ∧ (s.isSet (F.railStatusOn k.val) = false ∨ (s.rail k.val).uvBeats ≠ 64 → exec (.undervoltageDetect k) s = .next s)
        ∧ (s.isSet (F.railStatusOn k.val) = false ∨ (s.rail k.val).overBeats ≠ 4 → exec (.railOverLimit k) s = .next s))
    ∧ (∀ p : Fin 44, (s.phaseState p.val ≠ 0 → (s.phase p.val).hotBeats = 16 → Completes (.stageHot p) s fun t =>
        bitOf (t.getF (F.railEvt (railOfPhase p.val))) 9 = true
        ∧ s.Frame t [.pins, .logRam, .ecc, .pmbus] (F.railEvt (railOfPhase p.val) :: traceFields))
      ∧ (s.phaseState p.val = 0 ∨ (s.phase p.val).hotBeats ≠ 16 → exec (.stageHot p) s = .next s))
    ∧ (∀ k : Fin 8, (s.isSet (F.railStatusOvHold k.val) = true → (s.rail k.val).ovBeats = 8 → Completes (.railFault k) s fun t =>
        t.isSet (F.railStatusOn k.val) = false ∧ t.isSet (F.railStatusRailFault k.val) = true
        ∧ bitOf (t.getF (F.railEvt k.val)) 8 = true ∧ (∀ p ∈ phasesOf k.val, (t.phase p).pwm = .highZ)
        ∧ t.trip.taken = true)
      ∧ (s.isSet (F.railStatusOvHold k.val) = false ∨ (s.rail k.val).ovBeats ≠ 8 → exec (.railFault k) s = .next s))
    ∧ (∀ (k : Fin 8) (c : Nat),
      let r := s.rail k.val
      (r.pldrag = some c → r.dragCool = 64 → r.pldragRising = false → Completes (.pldragRelease k) s fun t =>
        t.rail k.val = { r with pldragRising := true, pldrag := some (if s.time.tick = 0 then min 32 (c + 1) else c) }
        ∧ s.Frame t [.rails] [])
      ∧ (r.pldrag = none ∨ r.dragCool ≠ 64 ∨ r.pldragRising = true → exec (.pldragRelease k) s = .next s))
    ∧ (∀ (k : Fin 8) (uv : List Int), uv.length = phaseCount k.val → Completes (.imonConversion k uv) s fun t =>
        (∀ j < phaseCount k.val, s.phaseState (firstPhase k.val + j) = 2 →
          let p := firstPhase k.val + j
          (imonInRange (uv.getD j 0) = true → t.phaseState p = 2 →
            t.getF (phaseCurrentF p) = satNat 16 (s.imonCurrent p (imonCode (uv.getD j 0))))
          ∧ (imonInRange (uv.getD j 0) = false → 1 ≤ (s.phase p).outOfRange → t.phaseState p = 4))
        ∧ t.getF (F.railVtgtTarget k.val) = vTarget (t.getF (F.railVposPosition k.val)) (t.loadRll k.val) (t.iRail k.val)
            (t.appliedF (F.railVlimMin k.val)) % 2 ^ 16)
    ∧ (∀ (p : Fin 44) (mv : Nat), s.phaseState p.val ≠ 0 → Completes (.tmonConversion p mv) s fun t =>
        t.getF (phaseTempF p.val) =
          (if 1700 ≤ mv then 0x8000 else tempField (((mv : Int) - 600) * 8 + s.tmonOffset p.val))
        ∧ (mv < 2000 → (t.phase p.val).stage = 0 ∧ s.Frame t [.phases] [phaseTempF p.val])
        ∧ (2000 ≤ mv → 1 ≤ (s.phase p.val).stage → s.phaseState p.val ∈ [2, 3, 4] → t.phaseState p.val = 5))

/-- R166, R167: a window that is complete latches its averages, each rounded to one of its two neighbours (the spec leaves the
rounding open, log 9), and starts afresh with the length then set; CLEAR_PEAK, which leaves an extreme new in the same tick.
Completes: TELEMETRY_SHORT_WINDOW, TELEMETRY_LONG_WINDOW, TEL_CLEAR_PEAK. -/
def Obligations.RailTelemetry : Prop :=
  ∀ (s : State) (k : Fin 8),
    let near (t : State) (f : Field) (sum n : Nat) : Prop :=
      t.getF f = satNat f.width (sum / n) ∨ (sum % n ≠ 0 ∧ t.getF f = satNat f.width (sum / n + 1))
    (∀ v i p n, (s.rail k.val).sumShort = [v, i, p, n] →
      (0 < n → (s.rail k.val).lenShort ≤ n → Completes (.telemetryShortWindow k) s fun t =>
        near t (F.telVShort k.val) v n ∧ near t (F.telIShort k.val) i n ∧ near t (F.telPShort k.val) p n
        ∧ t.rail k.val = { s.rail k.val with sumShort := [0, 0, 0, 0], lenShort := s.appliedF (F.telWinShort k.val) }
        ∧ s.Frame t [.rails, .health] [F.telVShort k.val, F.telIShort k.val, F.telPShort k.val])
      ∧ (n = 0 ∨ n < (s.rail k.val).lenShort → exec (.telemetryShortWindow k) s = .next s))
    ∧ (∀ v i p n, (s.rail k.val).sumLong = [v, i, p, n] →
      (0 < n → (s.rail k.val).lenLong ≤ n → Completes (.telemetryLongWindow k) s fun t =>
        near t (F.telVLong k.val) v n ∧ near t (F.telILong k.val) i n ∧ near t (F.telPLong k.val) p n
        ∧ t.getF (F.telStampBeat k.val) = s.beat32
        ∧ t.rail k.val = { s.rail k.val with sumLong := [0, 0, 0, 0], lenLong := 2 ^ (10 + s.appliedF (F.telWinLong k.val)) }
        ∧ s.Frame t [.rails] [F.telVLong k.val, F.telILong k.val, F.telPLong k.val, F.telStampBeat k.val])
      ∧ (n = 0 ∨ n < (s.rail k.val).lenLong → exec (.telemetryLongWindow k) s = .next s))
    ∧ (∀ v : Word, v.toNat % 2 = 1 → Completes (.telClearPeak k v) s fun t =>
      (∀ x ∈ [(F.telVPeakMax k.val, 0), (F.telVPeakMin k.val, 0xFFFF), (F.telIpPeakIMax k.val, 0), (F.telIpPeakPMax k.val, 0),
          (F.telTempPeak k.val, 0x8000)],
        t.getF x.1 = if s.lateF x.1 = s.getF x.1 then x.2 else s.getF x.1)
      ∧ s.Frame t [] [F.telVPeakMax k.val, F.telVPeakMin k.val, F.telIpPeakIMax k.val, F.telIpPeakPMax k.val, F.telTempPeak k.val])
    ∧ ∀ v : Word, v.toNat % 2 = 0 → exec (.telClearPeak k v) s = .next s

/-! ### Droop, load notices and meters, chapters 6 and 7 -/

/-- R175 to R177, R180, R197, Table 6.1: crossings of the thresholds on a core whose domain is ON; the shoe request and the
hard limit, their holds and ramps; the counters' clear and the drag override.
Completes: NOTICE_CROSSING, SHOE_CROSSING, HARD_CROSSING, SHOE_HOLD_EXPIRY, SHOE_RAMP_STEP, HARD_HOLD_EXPIRY, HARD_RAMP_STEP,
CPA_COUNTER_CLEAR, DRAG_OVERRIDE_WRITE. -/
def Obligations.DroopAgents : Prop :=
  ∀ (s : State) (n : Fin 288),
    let c := s.cpa n.val
    let bump (f : Field) : Nat := min (s.getF f + 1) (2 ^ f.width - 1)
    let only (t : State) (l : List Field) : Prop := s.Frame t [.cpas] l ∧ ∀ m, m ≠ n.val → t.cpa m = s.cpa m
    (∀ mv, let d := s.droopDepth n.val mv
      let deepest (t : State) : Prop :=
        t.getF (F.cpaCntBDeepest n.val) = min (max d (s.getF (F.cpaCntBDeepest n.val))) 255
      let noted : Cpa := if s.appliedF F.clcThreshNotice ≤ d then { c with noticeAt := some (s.beat, s.time.tick) } else c
      let shoe (x : Cpa) : Cpa :=
        if s.isActive 3 then { x with shoe := .hold, shoeReq := min 32 (s.appliedF F.clcShoeSlots) } else x
      (s.coreOn n.val = true → s.appliedF F.clcThreshNotice ≤ d → Completes (.noticeCrossing n mv) s fun t =>
        t.getF (F.cpaCntANotice n.val) = bump (F.cpaCntANotice n.val) ∧ deepest t
        ∧ t.cpa n.val = { c with noticeAt := some (s.beat, s.time.tick) }
        ∧ only t [F.cpaCntANotice n.val, F.cpaCntBDeepest n.val])
      ∧ (s.coreOn n.val = true → s.appliedF F.clcThreshShoe ≤ d → Completes (.shoeCrossing n mv) s fun t =>
        t.getF (F.cpaCntAShoe n.val) = bump (F.cpaCntAShoe n.val) ∧ deepest t ∧ t.cpa n.val = shoe noted
        ∧ t.getF (F.clcCDroopShoeEvt (clusterOf n.val)) = bump (F.clcCDroopShoeEvt (clusterOf n.val))
        ∧ only t [F.cpaCntAShoe n.val, F.cpaCntBDeepest n.val, F.clcCDroopShoeEvt (clusterOf n.val)])
      ∧ (s.coreOn n.val = true → s.appliedF F.clcThreshHard ≤ d → Completes (.hardCrossing n mv) s fun t =>
        t.getF (F.cpaCntBHard n.val) = bump (F.cpaCntBHard n.val) ∧ deepest t
        ∧ t.cpa n.val =
            (if s.isActive 3 then { shoe noted with hard := .hold, keep := max 1 (s.appliedF F.clcShoeHardKeep) } else noted)
        ∧ only t [F.cpaCntBHard n.val, F.cpaCntBDeepest n.val])
      ∧ (s.coreOn n.val = false → ∀ x ∈ [Instr.noticeCrossing n mv, .shoeCrossing n mv, .hardCrossing n mv],
        exec x s = .next s)
      ∧ (d < s.appliedF F.clcThreshNotice → exec (.noticeCrossing n mv) s = .next s)
      ∧ (d < s.appliedF F.clcThreshShoe → exec (.shoeCrossing n mv) s = .next s)
      ∧ (d < s.appliedF F.clcThreshHard → exec (.hardCrossing n mv) s = .next s))
    ∧ (c.shoe = .hold → Completes (.shoeHoldExpiry n) s fun t => t.cpa n.val = { c with shoe := .ramp } ∧ only t [])
    ∧ (c.shoe = .ramp → Completes (.shoeRampStep n) s fun t => only t []
        ∧ t.cpa n.val = if 31 ≤ c.shoeReq then { c with shoe := .clear, shoeReq := 32 } else { c with shoeReq := c.shoeReq + 1 })
    ∧ (c.hard = .hold → Completes (.hardHoldExpiry n) s fun t => t.cpa n.val = { c with hard := .ramp } ∧ only t [])
    ∧ (c.hard = .ramp → Completes (.hardRampStep n) s fun t => only t []
        ∧ t.cpa n.val = if 15 ≤ c.keep then { c with hard := .clear, keep := 16 } else { c with keep := c.keep + 1 })
    ∧ (∀ v : Word, s.coreOn n.val = true → v.toNat % 2 = 1 → Completes (.cpaCounterClear n v) s fun t =>
        (∀ f ∈ [F.cpaCntANotice n.val, F.cpaCntAShoe n.val, F.cpaCntBHard n.val, F.cpaCntBDeepest n.val], t.getF f = 0)
        ∧ s.Frame t [] [F.cpaCntANotice n.val, F.cpaCntAShoe n.val, F.cpaCntBHard n.val, F.cpaCntBDeepest n.val])
    ∧ (∀ (w : Writer) (v : Word),
      let allowed := w = .flp ∨ (w = .host ∧ (s.getF F.gctlModeCurrent = 3 ∨ s.getF F.gctlModeCurrent = 4))
      (s.coreOn n.val = true → allowed → Completes (.dragOverrideWrite w n v) s fun t =>
        t.getF (F.cpaDragOvrSlots n.val) = v.toNat % 64 ∧ s.Frame t [] [F.cpaDragOvrSlots n.val])
      ∧ (s.coreOn n.val = false ∨ ¬ allowed → exec (.dragOverrideWrite w n v) s = .next s))

/-- R47, R184 to R186, R190 to R195: a load notice is accepted into its agent's queue of four or refused; the cluster takes
at most four of them in a tick, in rotation; what an issue window adds, and (R367) what it does with the filler where the mode has
changed since the last; the di/dt budget is shared out whole among the ramping cores; the filler decays by one after 64 × DECAY
windows (which waits count in CPA.FILL.WINDOWS is the model's choice, log 54; the tie of FILL_SLOTS: log 78; what LN.ACCEPTED counts:
log 27).
Completes: LOAD_NOTICE, CLC_NOTICE_TAKE, ISSUE_WINDOW_START, DIDT_PERIOD, FILLER_DECAY. -/
def Obligations.NoticesAndRamps : Prop :=
  ∀ s : State,
    (∀ (n : Fin 288) (cls : Fin 16) (d l : BitVec 8) (e : BitVec 4), s.coreOn n.val = true →
      let q := (s.cpa n.val).queue
      let bump (f : Field) : Nat := min (s.getF f + 1) (2 ^ f.width - 1)
      let acc := F.clcCLnAccepted (clusterOf n.val)
      let ref := F.clcCLnRefused (clusterOf n.val)
      (s.isActive 3 = true → s.appliedF F.clcFfEn ≠ 0 → 4 ≤ q.length → Completes (.loadNotice n cls d l e) s fun t =>
        t.getF ref = bump ref ∧ s.Frame t [] [ref])
      ∧ (s.isActive 3 = true → s.appliedF F.clcFfEn ≠ 0 → q.length < 4 → e ≠ 0 → Completes (.loadNotice n cls d l e) s fun t =>
        t.getF acc = bump acc
        ∧ (t.cpa n.val).queue = q ++ [⟨(s.beat + l.toNat) % 2 ^ 48,
            noticeDelta (s.appliedF (F.clcClass cls.val)) (engineCount e.toNat) (s.appliedF F.clcFfDfloor) d.toNat⟩]
        ∧ s.Frame t [.cpas] [acc])
      ∧ (s.isActive 3 = false ∨ s.appliedF F.clcFfEn = 0 ∨ (q.length < 4 ∧ e = 0) → Completes (.loadNotice n cls d l e) s fun t =>
        t.getF acc = bump acc ∧ s.Frame t [] [acc]))
    ∧ (∀ c : Fin 12, s.clusterOn c.val = true →
      let offers := ((rotation c.val (s.clc c.val).lastTake).filter fun n => !(s.cpa n).queue.isEmpty).take
        (4 - s.noticesTaken c.val)
      Completes (.clcNoticeTake c) s fun t =>
        t.noticesTaken c.val = s.noticesTaken c.val + offers.length ∧
        (∀ n, (t.cpa n).queue = if n ∈ offers then (s.cpa n).queue.tail else (s.cpa n).queue)
        ∧ (∀ n, offers.getLast? = some n → (t.clc c.val).lastTake = n % 24)
        ∧ (∀ n x q, offers = [n] → (s.cpa n).queue = x :: q →
            (t.clc c.val).table = (fileNotice s.beat (s.clc c.val).table x).1)
        ∧ s.Frame t [.cpas, .clcs] [F.clcCFcMerged c.val])
    ∧ (∀ (n : Fin 288) (l : List Nat), s.coreOn n.val = true → l.length = 4 → Completes (.issueWindowStart n l) s fun t =>
        let top := l.foldl max 0
        let u := if (s.cpa n.val).cplStart then max top (min 32 (s.appliedF F.clcDidtCplStart)) else top
        let turned := (s.cpa n.val).filler ≠ s.fillerMode
        let run := if turned then 0 else s.getF (F.cpaFillWindows n.val)
        (t.cpa n.val).issue = u ∧ (t.cpa n.val).cplStart = false
        ∧ (t.cpa n.val).ramp = (if s.isActive 3 then min 32 (u + (s.cpa n.val).share) else 32)
        ∧ (t.cpa n.val).windows = (l :: (s.cpa n.val).windows).take 4
        ∧ t.getF (F.cpaStatusIssue n.val) = satNat (F.cpaStatusIssue n.val).width u
        ∧ (t.cpa n.val).filler = s.fillerMode
        ∧ t.getF (F.cpaFillWindows n.val) = (if s.fillerMode = true ∧ (s.cpa n.val).swait % 16 ≠ 0
            then min (run + 1) (2 ^ (F.cpaFillWindows n.val).width - 1) else run)
        ∧ (turned → t.getF (F.cpaFillSlots n.val)
            = satNat (F.cpaFillSlots n.val).width (if s.fillerMode then fillSlots (s.cpa n.val) else 0))
        ∧ (¬ turned → t.getF (F.cpaFillSlots n.val) = s.getF (F.cpaFillSlots n.val))
        ∧ s.Frame t [.cpas] [F.cpaStatusIssue n.val, F.cpaFillWindows n.val, F.cpaFillSlots n.val])
    ∧ (∀ c : Fin 12, s.clusterOn c.val = true → s.isActive 3 = true →
      let l := (rotation c.val (s.clc c.val).lastShare).filter s.isRamping
      Completes (.didtPeriod c) s fun t =>
        t.getF (F.clcCRampRamping c.val) = satNat (F.clcCRampRamping c.val).width l.length
        ∧ (l ≠ [] → sumNat (l.map fun n => (t.cpa n).share) = s.appliedF F.clcDidtBudget)
        ∧ (∀ n ∈ l, (t.cpa n).share = s.appliedF F.clcDidtBudget / l.length
            ∨ (t.cpa n).share = s.appliedF F.clcDidtBudget / l.length + 1)
        ∧ (∀ n, n ∉ l → clusterOf n = c.val → (t.cpa n).share = 0) ∧ (∀ n, clusterOf n ≠ c.val → t.cpa n = s.cpa n)
        ∧ s.Frame t [.cpas, .clcs] [F.clcCRampRamping c.val])
    ∧ (∀ c : Fin 12, s.clusterOn c.val = false → exec (.clcNoticeTake c) s = .next s ∧ exec (.didtPeriod c) s = .next s)
    ∧ (∀ n : Fin 288, (s.filling n.val = true → s.appliedF F.clcFillDecay ≠ 0 →
          64 * s.appliedF F.clcFillDecay ≤ (s.cpa n.val).fillRun → (s.cpa n.val).decayed = false →
          Completes (.fillerDecay n) s fun t =>
        t.getF (F.cpaFillSlots n.val) = (s.getF (F.cpaFillSlots n.val) - 1) % 2 ^ (F.cpaFillSlots n.val).width
        ∧ t.cpa n.val = { s.cpa n.val with decayed := true } ∧ s.Frame t [.cpas] [F.cpaFillSlots n.val])
      ∧ (s.filling n.val = false ∨ s.appliedF F.clcFillDecay = 0 ∨ (s.cpa n.val).decayed = true
          ∨ (s.cpa n.val).fillRun < 64 * s.appliedF F.clcFillDecay → exec (.fillerDecay n) s = .next s))

/-- R202 to R206, R213, R215, R218: a meter interval's matrix power lies within the 3 % in which R204 lets its roundings
move it (log 13); recalibration moves the weights or the coefficient, never both, and only of a period metered whole; the
cap in force; the cap override. The frames that a tick 16 owes come first (R28, log 16). The rounding of the quotients (log 9), the
limits of a move (log 79), and when C is first compared (log 28) are the model's.
Completes: METER_INTERVAL, RECALIBRATION_PERIOD, FLP_CAP_UPDATE, CAP_OVERRIDE_WRITE. -/
def Obligations.MetersAndCap : Prop :=
  ∀ s : State,
    (∀ (n : Fin 288) (counts : List Nat) (fill : Nat),
      let u := s.owedFrames
      let c := u.cpa n.val
      let k := railOf n.val
      let v := u.getF (F.railVtgtSense k)
      let x := weighed ((u.liveWeights k).take 6) (counts.take 6) * v * v * u.getF F.tbSyncFreqUsed
      let d := max 1 (9000000000 * c.ticks)
      (s.coreOn n.val = false ∨ s.meterEnds n.val = false → exec (.meterInterval n counts fill) s = .next s)
      ∧ (s.coreOn n.val = true → s.meterEnds n.val = true → Completes (.meterInterval n counts fill) s fun t =>
        (t.cpa n.val).counts = counts ∧ (t.cpa n.val).uAvg = (c.uSum, c.uCount) ∧ (t.cpa n.val).uSum = 0
        ∧ (t.cpa n.val).uCount = 0 ∧ (t.cpa n.val).ticks = ticksOf 1 (u.getF F.tbSyncFreqUsed)
        ∧ 969 * x / (1000 * d) ≤ (t.cpa n.val).pMat ∧ (t.cpa n.val).pMat ≤ ceilDiv (1031 * x) (1000 * d)
        ∧ u.Frame t [.rails, .cpas, .cap] [F.cpaPwrLeak n.val, F.cpaPwrTotal n.val, F.cpaPwrDynMat n.val,
            F.cpaPwrDynOther n.val, F.cpaSlotUavg n.val, F.cpaSlotPslot n.val, F.cpaELoUj n.val, F.cpaEHiUj n.val,
            F.cpaEFillUj n.val, F.pwrFillLoUj, F.pwrFillHiUj]))
    ∧ (∀ k : Fin 4,
      let r := s.rail k.val
      let made := s.running 0 = true ∧ r.calPart = false ∧ s.isActive 4 = true ∧ s.appliedF F.pwrCalctlCalEn ≠ 0
      let cleared (t : State) : Prop := t.rail k.val = { r with calM := 0, calD := 0, calL := 0, calSkip := false, calPart := false }
      let isDue := s.ends (intervalKey 5 k.val) = true
      (¬ isDue → exec (.recalibrationPeriod k) s = .next s)
      ∧ (isDue → ¬ made → Completes (.recalibrationPeriod k) s fun t => cleared t ∧ s.Frame t [.rails, .intervals] [])
      ∧ (isDue → made → (r.calSkip = true ∨ r.calM < 4000000000) → Completes (.recalibrationPeriod k) s fun t => cleared t
        ∧ t.getF (F.pwrCalKRatio k.val) = 0
        ∧ t.getF (F.pwrCalKSkipped k.val) = min (s.getF (F.pwrCalKSkipped k.val) + 1) (2 ^ (F.pwrCalKSkipped k.val).width - 1)
        ∧ s.Frame t [.rails, .intervals] [F.pwrCalKRatio k.val, F.pwrCalKSkipped k.val])
      ∧ (isDue → made → r.calSkip = false → 4000000000 ≤ r.calM → Completes (.recalibrationPeriod k) s fun t => cleared t
        ∧ (let new := Store.read (fun _ => []) t.cap.liveNext k.val
          new.length = 17
          ∧ (r.calM ≤ 4 * r.calD → new.getD 16 0 = s.getF (F.pwrLkbKLive k.val))
          ∧ (4 * r.calD < r.calM → ∀ i < 16, new.getD i 0 = s.getF (F.pwrWKiLive k.val i)))
        ∧ s.Frame t [.rails, .intervals, .cap, .logRam, .ecc, .free]
            ([F.pwrCalKClipped k.val, F.pwrEvt, F.pwrCalKRatio k.val] ++ traceFields)))
    ∧ (s.running 0 = true → s.lawDie = true → Completes .flpCapUpdate s fun t =>
        let u := s.owedFrames
        t.getF F.pwrCapnowForce = (if u.isSet F.mbxHostAbsent
          then min (u.getF F.pwrCapnowHost) (u.getF F.pwrProfBHostAbsentCap) else u.getF F.pwrCapnowHost) % 2 ^ 16
        ∧ (u.getF F.pwrCapnowForce ≠ u.capInForce → bitOf (t.getF F.pwrEvt) 6 = true)
        ∧ u.Frame t [.logRam, .ecc] ([F.pwrCapnowForce, F.pwrEvt] ++ traceFields))
    ∧ (s.running 0 = false ∨ s.lawDie = false → exec .flpCapUpdate s = .next s)
    ∧ ∀ (w : Writer) (v : Word),
      let allowed := w = .flp ∨ (w = .host ∧ (s.getF F.gctlModeCurrent = 3 ∨ s.getF F.gctlModeCurrent = 4))
      (allowed → Completes (.capOverrideWrite w v) s fun t =>
        t.getF F.pwrOvrSlots = v.toNat % 2 ^ F.pwrOvrSlots.width ∧ s.Frame t [] [F.pwrOvrSlots])
      ∧ (¬ allowed → exec (.capOverrideWrite w v) s = .next s)

/-! ### Budgets and links, chapter 8 -/

/-- R216, R227 to R232, R234, R207, R208, R25, R27: at tick 16 of the last beat of its interval, a cluster's grants share no more
than its budget, and each ceiling lies between MIN_SLOTS and 32 and binds from the next tick; at a die-budget frame the die budget
received comes into force and
the cluster budgets share no more than what it leaves beyond P_NC; the cap law's limit exceeds neither the electrical limit nor the
grant of the package budget port; the FLP shares no more than the package limit. Of the frames that one tick owes, the package frame
comes first, then the die-budget frame (R28; the order is the model's, log 16). When the law and the budgets of a die begin, and
which interval's quantities a frame uses, is the model's reading (logs 28 and 29).
Completes: CORE_GRANT_FRAME, DIE_BUDGET_FRAME, FLP_DIE_BUDGET_WRITE, PACKAGE_FRAME. -/
def Obligations.Budgets : Prop :=
  ∀ s : State,
    (s.time.tick ≠ 16 → s.owedFrames = s ∧ exec .packageFrame s = .next s ∧ exec .dieBudgetFrame s = .next s
      ∧ ∀ c, exec (.coreGrantFrame c) s = .next s)
    ∧ (∀ c : Fin 12,
      let u := s.act execDieBudgetFrame
      let due := u.fires (intervalKey 0 c.val) 16 = true
      (¬ due → exec (.coreGrantFrame c) s = .next u)
      ∧ (due → u.clusterOn c.val = false ∨ u.isActive 4 = false → Completes (.coreGrantFrame c) s fun t =>
        u.Frame t [.intervals] [])
      ∧ (due → u.clusterOn c.val = true → u.isActive 4 = true →
        let cores := (coresOf c.val).filter u.coreOn
        let free := u.links.distributed = false ∨ u.links.firstBeat = some u.beat
        Completes (.coreGrantFrame c) s fun t =>
          (¬ free → sumNat (cores.map fun n => t.getF (F.cpaGrantG n)) ≤ u.clusterBudget c.val * 125)
          ∧ (free → ∀ n ∈ cores, t.getF (F.cpaGrantG n) = 0xFFFF ∧ t.getF (F.cpaGrantCeil n) = 32)
          ∧ (∀ n ∈ cores, u.minSlots ≤ t.getF (F.cpaGrantCeil n) ∧ t.getF (F.cpaGrantCeil n) ≤ 32)
          ∧ (∀ n < 288, t.lateF (F.cpaGrantCeil n) = u.lateF (F.cpaGrantCeil n))
          ∧ u.Frame t [.cpas, .cap, .free, .intervals, .held]
              ([F.budClbWant c.val, F.pwrEvt] ++ cores.map F.cpaGrantG ++ cores.map F.cpaGrantCeil)))
    ∧ (let u := s.act execPackageFrame
      let due := u.fires (intervalKey 1 0) 16 = true
      (¬ due → exec .dieBudgetFrame s = .next u)
      ∧ (due → Completes .dieBudgetFrame s fun t => t.cap.sumDie = 0 ∧ t.cap.sumNc = 0 ∧ t.cap.beats = 0
        ∧ (u.isActive 4 = true → t.cap.before.map (·.2.1) = some u.cap.beats)
        ∧ (u.isActive 4 = true → u.links.budgeted = true → t.getF F.budDiebForce = u.getF F.budDiebReceived % 2 ^ 16
            ∧ t.links.distributed = true
            ∧ sumNat ((List.range 12).map fun c => t.getF (F.budClbBudget c)) ≤ t.getF F.budDiebForce - t.getF F.budDierepBPNc)
        ∧ (u.isActive 4 = true → u.isX4 = false → u.isSet F.gctlStatusStrapFault = false → u.cap.before ≠ none →
            t.getF F.pwrLimBPLim ≤ t.getF F.pwrLimAPElec ∧ ∀ g, u.cap.pgrant = some g → t.getF F.pwrLimBPLim ≤ g)))
    ∧ (let u := s.owedFrames
      (u.running 0 = true → u.isX4 = true → u.isLeader = true → u.links.ruled = true →
        let n := min 4 u.dies
        let rx := (List.range n).filter fun d => u.getF (F.budLdSState d) == 1 || u.getF (F.budLdSState d) == 2
        let out := (List.range n).filter fun d => u.getF (F.budLdSState d) == 0 || u.getF (F.budLdSState d) == 3
        Completes .flpDieBudgetWrite s fun t =>
          sumNat (rx.map fun d => t.getF (F.budLdBGrant d)) ≤ u.getF F.pwrLimBPLim - sumNat (out.map u.fixedGrant)
          ∧ (∀ d ∈ rx, d ∈ t.links.written)
          ∧ u.Frame t [.logRam, .links, .ecc, .free] (rx.map F.budLdBGrant ++ traceFields))
      ∧ (u.running 0 = false ∨ u.isX4 = false ∨ u.isLeader = false ∨ u.links.ruled = false →
          exec .flpDieBudgetWrite s = .next u))

/-- R69, R235 to R240: frames on the IDL ports are tested, counted when a test fails and applied when valid; a die is lost, and
the leader is lost, when their frames have stayed away, or (R69) 100 ms after link start. The frames that a tick 16 owes come first,
and before a GRANT the loss of the leader that they find (logs 16, 28 and 29; the count of the 100 ms: log 83).
Completes: LEADER_IDENTITY_TIMEOUT, IDENTITY_FRAME, REPORT_FRAME, GRANT_FRAME, DIE_LOST, LEADER_LOST. -/
def Obligations.InterDieLinks : Prop :=
  ∀ s : State,
    (∀ (p : Fin 3) (f : List Byte),
      let u := s.owedFrames
      let listens := u.links.started = true ∧ u.isX4 = true ∧ u.isSet F.gctlStatusStrapFault = false ∧ byteAt f 0 = 0xA5
      let w := u.act execLeaderLost
      let bump (x : Field) : Nat := min (u.getF x + 1) (2 ^ x.width - 1)
      (∀ c ∈ [Instr.identityFrame p f, .reportFrame p f, .grantFrame p f],
        let v := if c = .grantFrame p f then w else u
        (¬ listens → exec c s = .next v)
        ∧ (listens → testFrame (u.expectedTypes p.val) f = .badCrc → Completes c s fun t =>
            t.getF (F.budIdlPCrc p.val) = bump (F.budIdlPCrc p.val) ∧ v.Frame t [] [F.budIdlPCrc p.val])
        ∧ (listens → testFrame (u.expectedTypes p.val) f ∈ [.badLength, .badVersion] → Completes c s fun t =>
            t.getF (F.budIdlPBad p.val) = bump (F.budIdlPBad p.val) ∧ v.Frame t [] [F.budIdlPBad p.val]))
      ∧ (listens → testFrame (u.expectedTypes p.val) f = .valid →
        (byteAt f 1 % 16 = 3 → byteAt f 4 / 64 = u.peerOf p.val → Completes (.identityFrame p f) s fun t =>
          t.getF (F.budIdlPPeerId p.val) = byteAt f 4 / 64 ∧ t.isSet (F.budIdlPPeerLeader p.val) = bitOf (byteAt f 4) 5
          ∧ p.val ∈ t.links.heard)
        ∧ (byteAt f 1 % 16 = 3 → byteAt f 4 / 64 ≠ u.peerOf p.val → Completes (.identityFrame p f) s fun t =>
          t.isSet F.gctlStatusStrapFault = true ∧ t.isSet F.gctlErrStrapFault = true ∧ t.isSet F.budStatusAutonomous = true)
        ∧ (byteAt f 1 % 16 = 4 → Completes (.reportFrame p f) s fun t =>
          t.isSet (F.budLdSTrip (u.peerOf p.val)) = bitOf (byteAt f 5) 7
          ∧ t.getF (F.budLdSMode (u.peerOf p.val)) = byteAt f 5 % 8
          ∧ Store.read (fun _ => []) t.links.reports (u.peerOf p.val) = f ∧ u.peerOf p.val ∈ t.links.fresh
          ∧ u.Frame t [.links] [F.budLdSTrip (u.peerOf p.val), F.budLdSMode (u.peerOf p.val)])
        ∧ (byteAt f 1 % 16 = 5 → Completes (.grantFrame p f) s fun t =>
          t.getF F.pwrCapnowForce = be16At f 8 ∧ t.getF F.budDiebReceived = be16At f 6
          ∧ t.isSet F.budStatusAutonomous = false ∧ (w.links.lost = true → bitOf (t.getF F.budEvt) 6 = true)
          ∧ t.links.grant = some f ∧ t.links.followed = true ∧ t.links.lost = false ∧ t.links.missed = 0
          ∧ w.Frame t [.links] [F.pwrCapnowForce, F.pwrEvt, F.budDiebReceived, F.budStatusAutonomous, F.budEvt])))
    ∧ (∀ d : Fin 4,
      let lost := s.isLeader = true ∧ s.getF (F.budLdSState d.val) = 2
        ∧ s.appliedF F.budCfgReportTo ≤ s.getF (F.budLdSMissed d.val)
      (lost → Completes (.dieLost d) s fun t => t.getF (F.budLdSState d.val) = 3 ∧ bitOf (t.getF F.budEvt) 5 = true
        ∧ t.getF (F.budLdAPower d.val) = satNat 16 (s.fixedGrant d.val)
        ∧ t.getF (F.budLdBGrant d.val) = satNat 16 (s.fixedGrant d.val)
        ∧ s.Frame t [] [F.budLdSState d.val, F.budEvt, F.budLdAPower d.val, F.budLdBGrant d.val])
      ∧ (¬ lost → exec (.dieLost d) s = .next s))
    ∧ (let gone (t : State) (l : Links) : Prop := t.isSet F.budStatusAutonomous = true
        ∧ t.links = { l with lost := true, followed := false }
        ∧ (s.links.lost = false → bitOf (t.getF F.budEvt) 7 = true) ∧ s.Frame t [.links] [F.budStatusAutonomous, F.budEvt]
      let heard := ∃ p < 3, s.links.heard.contains p = true ∧ s.isSet (F.budIdlPPeerLeader p) = true
      let over100 := s.links.identityEnd.any s.beatReached
      let waits := s.isX4 = true ∧ s.isLeader = false ∧ s.isSet F.gctlStatusStrapFault = false ∧ ¬ heard
      let missed := s.isX4 = true ∧ s.links.followed = true ∧ s.appliedF F.budCfgReportTo ≤ s.links.missed
      (over100 = false → exec .leaderIdentityTimeout s = .next s)
      ∧ (over100 = true → waits → Completes .leaderIdentityTimeout s fun t => gone t { s.links with identityEnd := none })
      ∧ (over100 = true → ¬ waits → Completes .leaderIdentityTimeout s fun t =>
        t.links = { s.links with identityEnd := none } ∧ s.Frame t [.links] [])
      ∧ (missed → Completes .leaderLost s fun t => gone t s.links) ∧ (¬ missed → exec .leaderLost s = .next s))

/-- R241 to R245: the package budget port; a package frame that is due in the tick, and the silence it finds, come before a P-frame
(the order is the model's, log 16; which row counts QUIET: log 29).
Completes: PACKAGE_FRAME, FLP_PBP_TX_WRITE, P_FRAME, PBP_SILENT. -/
def Obligations.PackageBudgetPort : Prop :=
  ∀ s : State,
    let u := s.owedFrames
    let v := u.pbpSilent
    (v.getF F.budStatusPbpState = 0 → ∀ f, exec (.pFrame f) s = .next v)
    ∧ (u.getF F.budStatusPbpState = 0 ∨ u.links.silentDue = false → v = u ∧ exec .pbpSilent s = .next u)
    ∧ (∀ f : List Byte, byteAt f 0 ≠ 0xA5 → exec (.pFrame f) s = .next v)
    ∧ (v.getF F.budStatusPbpState ≠ 0 → ∀ f : List Byte, byteAt f 0 = 0xA5 →
      let count (x : Field) : Prop := Completes (.pFrame f) s fun t =>
        t.getF x = min (v.getF x + 1) (2 ^ x.width - 1) ∧ v.Frame t [] [x]
      (testFrame [2] f = .badLength → count F.budPbpErrBadLen) ∧ (testFrame [2] f = .badCrc → count F.budPbpErrCrc)
      ∧ (testFrame [2] f = .badVersion → count F.budPbpErrBadVer)
      ∧ (testFrame [2] f = .valid → Completes (.pFrame f) s fun t =>
        let g := be16At f 6
        t.cap.pgrant = (if g = 0xFFFF then none else some g) ∧ t.links.pFrame = true ∧ t.getF F.budPbpRxGrant = g
        ∧ t.getF F.pwrLimBPGrant = g ∧ t.getF F.budPbpRxProcUsed = be16At f 8 ∧ t.getF F.budPbpSeqRxSeq = byteAt f 3
        ∧ t.getF F.budPbpSeqRxAck = byteAt f 4 ∧ t.getF F.budPbpSeqQuiet = 0 ∧ t.getF F.budStatusPbpState = 2
        ∧ (v.getF F.budStatusPbpState = 1 → bitOf (t.getF F.budEvt) 2 = true)
        ∧ (g < v.links.floor → bitOf (t.getF F.budEvt) 1 = true)
        ∧ (g < min v.links.req (v.appliedF F.budPbpCfgClaim) → bitOf (t.getF F.budEvt) 0 = true)
        ∧ v.Frame t [.cap, .links, .logRam, .ecc] ([F.budPbpRxGrant, F.pwrLimBPGrant, F.budPbpRxProcUsed, F.budPbpSeqRxSeq,
            F.budPbpSeqRxAck, F.budPbpSeqQuiet, F.budStatusPbpState, F.budEvt] ++ traceFields)))
    ∧ (u.getF F.budStatusPbpState ≠ 0 → u.links.silentDue = true → Completes .pbpSilent s fun t =>
      bitOf (t.getF F.budEvt) 3 = true ∧ t.links = { u.links with silentDue := false }
      ∧ (u.getF F.budStatusPbpState = 2 → t.getF F.budStatusPbpState = 1
          ∧ t.cap.pgrant = some (min (u.cap.pgrant.getD 0xFFFF) (u.appliedF F.budPbpCfgSilentGrant)))
      ∧ (u.getF F.budStatusPbpState ≠ 2 → t.getF F.budStatusPbpState = u.getF F.budStatusPbpState ∧ t.cap = u.cap)
      ∧ u.Frame t [.cap, .links] [F.budEvt, F.budStatusPbpState, F.pwrLimBPGrant])
    ∧ (let due := s.fires (intervalKey 3 0) 16 = true
      (¬ due → exec .packageFrame s = .next s)
      ∧ (due → s.getF F.budStatusPbpState ≠ 0 → Completes .packageFrame s fun t =>
        t.getF F.budPbpSeqQuiet = (if s.links.pFrame then s.getF F.budPbpSeqQuiet
          else min (s.getF F.budPbpSeqQuiet + 1) 255)
        ∧ t.getF F.budPbpSeqTxSeq = (Store.read (fun _ => 0) t.links.seq 3 + 255) % 256
        ∧ t.getF F.budPbpTx2Limit = min (s.getF F.pwrLimAPCap) (s.getF F.pwrLimAPElec) % 2 ^ 16
        ∧ (∃ q pay, Store.read (fun _ => []) t.links.sent 3 = makeFrame 1 q pay)
        ∧ t.links.usedSum = 0 ∧ t.links.usedN = 0 ∧ t.links.pFrame = false
        ∧ (t.links.silentDue = true ↔ s.links.pFrame = false ∧
            if s.getF F.budStatusPbpState = 2 then s.appliedF F.budCfgSilentTo ≤ t.getF F.budPbpSeqQuiet
            else s.getF F.budPbpSeqQuiet ≠ t.getF F.budPbpSeqQuiet
              ∧ s.appliedF F.budCfgSilentTo = t.getF F.budPbpSeqQuiet)
        ∧ s.Frame t [.links, .intervals] [F.budPbpSeqQuiet, F.budPbpTx2Used, F.budPbpTx2Limit, F.budPbpSeqTxSeq])
      ∧ (due → s.getF F.budStatusPbpState = 0 → Completes .packageFrame s fun t =>
        t.links = { s.links with usedSum := 0, usedN := 0 } ∧ s.Frame t [.links, .intervals] []))
    ∧ (u.running 0 = true → u.isLeader = true → u.isX4 = false → Completes .flpPbpTxWrite s fun t =>
        t.getF F.budPbpTxReq
          = satNat 16 (min (u.getF F.budDierepAWant) (min (u.getF F.pwrLimAPCap) (u.getF F.pwrLimAPElec)))
        ∧ t.getF F.budPbpTxFloor = satNat 16 (u.getF F.budDierepBFloor)
        ∧ u.Frame t [.logRam, .ecc] ([F.budPbpTxReq, F.budPbpTxFloor] ++ traceFields))
    ∧ (u.running 0 = true → u.isLeader = true → u.isX4 = true → Completes .flpPbpTxWrite s fun t =>
        t.getF F.budPbpTxReq ≤ min (u.getF F.pwrLimAPCap) (u.getF F.pwrLimAPElec)
        ∧ u.Frame t [.logRam, .ecc] ([F.budPbpTxReq, F.budPbpTxFloor] ++ traceFields))
    ∧ (u.running 0 = false ∨ u.isLeader = false → exec .flpPbpTxWrite s = .next u)

/-! ### Temperatures and the trip path, chapter 9 and the bands of chapter 10 -/

/-- R252, R256, R259, R260, R269, R270: the conversion of the unit whose turn it is: a channel that is neither BROKEN nor
DISABLED, and one that is BROKEN; a reading at or above the trip limit that confirms another asserts THERMTRIP_N and throttles
every cluster. A unit whose turn it is not, or with two idle channels, is not converted (the order within the tick: log 16). The
arithmetic of a reading (logs 9 and 14), which slot a unit's turn is, what
counts of a BROKEN channel (logs 30 and 81) and when the comparators are armed (log 31) are the model's readings.
Completes: DIODE_CONVERSION_DONE, THERMISTOR_CONVERSION_DONE. -/
def Obligations.ThermalConversions : Prop :=
  ∀ s : State,
    (∀ (u : Fin 32) (a b : Diode),
      (s.unitDue ≠ some u.val ∨ (s.chanEnabled (2 * u.val) = false ∧ s.chanEnabled (2 * u.val + 1) = false) →
        exec (.diodeConversionDone u a b) s = .next s)
      ∧ ∀ x ∈ [(2 * u.val, a), (2 * u.val + 1, b)], s.unitDue = some u.val → s.chanEnabled x.1 = true →
        let d := s.diodeReading x.1 x.2
        let good := diodeWhole x.2 = true ∧ -2560 ≤ d ∧ d ≤ 9600 ∧ s.rateOk x.1 d = true
        let st := s.getF (F.thmChState x.1)
        (st ≠ 2 → st ≠ 3 → good → Completes (.diodeConversionDone u a b) s fun t =>
          t.getF (F.thmChState x.1) = 0 ∧ t.getF (F.thmChReading x.1) = tempField d
          ∧ t.therm.privLeft = s.therm.privLeft.erase u.val
          ∧ (s.tripLimit x.1 ≤ d → 1 ≤ (s.chan x.1).trip → s.trip.armed = true →
            t.pins.thermTrip = true ∧ t.isSet F.thmStatusTrip = true ∧ t.trip.taken = true ∧ t.trip.armed = false
            ∧ ∀ c < 12, t.isSet (F.thmCltActive c) = true ∧ t.getF (F.thmCltCause c) = 3))
        ∧ (st ≠ 2 → st ≠ 3 → ¬ good → Completes (.diodeConversionDone u a b) s fun t =>
          if st = 1 ∧ max 1 (s.appliedF F.thmPlausBrokenN) ≤ (s.chan x.1).count + 1 then
            t.getF (F.thmChState x.1) = 2 ∧ t.getF (F.thmChReading x.1) = 0x8000 ∧ t.isSet (F.thmChSeenBroken x.1) = true
          else t.getF (F.thmChState x.1) = 1 ∧ t.getF (F.thmChReading x.1) = s.getF (F.thmChReading x.1))
        ∧ (st = 2 → good → Completes (.diodeConversionDone u a b) s fun t =>
          if max 1 (s.appliedF F.thmPlausRecoverN) ≤ (s.chan x.1).good + 1 then
            t.getF (F.thmChState x.1) = 0 ∧ t.getF (F.thmChReading x.1) = tempField d
          else t.getF (F.thmChState x.1) = 2 ∧ t.getF (F.thmChReading x.1) = s.getF (F.thmChReading x.1)
            ∧ (t.chan x.1).good = (s.chan x.1).good + 1))
    ∧ ∀ (n : Fin 8) (uv : Nat),
      (s.chanEnabled (64 + n.val) = false → exec (.thermistorConversionDone n uv) s = .next s)
      ∧ (s.chanEnabled (64 + n.val) = true → s.getF (F.thmNtcRState n.val) ≠ 2 → s.getF (F.thmNtcRState n.val) ≠ 3 →
        let d := s.ntcReading n.val uv
        (20000 < uv → uv < 1780000 → s.isSet F.thmStatusCalApplied = true → s.ntcBeta n.val ≠ 0 → s.ntcR25 n.val ≠ 0 →
          -2560 ≤ d → d ≤ 9600 → Completes (.thermistorConversionDone n uv) s fun t =>
            t.getF (F.thmNtcRState n.val) = 0 ∧ t.getF (F.thmNtcRReading n.val) = tempField d)
        ∧ (uv ≤ 20000 ∨ 1780000 ≤ uv → Completes (.thermistorConversionDone n uv) s fun t =>
            t.getF (F.thmNtcRState n.val) = 1 ∨ (t.getF (F.thmNtcRState n.val) = 2 ∧ t.getF (F.thmNtcRReading n.val) = 0x8000)))

/-- R256, R258, R265 to R267, R292, R294: a thermal frame begins with its interval and evaluates the throttle of each cluster
whose readings are new: one step lower where a protection reading has reached its limit, one step higher where both lie below it
by the hysteresis; the divider follows in single steps; a due BAND_UPD drives the codes of the band, or the fixed ones. Which clusters
a frame evaluates, the rows of the divider and of BAND_UPD, and that a pulse due at the tick 0 of a frame is of the codes before it,
are the model's readings (logs 30 and 32).
Completes: THERMAL_FRAME, BAND_UPD, THROTTLE_DIVIDER_STEP. -/
def Obligations.ThrottleAndBands : Prop :=
  ∀ s : State,
    (s.begins (intervalKey 4 0) = false → exec .thermalFrame s = .next s)
    ∧ (s.begins (intervalKey 4 0) = true → Completes .thermalFrame s fun t => t.therm.pairsNew = [] ∧ t.therm.stacksNew = []
      ∧ t.therm.privLeft = ((List.range 32).filter fun u => t.isSet (F.thmChPriv (2 * u)) || t.isSet (F.thmChPriv (2 * u + 1)))
      ∧ (t.interval (intervalKey 4 0)).taken = true
      ∧ ∀ c < 12, s.therm.pairsNew.contains c = true ∨ s.therm.stacksNew.contains (c / 2) = true → s.clusterBlind c = false → s.getF (F.thmCltCause c) ≠ 3 →
        ∀ p d, readingOf (s.getF (F.thmPairPProt c)) = some p → readingOf (s.getF (F.thmStkProt (c / 2))) = some d →
          let lt := toSigned 16 (s.getF F.thmLimALogicThrottle)
          let dt := toSigned 16 (s.getF F.thmLimBDramThrottle)
          let hyst : Int := (16 * s.appliedF F.thmThrCfgHyst : Nat)
          let f := if s.isSet (F.thmCltActive c) then s.getF (F.thmCltFHw c) else s.getF (F.clcCFreqRun c)
          let step := max 1 (s.appliedF F.thmThrCfgStep)
          let w := (F.thmCltFHw c).width
          ((lt ≤ p ∨ dt ≤ d) → t.isSet (F.thmCltActive c) = true ∧ t.getF (F.thmCltCause c) = 1
            ∧ t.getF (F.thmCltFHw c) = satNat w (max (f - step) s.throttleFloor))
          ∧ (p < lt → d < dt → p < lt - hyst → d < dt - hyst → s.isSet (F.thmCltActive c) = true →
            t.isSet (F.thmCltActive c) = decide (f + step < 1600) ∧ t.getF (F.thmCltFHw c) = satNat w (f + step)))
    ∧ (∀ c : Fin 12,
      let v := s.clc c.val
      let next := if v.div < v.thermDiv then (if v.div = 0 then 1 else 3) else (if v.div = 1 then 0 else 1)
      (v.ramping = true ∨ v.div = v.thermDiv ∨ next = v.div → exec (.throttleDividerStep c) s = .next s)
      ∧ (v.ramping = false → v.div ≠ v.thermDiv → next ≠ v.div → Completes (.throttleDividerStep c) s fun t =>
        s.Frame t [.clcs, .cpas] [] ∧ (∀ d, d ≠ c.val → t.clc d = s.clc d) ∧ t.clc c.val = { v with div := next }
        ∧ (∀ n ∈ coresOf c.val, t.cpa n = { s.cpa n with acc := (s.cpa n).acc % t.fIn c.val })
        ∧ ∀ n, n ∉ coresOf c.val → t.cpa n = s.cpa n))
    ∧ ∀ k : Fin 6,
      let b := s.getF (F.modelBandSBand k.val)
      (s.therm.bandDue.contains k.val = false → exec (.bandUpd k) s = .next s)
      ∧ (s.therm.bandDue.contains k.val = true → Completes (.bandUpd k) s fun t =>
        (if s.isSet (F.modelBandSForced k.val) then
            t.getF (F.modelBandSRef k.val) = 2 ∧ t.getF (F.modelBandSTmg k.val) = 0 ∧ t.getF (F.modelBandSDrv k.val) = 0
          else t.getF (F.modelBandSRef k.val) = s.getF (F.modelBcodeBRef b) % 2 ^ (F.modelBandSRef k.val).width
            ∧ t.getF (F.modelBandSTmg k.val) = s.appliedF (F.modelBcodeBTmg b) % 2 ^ (F.modelBandSTmg k.val).width
            ∧ t.getF (F.modelBandSDrv k.val) = s.appliedF (F.modelBcodeBDrv b) % 2 ^ (F.modelBandSDrv k.val).width)
        ∧ Store.read (fun _ => 0) t.therm.pulses k.val = Store.read (fun _ => 0) s.therm.pulses k.val + 1
        ∧ s.Frame t [.therm] [F.modelBandSRef k.val, F.modelBandSTmg k.val, F.modelBandSDrv k.val])

/-- R271, R272, R311: the trip record is programmed into the first erased slot, read back, tried once more in the next while
PWR_OFF_REQ is not asserted, and PWR_OFF_REQ asserted in the tick after it stands, or at the latest at the timeout; PWR_OFF_REQ
pulls every ISO_N low. Which slot comes first, and the rows of the abort, the program and the read-back, are the model's (log 31).
Completes: TRIP_FLASH_ABORT_DONE, TRIP_RECORD_PROGRAM_DONE, TRIP_RECORD_READBACK_DONE, TRIP_PWR_OFF_TIMEOUT. -/
def Obligations.TripRecord : Prop :=
  ∀ s : State,
    let programs (c : Instr) (start : Nat) : Prop :=
      (∀ slot, s.erasedFrom eventSlots start = some slot → Completes c s fun t =>
        t.trip.stage = .programming ∧ t.trip.slot = slot
        ∧ t.trip.record = (if s.isSet F.tbStatusSubst
            then patchBytes s.trip.record 0x1A [BitVec.ofNat 8 (setBit (byteAt s.trip.record 0x1A) 3)] else s.trip.record)
        ∧ (slot ≠ start % eventSlots → t.isSet F.thmTripRelocated = true) ∧ s.Frame t [.trip] [F.thmTripRelocated])
      ∧ (s.erasedFrom eventSlots start = none → Completes c s fun t =>
        t.trip.stage = .failed ∧ t.getF F.thmStatusRec = 3 ∧ s.Frame t [.trip] [F.thmStatusRec])
    let off (t : State) : Prop := t.pins.pwrOff = true ∧ t.isSet F.thmStatusPwrOff = true
      ∧ (∀ d < 96, (t.dom d).isoN = false) ∧ t.supply.stage = .off
    (s.trip.stage = .aborting → programs .tripFlashAbortDone s.tripSlot)
    ∧ (s.trip.stage ≠ .aborting → exec .tripFlashAbortDone s = .next s)
    ∧ (s.trip.stage = .programming → Completes .tripRecordProgramDone s fun t =>
        t.trip = { s.trip with stage := .reading }
        ∧ t.flash = (s.program (s.boot.layout.evtOff + 64 * s.trip.slot)
            (tripRecord s.trip.record (s.isSet F.thmTripRelocated))).flash
        ∧ s.Frame t [.flash, .trip] [])
    ∧ (s.trip.stage ≠ .programming → exec .tripRecordProgramDone s = .next s)
    ∧ (∀ good us, s.trip.stage ≠ .reading → exec (.tripRecordReadbackDone good us) s = .next s)
    ∧ (∀ us, s.trip.stage = .reading → recordOk 0x50455A43 (s.slotBytes s.trip.slot) = true →
        Completes (.tripRecordReadbackDone true us) s fun t => t.trip.stage = .done ∧ t.getF F.thmStatusRec = 2
          ∧ t.getF F.thmTripRecOffset = 64 * s.trip.slot % 2 ^ F.thmTripRecOffset.width
          ∧ t.getF F.thmTripTimeRec = satNat F.thmTripTimeRec.width us ∧ t.pins = s.pins
          ∧ (s.pins.pwrOff = false → t.trip.offDue = true ∧ off t.powerOffDue
              ∧ t.getF F.thmTripTimePwrOff = satNat F.thmTripTimePwrOff.width us)
          ∧ (s.pins.pwrOff = true → t.trip.offDue = false)
          ∧ s.Frame t [.trip] [F.thmStatusRec, F.thmTripRecOffset, F.thmTripTimeRec, F.thmTripTimePwrOff])
    ∧ (∀ good us, s.trip.stage = .reading → (good = false ∨ recordOk 0x50455A43 (s.slotBytes s.trip.slot) = false) →
        s.trip.retried = false → s.pins.pwrOff = false → programs (.tripRecordReadbackDone good us) (s.trip.slot + 1))
    ∧ (∀ good us, s.trip.stage = .reading → (good = false ∨ recordOk 0x50455A43 (s.slotBytes s.trip.slot) = false) →
        (s.trip.retried = true ∨ s.pins.pwrOff = true) → Completes (.tripRecordReadbackDone good us) s fun t =>
        t.trip.stage = .failed ∧ t.getF F.thmStatusRec = 3 ∧ s.Frame t [.trip] [F.thmStatusRec])
    ∧ ((s.trip.taken = true ∨ s.pins.thermTrip = true) → s.pins.pwrOff = false → Completes .tripPwrOffTimeout s fun t =>
        off t ∧ t.getF F.thmTripTimePwrOff = 5000)
    ∧ (s.trip.taken = false ∧ s.pins.thermTrip = false ∨ s.pins.pwrOff = true → exec .tripPwrOffTimeout s = .next s)

/-! ### The cooling model, chapter 10 -/

/-- R280, R283 to R290, R295: a model step, at tick 48 of the last beat of its interval, latches the inputs and measurements, or
is an overrun; at its end the state moves by the matrices, the outputs are rounded, and settling counts down; loading, the law
that limits each cluster, the two rewrites of coefficients, lost flow, and the second's sample. The order within the tick, and
that a step uses the law in force when it began, are the model's readings (log 16, log 15), as are the rounding (log 9), the format
of FP32 and its order (log 10), the tachometer and the ends of settling and learning (log 32). R298: no step begins once a trip has
turned every rail off.
Completes: MODEL_STEP, MODEL_STEP_DONE, MDP_STEP_RESPONSE, MODEL_LOAD_DONE, FLOW_COEFF_REWRITE, FLOW_LOST, RTH_SAMPLE,
MODEL_COEFF_REWRITE. -/
def Obligations.CoolingModel : Prop :=
  ∀ s : State,
    let st := s.modelState
    let steps := st = 2 ∨ st = 3
    let due := s.fires (intervalKey 2 0) 48 = true
    let gone := s.pins.pwrOff = true ∧ ∀ k < 8, s.isSet (F.railStatusOn k) = false
    let bounds (t : State) : Prop := t.model.railSums = [0, 0, 0, 0] ∧ t.model.railLast = s.model.railSums
      ∧ t.model.beats = 0 ∧ t.model.beatsLast = s.model.beats ∧ t.model.energies = (List.range 72).map s.groupEnergy
      ∧ t.model.used = ((List.range 72).map fun g =>
          (s.groupEnergy g + (2 ^ 64 - s.model.energies.getD g 0 % 2 ^ 64)) % 2 ^ 64)
      ∧ t.model.steps = s.model.steps + 1
    (¬ due → exec .modelStep s = .next s)
    ∧ (due → ¬ steps ∨ gone → Completes .modelStep s fun t => t.model.latched = s.model.latched ∧ bounds t
        ∧ s.Frame t [.model, .intervals] [])
    ∧ (due → steps → ¬ gone → s.model.latched = none → Completes .modelStep s fun t =>
        t.model.latched = some (s.model.uNow, s.model.uFc, (List.range (bodyQ s.model.coef)).map s.measurement)
        ∧ t.model.law = s.lawNow ∧ bounds t ∧ s.Frame t [.model, .intervals] [])
    ∧ (due → steps → ¬ gone → s.model.latched ≠ none → Completes .modelStep s fun t =>
        t.model.latched = s.model.latched ∧ bounds t
        ∧ t.getF F.modelTimingOverruns = min (s.getF F.modelTimingOverruns + 1) 0xFFFF ∧ bitOf (t.getF F.modelEvt) 1 = true
        ∧ s.Frame t [.model, .intervals] [F.modelTimingOverruns, F.modelEvt])
    ∧ (∀ n, s.model.latched = none → exec (.modelStepDone n) s = .next s)
    ∧ (∀ n u v meas, s.model.latched = some (u, v, meas) →
        let b := s.model.coef
        let x := correct b s.model.x (innovations (outputsOf b s.model.x) meas)
        let left := s.getF F.modelStatusSettleLeft
        (s.badWords 7 (modelWords b) = [] → Completes (.modelStepDone n) s fun t =>
          (s.model.flowDue = false → t.model = { s.model with x := advance b x u, latched := none, fresh := true })
          ∧ (s.model.flowDue = true → t.model.x = advance b x u ∧ t.model.latched = none ∧ t.model.fresh = true
              ∧ t.model.flowDue = false ∧ t.model.scale = s.getF F.modelFlowScale)
          ∧ (∀ q < min 64 (bodyQ b), t.getF (F.modelOutQNow q) = tempField (scaledOfFp32 ((outputsOf b x).getD q 0)))
          ∧ (∀ q < min 64 (bodyQ b), t.getF (F.modelOutQForecast q) = tempField (scaledOfFp32
              ((outputsOf b (forecast b v (10 * s.model.law.horizon - 1) (advance b x u))).getD q 0)))
          ∧ t.getF F.modelStepsCount = (s.getF F.modelStepsCount + 1) % 2 ^ 32 ∧ t.getF F.modelTimingCycles = satNat 16 n
          ∧ t.modelState = (if st = 2 ∧ left ≤ 1 then 3 else st)
          ∧ t.getF F.modelStatusSettleLeft = (if st = 2 then (left - 1) % 2 ^ 8 else left)
          ∧ s.Frame t [.model, .ecc] ([F.modelStepsCount, F.modelTimingCycles, F.modelStatusState, F.modelStatusSettleLeft,
              F.mpMWbCancelled 7] ++ (List.range 64).map F.modelOutQNow ++ (List.range 64).map F.modelOutQForecast))
        ∧ (s.readModel.1 = false → steps → Completes (.modelStepDone n) s fun t =>
          t.modelState = 2 ∧ t.model.latched = none ∧ t.model.rewrite = true ∧ bitOf (t.getF F.modelEvt) 0 = true
          ∧ t.getF F.modelStepsCount = s.getF F.modelStepsCount
          ∧ t.getF F.modelStatusSettleLeft = max 1 (s.appliedF F.modelLaw2Settle) % 2 ^ 8))
    ∧ (st = 1 → s.running 1 = true → Completes .modelLoadDone s fun t =>
        let b := s.modelTag
        t.modelState = 2 ∧ t.getF F.modelShapeN = bodyN b % 2 ^ 16 ∧ t.getF F.modelShapeM = bodyM b % 2 ^ 8
        ∧ t.getF F.modelShapeQ = bodyQ b % 2 ^ 8 ∧ t.model.coef = b ∧ t.model.body = b ∧ t.model.x.length = bodyN b
        ∧ t.model.loaded = true ∧ (∀ c < 12, t.getF (F.modelLimCLim c) = 1600)
        ∧ t.getF F.modelStatusSettleLeft = max 1 (s.appliedF F.modelLaw2Settle) % 2 ^ 8
        ∧ s.Frame t [.model, .ecc, .free] ([F.modelShapeN, F.modelShapeM, F.modelShapeQ, F.modelStatusState,
            F.modelStatusSettleLeft] ++ (List.range 12).map F.modelLimCLim))
    ∧ (st ≠ 1 ∨ s.running 1 = false → exec .modelLoadDone s = .next s)
    ∧ (s.running 1 = true → s.model.fresh = true → Completes .mdpStepResponse s fun t =>
        t.model.fresh = false ∧ (∀ q < 18, t.getF (F.thmPairPEst q) = s.getF (F.modelOutQNow q) % 2 ^ 16)
        ∧ (steps → ∀ c < 12, ∃ w : Int, t.getF (F.modelLimCLim c) = lawLimit s.model.law.floor w % 2 ^ 11
            ∧ t.getF (F.thmCltMdpLim c) = t.getF (F.modelLimCLim c)
            ∧ (0 < s.lawErr c → w = (64 * s.getF (F.modelLimCLim c) : Nat) - (s.model.law.kdown : Int) * s.lawErr c)
            ∧ (s.lawErr c ≤ 0 → st = 2 → w = (64 * s.getF (F.modelLimCLim c) : Nat))
            ∧ (s.lawErr c ≤ 0 → st = 3 → w = (64 * s.getF (F.modelLimCLim c) : Nat)
                + min ((64 * s.model.law.riseMax : Nat) : Int) ((s.model.law.kup : Int) * -s.lawErr c)))
        ∧ (¬ steps → ∀ c < 12, t.getF (F.modelLimCLim c) = s.getF (F.modelLimCLim c))
        ∧ s.Frame t [.logRam, .therm, .model, .ecc, .held, .free] (traceFields ++ (List.range 18).map F.thmPairPEst
            ++ (List.range 12).map F.modelLimCLim ++ (List.range 12).map F.modelLimCErr ++ (List.range 12).map F.thmCltMdpLim))
    ∧ (s.running 1 = false ∨ s.model.fresh = false → exec .mdpStepResponse s = .next s)
    ∧ (∀ tach : List TachPulse,
        let on := s.appliedF F.modelFlowCfgTachEn ≠ 0
        let flow := satNat 16 (s.flowOf (tachFreq tach))
        let low := flow < s.appliedF F.modelFlowCfgFlowMin
        let rested := ∀ b, s.model.rewritten = some b →
          beatsOf 10000 (s.getF F.tbSyncFreqUsed) ≤ (s.beat + 2 ^ 48 - b) % 2 ^ 48
        let held := (s.measureFlow tach).flowSettled = true
        Completes (.flowCoeffRewrite tach) s (fun t =>
          let sc := t.getF F.modelFlowScale
          t.getF F.thmFlowFreq = tachFreq tach
          ∧ (¬ on → sc = 4096 ∧ t.getF F.modelFlowFlow = 0)
          ∧ (on → t.getF F.modelFlowFlow = flow ∧ sc = flowScale (s.flowOf (tachFreq tach)) (u16At s.modelTag 4) % 2 ^ 16)
          ∧ (on → t.model.flowLow = decide low ∧ t.model.flowSince ≠ none) ∧ (¬ on → t.model.flowSince = none)
          ∧ (s.running 1 = true → s.model.loaded = true → s.model.scale + 64 < sc ∨ sc + 64 < s.model.scale → rested →
              (s.model.latched = none → t.model.scale = sc ∧ t.model.rewritten = some s.beat)
              ∧ (s.model.latched ≠ none → t.model.flowDue = true ∧ t.model.coef = s.model.coef))
          ∧ (sc ≤ s.model.scale + 64 ∧ s.model.scale ≤ sc + 64 ∨ ¬ rested ∨ s.running 1 = false ∨ s.model.loaded = false →
              t.model = { s.model with flowLow := t.model.flowLow, flowSince := t.model.flowSince })
          ∧ s.Frame t [.model, .ecc] [F.thmFlowFreq, F.modelFlowScale, F.modelFlowFlow, F.mpMWbCancelled 7])
        ∧ Completes (.flowLost tach) s (fun t =>
          t.getF F.thmFlowFreq = tachFreq tach
          ∧ (¬ on ∨ ¬ held → t.getF F.modelStatusFlowLost = s.getF F.modelStatusFlowLost)
          ∧ (on → held → ¬ low → t.getF F.modelStatusFlowLost = 0)
          ∧ (on → held → low → t.isSet F.modelStatusFlowLost = true
              ∧ (s.isSet F.modelStatusFlowLost = false → bitOf (t.getF F.modelEvt) 2 = true))))
    ∧ (s.running 1 = true → s.model.loaded = true → s.model.rewrite = true → Completes .modelCoeffRewrite s fun t =>
        t.model.rewrite = false ∧ t.model.x = s.model.x ∧ (s.model.scale = 4096 → t.model.coef = s.model.body)
        ∧ s.Frame t [.model, .ecc] [F.mpMWbCancelled 7])
    ∧ (s.running 1 = false ∨ s.model.loaded = false ∨ s.model.rewrite = false → exec .modelCoeffRewrite s = .next s)
    ∧ (let m := s.model
      let p := openDivNat 38 m.diePower (max 1 m.frames)
      let valid := m.bad = false ∧ 0 < m.steps ∧ 0 < m.frames ∧ 0 < p ∧ s.appliedF F.modelRthCfgPMin ≤ p
        ∧ s.isSet F.thmStatusTrip = false
      let cleared (t : State) : Prop := t.model.logicSum = 0 ∧ t.model.inletSum = 0 ∧ t.model.steps = 0
        ∧ t.model.diePower = 0 ∧ t.model.frames = 0 ∧ t.model.bad = false
      let isDue := s.ends (intervalKey 7 0) = true
      (¬ isDue → exec .rthSample s = .next s)
      ∧ (isDue → s.running 1 = false ∨ ¬ valid → Completes .rthSample s fun t => cleared t ∧ s.Frame t [.model, .intervals] [])
      ∧ (isDue → s.running 1 = true → valid → Completes .rthSample s fun t => cleared t
        ∧ (s.isSet F.modelStatusBaseline = true →
            t.getF F.modelRthSRatio = satNat 16 (t.getF F.modelRthNow * 4096 / max 1 (s.getF F.modelRthBase)))
        ∧ t.getF F.modelRthNow
          = satNat 16 (openDiv 39 ((m.logicSum - m.inletSum) * (8192 * m.frames : Nat)) (m.steps * m.diePower)).toNat
        ∧ (s.isSet F.modelStatusBaseline = false → m.learned = none →
            t.getF F.modelRthSLearn = min (s.getF F.modelRthSLearn + 1) 3600
            ∧ t.model.learnSum = m.learnSum + t.getF F.modelRthNow
            ∧ (t.model.learned.isSome = true ↔ 3599 ≤ s.getF F.modelRthSLearn))))

/-- R305, R308, R310: the acknowledge that a step waits for, and one after ACK_TO beats; a late one of a FAILED domain; a
timeout; a vote by the voter that DOM.HVMAP gives a master, refused and reported where it gives none; a retry, likewise.
R163, R164: the running FLP answers an event that is set with a log record of its severity, with a notification where the
rules give one, and with derating on STAGE_HOT of a CORE rail.
Completes: FLP_EVENT_RESPONSE, DOMAIN_ACK, DOMAIN_ACK_TIMEOUT, DOMAIN_VOTE_SET, DOMAIN_VOTE_CLEAR, DOMAIN_RETRY. -/
def Obligations.DomainsAndEvents : Prop :=
  (∀ (s : State) (d : Fin 96),
    let v := s.dom d.val
    let only (t : State) (ps : List Part) (l : List Field) : Prop := s.Frame t ps l ∧ ∀ e, e ≠ d.val → t.dom e = s.dom e
    let isDue := s.pins.pwrOff = false ∧ (awaitedAck v.seq v.step).isSome = true ∧ v.acked = false
      ∧ s.appliedF F.domCfgAckTo ≤ v.waited
    (∀ ret level,
      (awaitedAck v.seq v.step = some (ret, level) → ¬ isDue → Completes (.domainAck d ret level) s fun t =>
        t.dom d.val = { v with acked := true } ∧ only t [.doms] [])
      ∧ (awaitedAck v.seq v.step = some (ret, level) → isDue → Completes (.domainAck d ret level) s fun t =>
        domState t d.val = 5 ∧ bitOf (t.getF F.domEvt) 2 = true ∧ bitOf (t.getF F.domEvt) 1 = true
        ∧ (t.dom d.val).late = none ∧ only t [.doms] [F.domDStatusState d.val, F.domEvt])
      ∧ (awaitedAck v.seq v.step ≠ some (ret, level) → v.late = some (ret, level) → Completes (.domainAck d ret level) s fun t =>
        bitOf (t.getF F.domEvt) 1 = true ∧ t.dom d.val = { v with late := none } ∧ only t [.doms] [F.domEvt])
      ∧ (awaitedAck v.seq v.step ≠ some (ret, level) → v.late ≠ some (ret, level) →
        exec (.domainAck d ret level) s = .next s))
    ∧ (isDue → Completes (.domainAckTimeout d) s fun t =>
        domState t d.val = 5 ∧ bitOf (t.getF F.domEvt) 2 = true ∧ (t.dom d.val).seq = .none ∧ (t.dom d.val).retry = false
        ∧ (t.dom d.val).late = awaitedAck v.seq v.step ∧ (t.dom d.val).waited = 0
        ∧ ((t.dom d.val).toOn = true ↔ v.seq = .offOn ∨ v.seq = .retOn)
        ∧ (t.dom d.val).swOn = (if v.seq = .offOn ∨ v.seq = .retOn then false else v.swOn)
        ∧ (t.dom d.val).retOn = v.retOn ∧ (t.dom d.val).isoN = v.isoN
        ∧ only t [.doms] [F.domDStatusState d.val, F.domEvt])
    ∧ (¬ isDue → exec (.domainAckTimeout d) s = .next s)
    ∧ (∀ m : Master,
      (s.hostVoter m.toNat = none → ∀ c ∈ [Instr.domainVoteSet m d, .domainVoteClear m d], Completes c s fun t =>
        bitOf (t.getF F.domEvt) 0 = true ∧ s.Frame t [] [F.domEvt])
      ∧ (∀ j, s.hostVoter m.toNat = some j →
        Completes (.domainVoteSet m d) s (fun t =>
          t.getF (F.domDVoteMask d.val) = setBit (s.getF (F.domDVoteMask d.val)) j % 2 ^ 16
          ∧ s.Frame t [] [F.domDVoteMask d.val])
        ∧ Completes (.domainVoteClear m d) s (fun t =>
          t.getF (F.domDVoteMask d.val) = clearBit (s.getF (F.domDVoteMask d.val)) j % 2 ^ 16
          ∧ s.Frame t [] [F.domDVoteMask d.val])))
    ∧ (∀ p : Party,
      let mapped := ∀ m, p = .host m → s.hostVoter m.toNat ≠ none
      (¬ mapped → Completes (.domainRetry ⟨p, d⟩) s fun t => bitOf (t.getF F.domEvt) 0 = true ∧ s.Frame t [] [F.domEvt])
      ∧ (mapped → domState s d.val = 5 → Completes (.domainRetry ⟨p, d⟩) s fun t =>
        t.dom d.val = { v with retry := true } ∧ only t [.doms] [])
      ∧ (mapped → domState s d.val ≠ 5 → exec (.domainRetry ⟨p, d⟩) s = .next s)))
  ∧ (∀ (s : State) (off : Offset) (bit : Fin 32),
    let o := off.toNat
    let hot := 0x08000 ≤ o ∧ o < 0x09000 ∧ bit.val = 9
    (s.running 0 = false ∨ bitOf (s.word o) bit.val = false ∨ responseTo o bit.val = none →
      exec (.flpEventResponse off bit) s = .next s)
    ∧ ∀ r, s.running 0 = true → bitOf (s.word o) bit.val = true → responseTo o bit.val = some r → s.getF F.logHeadSeq < 2 ^ 32 →
      Completes (.flpEventResponse off bit) s fun t =>
        t.getF F.logHeadSeq = (s.getF F.logHeadSeq + 1) % 2 ^ 32
        ∧ (t.logRecord (s.getF F.logHeadSeq)).origin = 2 ^ 28 + r.severity * 2 ^ 24 + s.time.tick * 2 ^ 16 + 1
        ∧ (t.logRecord (s.getF F.logHeadSeq)).data = [o, bit.val, s.word o, 0]
        ∧ (∀ c, r.notifies = true → r.cls = some c → s.running 2 = true → ∀ ch, 16 ≤ ch → ch < 28 → s.subscribers ch c ≠ [] →
            Store.read (fun _ => 0) t.mailbox.notifySeq ch = (Store.read (fun _ => 0) s.mailbox.notifySeq ch + 1) % 256)
        ∧ (hot → t.getF (F.railcDerateKFrac ((o - 0x08000) / 0x400))
              = max 8 (s.getF (F.railcDerateKFrac ((o - 0x08000) / 0x400)) - 2) % 2 ^ (F.railcDerateKFrac 0).width
            ∧ (t.rail ((o - 0x08000) / 0x400)).derating = true)
        ∧ (r.notifies = false → ¬ hot → s.Frame t [.logRam, .ecc] logFields))

/-! ### Ageing, health and re-characterisation, chapter 17 -/

/-- R450 to R455, R458, R459: what a measurement, a second and an hour, each at the end of its interval, leave of each core, rail
and warning; HEALTH_READ, which channel 30 permits. R457: the first measurement of a core without a RATIO0 gives it one. The rounding of
d and RATIO0 (log 9), and that a tag's RATIO0 of 0 counts as none (log 82), are the model's.
Completes: HEALTH_READ, AGEING_MEASUREMENT, EM_USAGE_UPDATE, LIFE_PREDICTION. -/
def Obligations.HealthMeasures : Prop :=
  ∀ s : State,
    let age := (List.range 288).map F.hlthAgeNDNow
    let isDue (key : Nat) := s.ends (intervalKey key 0) = true
    (∀ counts, ¬ isDue 8 → exec (.ageingMeasurement counts) s = .next s)
    ∧ (¬ isDue 12 → exec .emUsageUpdate s = .next s) ∧ (¬ isDue 9 → exec .lifePrediction s = .next s)
    ∧ (∀ counts, isDue 8 → s.running 1 = false → Completes (.ageingMeasurement counts) s fun t => s.Frame t [.intervals] [])
    ∧ (∀ counts, isDue 8 → s.running 1 = true → Completes (.ageingMeasurement counts) s fun t =>
        (∀ n < 288, s.coreOn n = false → t.getF (F.hlthAgeNDNow n) = s.getF (F.hlthAgeNDNow n))
        ∧ (∀ (n cs cu : Nat), n < 288 → s.coreOn n = true → counts[n]? = some (cs, cu) → cu * s.ratio0 n ≠ 0 →
          let r := cu * s.ratio0 n
          let d := (openDiv 43 (1000000 * (r : Int) - 1000000 * ((cs * 2 ^ 24 : Nat) : Int)) r).toNat
          let l := (d :: Store.read (fun _ => []) s.health.degr n).take 16
          Store.read (fun _ => []) t.health.degr n = l ∧ t.getF (F.hlthAgeNDNow n) = satNat 20 (sumNat l / l.length))
        ∧ (∀ (n cs cu : Nat), n < 288 → s.coreOn n = true → counts[n]? = some (cs, cu) → s.ratio0 n = 0 → cu ≠ 0 →
          t.ratio0 n = openDivNat 44 (cs * 2 ^ 24) cu)
        ∧ (∀ n < 288, s.coreOn n = false ∨ s.ratio0 n ≠ 0 → t.ratio0 n = s.ratio0 n)
        ∧ s.Frame t [.health, .intervals, .free] age)
    ∧ (isDue 12 → s.running 1 = false → Completes .emUsageUpdate s fun t =>
        t.health = { s.health with iSum := [], steady := [] } ∧ s.Frame t [.health, .intervals] [])
    ∧ (isDue 12 → s.running 1 = true → s.health.steady.Nodup → (∀ d ∈ s.health.steady, d < 72) → Completes .emUsageUpdate s fun t =>
        t.health.iSum = [] ∧ t.health.steady = (List.range 72).filter s.domOn
        ∧ (∀ n < 288, t.getF (F.hlthStressNSec n) = if n / 4 ∈ s.health.steady then min (s.getF (F.hlthStressNSec n) + 1) 0xFFFFFFFF
            else s.getF (F.hlthStressNSec n))
        ∧ (∀ k < 8, ∀ (sum cnt : Nat), Store.read (fun _ => (0, 0)) s.health.iSum k = (sum, cnt) →
          let rated := s.appliedF (F.railIlimLimit k)
          (cnt = 0 ∨ rated = 0 → t.getF (F.hlthEmKUsed k) = s.getF (F.hlthEmKUsed k)
            ∧ t.getF (F.hlthEmRateRate k) = s.getF (F.hlthEmRateRate k))
          ∧ (cnt ≠ 0 → rated ≠ 0 →
            let f := exp2Fix (Int.fdiv ((s.hottestLogic.getD 6720 - 5440) * 65536) 640)
            let inc := 16 * sum * sum * f / (cnt * cnt * rated * rated * 3600 * 2 ^ 20)
            let u := s.getF (F.hlthEmKUsed k) * 2 ^ 40 + Store.read (fun _ => 0) s.health.usedRest k + inc
            t.getF (F.hlthEmKUsed k) = satNat 32 (u / 2 ^ 40) ∧ Store.read (fun _ => 0) t.health.usedRest k = u % 2 ^ 40))
        ∧ s.Frame t [.health, .intervals] ((List.range 288).map F.hlthStressNSec ++ (List.range 8).map F.hlthEmKUsed
            ++ (List.range 8).map F.hlthEmRateRate))
    ∧ (isDue 9 → Completes .lifePrediction s fun t =>
        t.health.hours = s.health.hours + 1 ∧ t.getF F.hlthPersistAgeH = min (s.getF F.hlthPersistAgeH + 1) 0xFFFF
        ∧ t.health.steadyP = (List.range 44).filter t.phaseOn
        ∧ (s.running 1 = true →
          (∀ n < 288,
            let sec := s.getF (F.hlthStressNSec n)
            let d := s.getF (F.hlthAgeNDNow n)
            let c := s.charFmax n
            let eol := s.getF F.hlthCfgFminEol
            t.getF (F.hlthAgeNFmaxEst n) = satNat 11 (c * (1000000 - (d - s.charD n)) / 1000000)
            ∧ (sec < 604800 ∨ d = 0 → t.getF (F.hlthAgeNValid n) = 0 ∧ t.getF (F.hlthLifeNHours n) = 0xFFFFFFFF)
            ∧ (604800 ≤ sec → d ≠ 0 → t.getF (F.hlthAgeNValid n) = 1
              ∧ (c ≤ eol → t.getF (F.hlthLifeNHours n) = 0)
              ∧ (eol < c → t.getF (F.hlthLifeNHours n)
                  = lifeHours sec (s.charD n + 1000000 * (c - eol) / c) d (max 1 (s.getF F.hlthCfgAgeExp)) % 2 ^ 32)))
          ∧ (∀ k < 8, s.getF (F.hlthEmRateRate k) = 0 → (∀ p ∈ phasesOf k, s.phaseLife p = none) →
              t.getF (F.hlthRlifeKHours k) = 0xFFFFFFFF)
          ∧ t.isSet F.hlthStatusWarn = !t.healthItems.isEmpty ∧ t.getF F.hlthStatusWarnCount = satNat 8 t.healthItems.length
          ∧ (s.isSet F.hlthStatusWarn = false → t.isSet F.hlthStatusWarn = true → bitOf (t.getF F.hlthEvt) 3 = true)
          ∧ (s.isSet F.hlthStatusWarn = true → t.isSet F.hlthStatusWarn = false → bitOf (t.getF F.hlthEvt) 2 = true)))
    ∧ (∀ r, s.serves 0x64 r →
        let kind := r.word 2 / 2 ^ 30
        let i := r.word 2 % 512
        (kind = 0 → i < 288 → Replied .healthRead s r 0 0 [s.word (0x68800 + 8 * i), s.word (0x68804 + 8 * i),
          s.word (0x69100 + 4 * i), s.charFmax i * 65536 + s.factoryFmax i])
        ∧ (kind = 1 → i < 8 → Replied .healthRead s r 0 0 [s.word (0x69600 + 16 * i), s.word (0x69604 + 16 * i),
          s.word (0x69608 + 16 * i)])
        ∧ (kind = 2 → i < 44 → Replied .healthRead s r 0 0 [s.word (0x69700 + 8 * i), s.word (0x69704 + 8 * i)])
        ∧ (¬ (kind = 0 ∧ i < 288 ∨ kind = 1 ∧ i < 8 ∨ kind = 2 ∧ i < 44) → Replied .healthRead s r 4 0 []))
    ∧ (∀ r : Request, r.channel = 30 → r.mixed = false → r.word 0 / 2 ^ 28 = 2 → bitsOf (r.word 0) 4 4 ≤ 8 →
        bitsOf (r.word 0) 1 3 = 0 → bitsOf (r.word 0) 24 4 ≤ r.minor → r.opcode = 0x64 → s.checkRequest r = none)

/-- R100, R296, R456: a copy that is due is begun into the other slot when none is being written; what a commit leaves, by
the kind of the copy; a persist at the end of its interval; RTH_RELEARN waits for its copy. R99: a copy whose body is longer than its
room is not committed (log 58); one that is not committed raises PERSIST_FAIL. Which slot is written (log 49), the jobs of the flash
device and what a failed one leaves (log 7), and who owns the flash port after a trip (log 31) are the model's readings.
Completes: RTH_BASELINE_COPY, RTH_RELEARN, CALIBRATION_PERSIST, CALIBRATION_COPY_COMMIT. -/
def Obligations.CalibrationCopies : Prop :=
  ∀ s : State,
    let becomesDue (kind : CopyKind) (s t : State) : Prop :=
      let l := if s.health.due.contains kind then s.health.due else s.health.due ++ [kind]
      (s.health.copy ≠ none → t.health = { s.health with due := l } ∧ s.Frame t [.health] [])
      ∧ (s.health.copy = none → ∀ k rest, l = k :: rest →
          t.health.due = rest ∧ t.health.copy = some ⟨k, 1 - s.getF F.gctlStatusCalCopy, s.copySections k⟩
          ∧ (s.flash.tripOwned = true → t.flash = s.flash) ∧ s.Frame t [.health, .flash, .logRam, .ecc] traceFields)
    let u := s.reload (intervalKey 11 0)
    let isDue := s.ends (intervalKey 11 0) = true
    (isDue → s.running 2 = true → Completes .calibrationPersist s (becomesDue .persist u))
    ∧ (s.running 2 = true → s.model.learned ≠ none → (∀ c, s.health.copy = some c → c.kind ≠ .baseline) →
        Completes .rthBaselineCopy s (becomesDue .baseline s))
    ∧ (¬ isDue → exec .calibrationPersist s = .next s) ∧ (isDue → s.running 2 = false → exec .calibrationPersist s = .next u)
    ∧ (s.running 2 = false ∨ s.model.learned = none ∨ (∃ c, s.health.copy = some c ∧ c.kind = .baseline) →
        exec .rthBaselineCopy s = .next s)
    ∧ (∀ r, s.serves 0x63 r →
        (s.mailbox.awaitCopy ≠ none → Replied .rthRelearn s r 2 0 [])
        ∧ (s.mailbox.awaitCopy = none → Completes .rthRelearn s fun t => t.mailbox.awaitCopy = some r
          ∧ (CopyKind.relearn ∈ t.health.due ∨ ∃ c, t.health.copy = some c ∧ c.kind = .relearn)))
    ∧ (∀ ok, s.health.copy = none ∨ s.running 2 = false → exec (.calibrationCopyCommit ok) s = .next s)
    ∧ ∀ c, s.health.copy = some c → s.running 2 = true →
        (∀ ok, c.kind = .fmax → exec (.calibrationCopyCommit ok) s = .next s)
        ∧ (c.kind ≠ .fmax → s.flash.tripOwned = false → s.copyFits c = true → Completes (.calibrationCopyCommit true) s fun t =>
          t.getF F.gctlStatusCalCopy = c.slot % 2 ∧ t.boot.cal = c.sections ∧ t.boot.calSeq = (s.boot.calSeq + 1) % 2 ^ 32
          ∧ t.getF F.hlthPersistCount = min (s.getF F.hlthPersistCount + 1) (2 ^ F.hlthPersistCount.width - 1)
          ∧ t.getF F.hlthPersistAgeH = 0 ∧ t.health.persists = s.health.persists + 1
          ∧ (c.kind = .persist → t.model = s.model)
          ∧ (c.kind = .baseline → t.getF F.modelRthBase = satNat 16 (s.model.learned.getD 0)
              ∧ t.getF F.modelStatusBaseline = flag (s.model.learned.getD 0 != 0) ∧ t.model.learned = none)
          ∧ (c.kind = .relearn → t.getF F.modelRthBase = 0 ∧ t.getF F.modelStatusBaseline = 0 ∧ t.model.learned = none
              ∧ t.mailbox.awaitCopy = none))
        ∧ (∀ ok, c.kind ≠ .fmax → (ok = false ∨ s.flash.tripOwned = true ∨ s.copyFits c = false) →
          Completes (.calibrationCopyCommit ok) s fun t =>
          t.getF F.gctlStatusCalCopy = s.getF F.gctlStatusCalCopy ∧ t.boot.cal = s.boot.cal ∧ t.model = s.model
          ∧ t.getF F.hlthPersistCount = s.getF F.hlthPersistCount ∧ (s.health.due = [] → t.health.copy = none)
          ∧ bitOf (t.getF F.hlthEvt) 0 = true ∧ (c.kind = .relearn → t.mailbox.awaitCopy = none))

/-- R460 to R465, R467, Table 17.2: the requests and the steps of a re-characterisation, each from the state it belongs to and at
its time; otherwise a step does nothing. How a characterisation that is cut off ends is the model's choice (log 49), as are the jobs of
the flash device (log 7) and who owns it after a trip (log 31).
Completes: FMAX_START, FMAX_BEGIN_RECORD_DONE, CLUSTER_OFFLINE, FMAX_QUIET_TIMEOUT, FMAX_STEP_BEGIN, FMAX_STEP_DONE,
FMAX_STEP_INVALID_TIMEOUT, FMAX_COMMIT, FMAX_END, FMAX_ABORT, FMAX_STATUS. -/
def Obligations.FmaxSweep : Prop :=
  ∀ s : State,
    let st := s.getF F.hlthFmaxState
    let m := s.health.fmax
    let up := s.running 2 = true
    let ends (c : Instr) (code : Nat) : Prop := Completes c s fun t =>
      t.getF F.hlthFmaxState = 4 ∧ t.getF F.hlthFmaxLastStatus = code ∧ t.getF F.hlthTestActive = 0
    let idle (c : Instr) : Prop := exec c s = .next s
    (∀ r, s.serves 0x60 r →
      let mode := s.getF F.gctlModeCurrent
      let mask := if r.word 2 % 4096 = 0 then 4095 else r.word 2 % 4096
      let sel := indexes 12 fun i => bitOf mask i && s.clusterHasCores i
      (mode ≠ 3 → mode ≠ 4 → Replied .fmaxStart s r 8 0 [])
      ∧ (mode = 3 ∨ mode = 4 → st ≠ 0 → Replied .fmaxStart s r 2 0 [])
      ∧ (mode = 3 ∨ mode = 4 → st = 0 → sel = [] → Replied .fmaxStart s r 0 0 [0])
      ∧ (mode = 3 ∨ mode = 4 → st = 0 → ∀ c rest, sel = c :: rest → Completes .fmaxStart s fun t =>
        t.getF F.hlthFmaxState = 1 ∧ t.getF F.hlthFmaxMask = mask ∧ t.getF F.hlthFmaxCluster = c
        ∧ t.getF F.hlthFmaxProgSteps = 0
        ∧ t.health.fmax = { quietEnd := s.beatIn 10000000, guard := s.getF F.hlthFcfgGuard
                            step := max 1 (s.getF F.hlthFcfgStep), dwell := max 1 (s.getF F.hlthFcfgDwell) }
        ∧ t.mailbox.awaitFmax = some r
        ∧ t.getF F.logHeadSeq = (s.getF F.logHeadSeq + 1) % 2 ^ 32))
    ∧ (st ≠ 1 ∨ m.begun = true ∨ ¬ up → idle .fmaxBeginRecordDone)
    ∧ (st = 1 → m.begun = false → up → s.jobCmds .fmaxRecord = [] → ends .fmaxBeginRecordDone 7)
    ∧ (st = 1 → m.begun = false → up → s.jobCmds .fmaxRecord ≠ [] →
        Completes .fmaxBeginRecordDone s fun t => t.health.fmax = { m with begun := true } ∧ t.jobCmds .fmaxRecord = []
          ∧ s.Frame t [.health, .flash] [])
    ∧ (let c := s.getF F.hlthFmaxCluster
      (st ≠ 1 ∨ m.begun = false ∨ ¬ up ∨ s.clusterQuiet c = false → idle .clusterOffline)
      ∧ (st = 1 → m.begun = true → up → s.clusterQuiet c = true → Completes .clusterOffline s fun t =>
        t.getF F.hlthFmaxState = 2 ∧ t.getF F.hlthTestCluster = c % 2 ^ 4 ∧ t.getF F.hlthTestFreq = s.firstFreq c % 2 ^ 11
        ∧ t.getF F.hlthTestActive = 1 ∧ t.health.fmax.passing = (coresOf c).filter s.coreOn
        ∧ t.health.fmax.out = ((coresOf c).filter fun n => !s.coreOn n) ++ m.out))
    ∧ (st = 1 → s.beatReached m.quietEnd = true → up → ends .fmaxQuietTimeout 7)
    ∧ (st ≠ 1 ∨ s.beatReached m.quietEnd = false ∨ ¬ up → idle .fmaxQuietTimeout)
    ∧ (let c := s.getF F.hlthTestCluster
      let f := s.getF F.hlthTestFreq
      let v := s.clc c
      let split := s.divided c = true
      let ready := st = 2 ∧ up ∧ (m.inStep = false ∨ m.spoilt = true ∧ ¬ split) ∧ v.onRef = false ∧ v.ramping = false
        ∧ v.pllFreq = f ∧ s.isSet (F.railStatusSettled (c / 3)) = true
      (ready → Completes .fmaxStepBegin s fun t =>
        s.Frame t [.health] [] ∧ (s.isSet F.hlthTestActive = true ∨ ¬ split →
          t.health.fmax = { m with inStep := true, spoilt := s.divided c, stepEnd := s.beatIn (1000 * m.dwell)
                                   badEnd := if s.divided c then some (s.beatIn 10000000) else none }))
      ∧ (¬ ready → idle .fmaxStepBegin)
      ∧ ∀ p : BitVec 24,
        let l := m.passing.filter fun n => bitOf p.toNat (n % 24) && !m.out.contains n
        let isDue := s.beatReached m.stepEnd = true
        (st ≠ 2 ∨ m.inStep = false ∨ ¬ up ∨ m.spoilt = true ∨ ¬ isDue → idle (.fmaxStepDone p))
        ∧ (st = 2 → m.inStep = true → up → m.spoilt = false → isDue → Completes (.fmaxStepDone p) s fun t =>
          t.getF F.hlthTestPassMask = p.toNat ∧ t.getF F.hlthFmaxProgFreq = f % 2 ^ 11
          ∧ t.getF F.hlthFmaxProgSteps = min (s.getF F.hlthFmaxProgSteps + 1) 255
          ∧ t.health.fmax.inStep = false ∧ t.health.fmax.passing = l
          ∧ (l ≠ [] → f < 1600 → t.getF F.hlthTestFreq = (f + max 1 m.step) % 2 ^ 11
              ∧ t.getF F.hlthFmaxState = 2)
          ∧ (l = [] ∨ 1600 ≤ f → t.getF F.hlthTestActive = 0
              ∧ (s.selectedFrom (c + 1) = [] → t.getF F.hlthFmaxState = 3)
              ∧ ∀ d rest, s.selectedFrom (c + 1) = d :: rest → t.getF F.hlthFmaxState = 1 ∧ t.getF F.hlthFmaxCluster = d))
        ∧ (st = 2 → up → (∃ b, m.badEnd = some b ∧ s.beatReached b = true) → ends .fmaxStepInvalidTimeout 7)
        ∧ (st ≠ 2 ∨ ¬ up ∨ (∀ b, m.badEnd = some b → s.beatReached b = false) → idle .fmaxStepInvalidTimeout))
    ∧ (∀ c, s.health.copy = some c → c.kind = .fmax → st = 3 → up →
        (s.flash.tripOwned = false → s.copyFits c = true → ends (.fmaxCommit true) 10 ∧ Completes (.fmaxCommit true) s fun t =>
          t.getF F.gctlStatusCalCopy = c.slot % 2 ∧ t.boot.cal = s.boot.cal ∧ t.health.calNext = some c.sections)
        ∧ ∀ ok, ok = false ∨ s.flash.tripOwned = true ∨ s.copyFits c = false → ends (.fmaxCommit ok) 7
          ∧ Completes (.fmaxCommit ok) s fun t => t.getF F.gctlStatusCalCopy = s.getF F.gctlStatusCalCopy
            ∧ t.boot.cal = s.boot.cal ∧ bitOf (t.getF F.hlthEvt) 0 = true)
    ∧ (st ≠ 3 ∨ ¬ up ∨ s.health.copy = none → ∀ ok, idle (.fmaxCommit ok))
    ∧ (st = 4 → up → Completes .fmaxEnd s fun t =>
        t.getF F.hlthFmaxState = 0 ∧ t.getF F.hlthFmaxTimeBeat = s.beat32 ∧ bitOf (t.getF F.hlthEvt) 1 = true
        ∧ t.mailbox.awaitFmax = none ∧ t.getF F.logHeadSeq = (s.getF F.logHeadSeq + 1) % 2 ^ 32)
    ∧ (st ≠ 4 ∨ ¬ up → idle .fmaxEnd)
    ∧ (∀ r, s.serves 0x61 r → (1 ≤ st → st ≤ 3 → ends .fmaxAbort 5) ∧ (st = 0 ∨ 4 ≤ st → Replied .fmaxAbort s r 2 0 []))
    ∧ ∀ r, s.serves 0x62 r → Replied .fmaxStatus s r 0 0 [s.word 0x68420, s.word 0x68424]

/-! ### The sync fabric, chapters 12 and 13 -/

/-- R323, R324, R326 to R332, R338, R339, R341, R342, R345: what each operation of Table 12.4 does to its object, and how it
ends: to complete in the next tick with a status and a value, or waiting with a record, or refused for a full pool and polled.
The words that an operation reads, the record it takes and the values it completes with are the model's readings (log 34), as are
the tick in which a row's operation is applied (log 35), the signaller after a RETURN (log 38) and the answer BUSY (log 76).
Completes: READ, INIT, SIGNAL, WAIT, TRY, ARRIVE, ARRIVE_NW, EV_SET, EV_CLEAR, EV_WAIT, EV_TAKE, PRODUCE, CONSUME, WAIT_DATA,
WAIT_SPACE, REALIGN. -/
def Obligations.SyncOperations : Prop :=
  ∀ (s : State) (q : SyncReq) (rest : List SyncReq) (f : Nat), s.applies q rest f →
    let o := s.obj f
    let sig := some (s.signaller s.dieId q.core q.eng)
    let e := engineOf q.core q.eng
    let opf := q.word % 8
    let taken (t : State) : Prop := t.sync.batch = rest ∧ t.getF F.syncOpsCount = (s.getF F.syncOpsCount + 1) % 2 ^ 32
    let ends (st : Nat) : Prop := Completes (syncCommand q.op) s fun t => taken t ∧ ∃ v, t.owes 1 q.core q.eng st v
    let done (v : Nat) (o' : SyncObj) (bit : Option Nat) : Prop := Completes (syncCommand q.op) s fun t =>
      taken t ∧ t.owes 1 q.core q.eng 0 (some v) ∧ t.obj f = o'
      ∧ ∀ i, bit = some i → bitOf (t.getF F.syncEvt) i = true
    let waits (a : Nat) (o' : SyncObj) (released : Bool) : Prop := Completes (syncCommand q.op) s fun t =>
      taken t ∧ t.obj f = o' ∧ bitOf (t.cpa q.core).swait q.eng = true
      ∧ (released = true → ∃ r ∈ t.sync.releases, r.flat = f)
      ∧ (s.freeRecord ≠ none → ∃ w ∈ t.sync.records, w.flat = f ∧ w.op = q.op ∧ w.core = q.core ∧ w.eng = q.eng
          ∧ w.arg = a ∧ w.slot = none ∧ w.due = none)
      ∧ (s.freeRecord = none → t.getF F.syncFullRefused = min (s.getF F.syncFullRefused + 1) 0xFFFF
          ∧ bitOf (t.getF F.syncEvt) 3 = true ∧ ∃ p ∈ t.sync.polls, engineOf p.core p.eng = e ∧ p.queued = false)
    let fits := o.faulted = false ∧ kindFits q.op o.kind = true ∧ o.kind ≠ 0
    let full := o.parts ≤ o.arr + 1
    let arrived : SyncObj := if full then { o with arr := 0, gen := (o.gen + 1) % 2 ^ 16, last := sig }
      else { o with arr := o.arr + 1, last := sig }
    let fresh := s.staleArrival f q.arg = false
    (2 < q.op → o.faulted = true → ends 7) ∧ (2 < q.op → o.faulted = false → o.kind = 0 → ends 2)
    ∧ (o.faulted = false → o.kind ≠ 0 → kindFits q.op o.kind = false → ends 4)
    ∧ (q.op = 1 → o.faulted = false → (opf = 0 → done (shownValue o) o none) ∧ (opf = 1 → done o.value2 o none)
        ∧ (opf = 2 → done (s.stateWord f) o none) ∧ (opf = 3 → done (o.parts * 2 ^ 16 + o.arr) o none))
    ∧ (q.op = 1 → o.faulted = true → done (if opf = 2 then 2 ^ 28 else 0) { o with word0 := true } none)
    ∧ (q.op = 2 → s.objHeld f = true → ends 2)
    ∧ (q.op = 2 → s.objHeld f = false →
        let v := if opf = 1 ∨ opf = 3 then q.arg else 0
        let p := if opf = 2 ∨ opf = 4 then q.arg else 0
        done 0 { kind := opf, value := v, parts := p, gen := o.gen, rel := o.rel, last := sig } none)
    ∧ (q.op = 3 → fits →
        let n := max 1 q.arg
        let v := o.value + (n - min n (s.waitingCount f 4))
        let m := min v (2 ^ 20 - 1)
        done m { o with value := m, overflow := o.overflow || decide (2 ^ 20 ≤ v), last := sig }
          (if 2 ^ 20 ≤ v then some 2 else none))
    ∧ (q.op = 4 → fits → (0 < o.value → done (o.value - 1) { o with value := o.value - 1 } none)
        ∧ (o.value = 0 → waits 0 o false))
    ∧ (q.op = 5 → fits → (o.kind = 1 → 0 < o.value → done (o.value - 1) { o with value := o.value - 1 } none)
        ∧ (o.kind = 3 → o.value = 1 → done 0 { o with value := 0 } none)
        ∧ (o.kind = 1 → o.value = 0 → ends 1) ∧ (o.kind = 3 → o.value ≠ 1 → ends 1))
    ∧ (q.op = 6 ∨ q.op = 7 ∨ q.op = 16 → fits → ¬ fresh → ends 2)
    ∧ (q.op = 6 → fits → fresh → waits o.gen arrived (decide full))
    ∧ (q.op = 7 → fits → fresh → done o.gen arrived none)
    ∧ (q.op = 8 → fits → (o.value = 1 → done 1 { o with doubleSet := true, last := sig } (some 1))
        ∧ (o.value ≠ 1 → let v := if s.nextDie f 11 = none then 1 else 0
            done v { o with value := v, last := sig } none))
    ∧ (q.op = 9 → fits → done 0 { o with value := 0, last := sig } none)
    ∧ (q.op = 10 → fits → (o.value = 1 → done 1 o none) ∧ (o.value ≠ 1 → waits 0 o false))
    ∧ (q.op = 11 → fits → (o.value = 1 → done 0 { o with value := 0 } none) ∧ (o.value ≠ 1 → waits 0 o false))
    ∧ (q.op = 12 → fits → o.value + q.arg < 2 ^ 31 →
        let v := o.value + q.arg
        let due := o.due || decide (2 ^ s.appliedF F.syncPaircfgRealignExp ≤ v)
        done (flag due * 2 ^ 31 + v) { o with value := v, due := due, last := sig } none)
    ∧ ((q.op = 12 ∧ 2 ^ 31 ≤ o.value + q.arg ∨ q.op = 13 ∧ 2 ^ 31 ≤ o.value2 + q.arg) → fits →
        Completes (syncCommand q.op) s fun t => t.obj f = { o with limit := true } ∧ bitOf (t.getF F.syncEvt) 0 = true
          ∧ ∃ v, t.owes 1 q.core q.eng 2 v)
    ∧ (q.op = 13 → fits → o.value2 + q.arg < 2 ^ 31 →
        (o.value < o.value2 + q.arg → ends 4)
        ∧ (o.value2 + q.arg ≤ o.value →
          done (flag o.due * 2 ^ 31 + (o.value2 + q.arg)) { o with value2 := o.value2 + q.arg, last := sig } none))
    ∧ (q.op = 14 → fits → (q.arg ≤ o.value → done (flag o.due * 2 ^ 31 + o.value) o none)
        ∧ (o.value < q.arg → waits q.arg o false))
    ∧ (q.op = 15 → fits → (q.arg ≤ o.value2 → done (flag o.due * 2 ^ 31 + o.value2) o none)
        ∧ (o.value2 < q.arg → waits q.arg o false))
    ∧ (q.op = 16 → fits → fresh →
        let d := o.value - o.value2
        let due := decide (2 ^ s.appliedF F.syncPaircfgRealignExp ≤ d)
        waits o.gen (if full then { arrived with value := d, value2 := 0, due := due } else arrived) (decide full))

/-- R48, R313, R325, R355, R356, R358, R326, R342, R343: a request that an engine presents is taken when its CLC has served fewer
than four in the tick, and joins the batch, or completes two ticks on; when inactive, malformed or naming no object it completes
with its status; a posted wait answers its engine and holds its slot; COLLECT waits for the slots it names; a refused wait is
reissued in the same rotation; a completion whose tick has come is delivered. In which tick a row's request is taken, applied and
completed is the model's choice (log 35), as are the value of a completion that the rules do not state (log 34), the deadline of a
reissue (log 36) and when a binding counts (log 37).
Completes: SYNC_REQUEST_TAKEN, COLLECT, SYNC_POLL_REISSUE. -/
def Obligations.SyncRequests : Prop :=
  ∀ s : State,
    (∀ (n : Fin 288) (g : Fin 7) (word arg : Word),
      let e := engineOf n.val g.val
      let x := s.lateF (F.syncCorectxCtx n.val)
      let c := clusterOf n.val
      let may := s.fabricRuns = true ∧ s.coreOn n.val = true ∧ s.offline c = false ∧ e ∉ s.sync.outstanding
      let takes := may ∧ s.takenNow c < 4 ∧ (∀ r ∈ s.sync.presented, clusterOf r.core ≠ c)
        ∧ ∀ p ∈ s.sync.polls, clusterOf p.core = c → s.pollReady p = false ∨ p.fault = true
      let served (t : State) : Prop := e ∈ t.sync.outstanding ∧ t.takenNow c = s.takenNow c + 1
        ∧ t.sync.presented = s.sync.presented ∧ Store.read (fun _ => 23) t.sync.lastTaken c = n.val % 24
      let ends (st : Nat) : Prop := Completes (.syncRequestTaken n g word arg) s fun t =>
        served t ∧ t.owes 2 n.val g.val st none ∧ t.sync.batch = s.sync.batch
      let joins (w : Nat) : Prop := Completes (.syncRequestTaken n g word arg) s fun t =>
        served t ∧ t.sync.batch = insertReq (s.requestOf n.val g.val x w arg.toNat) s.sync.batch
      (¬ may → exec (.syncRequestTaken n g word arg) s = .next s)
      ∧ (may → Completes (.syncRequestTaken n g word arg) s fun t =>
          e ∈ t.sync.outstanding ∧ (s.takenNow c ≤ 4 → t.takenNow c ≤ 4))
      ∧ (may → 4 ≤ s.takenNow c → Completes (.syncRequestTaken n g word arg) s fun t =>
          t.sync.presented = s.sync.presented ++ [⟨n.val, g.val, word.toNat, arg.toNat⟩] ∧ t.sync.batch = s.sync.batch)
      ∧ (takes → s.syncActive = false → ends 2)
      ∧ (takes → s.syncActive = true → ∀ st, s.admission x = some st → ends st)
      ∧ (takes → s.syncActive = true → s.admission x = none → bitOf word.toNat 26 = false →
          (word.toNat / 2 ^ 27 = 0 ∨ 17 < word.toNat / 2 ^ 27 → ends 4)
          ∧ (1 ≤ word.toNat / 2 ^ 27 → word.toNat / 2 ^ 27 ≤ 17 → joins word.toNat))
      ∧ (takes → s.syncActive = true → s.admission x = none → bitOf word.toNat 26 = true →
          let vid := bitsOf word.toNat 4 22
          (s.pageOf x (vid / 128) = none → ends 4)
          ∧ ∀ p, s.pageOf x (vid / 128) = some p → s.errorAt 2 (64 * p + vid % 128 / 2) = 0 →
            let f := s.lateF (F.xltEntryFlat p (vid % 128))
            let good := s.lateF (F.xltEntryValid p (vid % 128)) ≠ 0 ∧ f < 18432
            (¬ good → ends 4)
            ∧ (good → 1 ≤ word.toNat / 2 ^ 27 → word.toNat / 2 ^ 27 ≤ 17 →
                joins (word.toNat / 2 ^ 27 * 2 ^ 27 + nativeFields f + word.toNat % 16))))
    ∧ (∀ (q : SyncReq) (rest : List SyncReq), s.sync.batch = q :: rest → s.past q.at_ = true → q.core < 288 → q.eng < 7 →
      q.poll = false → 1 ≤ q.op → q.op ≤ 17 →
      let c := syncCommand q.op
      let ends (st : Nat) : Prop := Completes c s fun t => t.sync.batch = rest ∧ ∃ v, t.owes 1 q.core q.eng st v
      (s.syncActive = false → ends 2)
      ∧ (s.syncActive = true → q.op ≤ 16 → (requestOk q.op q.word q.arg q.core = false ∨ flatOf q.word q.core = none) → ends 4)
      ∧ (∀ f i, s.syncActive = true → requestOk q.op q.word q.arg q.core = true → flatOf q.word q.core = some f →
          postSlot q.word q.arg = some i → q.op ≤ 16 →
          (s.slotState q.core q.eng i ≠ 0 → ends 4)
          ∧ (s.slotState q.core q.eng i = 0 → q.op = 4 → (isPackage f = true → s.hosting = true) →
              (∀ j < 4, s.errorAt 0 (4 * f + j) = 0) → (s.obj f).faulted = false → (s.obj f).kind = 1 →
            (0 < (s.obj f).value → Completes c s fun t => t.owes 1 q.core q.eng 0 (some 1) ∧ t.slotState q.core q.eng i = 2
              ∧ t.obj f = { s.obj f with value := (s.obj f).value - 1 })
            ∧ ((s.obj f).value = 0 → s.freeRecord ≠ none → Completes c s fun t =>
              t.owes 1 q.core q.eng 0 (some 0) ∧ t.slotState q.core q.eng i = 1
              ∧ ∃ w ∈ t.sync.records, w.flat = f ∧ w.op = 4 ∧ w.core = q.core ∧ w.eng = q.eng ∧ w.slot = some i)
            ∧ ((s.obj f).value = 0 → s.freeRecord = none → ends 9)))
      ∧ (q.op = 17 → s.syncActive = true → requestOk 17 q.word q.arg q.core = true → q.word / 16 % 2 ^ 22 = 0 → q.arg < 2 ^ 32 →
          (∀ k ∈ s.sync.collects, ¬ (k.core = q.core ∧ k.eng = q.eng)) →
          let ready (i : Nat) : Prop := 2 ≤ s.slotState q.core q.eng i
          let counted (t : State) : Prop := t.getF F.syncOpsCount = (s.getF F.syncOpsCount + 1) % 2 ^ 32
          ((∃ i < 32, bitOf q.arg i = true ∧ s.slotState q.core q.eng i = 0) → ends 4)
          ∧ ((∀ i < 32, bitOf q.arg i = true → ready i) → q.arg ≠ 0 ∨ bitOf q.word 0 = false → Completes c s fun t =>
            counted t ∧ t.owes 1 q.core q.eng (if (List.range 32).any fun i => bitOf q.arg i && s.slotState q.core q.eng i == 3 then 7 else 0)
              (some q.arg)
            ∧ ∀ i < 32, bitOf q.arg i = true → t.slotState q.core q.eng i = 0)
          ∧ ((∀ i < 32, bitOf q.arg i = true → s.slotState q.core q.eng i = 1) → q.arg ≠ 0 → Completes c s fun t =>
            counted t ∧ t.sync.collects = s.sync.collects ++ [⟨q.core, q.eng, q.arg, bitOf q.word 0⟩]
            ∧ bitOf (t.cpa q.core).swait q.eng = true)))
    ∧ (∀ (n : Fin 288) (g : Fin 7),
      let c := Instr.syncPollReissue n g
      let e := engineOf n.val g.val
      let poll := s.pollOf n.val g.val
      let x := s.lateF (F.syncCorectxCtx n.val)
      (poll = none → exec c s = .next s)
      ∧ ∀ p, poll = some p →
        let ripe := s.fabricRuns = true ∧ p.queued = false ∧ p.due = none
          ∧ s.reached ((p.at_ + max 1 (s.appliedF F.syncPollInterval)) % 2 ^ 54) = true
        let room := s.takenNow (clusterOf n.val) < 4
        let alone := (∀ r ∈ s.sync.presented, clusterOf r.core ≠ clusterOf n.val)
          ∧ ∀ o ∈ s.sync.polls, clusterOf o.core = clusterOf n.val → o = p ∨ s.pollReady o = false ∨ o.fault = true
        (¬ ripe ∨ (p.fault = false ∧ ¬ room) → exec c s = .next s)
        ∧ (ripe → p.fault = true → Completes c s fun t => e ∉ t.sync.outstanding ∧ ∃ v, t.scplOf e = some (7, v))
        ∧ (ripe → p.fault = false → Completes c s fun t =>
          s.takenNow (clusterOf n.val) ≤ 4 → t.takenNow (clusterOf n.val) ≤ 4)
        ∧ (ripe → p.fault = false → room → alone → ∀ st, s.admission x = some st →
            Completes c s fun t => t.owes 2 n.val g.val st none ∧ t.sync.batch = s.sync.batch)
        ∧ (ripe → p.fault = false → room → alone → s.admission x = none → Completes c s fun t =>
          t.takenNow (clusterOf n.val) = s.takenNow (clusterOf n.val) + 1 ∧ t.getF F.syncFullPolls = min (s.getF F.syncFullPolls + 1) 0xFFFF
          ∧ ∃ q ∈ t.sync.batch, q.core = n.val ∧ q.eng = g.val ∧ q.word = p.word ∧ q.arg = p.argw ∧ q.poll = true))
    ∧ ∀ d ∈ s.sync.dues, ∀ v, d.core < 288 → d.eng < 7 → d.value = some v → s.reached d.at_ = true →
      let e := engineOf d.core d.eng
      (∀ x ∈ s.sync.dues, engineOf x.core x.eng = e → x = d) → (∀ w ∈ s.sync.records, engineOf w.core w.eng = e → w.due = none) →
      s.deliverDue.scplOf e = some (d.status, v % 2 ^ 32) ∧ e ∉ s.deliverDue.sync.outstanding ∧ d ∉ s.deliverDue.sync.dues

/-- R69, R313, R326, R333 to R337, R346 to R349: a release pending on an object that comes due releases the waiters of its
generation at once, or, coupled, each cluster at its own tick, told before to the rails that feed it; a message between dies comes
in, and what each does when the next tick applies it, first in its batch. When waiters of a coupled release complete (log 34), the
tick of a message (log 35), what an OPRSP answers and the statuses of the leader (logs 38 and 76) are the model's readings.
Completes: COUPLING_NOTICE, BARRIER_RELEASE, CLUSTER_RELEASE, OPREQ, OPRSP, RELEASE, WITHDRAW, RETURN. -/
def Obligations.SyncReleases : Prop :=
  ∀ s : State, (s.sync.records.map (·.rid)).Nodup →
    (∀ object : Fin 18432,
      let f := object.val
      let gen := (s.obj f).gen
      let ws := s.releasedRecords f gen
      (s.releaseOf f = none → exec (.barrierRelease object) s = .next s ∧ exec (.couplingNotice object) s = .next s)
      ∧ ∀ r, s.releaseOf f = some r →
        (s.reached r.at_ = false → exec (.barrierRelease object) s = .next s)
        ∧ (s.reached r.at_ = true → Completes (.barrierRelease object) s fun t =>
          t.obj f = { s.obj f with rel := gen } ∧ (∀ q ∈ t.sync.releases, q.flat ≠ f)
          ∧ t.getF F.syncRelBarrier = (s.getF F.syncRelBarrier + 1) % 2 ^ 16
          ∧ t.getF F.syncRelCoupled = (if r.coupled then (s.getF F.syncRelCoupled + 1) % 2 ^ 16 else s.getF F.syncRelCoupled)
          ∧ (r.coupled = false → ∀ w ∈ ws, ∀ v ∈ t.sync.records, v.rid ≠ w.rid)
          ∧ (r.coupled = true → ∀ w ∈ ws, (w.slot ≠ none → ∀ v ∈ t.sync.records, v.rid ≠ w.rid)
              ∧ (w.slot = none → s.errorAt 1 (2 * w.rid) = 0 → s.errorAt 1 (2 * w.rid + 1) = 0 →
                ({ w with due := some (s.clusterTick r (clusterOf w.core)), fate := (0, some w.arg), coupled := true, back := false }
                  : Waiter) ∈ t.sync.records)))
        ∧ (let told := r.coupled = true ∧ s.now = (r.at_ + (2 ^ 54 - r.lead)) % 2 ^ 54
          let fed (k : Nat) : Prop := k ∉ r.rails ∧ ((∃ w ∈ ws, w.slot = none ∧ w.core / 72 = k)
            ∨ ∃ p ∈ s.releasedPolls f gen, p.core / 72 = k)
          (¬ told → exec (.couplingNotice object) s = .next s)
          ∧ (told → Completes (.couplingNotice object) s fun t =>
            (∀ k < 4, (fed k → (t.rail k).cplNext = true ∧ (t.rail k).cplLast ≠ none) ∧ (¬ fed k → t.rail k = s.rail k)) ∧ s.Frame t [.rails, .sync] [])))
    ∧ (∀ c : Fin 12, Completes (.clusterRelease c) s fun t =>
        t.sync.records = s.sync.records.filter (fun w => !(w.coupled && clusterOf w.core == c.val && s.dueNow w.due)))
    ∧ (∀ w0 w1 w2 w3 : Word,
      let words := [w0.toNat, w1.toNat, w2.toNat, w3.toNat]
      let comes (type : Nat) (c : Instr) : Prop :=
        let mine := w0.toNat / 2 ^ 28 = type ∧ bitsOf w0.toNat 24 2 = s.dieId ∧ s.portRuns = true
        (¬ mine → exec c s = .next s)
        ∧ (mine → Completes c s fun t => t.sync = { s.sync with inbox := s.sync.inbox ++ [(s.now, words)] } ∧ s.Frame t [.sync] [])
      comes 1 (.opreq w0 w1 w2 w3) ∧ comes 2 (.oprsp w0 w1 w2 w3) ∧ comes 3 (.pkgRelease w0 w1 w2 w3)
      ∧ comes 4 (.pkgWithdraw w0 w1 w2 w3) ∧ comes 5 (.pkgReturn w0 w1 w2 w3))
    ∧ ∀ (w0 w1 w2 w3 : Word) (at_ : Nat), s.portRuns = true →
      let t := s.applyMsg at_ [w0.toNat, w1.toNat, w2.toNat, w3.toNat]
      let m := w0.toNat
      let type := m / 2 ^ 28
      let src := bitsOf m 26 2
      let f := 17920 + bitsOf m 0 9
      let op := w1.toNat / 2 ^ 27
      (type = 1 → t.sync.outAt = s.now
          ∧ ∃ a ∈ t.sync.outbox, a.headD 0 = msgWord0 2 s.dieId src (bitsOf m 15 9) (bitsOf m 12 3) (bitsOf m 0 9)
            ∧ (s.syncActive = false → a.getD 1 0 = 2) ∧ (s.syncActive = true → s.hosting = false → a.getD 1 0 = 8)
            ∧ (s.syncActive = true → s.hosting = true →
                (op = 0 ∨ 16 < op ∨ argsOk op (w1.toNat % 8) (bareArg w1.toNat w2.toNat) = false) → a.getD 1 0 = 4))
      ∧ (type = 2 → let mine (g : Forward) : Prop := g.req.core = bitsOf m 15 9 ∧ g.req.eng = bitsOf m 12 3
        ((∀ g ∈ s.sync.forwards, ¬ mine g) → t = s)
        ∧ (∀ g, (s.sync.forwards.find? fun g => decide (mine g)) = some g →
          let trip := (at_ + (2 ^ 54 - g.sent)) % 2 ^ 54
          t.sync.forwards.map (·.req) = (s.sync.forwards.eraseP fun g => decide (mine g)).map (·.req)
          ∧ (g.void = true → t.sync = { s.sync with forwards := s.sync.forwards.eraseP fun g => decide (mine g) })
          ∧ t.getF F.syncPkgLatLast = satNat 16 trip
          ∧ t.getF F.syncPkgLatMax = if s.getF F.syncPkgLatMax < trip then satNat 16 trip else s.getF F.syncPkgLatMax))
      ∧ (type = 3 → w1.toNat / 2 ^ 28 = 1 → s.waiting f 14 = [] → s.waiting f 15 = [] →
          t.obj f = { s.obj f with gen := w1.toNat % 2 ^ 16 })
      ∧ (type = 3 → w1.toNat / 2 ^ 28 = 2 → (∀ w l, s.waiting f 4 = w :: l → s.errorAt 1 (2 * w.rid) = 0 →
            s.errorAt 1 (2 * w.rid + 1) = 0 → t.leaves w 0 (some 0) false)
          ∧ (s.waiting f 4 = [] → [msgWord0 5 s.dieId src 0 0 (f - 17920), 2 ^ 29, 0, 0] ∈ t.sync.outbox))
      ∧ (type = 3 → w1.toNat / 2 ^ 28 = 6 → ∀ w ∈ s.sync.records, w.flat = f → s.isOpen w = true → t.leaves w 7 none false)
      ∧ (type = 4 → s.Frame t [.sync] []
          ∧ t.sync.pkgWaits = if bitOf w1.toNat 31 then s.sync.pkgWaits.filter (fun w => w.die != src)
              else dropWaiter f (w1.toNat % 256) src s.sync.pkgWaits)
      ∧ (type = 5 → s.hosting = false → t = s)
      ∧ (type = 5 → s.hosting = true → t.getF F.syncPkgErrReturns = min (s.getF F.syncPkgErrReturns + 1) 0xFFFF
          ∧ (w1.toNat / 2 ^ 28 = 2 → (s.obj f).kind = 1 → (s.obj f).faulted = false → s.waitingCount f 4 = 0 →
              (t.obj f).value = min ((s.obj f).value + 1) (2 ^ 20 - 1))
          ∧ (w1.toNat / 2 ^ 28 = 3 → (s.obj f).kind = 3 → (s.obj f).faulted = false → s.nextDie f 11 = none →
              (t.obj f).value = 1 ∧ (t.obj f).doubleSet = (s.obj f).doubleSet))

/-- R313, R354, R355, R357, R359, R360, R362, R363 to R365, R368: the context commands and their results; bindings and
translation entries; the end of an abort walk; a sweep examines 64 records in the tick that begins its interval and in each of the
1,023 after it, and fires the watchdog of each record whose deadline has passed when it is examined; reports and the debug window.
The order of a sweep, and that a new context has fired none, are the model's readings (log 36), as are the pace of a walk, what
clears VALID, and from when a change counts (log 37).
Completes: CREATE, DESTROY, ABORT, ABORT_WALK_END, RESUME, MAP, UNMAP, SET_WD, CORECTX_WRITE, TRANSLATION_ENTRY_WRITE,
WATCHDOG_SWEEP, WDQ_POP, MGP_WDQ_REPORT, DEBUG_SELECT, DEBUG_SNAPSHOT. -/
def Obligations.SyncContexts : Prop :=
  ∀ s : State,
    let result (t : State) (st v : Nat) : Prop := t.getF F.syncCtxResBusy = 0 ∧ t.getF F.syncCtxResDone = 1
      ∧ t.getF F.syncCtxResStatus = st ∧ t.getF F.syncCtxResValue = v
    let answers (c : Instr) (st v : Nat) (P : State → Prop) : Prop := Completes c s fun t => result t st v ∧ P t
    let only (t : State) (l : List Field) : Prop := s.Frame t [.held]
      ([F.syncCtxResBusy, F.syncCtxResDone, F.syncCtxResStatus, F.syncCtxResValue] ++ l)
    let refused (c : Instr) (st : Nat) : Prop := answers c st 0 fun t => only t []
    let ready := s.isSet F.syncCtxResBusy = false ∧ s.fabricRuns = true ∧ s.syncActive = true
    (∀ x : BitVec 10, ∀ c ∈ [Instr.ctxCreate x, .ctxDestroy x, .ctxAbort x, .ctxResume x, .ctxMap x, .ctxUnmap x, .ctxSetWd x],
      (s.isSet F.syncCtxResBusy = true ∨ s.fabricRuns = false → exec c s = .next s)
      ∧ (s.isSet F.syncCtxResBusy = false → s.fabricRuns = true → s.syncActive = false → refused c 2))
    ∧ (∀ x : BitVec 10, ready →
      let n := x.toNat
      let st := s.getF (F.syncCtxAState n)
      let arg := s.getF F.syncCtxArgArg
      let page := (s.pagesOf n).find? fun p => s.getF (F.syncPagePVpn p) == arg % 2 ^ 15
      (st ≠ 0 → refused (.ctxCreate x) 2)
      ∧ (st = 0 → s.wdMs = none → refused (.ctxCreate x) 4)
      ∧ (∀ ms, st = 0 → s.wdMs = some ms → answers (.ctxCreate x) 0 0 fun t => t.getF (F.syncCtxAState n) = 1
          ∧ t.getF (F.syncCtxCWdMs n) = ms % 2 ^ 16 ∧ t.getF (F.syncCtxAAutoFault n) = arg / 2 ^ 31 % 2
          ∧ only t [F.syncCtxAState n, F.syncCtxCWdMs n, F.syncCtxAAutoFault n])
      ∧ (n = 0 → refused (.ctxDestroy x) 8)
      ∧ (n ≠ 0 → (st = 0 ∨ st = 2 ∨ 0 < s.boundTo n ∨ 0 < s.recordsOf n) → refused (.ctxDestroy x) 2)
      ∧ (n ≠ 0 → st ≠ 0 → st ≠ 2 → s.boundTo n = 0 → s.recordsOf n = 0 → answers (.ctxDestroy x) 0 0 fun t =>
          t.getF (F.syncCtxAState n) = 0 ∧ t.getF (F.syncCtxACause n) = 0 ∧ t.pagesOf n = []
          ∧ ∀ p ∈ s.pagesOf n, ∀ i < 128, t.getF (F.xltEntryValid p i) = 0 ∧ t.getF (F.xltEntryFlat p i) = 0)
      ∧ (st = 0 → refused (.ctxAbort x) 2)
      ∧ (st = 1 ∨ st = 2 → Completes (.ctxAbort x) s fun t => t.getF (F.syncCtxAState n) = 2
          ∧ t.getF F.syncCtxResBusy = 1 ∧ t.getF F.syncCtxResDone = 0 ∧ t.getF F.syncCtxResStatus = 1
          ∧ t.getF F.syncCtxResValue = 0
          ∧ (st = 1 → t.getF (F.syncCtxACause n) = 1 ∧ t.sync.walks = s.sync.walks ++ [⟨n, 0, true, s.now⟩])
          ∧ (st = 2 → ∀ w ∈ t.sync.walks, w.ctx = n → w.cmd = true))
      ∧ (3 ≤ st → refused (.ctxAbort x) 0)
      ∧ (st = 3 → answers (.ctxResume x) 0 0 fun t => t.getF (F.syncCtxAState n) = 1 ∧ t.getF (F.syncCtxACause n) = 0
          ∧ only t [F.syncCtxAState n, F.syncCtxACause n])
      ∧ (st ≠ 3 → refused (.ctxResume x) 2)
      ∧ (st = 0 ∨ page ≠ none → refused (.ctxMap x) 2)
      ∧ (st ≠ 0 → page = none → (∀ p < 1024, s.isSet (F.syncPagePMapped p) = true) → refused (.ctxMap x) 9)
      ∧ (∀ p < 1024, st ≠ 0 → page = none → s.isSet (F.syncPagePMapped p) = false →
          (∀ i < p, s.isSet (F.syncPagePMapped i) = true) → answers (.ctxMap x) 0 p fun t =>
          t.getF (F.syncPagePMapped p) = 1 ∧ t.getF (F.syncPagePCtx p) = n ∧ t.getF (F.syncPagePVpn p) = arg % 2 ^ 15
          ∧ ∀ i < 128, t.getF (F.xltEntryValid p i) = 0 ∧ t.getF (F.xltEntryFlat p i) = 0)
      ∧ (page = none → refused (.ctxUnmap x) 4)
      ∧ (∀ p, page = some p → answers (.ctxUnmap x) 0 0 fun t =>
          t.getF (F.syncPagePMapped p) = 0 ∧ t.getF (F.syncPagePCtx p) = 0 ∧ t.getF (F.syncPagePVpn p) = 0
          ∧ only t [F.syncPagePMapped p, F.syncPagePCtx p, F.syncPagePVpn p])
      ∧ (st = 0 → refused (.ctxSetWd x) 2) ∧ (st ≠ 0 → s.wdMs = none → refused (.ctxSetWd x) 4)
      ∧ (∀ ms, st ≠ 0 → s.wdMs = some ms → answers (.ctxSetWd x) 0 0 fun t =>
          t.getF (F.syncCtxCWdMs n) = ms % 2 ^ 16 ∧ t.getF (F.syncCtxAAutoFault n) = arg / 2 ^ 31 % 2
          ∧ t.lateF (F.syncCtxCWdMs n) = s.lateF (F.syncCtxCWdMs n)
          ∧ only t [F.syncCtxCWdMs n, F.syncCtxAAutoFault n]))
    ∧ (∀ x : BitVec 10,
      let walk := s.sync.walks.find? fun w => w.ctx == x.toNat && s.walkOver w
      (walk = none → exec (.abortWalkEnd x) s = .next s)
      ∧ ∀ w, walk = some w → Completes (.abortWalkEnd x) s fun t => t.getF (F.syncCtxAState x.toNat) = 3
        ∧ t.sync.walks = s.sync.walks.filter (fun v => v.ctx != x.toNat)
        ∧ (w.cmd = true → result t 10 0) ∧ (s.running 2 = true → ∀ p ∈ t.mailbox.awaitAbort, p.1 ≠ x.toNat))
    ∧ (∀ (n : Fin 288) (v : Word), let x := v.toNat % 1024
      (s.getF (F.syncCtxAState x) = 0 → exec (.corectxWrite n v) s = .next s)
      ∧ (s.getF (F.syncCtxAState x) ≠ 0 → Completes (.corectxWrite n v) s fun t =>
        t.getF (F.syncCorectxCtx n.val) = x ∧ t.lateF (F.syncCorectxCtx n.val) = s.lateF (F.syncCorectxCtx n.val)
        ∧ s.Frame t [.held] [F.syncCorectxCtx n.val]))
    ∧ (∀ (i : Fin 131072) (v : Word), let p := i.val / 128
      (s.isSet (F.syncPagePMapped p) = false → exec (.translationEntryWrite i v) s = .next s)
      ∧ (s.isSet (F.syncPagePMapped p) = true → Completes (.translationEntryWrite i v) s fun t =>
        t.getF (F.xltEntryValid p (i.val % 128)) = v.toNat / 2 ^ 31 ∧ t.getF (F.xltEntryFlat p (i.val % 128)) = v.toNat % 2 ^ 15
        ∧ t.errorAt 2 (64 * p + i.val % 128 / 2) = 0
        ∧ (s.errorAt 2 (64 * p + i.val % 128 / 2) = 0 → s.Frame t [.held, .ecc] [F.xltEntryValid p (i.val % 128), F.xltEntryFlat p (i.val % 128), F.mpMWbCancelled 2])))
    ∧ (s.begins (intervalKey 6 0) = false → exec .watchdogSweep s = .next s)
    ∧ (let examines (t : State) (k : Nat) : Prop := ∀ w ∈ s.sync.records,
        let late := w.rid / 64 = k ∧ w.fired = false ∧ s.isOpen w = true ∧ s.expired w.deadline = true
        (¬ late → w ∈ t.sync.records)
        ∧ (late → s.errorAt 1 (2 * w.rid) = 0 → s.errorAt 1 (2 * w.rid + 1) = 0 → bitOf (t.getF F.syncCevt) 2 = true
          ∧ (s.isSet (F.syncCtxAAutoFault w.ctx) = false → ({ w with fired := true } : Waiter) ∈ t.sync.records)
          ∧ (s.isSet (F.syncCtxAAutoFault w.ctx) = true → w.due = none → t.leaves w 7 none true)
          ∧ (s.isSet (F.syncCtxAAutoFault w.ctx) = true → w.due ≠ none → w ∈ t.sync.records))
      (s.sync.records.map (·.rid)).Nodup →
        (s.begins (intervalKey 6 0) = true → Completes .watchdogSweep s fun t =>
          (t.interval (intervalKey 6 0)).taken = true ∧ t.sync.sweep.map (·.pos) = some 1 ∧ examines t 0)
        ∧ ∀ k, s.sync.sweep = some k → k.pos ≤ 1023 →
          s.sweepTick.sync.sweep.map (·.pos) = (if k.pos = 1023 then none else some (k.pos + 1)) ∧ examines s.sweepTick k.pos)
    ∧ (s.begins (intervalKey 6 0) = true →
        (∀ w ∈ s.sync.records, 64 ≤ w.rid ∨ w.fired = true ∨ s.isOpen w = false ∨ s.expired w.deadline = false) →
        Completes .watchdogSweep s fun t => t.sync = { s.sync with sweep := some { pos := 1, reports := [] } }
          ∧ s.Frame t [.intervals, .sync] [])
    ∧ (∀ v : Word, (v.toNat % 2 = 1 → Completes (.wdqPop v) s fun t =>
          t.sync = { s.sync with hostQ := s.sync.hostQ.tail } ∧ s.Frame t [.sync] [])
        ∧ (v.toNat % 2 = 0 → exec (.wdqPop v) s = .next s))
    ∧ (s.running 2 = false ∨ s.sync.mgpQ = [] → exec .mgpWdqReport s = .next s)
    ∧ (∀ r l, s.running 2 = true → s.sync.mgpQ = r :: l → s.getF F.logHeadSeq < 2 ^ 32 → Completes .mgpWdqReport s fun t =>
        t.sync = { s.sync with mgpQ := l } ∧ t.getF F.logHeadSeq = (s.getF F.logHeadSeq + 1) % 2 ^ 32
        ∧ (t.logRecord (s.getF F.logHeadSeq)).origin = 3 * 2 ^ 28 + 3 * 2 ^ 24 + s.time.tick * 2 ^ 16 + 8)
    ∧ (∀ v : Word, Completes (.debugSelect v) s fun t => t.getF F.dbgSelObject = v.toNat % 2 ^ 15
        ∧ t.getF F.dbgStatusBusy = 1 ∧ t.getF F.dbgStatusValid = 0 ∧ t.sync = { s.sync with dbgAt := some s.now }
        ∧ s.Frame t [.sync] [F.dbgSelObject, F.dbgStatusBusy, F.dbgStatusValid])
    ∧ ((s.sync.dbgAt = none ∨ s.fabricRuns = false ∨ ∃ n, s.sync.dbgAt = some n ∧ s.past n = false) → exec .debugSnapshot s = .next s)
    ∧ ∀ n, s.sync.dbgAt = some n → s.past n = true → s.fabricRuns = true →
        let f := s.getF F.dbgSelObject
        (∀ i < 4, s.errorAt 0 (4 * f + i) = 0) → (s.obj f).faulted = false → f < 18432 →
        (isPackage f = true → s.hosting = true) → Completes .debugSnapshot s fun t =>
          t.getF F.dbgStatusBusy = 0 ∧ t.getF F.dbgStatusValid = 1 ∧ t.getF F.dbgStatusObject = f ∧ t.sync.dbgAt = none
          ∧ t.getF F.dbgStateWord = s.stateWord f % 2 ^ 32 ∧ t.getF F.dbgValueValue = shownValue (s.obj f) % 2 ^ 31
          ∧ t.getF F.dbgWaitersCount = (s.sync.records.filter (·.flat == f)).length % 2 ^ 17 ∧ t.obj f = s.obj f

/-! ### The block as a whole -/

/-- A step runs the command at the front of the queue, with the rest of the queue left in the state; on an empty queue the
block idles (the model's choice, log 2). -/
def Obligations.StepRunsFront : Prop :=
  ∀ s : State, (∀ c rest, s.pending = c :: rest → step s = exec c { s with pending := rest })
    ∧ (∀ c, step { s with pending := c :: s.pending } = exec c s) ∧ (s.pending = [] → step s = .next s)

/-- What reset leaves, Tables 0.7, 3.7, 4.12, 6.6, 7.6, 9.9, 10.7, 11.7, 12.7, 13.5, 14.10, 15.15 and R65, R90: BEAT_COUNT and
the trip outputs; registers of each of those tables; nothing waiting, every store canonical. -/
def Obligations.ResetState : Prop :=
  State.reset.Canonical ∧ State.reset.pending = [] ∧ State.reset.beat = 0 ∧ State.reset.pins.thermTrip = false
  ∧ State.reset.pins.pwrOff = false ∧ State.reset.mailbox.queue = [] ∧ State.reset.sync.records = []
  ∧ (∀ x ∈ [(F.idVersionArchMajor, 2), (F.idConfigClusters, 12), (F.idConfigCores, 288), (F.clkBusdivFdiv, 8),
      (F.tbSyncFreqUsed, 1000), (F.tbStatusSubst, 1), (F.tbStatusOnOsc, 1), (F.rstLastKind, 1), (F.gctlModeCurrent, 0),
      (F.gctlEnable, 0), (F.clcThreshNotice, 20), (F.clcThreshShoe, 35), (F.clcThreshHard, 55), (F.pwrOvrSlots, 32),
      (F.pwrLimBPGrant, 0xFFFF), (F.budPbpCfgSilentGrant, 6400), (F.thmLimALogicTrip, 118 * 64), (F.thmLimBDramTrip, 110 * 64),
      (F.thmPlausBrokenN, 4), (F.modelCfgHorizon, 8), (F.modelLaw2Settle, 20), (F.domWakeCfgDebounce, 16),
      (F.syncPaircfgRealignExp, 24), (F.syncWdcfgDefaultMs, 2000), (F.mbxHbToMs, 5000), (F.logCfgMirrorSev, 3),
      (F.fwWdtTimeoutMs, 500), (F.fwUpdSession, 255), (F.modelStatusState, 0), (F.mbxQueueDepth, 0)],
      State.reset.getF x.1 = x.2)
  ∧ (∀ d < 96, domState State.reset d = 0) ∧ (∀ ch < 32, State.reset.channelFull ch = false)

/-- R381: channels 28 to 31 answer every host access with an error completion and keep what they hold; their binding entries
read 0xFFFF_FFFF from reset on, whatever host software writes. -/
def Obligations.UnreachableChannels : Prop :=
  (∀ (s : State) (m : Master) (ch : Fin 32), 28 ≤ ch.val →
    (∀ c ∈ [Instr.mailboxGo (.host m) ch, .mailboxDone (.host m) ch], exec c s
      = .next { s with port := { s.port with value := 0, error := true } })
    ∧ (∀ w v, exec (.mailboxWordWrite (.host m) ch w v) s = .next { s with port := { s.port with value := 0, error := true } })
    ∧ (∀ (off : Offset) (v : Word), off.toNat % 4 = 0 → channelOf off.toNat = some ch.val →
        ∀ c ∈ [Instr.registerWrite m off v, .write64LowWord m off v, .write64HighWord m off v, .read64LowWord m off,
          .read64HighWord m off], exec c s = .next { s with port := { s.port with value := 0, error := true } }))
  ∧ (∀ ch, 28 ≤ ch → ch < 32 → State.reset.word (0x30200 + 4 * ch) = 0xFFFFFFFF)
  ∧ ∀ (s : State) (m : Master) (off : Offset) (v : Word) (ch : Nat), 28 ≤ ch → ch < 32 → off.toNat = 0x30200 + 4 * ch →
    Completes (.registerWrite m off v) s (fun t => t.word off.toNat = s.word off.toNat)
    ∧ (s.word off.toNat = 0xFFFFFFFF → ∀ c ∈ [Instr.read64LowWord m off, .read64HighWord m off], Completes c s fun t =>
        t.port.value = 0xFFFFFFFF ∧ t.port.error = false ∧ s.Frame t [.port] [])

/-- R65, R85, R90: once asserted, THERMTRIP_N and PWR_OFF_REQ stay asserted through every command but a cold reset; BEAT_COUNT
changes only by one, and only in a command that can start a beat; the straps are sampled at cold resets alone. -/
def Obligations.TripLatchAndBeatCount : Prop :=
  ∀ (c : Instr) (s t : State), exec c s = .next t →
    (∀ n x, c ≠ .coldReset n x) → (∀ n x, c ≠ .supplyMonitorReset n x) →
    (s.pins.thermTrip = true → t.pins.thermTrip = true) ∧ (s.pins.pwrOff = true → t.pins.pwrOff = true)
    ∧ t.pins.straps = s.pins.straps
    ∧ (t.time.beat = s.time.beat ∨ t.time.beat = s.time.beat + 1)
    ∧ (t.time.beat ≠ s.time.beat → c = .syncWindowClose ∨ c = .substituteBeatStart ∨ ∃ n, c = .syncInEdge n)

/-- Every command completes, from every state and with every operand: each of the 273 constructors of `Instr`, those of the
mailbox, of its requests and of GCTL.ENABLE included, has a next state; it leaves the waiting commands as they are, and changes
no part of the state outside its footprint. -/
def Obligations.EveryCommandCompletes : Prop :=
  ∀ (c : Instr) (s : State), Completes c s fun t => t.pending = s.pending ∧ ∀ x, x ∉ footprint c → s.same t x

/-- Every step takes the front command off the queue and keeps the register file, and the values in force of the staged
registers, in canonical form: one entry for each field that differs from its reset value, in order. -/
def Obligations.StepKeepsCanonical : Prop :=
  ∀ s t : State, step s = .next t → t.pending = s.pending.tail ∧ (s.Canonical → t.Canonical)

end
end

