-- ==== Sys2Proof/Laws/Kept.lean ====
section
/-! SUPPORT. What the parts of the state keep under a change of one of them: the relation `State.Kept` is reflexive, and a
change of one part keeps the others. -/
namespace Sys2Proof.Machine

variable {pp : Part → Bool} {zz s : State}

/-- The number of a part. -/
def Part.bit : Part → Nat
  | .fields => 0 | .applied => 1 | .time => 2 | .port => 3 | .pins => 4 | .logRam => 5 | .mailbox => 6 | .flash => 7
  | .boot => 8 | .trip => 9 | .supply => 10 | .rails => 11 | .phases => 12 | .clcs => 13 | .cpas => 14 | .doms => 15
  | .away => 16 | .cap => 17 | .links => 18 | .therm => 19 | .model => 20 | .sync => 21 | .ecc => 22 | .pmbus => 23
  | .jtag => 24 | .procs => 25 | .update => 26 | .health => 27 | .intervals => 28 | .free => 29 | .beat => 30
  | .straps => 31 | .trips => 32 | .held => 33

/-- The parts whose bits a number has may change. -/
def Has (p : Part → Bool) (m : Nat) : Prop := ∀ x : Part, m.testBit x.bit = true → p x = true

theorem Has.mono {a b : Nat} (hp : Has pp b) (h : a &&& b = a) : Has pp a := fun x hx => hp x (by
  rw [← h, Nat.testBit_and] at hx
  simpa using (Bool.and_eq_true _ _ ▸ hx).2)

theorem Has.get {m : Nat} (hp : Has pp m) (x : Part) (h : m.testBit x.bit = true) : pp x = true := hp x h

theorem Kept.ite {c : Prop} [Decidable c] {a b : State} (ha : zz.Kept pp a) (hb : zz.Kept pp b) :
    zz.Kept pp (if c then a else b) := by split <;> assumption

theorem OKept.ite {c : Prop} [Decidable c] {a b : Outcome} (ha : Outcome.Kept pp zz a) (hb : Outcome.Kept pp zz b) :
    Outcome.Kept pp zz (if c then a else b) := by split <;> assumption

theorem Kept.ofSnd {α : Type} {x : α × State} {a : α} {t : State} (h : zz.Kept pp x.2) (e : x = (a, t)) : zz.Kept pp t := by
  subst e; exact h

theorem Kept.ofSnd2 {α β : Type} {x : α × β × State} {a : α} {b : β} {t : State} (h : zz.Kept pp x.2.2) (e : x = (a, b, t)) :
    zz.Kept pp t := by subst e; exact h

theorem Kept.ofFst {α : Type} {x : State × α} {a : α} {t : State} (h : zz.Kept pp x.1) (e : x = (t, a)) : zz.Kept pp t := by
  subst e; exact h

/-- A state answered, if one is, keeps these parts. -/
def OptKept (p : Part → Bool) (s : State) (o : Option State) : Prop := ∀ t, o = some t → s.Kept p t

theorem OptKept.get {o : Option State} {t : State} (h : OptKept pp zz o) (e : o = Option.some t) : zz.Kept pp t := h t e

theorem OptKept.some {t : State} (h : zz.Kept pp t) : OptKept pp zz (Option.some t) := fun u e => by
  cases e; exact h

theorem OptKept.none : OptKept pp zz Option.none := fun t e => absurd e (Option.some_ne_none t).symm

theorem OptKept.map {α : Type} {o : Option α} {f : α → State} (h : ∀ a, zz.Kept pp (f a)) : OptKept pp zz (o.map f) := by
  cases o with
  | none => exact OptKept.none
  | some a => exact OptKept.some (h a)

theorem OptKept.ite {c : Prop} [Decidable c] {a b : Option State} (ha : OptKept pp zz a) (hb : OptKept pp zz b) :
    OptKept pp zz (if c then a else b) := by split <;> assumption

theorem Kept.foldl {α : Type} (l : List α) (f : State → α → State) (a : State)
    (hf : ∀ t x, zz.Kept pp t → zz.Kept pp (f t x)) (h : zz.Kept pp a) : zz.Kept pp (l.foldl f a) := by
  induction l generalizing a with
  | nil => exact h
  | cons x l ih => exact ih _ (hf a x h)

theorem Kept.foldlFst {α β : Type} (l : List α) (f : State × β → α → State × β) (a : State × β)
    (hf : ∀ t x, zz.Kept pp t.1 → zz.Kept pp (f t x).1) (h : zz.Kept pp a.1) : zz.Kept pp (l.foldl f a).1 := by
  induction l generalizing a with
  | nil => exact h
  | cons x l ih => exact ih _ (hf a x h)

theorem Kept.foldlSnd {α β : Type} (l : List α) (f : β × State → α → β × State) (a : β × State)
    (hf : ∀ t x, zz.Kept pp t.2 → zz.Kept pp (f t x).2) (h : zz.Kept pp a.2) : zz.Kept pp (l.foldl f a).2 := by
  induction l generalizing a with
  | nil => exact h
  | cons x l ih => exact ih _ (hf a x h)

theorem Outcome.Kept.next {t : State} (h : zz.Kept pp t) : Outcome.Kept pp zz (.next t) := h

theorem Outcome.Kept.after {o : Outcome} {t : State} (ho : Outcome.Kept pp zz o) (h : zz.Kept pp t) : zz.Kept pp (o.after t) := by
  cases o <;> first | exact ho | exact h

theorem Store.erase_keys {α : Type} (m : Store α) (k : Nat) : ∀ q ∈ Store.erase m k, q ∈ m ∧ q.1 ≠ k := by
  induction m with
  | nil => simp [Store.erase]
  | cons a m ih =>
    obtain ⟨j, v⟩ := a
    intro q hq
    unfold Store.erase at hq
    split at hq
    · exact ⟨List.mem_cons_of_mem _ (ih q hq).1, (ih q hq).2⟩
    · rcases List.mem_cons.1 hq with h | h
      · subst h; exact ⟨List.mem_cons_self .., fun h => by simp_all⟩
      · exact ⟨List.mem_cons_of_mem _ (ih q h).1, (ih q h).2⟩

theorem Store.erase_wf {α : Type} {d : Nat → α} {m : Store α} (h : Store.wf d m) (k : Nat) : Store.wf d (Store.erase m k) := by
  refine ⟨?_, fun q hq => h.2 q (Store.erase_keys m k q hq).1⟩
  have hp := h.1
  clear h
  induction m with
  | nil => simp [Store.erase]
  | cons a m ih =>
    obtain ⟨j, v⟩ := a
    unfold Store.erase
    split
    · exact ih hp.tail
    · exact List.pairwise_cons.2 ⟨fun q hq => (List.pairwise_cons.1 hp).1 q (Store.erase_keys m k q hq).1, ih hp.tail⟩

theorem Store.insert_mem {α : Type} (m : Store α) (k : Nat) (w : α) : ∀ q ∈ Store.insert m k w, q = (k, w) ∨ q ∈ m := by
  induction m with
  | nil => simp [Store.insert]
  | cons a m ih =>
    obtain ⟨j, v⟩ := a
    intro q hq
    unfold Store.insert at hq
    split at hq
    · simpa using hq
    · split at hq
      · rcases List.mem_cons.1 hq with h | h
        · exact .inl h
        · exact .inr (List.mem_cons_of_mem _ h)
      · rcases List.mem_cons.1 hq with h | h
        · exact .inr (h ▸ List.mem_cons_self ..)
        · exact (ih q h).imp_right (List.mem_cons_of_mem _)

theorem Store.insert_wf {α : Type} {d : Nat → α} {m : Store α} (h : Store.wf d m) {k : Nat} {w : α} (hw : w ≠ d k) :
    Store.wf d (Store.insert m k w) := by
  refine ⟨?_, fun q hq => (Store.insert_mem m k w q hq).elim (fun e => by simpa [e] using hw) (h.2 q)⟩
  have hp := h.1
  clear h
  induction m with
  | nil => simp [Store.insert]
  | cons a m ih =>
    obtain ⟨j, v⟩ := a
    have h1 := (List.pairwise_cons.1 hp).1
    unfold Store.insert
    split
    · refine List.pairwise_cons.2 ⟨fun q hq => ?_, hp⟩
      rcases List.mem_cons.1 hq with h | h
      · subst h; assumption
      · exact Nat.lt_trans ‹_› (h1 q h)
    · split
      · subst k; exact List.pairwise_cons.2 ⟨h1, hp.tail⟩
      · refine List.pairwise_cons.2 ⟨fun q hq => ?_, ih hp.tail⟩
        rcases Store.insert_mem m k w q hq with h | h
        · subst h; show j < k; omega
        · exact h1 q h

/-- A write keeps the canonical form. -/
theorem Store.write_wf {α : Type} [DecidableEq α] {d : Nat → α} {m : Store α} (h : Store.wf d m) (k : Nat) (w : α) :
    Store.wf d (Store.write d m k w) := by
  unfold Store.write
  split
  · exact Store.erase_wf h k
  · exact Store.insert_wf h ‹_›

theorem Store.filter_wf {α : Type} {d : Nat → α} {m : Store α} (h : Store.wf d m) (f : Nat × α → Bool) :
    Store.wf d (m.filter f) :=
  ⟨h.1.filter f, fun q hq => h.2 q (List.mem_filter.1 hq).1⟩

theorem Store.foldl_write_wf {α β : Type} [DecidableEq α] {d : Nat → α} (l : List β) (k : β → Nat) (w : β → α) :
    ∀ {m : Store α}, Store.wf d m → Store.wf d (l.foldl (fun m b => Store.write d m (k b) (w b)) m) := by
  induction l with
  | nil => exact fun h => h
  | cons b l ih => exact fun h => ih (Store.write_wf h _ _)

theorem State.Kept.refl (s : State) : s.Kept pp s :=
  ⟨rfl, id, fun x _ => by cases x <;> first | rfl | exact ⟨id, id⟩⟩

theorem State.Kept.trans {t u : State} (h : s.Kept pp t) (k : t.Kept pp u) : s.Kept pp u :=
  ⟨k.1.trans h.1, k.2.1 ∘ h.2.1, fun x hx => by
    have a := h.2.2 x hx
    have b := k.2.2 x hx
    cases x <;> first | exact b.trans a | exact ⟨b.1 ∘ a.1, b.2 ∘ a.2⟩⟩

/-- A change of the register file alone. -/
theorem State.Kept.fields (hp : pp .fields = true) (h : zz.Kept pp s) {m : Store Nat}
    (hm : Store.wf resetOf s.fields → Store.wf resetOf m) : zz.Kept pp { s with fields := m } :=
  ⟨h.1, fun c => ⟨hm (h.2.1 c).1, (h.2.1 c).2⟩, fun x hx => by
    cases x <;> first | exact Bool.noConfusion (hp.symm.trans hx) | exact h.2.2 _ hx⟩

/-- A change of the values in force alone. -/
theorem State.Kept.applied (hp : pp .applied = true) (h : zz.Kept pp s) {m : Store Nat}
    (hm : Store.wf resetOf s.applied → Store.wf resetOf m) : zz.Kept pp { s with applied := m } :=
  ⟨h.1, fun c => ⟨(h.2.1 c).1, hm (h.2.1 c).2⟩, fun x hx => by
    cases x <;> first | exact Bool.noConfusion (hp.symm.trans hx) | exact h.2.2 _ hx⟩

/-- A change of the time base that keeps BEAT_COUNT, or may change it. -/
theorem State.Kept.time (hp : pp .time = true) (h : zz.Kept pp s) {v : TimeBase}
    (hv : pp .beat = true ∨ v.beat = s.time.beat) : zz.Kept pp { s with time := v } :=
  ⟨h.1, h.2.1, fun x hx => by
    cases x
    all_goals first
      | exact Bool.noConfusion (hp.symm.trans hx)
      | exact h.2.2 _ hx
      | exact (hv.elim (fun e => Bool.noConfusion (e.symm.trans hx)) (·.trans (h.2.2 .beat hx)))⟩

/-- A change of the pins that keeps the straps and what a trip asserts. -/
theorem State.Kept.pins (hp : pp .pins = true) (h : zz.Kept pp s) {v : Pins} (hs : v.straps = s.pins.straps)
    (ht : s.pins.thermTrip = true → v.thermTrip = true) (ho : s.pins.pwrOff = true → v.pwrOff = true) :
    zz.Kept pp { s with pins := v } :=
  ⟨h.1, h.2.1, fun x hx => by
    cases x
    all_goals first
      | exact Bool.noConfusion (hp.symm.trans hx)
      | exact h.2.2 _ hx
      | exact hs.trans (h.2.2 .straps hx)
      | exact ⟨ht ∘ (h.2.2 .trips hx).1, ho ∘ (h.2.2 .trips hx).2⟩⟩

theorem State.Kept.port (hp : pp .port = true) (h : zz.Kept pp s) (v : HostPort) : zz.Kept pp { s with port := v } :=
  ⟨h.1, h.2.1, fun x hx => by cases x <;> first | exact Bool.noConfusion (hp.symm.trans hx) | exact h.2.2 _ hx⟩

theorem State.Kept.logRam (hp : pp .logRam = true) (h : zz.Kept pp s) (v : LogRam) : zz.Kept pp { s with logRam := v } :=
  ⟨h.1, h.2.1, fun x hx => by cases x <;> first | exact Bool.noConfusion (hp.symm.trans hx) | exact h.2.2 _ hx⟩

theorem State.Kept.mailbox (hp : pp .mailbox = true) (h : zz.Kept pp s) (v : Mailbox) : zz.Kept pp { s with mailbox := v } :=
  ⟨h.1, h.2.1, fun x hx => by cases x <;> first | exact Bool.noConfusion (hp.symm.trans hx) | exact h.2.2 _ hx⟩

theorem State.Kept.flash (hp : pp .flash = true) (h : zz.Kept pp s) (v : Flash) : zz.Kept pp { s with flash := v } :=
  ⟨h.1, h.2.1, fun x hx => by cases x <;> first | exact Bool.noConfusion (hp.symm.trans hx) | exact h.2.2 _ hx⟩

theorem State.Kept.boot (hp : pp .boot = true) (h : zz.Kept pp s) (v : Boot) : zz.Kept pp { s with boot := v } :=
  ⟨h.1, h.2.1, fun x hx => by cases x <;> first | exact Bool.noConfusion (hp.symm.trans hx) | exact h.2.2 _ hx⟩

theorem State.Kept.trip (hp : pp .trip = true) (h : zz.Kept pp s) (v : Trip) : zz.Kept pp { s with trip := v } :=
  ⟨h.1, h.2.1, fun x hx => by cases x <;> first | exact Bool.noConfusion (hp.symm.trans hx) | exact h.2.2 _ hx⟩

theorem State.Kept.supply (hp : pp .supply = true) (h : zz.Kept pp s) (v : Supply) : zz.Kept pp { s with supply := v } :=
  ⟨h.1, h.2.1, fun x hx => by cases x <;> first | exact Bool.noConfusion (hp.symm.trans hx) | exact h.2.2 _ hx⟩

theorem State.Kept.rails (hp : pp .rails = true) (h : zz.Kept pp s) (v : Store Rail) : zz.Kept pp { s with rails := v } :=
  ⟨h.1, h.2.1, fun x hx => by cases x <;> first | exact Bool.noConfusion (hp.symm.trans hx) | exact h.2.2 _ hx⟩

theorem State.Kept.phases (hp : pp .phases = true) (h : zz.Kept pp s) (v : Store Phase) : zz.Kept pp { s with phases := v } :=
  ⟨h.1, h.2.1, fun x hx => by cases x <;> first | exact Bool.noConfusion (hp.symm.trans hx) | exact h.2.2 _ hx⟩

theorem State.Kept.clcs (hp : pp .clcs = true) (h : zz.Kept pp s) (v : Store Clc) : zz.Kept pp { s with clcs := v } :=
  ⟨h.1, h.2.1, fun x hx => by cases x <;> first | exact Bool.noConfusion (hp.symm.trans hx) | exact h.2.2 _ hx⟩

theorem State.Kept.cpas (hp : pp .cpas = true) (h : zz.Kept pp s) (v : Store Cpa) : zz.Kept pp { s with cpas := v } :=
  ⟨h.1, h.2.1, fun x hx => by cases x <;> first | exact Bool.noConfusion (hp.symm.trans hx) | exact h.2.2 _ hx⟩

theorem State.Kept.doms (hp : pp .doms = true) (h : zz.Kept pp s) (v : Store Dom) : zz.Kept pp { s with doms := v } :=
  ⟨h.1, h.2.1, fun x hx => by cases x <;> first | exact Bool.noConfusion (hp.symm.trans hx) | exact h.2.2 _ hx⟩

theorem State.Kept.away (hp : pp .away = true) (h : zz.Kept pp s) (v : Bool) : zz.Kept pp { s with away := v } :=
  ⟨h.1, h.2.1, fun x hx => by cases x <;> first | exact Bool.noConfusion (hp.symm.trans hx) | exact h.2.2 _ hx⟩

theorem State.Kept.cap (hp : pp .cap = true) (h : zz.Kept pp s) (v : Cap) : zz.Kept pp { s with cap := v } :=
  ⟨h.1, h.2.1, fun x hx => by cases x <;> first | exact Bool.noConfusion (hp.symm.trans hx) | exact h.2.2 _ hx⟩

theorem State.Kept.links (hp : pp .links = true) (h : zz.Kept pp s) (v : Links) : zz.Kept pp { s with links := v } :=
  ⟨h.1, h.2.1, fun x hx => by cases x <;> first | exact Bool.noConfusion (hp.symm.trans hx) | exact h.2.2 _ hx⟩

theorem State.Kept.therm (hp : pp .therm = true) (h : zz.Kept pp s) (v : Therm) : zz.Kept pp { s with therm := v } :=
  ⟨h.1, h.2.1, fun x hx => by cases x <;> first | exact Bool.noConfusion (hp.symm.trans hx) | exact h.2.2 _ hx⟩

theorem State.Kept.model (hp : pp .model = true) (h : zz.Kept pp s) (v : Model) : zz.Kept pp { s with model := v } :=
  ⟨h.1, h.2.1, fun x hx => by cases x <;> first | exact Bool.noConfusion (hp.symm.trans hx) | exact h.2.2 _ hx⟩

theorem State.Kept.sync (hp : pp .sync = true) (h : zz.Kept pp s) (v : Sync) : zz.Kept pp { s with sync := v } :=
  ⟨h.1, h.2.1, fun x hx => by cases x <;> first | exact Bool.noConfusion (hp.symm.trans hx) | exact h.2.2 _ hx⟩

theorem State.Kept.ecc (hp : pp .ecc = true) (h : zz.Kept pp s) (v : Ecc) : zz.Kept pp { s with ecc := v } :=
  ⟨h.1, h.2.1, fun x hx => by cases x <;> first | exact Bool.noConfusion (hp.symm.trans hx) | exact h.2.2 _ hx⟩

theorem State.Kept.pmbus (hp : pp .pmbus = true) (h : zz.Kept pp s) (v : Pmbus) : zz.Kept pp { s with pmbus := v } :=
  ⟨h.1, h.2.1, fun x hx => by cases x <;> first | exact Bool.noConfusion (hp.symm.trans hx) | exact h.2.2 _ hx⟩

theorem State.Kept.jtag (hp : pp .jtag = true) (h : zz.Kept pp s) (v : Jtag) : zz.Kept pp { s with jtag := v } :=
  ⟨h.1, h.2.1, fun x hx => by cases x <;> first | exact Bool.noConfusion (hp.symm.trans hx) | exact h.2.2 _ hx⟩

theorem State.Kept.procs (hp : pp .procs = true) (h : zz.Kept pp s) (v : Procs) : zz.Kept pp { s with procs := v } :=
  ⟨h.1, h.2.1, fun x hx => by cases x <;> first | exact Bool.noConfusion (hp.symm.trans hx) | exact h.2.2 _ hx⟩

theorem State.Kept.update (hp : pp .update = true) (h : zz.Kept pp s) (v : Update) : zz.Kept pp { s with update := v } :=
  ⟨h.1, h.2.1, fun x hx => by cases x <;> first | exact Bool.noConfusion (hp.symm.trans hx) | exact h.2.2 _ hx⟩

theorem State.Kept.health (hp : pp .health = true) (h : zz.Kept pp s) (v : Health) : zz.Kept pp { s with health := v } :=
  ⟨h.1, h.2.1, fun x hx => by cases x <;> first | exact Bool.noConfusion (hp.symm.trans hx) | exact h.2.2 _ hx⟩

theorem State.Kept.intervals (hp : pp .intervals = true) (h : zz.Kept pp s) (v : Store Interval) : zz.Kept pp { s with intervals := v } :=
  ⟨h.1, h.2.1, fun x hx => by cases x <;> first | exact Bool.noConfusion (hp.symm.trans hx) | exact h.2.2 _ hx⟩

theorem State.Kept.held (hp : pp .held = true) (h : zz.Kept pp s) (v : Held) : zz.Kept pp { s with held := v } :=
  ⟨h.1, h.2.1, fun x hx => by cases x <;> first | exact Bool.noConfusion (hp.symm.trans hx) | exact h.2.2 _ hx⟩

theorem State.Kept.free (hp : pp .free = true) (h : zz.Kept pp s) (v : Nat) : zz.Kept pp { s with free := v } :=
  ⟨h.1, h.2.1, fun x hx => by cases x <;> first | exact Bool.noConfusion (hp.symm.trans hx) | exact h.2.2 _ hx⟩

theorem State.Kept.cap_links (h0 : pp .cap = true) (h1 : pp .links = true) (h : zz.Kept pp s)
    {v0 : Cap} {v1 : Links} :
    zz.Kept pp { s with cap := v0, links := v1 } :=
  State.Kept.links h1 (State.Kept.cap h0 h v0) v1

theorem State.Kept.boot_health (h0 : pp .boot = true) (h1 : pp .health = true) (h : zz.Kept pp s)
    {v0 : Boot} {v1 : Health} :
    zz.Kept pp { s with boot := v0, health := v1 } :=
  State.Kept.health h1 (State.Kept.boot h0 h v0) v1

theorem State.Kept.flash_procs_update_health (h0 : pp .flash = true) (h1 : pp .procs = true) (h2 : pp .update = true) (h3 : pp .health = true) (h : zz.Kept pp s)
    {v0 : Flash} {v1 : Procs} {v2 : Update} {v3 : Health} :
    zz.Kept pp { s with flash := v0, procs := v1, update := v2, health := v3 } :=
  State.Kept.health h3 (State.Kept.update h2 (State.Kept.procs h1 (State.Kept.flash h0 h v0) v1) v2) v3

theorem State.Kept.boot_update (h0 : pp .boot = true) (h1 : pp .update = true) (h : zz.Kept pp s)
    {v0 : Boot} {v1 : Update} :
    zz.Kept pp { s with boot := v0, update := v1 } :=
  State.Kept.update h1 (State.Kept.boot h0 h v0) v1

theorem State.Kept.cap_links_model (h0 : pp .cap = true) (h1 : pp .links = true) (h2 : pp .model = true) (h : zz.Kept pp s)
    {v0 : Cap} {v1 : Links} {v2 : Model} :
    zz.Kept pp { s with cap := v0, links := v1, model := v2 } :=
  State.Kept.model h2 (State.Kept.links h1 (State.Kept.cap h0 h v0) v1) v2

theorem State.Kept.fields_boot (h0 : pp .fields = true) (h1 : pp .boot = true) (h : zz.Kept pp s)
    {v0 : Store Nat} {v1 : Boot} (hm : Store.wf resetOf s.fields → Store.wf resetOf v0) :
    zz.Kept pp { s with fields := v0, boot := v1 } :=
  State.Kept.boot h1 (State.Kept.fields h0 h hm) v1

theorem State.Kept.cap_model (h0 : pp .cap = true) (h1 : pp .model = true) (h : zz.Kept pp s)
    {v0 : Cap} {v1 : Model} :
    zz.Kept pp { s with cap := v0, model := v1 } :=
  State.Kept.model h1 (State.Kept.cap h0 h v0) v1

theorem State.Kept.model_health (h0 : pp .model = true) (h1 : pp .health = true) (h : zz.Kept pp s)
    {v0 : Model} {v1 : Health} :
    zz.Kept pp { s with model := v0, health := v1 } :=
  State.Kept.health h1 (State.Kept.model h0 h v0) v1

theorem State.Kept.boot_away (h0 : pp .boot = true) (h1 : pp .away = true) (h : zz.Kept pp s)
    {v0 : Boot} {v1 : Bool} :
    zz.Kept pp { s with boot := v0, away := v1 } :=
  State.Kept.away h1 (State.Kept.boot h0 h v0) v1

theorem State.Kept.pins_flash (h0 : pp .pins = true) (h1 : pp .flash = true) (h : zz.Kept pp s)
    {v0 : Pins} {v1 : Flash} (hs : v0.straps = s.pins.straps) (ht : s.pins.thermTrip = true → v0.thermTrip = true) (ho : s.pins.pwrOff = true → v0.pwrOff = true) :
    zz.Kept pp { s with pins := v0, flash := v1 } :=
  State.Kept.flash h1 (State.Kept.pins h0 h hs ht ho) v1

theorem State.Kept.cpas_sync (h0 : pp .cpas = true) (h1 : pp .sync = true) (h : zz.Kept pp s)
    {v0 : Store Cpa} {v1 : Sync} :
    zz.Kept pp { s with cpas := v0, sync := v1 } :=
  State.Kept.sync h1 (State.Kept.cpas h0 h v0) v1

theorem State.Kept.pins_flash_away_procs (h0 : pp .pins = true) (h1 : pp .flash = true) (h2 : pp .away = true) (h3 : pp .procs = true) (h : zz.Kept pp s)
    {v0 : Pins} {v1 : Flash} {v2 : Bool} {v3 : Procs} (hs : v0.straps = s.pins.straps) (ht : s.pins.thermTrip = true → v0.thermTrip = true) (ho : s.pins.pwrOff = true → v0.pwrOff = true) :
    zz.Kept pp { s with pins := v0, flash := v1, away := v2, procs := v3 } :=
  State.Kept.procs h3 (State.Kept.away h2 (State.Kept.flash h1 (State.Kept.pins h0 h hs ht ho) v1) v2) v3

theorem State.Kept.flash_boot_procs_update_health (h0 : pp .flash = true) (h1 : pp .boot = true) (h2 : pp .procs = true) (h3 : pp .update = true) (h4 : pp .health = true) (h : zz.Kept pp s)
    {v0 : Flash} {v1 : Boot} {v2 : Procs} {v3 : Update} {v4 : Health} :
    zz.Kept pp { s with flash := v0, boot := v1, procs := v2, update := v3, health := v4 } :=
  State.Kept.health h4 (State.Kept.update h3 (State.Kept.procs h2 (State.Kept.boot h1 (State.Kept.flash h0 h v0) v1) v2) v3) v4

theorem State.Kept.flash_trip (h0 : pp .flash = true) (h1 : pp .trip = true) (h : zz.Kept pp s)
    {v0 : Flash} {v1 : Trip} :
    zz.Kept pp { s with flash := v0, trip := v1 } :=
  State.Kept.trip h1 (State.Kept.flash h0 h v0) v1

theorem State.Kept.boot_procs_update_health (h0 : pp .boot = true) (h1 : pp .procs = true) (h2 : pp .update = true) (h3 : pp .health = true) (h : zz.Kept pp s)
    {v0 : Boot} {v1 : Procs} {v2 : Update} {v3 : Health} :
    zz.Kept pp { s with boot := v0, procs := v1, update := v2, health := v3 } :=
  State.Kept.health h3 (State.Kept.update h2 (State.Kept.procs h1 (State.Kept.boot h0 h v0) v1) v2) v3

theorem State.Kept.flash_free (h0 : pp .flash = true) (h1 : pp .free = true) (h : zz.Kept pp s)
    {v0 : Flash} {v1 : Nat} :
    zz.Kept pp { s with flash := v0, free := v1 } :=
  State.Kept.free h1 (State.Kept.flash h0 h v0) v1

theorem State.Kept.mailbox_boot (h0 : pp .mailbox = true) (h1 : pp .boot = true) (h : zz.Kept pp s)
    {v0 : Mailbox} {v1 : Boot} :
    zz.Kept pp { s with mailbox := v0, boot := v1 } :=
  State.Kept.boot h1 (State.Kept.mailbox h0 h v0) v1

theorem State.Kept.pins_boot_away_procs (h0 : pp .pins = true) (h1 : pp .boot = true) (h2 : pp .away = true) (h3 : pp .procs = true) (h : zz.Kept pp s)
    {v0 : Pins} {v1 : Boot} {v2 : Bool} {v3 : Procs} (hs : v0.straps = s.pins.straps) (ht : s.pins.thermTrip = true → v0.thermTrip = true) (ho : s.pins.pwrOff = true → v0.pwrOff = true) :
    zz.Kept pp { s with pins := v0, boot := v1, away := v2, procs := v3 } :=
  State.Kept.procs h3 (State.Kept.away h2 (State.Kept.boot h1 (State.Kept.pins h0 h hs ht ho) v1) v2) v3

theorem State.Kept.procs_update_health (h0 : pp .procs = true) (h1 : pp .update = true) (h2 : pp .health = true) (h : zz.Kept pp s)
    {v0 : Procs} {v1 : Update} {v2 : Health} :
    zz.Kept pp { s with procs := v0, update := v1, health := v2 } :=
  State.Kept.health h2 (State.Kept.update h1 (State.Kept.procs h0 h v0) v1) v2

theorem State.Kept.cap_links_model_health (h0 : pp .cap = true) (h1 : pp .links = true) (h2 : pp .model = true) (h3 : pp .health = true) (h : zz.Kept pp s)
    {v0 : Cap} {v1 : Links} {v2 : Model} {v3 : Health} :
    zz.Kept pp { s with cap := v0, links := v1, model := v2, health := v3 } :=
  State.Kept.health h3 (State.Kept.model h2 (State.Kept.links h1 (State.Kept.cap h0 h v0) v1) v2) v3

theorem State.Kept.pins_boot_away_ecc_procs (h0 : pp .pins = true) (h1 : pp .boot = true) (h2 : pp .away = true) (h3 : pp .ecc = true) (h4 : pp .procs = true) (h : zz.Kept pp s)
    {v0 : Pins} {v1 : Boot} {v2 : Bool} {v3 : Ecc} {v4 : Procs} (hs : v0.straps = s.pins.straps) (ht : s.pins.thermTrip = true → v0.thermTrip = true) (ho : s.pins.pwrOff = true → v0.pwrOff = true) :
    zz.Kept pp { s with pins := v0, boot := v1, away := v2, ecc := v3, procs := v4 } :=
  State.Kept.procs h4 (State.Kept.ecc h3 (State.Kept.away h2 (State.Kept.boot h1 (State.Kept.pins h0 h hs ht ho) v1) v2) v3) v4

end Sys2Proof.Machine
end

