-- ==== Sys2Proof/Laws/KeptOps.lean ====
section
/-! SUPPORT. What the functions of Sys2Proof/Machine/Ops.lean keep: one lemma for each, by the lemmas of what it calls. -/
namespace Sys2Proof.Machine

variable {pp : Part → Bool} {zz : State}


theorem State.act_kept (s : State) (f : State → Outcome) (hf : ∀ t : State, zz.Kept pp t → Outcome.Kept pp zz (f t))
    (h : zz.Kept pp s) : zz.Kept pp (s.act f) := Outcome.Kept.after (hf s h) h

theorem State.setF_kept (hp : Has pp 0x1) (s : State) (f : Field) (v : Nat) (h : zz.Kept pp s) : zz.Kept pp (s.setF f v) :=
  State.Kept.fields (hp _ rfl) h fun c => Store.write_wf c _ _

theorem State.satF_kept (hp : Has pp 0x1) (s : State) (f : Field) (v : Nat) (hk : zz.Kept pp s) :
    zz.Kept pp (State.satF s f v) := by
  unfold State.satF
  repeat' first
    | with_reducible assumption
    | ((with_reducible refine Has.mono hp ?_); exact rfl)
    | ((with_reducible refine Has.get hp _ ?_); exact rfl)
    | with_reducible intro _
    | with_reducible apply State.setF_kept
    | with_reducible apply Outcome.Kept.next
    | with_reducible apply Kept.ite
    | with_reducible apply OKept.ite
    | with_reducible refine Kept.ofSnd ?_ (by with_reducible assumption)
    | with_reducible refine Kept.ofSnd2 ?_ (by with_reducible assumption)
    | with_reducible refine Kept.ofFst ?_ (by with_reducible assumption)
    | split
    | dsimp only

theorem State.addF_kept (hp : Has pp 0x1) (s : State) (f : Field) (n : Nat) (hk : zz.Kept pp s) :
    zz.Kept pp (State.addF s f n) := by
  unfold State.addF
  repeat' first
    | with_reducible assumption
    | ((with_reducible refine Has.mono hp ?_); exact rfl)
    | ((with_reducible refine Has.get hp _ ?_); exact rfl)
    | with_reducible intro _
    | with_reducible apply State.satF_kept
    | with_reducible apply Outcome.Kept.next
    | with_reducible apply Kept.ite
    | with_reducible apply OKept.ite
    | with_reducible refine Kept.ofSnd ?_ (by with_reducible assumption)
    | with_reducible refine Kept.ofSnd2 ?_ (by with_reducible assumption)
    | with_reducible refine Kept.ofFst ?_ (by with_reducible assumption)
    | split
    | dsimp only

theorem State.incF_kept (hp : Has pp 0x1) (s : State) (f : Field) (hk : zz.Kept pp s) :
    zz.Kept pp (State.incF s f) := by
  unfold State.incF
  repeat' first
    | with_reducible assumption
    | ((with_reducible refine Has.mono hp ?_); exact rfl)
    | ((with_reducible refine Has.get hp _ ?_); exact rfl)
    | with_reducible intro _
    | with_reducible apply State.addF_kept
    | with_reducible apply Outcome.Kept.next
    | with_reducible apply Kept.ite
    | with_reducible apply OKept.ite
    | with_reducible refine Kept.ofSnd ?_ (by with_reducible assumption)
    | with_reducible refine Kept.ofSnd2 ?_ (by with_reducible assumption)
    | with_reducible refine Kept.ofFst ?_ (by with_reducible assumption)
    | split
    | dsimp only

theorem State.orF_kept (hp : Has pp 0x1) (s : State) (f : Field) (m : Nat) (hk : zz.Kept pp s) :
    zz.Kept pp (State.orF s f m) := by
  unfold State.orF
  repeat' first
    | with_reducible assumption
    | ((with_reducible refine Has.mono hp ?_); exact rfl)
    | ((with_reducible refine Has.get hp _ ?_); exact rfl)
    | with_reducible intro _
    | with_reducible apply State.setF_kept
    | with_reducible apply Outcome.Kept.next
    | with_reducible apply Kept.ite
    | with_reducible apply OKept.ite
    | with_reducible refine Kept.ofSnd ?_ (by with_reducible assumption)
    | with_reducible refine Kept.ofSnd2 ?_ (by with_reducible assumption)
    | with_reducible refine Kept.ofFst ?_ (by with_reducible assumption)
    | split
    | dsimp only

theorem State.andNotF_kept (hp : Has pp 0x1) (s : State) (f : Field) (m : Nat) (hk : zz.Kept pp s) :
    zz.Kept pp (State.andNotF s f m) := by
  unfold State.andNotF
  repeat' first
    | with_reducible assumption
    | ((with_reducible refine Has.mono hp ?_); exact rfl)
    | ((with_reducible refine Has.get hp _ ?_); exact rfl)
    | with_reducible intro _
    | with_reducible apply State.setF_kept
    | with_reducible apply Outcome.Kept.next
    | with_reducible apply Kept.ite
    | with_reducible apply OKept.ite
    | with_reducible refine Kept.ofSnd ?_ (by with_reducible assumption)
    | with_reducible refine Kept.ofSnd2 ?_ (by with_reducible assumption)
    | with_reducible refine Kept.ofFst ?_ (by with_reducible assumption)
    | split
    | dsimp only

theorem State.raise_kept (hp : Has pp 0x1) (s : State) (f : Field) (i : Nat) (hk : zz.Kept pp s) :
    zz.Kept pp (State.raise s f i) := by
  unfold State.raise
  repeat' first
    | with_reducible assumption
    | ((with_reducible refine Has.mono hp ?_); exact rfl)
    | ((with_reducible refine Has.get hp _ ?_); exact rfl)
    | with_reducible intro _
    | with_reducible apply State.orF_kept
    | with_reducible apply Outcome.Kept.next
    | with_reducible apply Kept.ite
    | with_reducible apply OKept.ite
    | with_reducible refine Kept.ofSnd ?_ (by with_reducible assumption)
    | with_reducible refine Kept.ofSnd2 ?_ (by with_reducible assumption)
    | with_reducible refine Kept.ofFst ?_ (by with_reducible assumption)
    | split
    | dsimp only

theorem State.flagF_kept (hp : Has pp 0x1) (s : State) (f : Field) (b : Bool) (hk : zz.Kept pp s) :
    zz.Kept pp (State.flagF s f b) := by
  unfold State.flagF
  repeat' first
    | with_reducible assumption
    | ((with_reducible refine Has.mono hp ?_); exact rfl)
    | ((with_reducible refine Has.get hp _ ?_); exact rfl)
    | with_reducible intro _
    | with_reducible apply State.setF_kept
    | with_reducible apply Outcome.Kept.next
    | with_reducible apply Kept.ite
    | with_reducible apply OKept.ite
    | with_reducible refine Kept.ofSnd ?_ (by with_reducible assumption)
    | with_reducible refine Kept.ofSnd2 ?_ (by with_reducible assumption)
    | with_reducible refine Kept.ofFst ?_ (by with_reducible assumption)
    | split
    | dsimp only

theorem State.applyKey_kept (hp : Has pp 0x2) (s : State) (k : Nat) (h : zz.Kept pp s) : zz.Kept pp (s.applyKey k) :=
  State.Kept.applied (hp _ rfl) h fun c => Store.write_wf c _ _

theorem State.forEach_kept {α : Type} (s : State) (l : List α) (f : State → α → State)
    (hf : ∀ (t : State) (a : α), zz.Kept pp t → zz.Kept pp (f t a)) (h : zz.Kept pp s) : zz.Kept pp (s.forEach l f) := by
  unfold State.forEach
  induction l generalizing s with
  | nil => exact h
  | cons a l ih => exact ih _ (hf s a h)

theorem State.when_kept (s : State) (c : Bool) (f : State → State) (hf : ∀ t : State, zz.Kept pp t → zz.Kept pp (f t))
    (h : zz.Kept pp s) : zz.Kept pp (s.when c f) := by
  unfold State.when
  split
  · exact hf s h
  · exact h

theorem State.drawFree_kept (hp : Has pp 0x20000000) (s : State) (n : Nat) (hk : zz.Kept pp s) :
    zz.Kept pp (State.drawFree s n).2 := by
  unfold State.drawFree
  repeat' first
    | with_reducible assumption
    | ((with_reducible refine Has.mono hp ?_); exact rfl)
    | ((with_reducible refine Has.get hp _ ?_); exact rfl)
    | with_reducible intro _
    | with_reducible apply Outcome.Kept.next
    | with_reducible apply Kept.ite
    | with_reducible apply OKept.ite
    | with_reducible refine Kept.ofSnd ?_ (by with_reducible assumption)
    | with_reducible refine Kept.ofSnd2 ?_ (by with_reducible assumption)
    | with_reducible refine Kept.ofFst ?_ (by with_reducible assumption)
    | split
    | dsimp only
    | with_reducible apply State.Kept.free

theorem State.reload_kept (hp : Has pp 0x10000000) (s : State) (key : Nat) (hk : zz.Kept pp s) :
    zz.Kept pp (State.reload s key) := by
  unfold State.reload
  repeat' first
    | with_reducible assumption
    | ((with_reducible refine Has.mono hp ?_); exact rfl)
    | ((with_reducible refine Has.get hp _ ?_); exact rfl)
    | with_reducible intro _
    | with_reducible apply Outcome.Kept.next
    | with_reducible apply Kept.ite
    | with_reducible apply OKept.ite
    | with_reducible refine Kept.ofSnd ?_ (by with_reducible assumption)
    | with_reducible refine Kept.ofSnd2 ?_ (by with_reducible assumption)
    | with_reducible refine Kept.ofFst ?_ (by with_reducible assumption)
    | split
    | dsimp only
    | with_reducible apply State.Kept.intervals

theorem State.begun_kept (hp : Has pp 0x10000000) (s : State) (key : Nat) (hk : zz.Kept pp s) :
    zz.Kept pp (State.begun s key) := by
  unfold State.begun
  repeat' first
    | with_reducible assumption
    | ((with_reducible refine Has.mono hp ?_); exact rfl)
    | ((with_reducible refine Has.get hp _ ?_); exact rfl)
    | with_reducible intro _
    | with_reducible apply Outcome.Kept.next
    | with_reducible apply Kept.ite
    | with_reducible apply OKept.ite
    | with_reducible refine Kept.ofSnd ?_ (by with_reducible assumption)
    | with_reducible refine Kept.ofSnd2 ?_ (by with_reducible assumption)
    | with_reducible refine Kept.ofFst ?_ (by with_reducible assumption)
    | split
    | dsimp only
    | with_reducible apply State.Kept.intervals

theorem State.rollIntervals_kept (hp : Has pp 0x10000000) (s : State) (hk : zz.Kept pp s) :
    zz.Kept pp (State.rollIntervals s) := by
  unfold State.rollIntervals
  repeat' first
    | with_reducible assumption
    | ((with_reducible refine Has.mono hp ?_); exact rfl)
    | ((with_reducible refine Has.get hp _ ?_); exact rfl)
    | with_reducible intro _
    | with_reducible apply State.forEach_kept
    | with_reducible apply State.when_kept
    | with_reducible apply State.reload_kept
    | with_reducible apply Outcome.Kept.next
    | with_reducible apply Kept.ite
    | with_reducible apply OKept.ite
    | with_reducible refine Kept.ofSnd ?_ (by with_reducible assumption)
    | with_reducible refine Kept.ofSnd2 ?_ (by with_reducible assumption)
    | with_reducible refine Kept.ofFst ?_ (by with_reducible assumption)
    | split
    | dsimp only

theorem State.countIntervals_kept (hp : Has pp 0x10000000) (s : State) (hk : zz.Kept pp s) :
    zz.Kept pp (State.countIntervals s) := by
  unfold State.countIntervals
  repeat' first
    | with_reducible assumption
    | ((with_reducible refine Has.mono hp ?_); exact rfl)
    | ((with_reducible refine Has.get hp _ ?_); exact rfl)
    | with_reducible intro _
    | with_reducible apply State.forEach_kept
    | with_reducible apply Outcome.Kept.next
    | with_reducible apply Kept.ite
    | with_reducible apply OKept.ite
    | with_reducible refine Kept.ofSnd ?_ (by with_reducible assumption)
    | with_reducible refine Kept.ofSnd2 ?_ (by with_reducible assumption)
    | with_reducible refine Kept.ofFst ?_ (by with_reducible assumption)
    | split
    | dsimp only
    | with_reducible apply State.Kept.intervals

theorem State.noteOld_kept (hp : Has pp 0x200000000) (s : State) (key : Nat) (old : Nat) (hk : zz.Kept pp s) :
    zz.Kept pp (State.noteOld s key old) := by
  unfold State.noteOld
  repeat' first
    | with_reducible assumption
    | ((with_reducible refine Has.mono hp ?_); exact rfl)
    | ((with_reducible refine Has.get hp _ ?_); exact rfl)
    | with_reducible intro _
    | with_reducible apply Outcome.Kept.next
    | with_reducible apply Kept.ite
    | with_reducible apply OKept.ite
    | with_reducible refine Kept.ofSnd ?_ (by with_reducible assumption)
    | with_reducible refine Kept.ofSnd2 ?_ (by with_reducible assumption)
    | with_reducible refine Kept.ofFst ?_ (by with_reducible assumption)
    | split
    | dsimp only
    | with_reducible apply State.Kept.held

theorem State.keepLate_kept (hp : Has pp 0x200000000) (s : State) (f : Field) (hk : zz.Kept pp s) :
    zz.Kept pp (State.keepLate s f) := by
  unfold State.keepLate
  repeat' first
    | with_reducible assumption
    | ((with_reducible refine Has.mono hp ?_); exact rfl)
    | ((with_reducible refine Has.get hp _ ?_); exact rfl)
    | with_reducible intro _
    | with_reducible apply State.noteOld_kept
    | with_reducible apply Outcome.Kept.next
    | with_reducible apply Kept.ite
    | with_reducible apply OKept.ite
    | with_reducible refine Kept.ofSnd ?_ (by with_reducible assumption)
    | with_reducible refine Kept.ofSnd2 ?_ (by with_reducible assumption)
    | with_reducible refine Kept.ofFst ?_ (by with_reducible assumption)
    | split
    | dsimp only

theorem State.setRail_kept (hp : Has pp 0x800) (s : State) (k : Nat) (f : Rail → Rail) (hk : zz.Kept pp s) :
    zz.Kept pp (State.setRail s k f) := by
  unfold State.setRail
  repeat' first
    | with_reducible assumption
    | ((with_reducible refine Has.mono hp ?_); exact rfl)
    | ((with_reducible refine Has.get hp _ ?_); exact rfl)
    | with_reducible intro _
    | with_reducible apply Outcome.Kept.next
    | with_reducible apply Kept.ite
    | with_reducible apply OKept.ite
    | with_reducible refine Kept.ofSnd ?_ (by with_reducible assumption)
    | with_reducible refine Kept.ofSnd2 ?_ (by with_reducible assumption)
    | with_reducible refine Kept.ofFst ?_ (by with_reducible assumption)
    | split
    | dsimp only
    | with_reducible apply State.Kept.rails

theorem State.setPhase_kept (hp : Has pp 0x1000) (s : State) (p : Nat) (f : Phase → Phase) (hk : zz.Kept pp s) :
    zz.Kept pp (State.setPhase s p f) := by
  unfold State.setPhase
  repeat' first
    | with_reducible assumption
    | ((with_reducible refine Has.mono hp ?_); exact rfl)
    | ((with_reducible refine Has.get hp _ ?_); exact rfl)
    | with_reducible intro _
    | with_reducible apply Outcome.Kept.next
    | with_reducible apply Kept.ite
    | with_reducible apply OKept.ite
    | with_reducible refine Kept.ofSnd ?_ (by with_reducible assumption)
    | with_reducible refine Kept.ofSnd2 ?_ (by with_reducible assumption)
    | with_reducible refine Kept.ofFst ?_ (by with_reducible assumption)
    | split
    | dsimp only
    | with_reducible apply State.Kept.phases

theorem State.setClc_kept (hp : Has pp 0x2000) (s : State) (c : Nat) (f : Clc → Clc) (hk : zz.Kept pp s) :
    zz.Kept pp (State.setClc s c f) := by
  unfold State.setClc
  repeat' first
    | with_reducible assumption
    | ((with_reducible refine Has.mono hp ?_); exact rfl)
    | ((with_reducible refine Has.get hp _ ?_); exact rfl)
    | with_reducible intro _
    | with_reducible apply Outcome.Kept.next
    | with_reducible apply Kept.ite
    | with_reducible apply OKept.ite
    | with_reducible refine Kept.ofSnd ?_ (by with_reducible assumption)
    | with_reducible refine Kept.ofSnd2 ?_ (by with_reducible assumption)
    | with_reducible refine Kept.ofFst ?_ (by with_reducible assumption)
    | split
    | dsimp only
    | with_reducible apply State.Kept.clcs

theorem State.setCpa_kept (hp : Has pp 0x4000) (s : State) (n : Nat) (f : Cpa → Cpa) (hk : zz.Kept pp s) :
    zz.Kept pp (State.setCpa s n f) := by
  unfold State.setCpa
  repeat' first
    | with_reducible assumption
    | ((with_reducible refine Has.mono hp ?_); exact rfl)
    | ((with_reducible refine Has.get hp _ ?_); exact rfl)
    | with_reducible intro _
    | with_reducible apply Outcome.Kept.next
    | with_reducible apply Kept.ite
    | with_reducible apply OKept.ite
    | with_reducible refine Kept.ofSnd ?_ (by with_reducible assumption)
    | with_reducible refine Kept.ofSnd2 ?_ (by with_reducible assumption)
    | with_reducible refine Kept.ofFst ?_ (by with_reducible assumption)
    | split
    | dsimp only
    | with_reducible apply State.Kept.cpas

theorem State.setDom_kept (hp : Has pp 0x8000) (s : State) (d : Nat) (f : Dom → Dom) (hk : zz.Kept pp s) :
    zz.Kept pp (State.setDom s d f) := by
  unfold State.setDom
  repeat' first
    | with_reducible assumption
    | ((with_reducible refine Has.mono hp ?_); exact rfl)
    | ((with_reducible refine Has.get hp _ ?_); exact rfl)
    | with_reducible intro _
    | with_reducible apply Outcome.Kept.next
    | with_reducible apply Kept.ite
    | with_reducible apply OKept.ite
    | with_reducible refine Kept.ofSnd ?_ (by with_reducible assumption)
    | with_reducible refine Kept.ofSnd2 ?_ (by with_reducible assumption)
    | with_reducible refine Kept.ofFst ?_ (by with_reducible assumption)
    | split
    | dsimp only
    | with_reducible apply State.Kept.doms

theorem State.setError_kept (hp : Has pp 0x400000) (s : State) (m : Nat) (w : Nat) (e : Nat) (hk : zz.Kept pp s) :
    zz.Kept pp (State.setError s m w e) := by
  unfold State.setError
  repeat' first
    | with_reducible assumption
    | ((with_reducible refine Has.mono hp ?_); exact rfl)
    | ((with_reducible refine Has.get hp _ ?_); exact rfl)
    | with_reducible intro _
    | with_reducible apply Outcome.Kept.next
    | with_reducible apply Kept.ite
    | with_reducible apply OKept.ite
    | with_reducible refine Kept.ofSnd ?_ (by with_reducible assumption)
    | with_reducible refine Kept.ofSnd2 ?_ (by with_reducible assumption)
    | with_reducible refine Kept.ofFst ?_ (by with_reducible assumption)
    | split
    | dsimp only
    | with_reducible apply State.Kept.ecc

theorem State.eccWrite_kept (hp : Has pp 0x400001) (s : State) (m : Nat) (w : Nat) (hk : zz.Kept pp s) :
    zz.Kept pp (State.eccWrite s m w) := by
  unfold State.eccWrite
  repeat' first
    | with_reducible assumption
    | ((with_reducible refine Has.mono hp ?_); exact rfl)
    | ((with_reducible refine Has.get hp _ ?_); exact rfl)
    | with_reducible intro _
    | with_reducible apply State.setError_kept
    | with_reducible apply State.when_kept
    | with_reducible apply State.addF_kept
    | with_reducible apply Outcome.Kept.next
    | with_reducible apply Kept.ite
    | with_reducible apply OKept.ite
    | with_reducible refine Kept.ofSnd ?_ (by with_reducible assumption)
    | with_reducible refine Kept.ofSnd2 ?_ (by with_reducible assumption)
    | with_reducible refine Kept.ofFst ?_ (by with_reducible assumption)
    | split
    | dsimp only
    | with_reducible apply State.Kept.ecc

theorem State.writeLogWords_kept (hp : Has pp 0x400001) (s : State) (first : Nat) (n : Nat) (hk : zz.Kept pp s) :
    zz.Kept pp (State.writeLogWords s first n) := by
  unfold State.writeLogWords
  repeat' first
    | with_reducible assumption
    | ((with_reducible refine Has.mono hp ?_); exact rfl)
    | ((with_reducible refine Has.get hp _ ?_); exact rfl)
    | with_reducible intro _
    | with_reducible apply State.forEach_kept
    | with_reducible apply State.eccWrite_kept
    | with_reducible apply Outcome.Kept.next
    | with_reducible apply Kept.ite
    | with_reducible apply OKept.ite
    | with_reducible refine Kept.ofSnd ?_ (by with_reducible assumption)
    | with_reducible refine Kept.ofSnd2 ?_ (by with_reducible assumption)
    | with_reducible refine Kept.ofFst ?_ (by with_reducible assumption)
    | split
    | dsimp only

theorem State.putTrace_kept (hp : Has pp 0x400021) (s : State) (i : Nat) (r : TraceRec) (hk : zz.Kept pp s) :
    zz.Kept pp (State.putTrace s i r) := by
  unfold State.putTrace
  repeat' first
    | with_reducible assumption
    | ((with_reducible refine Has.mono hp ?_); exact rfl)
    | ((with_reducible refine Has.get hp _ ?_); exact rfl)
    | with_reducible intro _
    | with_reducible apply State.writeLogWords_kept
    | with_reducible apply Outcome.Kept.next
    | with_reducible apply Kept.ite
    | with_reducible apply OKept.ite
    | with_reducible refine Kept.ofSnd ?_ (by with_reducible assumption)
    | with_reducible refine Kept.ofSnd2 ?_ (by with_reducible assumption)
    | with_reducible refine Kept.ofFst ?_ (by with_reducible assumption)
    | split
    | dsimp only
    | with_reducible apply State.Kept.logRam

theorem State.placeTrace_kept (hp : Has pp 0x400021) (s : State) (n i : Nat) (r : TraceRec) (h : zz.Kept pp s) :
    zz.Kept pp (s.placeTrace n i r) := by
  induction n generalizing s i r with
  | zero => exact State.putTrace_kept hp s i r h
  | succ n ih =>
    unfold State.placeTrace
    dsimp only
    split
    · exact ih _ _ _ (State.putTrace_kept hp s i _ h)
    · exact State.putTrace_kept hp s i r h

theorem State.trace_kept (hp : Has pp 0x400021) (s : State) (src : Nat) (point : Nat) (data0 : Nat) (data1 : Nat) (hk : zz.Kept pp s) :
    zz.Kept pp (State.trace s src point data0 data1) := by
  unfold State.trace
  repeat' first
    | with_reducible assumption
    | ((with_reducible refine Has.mono hp ?_); exact rfl)
    | ((with_reducible refine Has.get hp _ ?_); exact rfl)
    | with_reducible intro _
    | with_reducible apply State.incF_kept
    | with_reducible apply State.placeTrace_kept
    | with_reducible apply State.setF_kept
    | with_reducible apply Outcome.Kept.next
    | with_reducible apply Kept.ite
    | with_reducible apply OKept.ite
    | with_reducible refine Kept.ofSnd ?_ (by with_reducible assumption)
    | with_reducible refine Kept.ofSnd2 ?_ (by with_reducible assumption)
    | with_reducible refine Kept.ofFst ?_ (by with_reducible assumption)
    | split
    | dsimp only

theorem State.logOverwrite_kept (hp : Has pp 0x21) (s : State) (hk : zz.Kept pp s) :
    zz.Kept pp (State.logOverwrite s) := by
  unfold State.logOverwrite
  repeat' first
    | with_reducible assumption
    | ((with_reducible refine Has.mono hp ?_); exact rfl)
    | ((with_reducible refine Has.get hp _ ?_); exact rfl)
    | with_reducible intro _
    | with_reducible apply State.when_kept
    | with_reducible apply State.incF_kept
    | with_reducible apply State.setF_kept
    | with_reducible apply State.raise_kept
    | with_reducible apply Outcome.Kept.next
    | with_reducible apply Kept.ite
    | with_reducible apply OKept.ite
    | with_reducible refine Kept.ofSnd ?_ (by with_reducible assumption)
    | with_reducible refine Kept.ofSnd2 ?_ (by with_reducible assumption)
    | with_reducible refine Kept.ofFst ?_ (by with_reducible assumption)
    | split
    | dsimp only
    | with_reducible apply State.Kept.logRam

theorem State.log_kept (hp : Has pp 0x400021) (s : State) (src : Nat) (sev : Nat) (code : Nat) (data : List Nat) (hk : zz.Kept pp s) :
    zz.Kept pp (State.log s src sev code data) := by
  unfold State.log
  repeat' first
    | with_reducible assumption
    | ((with_reducible refine Has.mono hp ?_); exact rfl)
    | ((with_reducible refine Has.get hp _ ?_); exact rfl)
    | with_reducible intro _
    | with_reducible apply State.when_kept
    | with_reducible apply State.logOverwrite_kept
    | with_reducible apply State.writeLogWords_kept
    | with_reducible apply State.setF_kept
    | with_reducible apply State.raise_kept
    | with_reducible apply Outcome.Kept.next
    | with_reducible apply Kept.ite
    | with_reducible apply OKept.ite
    | with_reducible refine Kept.ofSnd ?_ (by with_reducible assumption)
    | with_reducible refine Kept.ofSnd2 ?_ (by with_reducible assumption)
    | with_reducible refine Kept.ofFst ?_ (by with_reducible assumption)
    | split
    | dsimp only
    | with_reducible apply State.Kept.logRam

theorem State.writeMsg_kept (hp : Has pp 0x1) (s : State) (ch : Nat) (words : List Nat) (hk : zz.Kept pp s) :
    zz.Kept pp (State.writeMsg s ch words) := by
  unfold State.writeMsg
  repeat' first
    | with_reducible assumption
    | ((with_reducible refine Has.mono hp ?_); exact rfl)
    | ((with_reducible refine Has.get hp _ ?_); exact rfl)
    | with_reducible intro _
    | with_reducible apply State.forEach_kept
    | with_reducible apply State.setF_kept
    | with_reducible apply State.when_kept
    | with_reducible apply State.raise_kept
    | with_reducible apply Outcome.Kept.next
    | with_reducible apply Kept.ite
    | with_reducible apply OKept.ite
    | with_reducible refine Kept.ofSnd ?_ (by with_reducible assumption)
    | with_reducible refine Kept.ofSnd2 ?_ (by with_reducible assumption)
    | with_reducible refine Kept.ofFst ?_ (by with_reducible assumption)
    | split
    | dsimp only

theorem State.enqueue_kept (hp : Has pp 0x41) (s : State) (m : OutMsg) (hk : zz.Kept pp s) :
    zz.Kept pp (State.enqueue s m) := by
  unfold State.enqueue
  repeat' first
    | with_reducible assumption
    | ((with_reducible refine Has.mono hp ?_); exact rfl)
    | ((with_reducible refine Has.get hp _ ?_); exact rfl)
    | with_reducible intro _
    | with_reducible apply State.setF_kept
    | with_reducible apply State.when_kept
    | with_reducible apply State.raise_kept
    | with_reducible apply State.incF_kept
    | with_reducible apply Outcome.Kept.next
    | with_reducible apply Kept.ite
    | with_reducible apply OKept.ite
    | with_reducible refine Kept.ofSnd ?_ (by with_reducible assumption)
    | with_reducible refine Kept.ofSnd2 ?_ (by with_reducible assumption)
    | with_reducible refine Kept.ofFst ?_ (by with_reducible assumption)
    | split
    | dsimp only
    | with_reducible apply State.Kept.mailbox

theorem State.send_kept (hp : Has pp 0x41) (s : State) (m : OutMsg) (hk : zz.Kept pp s) :
    zz.Kept pp (State.send s m) := by
  unfold State.send
  repeat' first
    | with_reducible assumption
    | ((with_reducible refine Has.mono hp ?_); exact rfl)
    | ((with_reducible refine Has.get hp _ ?_); exact rfl)
    | with_reducible intro _
    | with_reducible apply State.enqueue_kept
    | with_reducible apply State.writeMsg_kept
    | with_reducible apply Outcome.Kept.next
    | with_reducible apply Kept.ite
    | with_reducible apply OKept.ite
    | with_reducible refine Kept.ofSnd ?_ (by with_reducible assumption)
    | with_reducible refine Kept.ofSnd2 ?_ (by with_reducible assumption)
    | with_reducible refine Kept.ofFst ?_ (by with_reducible assumption)
    | split
    | dsimp only

theorem State.reply_kept (hp : Has pp 0x400061) (s : State) (r : Request) (status : Nat) (reason : Nat) (data : List Nat) (hk : zz.Kept pp s) :
    zz.Kept pp (State.reply s r status reason data) := by
  unfold State.reply
  repeat' first
    | with_reducible assumption
    | ((with_reducible refine Has.mono hp ?_); exact rfl)
    | ((with_reducible refine Has.get hp _ ?_); exact rfl)
    | with_reducible intro _
    | with_reducible apply State.trace_kept
    | with_reducible apply State.send_kept
    | with_reducible apply Outcome.Kept.next
    | with_reducible apply Kept.ite
    | with_reducible apply OKept.ite
    | with_reducible refine Kept.ofSnd ?_ (by with_reducible assumption)
    | with_reducible refine Kept.ofSnd2 ?_ (by with_reducible assumption)
    | with_reducible refine Kept.ofFst ?_ (by with_reducible assumption)
    | split
    | dsimp only

theorem State.notifyOn_kept (hp : Has pp 0x41) (s : State) (ch : Nat) (opcode : Nat) (minor : Nat) (data : List Nat) (hk : zz.Kept pp s) :
    zz.Kept pp (State.notifyOn s ch opcode minor data) := by
  unfold State.notifyOn
  repeat' first
    | with_reducible assumption
    | ((with_reducible refine Has.mono hp ?_); exact rfl)
    | ((with_reducible refine Has.get hp _ ?_); exact rfl)
    | with_reducible intro _
    | with_reducible apply State.send_kept
    | with_reducible apply Outcome.Kept.next
    | with_reducible apply Kept.ite
    | with_reducible apply OKept.ite
    | with_reducible refine Kept.ofSnd ?_ (by with_reducible assumption)
    | with_reducible refine Kept.ofSnd2 ?_ (by with_reducible assumption)
    | with_reducible refine Kept.ofFst ?_ (by with_reducible assumption)
    | split
    | dsimp only
    | with_reducible apply State.Kept.mailbox

theorem State.notify_kept (hp : Has pp 0x41) (s : State) (cls : Nat) (opcode : Nat) (data : List Nat) (hk : zz.Kept pp s) :
    zz.Kept pp (State.notify s cls opcode data) := by
  unfold State.notify
  repeat' first
    | with_reducible assumption
    | ((with_reducible refine Has.mono hp ?_); exact rfl)
    | ((with_reducible refine Has.get hp _ ?_); exact rfl)
    | with_reducible intro _
    | with_reducible apply State.when_kept
    | with_reducible apply State.forEach_kept
    | with_reducible apply State.notifyOn_kept
    | with_reducible apply Outcome.Kept.next
    | with_reducible apply Kept.ite
    | with_reducible apply OKept.ite
    | with_reducible refine Kept.ofSnd ?_ (by with_reducible assumption)
    | with_reducible refine Kept.ofSnd2 ?_ (by with_reducible assumption)
    | with_reducible refine Kept.ofFst ?_ (by with_reducible assumption)
    | split
    | dsimp only
    | with_reducible apply State.Kept.mailbox

end Sys2Proof.Machine
end

