-- ==== Sys2Proof/Laws/KeptOperands.lean ====
section
/-! SUPPORT. What the functions of Sys2Proof/Machine/Operands.lean keep: one lemma for each, by the lemmas of what it calls. -/
namespace Sys2Proof.Machine

variable {pp : Part → Bool} {zz : State}

theorem State.shapePeriod_kept (hp : Has pp 0x4000) (s : State) (n : Nat) (hk : zz.Kept pp s) :
    zz.Kept pp (State.shapePeriod s n) := by
  unfold State.shapePeriod
  repeat' first
    | with_reducible assumption
    | ((with_reducible refine Has.mono hp ?_); exact rfl)
    | ((with_reducible refine Has.get hp _ ?_); exact rfl)
    | with_reducible intro _
    | with_reducible apply State.setCpa_kept
    | with_reducible apply Outcome.Kept.next
    | with_reducible apply Kept.ite
    | with_reducible apply OKept.ite
    | with_reducible refine Kept.ofSnd ?_ (by with_reducible assumption)
    | with_reducible refine Kept.ofSnd2 ?_ (by with_reducible assumption)
    | with_reducible refine Kept.ofFst ?_ (by with_reducible assumption)
    | split
    | dsimp only

theorem State.reduceAcc_kept (hp : Has pp 0x4000) (s : State) (c : Nat) (hk : zz.Kept pp s) :
    zz.Kept pp (State.reduceAcc s c) := by
  unfold State.reduceAcc
  repeat' first
    | with_reducible assumption
    | ((with_reducible refine Has.mono hp ?_); exact rfl)
    | ((with_reducible refine Has.get hp _ ?_); exact rfl)
    | with_reducible intro _
    | with_reducible apply State.forEach_kept
    | with_reducible apply State.setCpa_kept
    | with_reducible apply Outcome.Kept.next
    | with_reducible apply Kept.ite
    | with_reducible apply OKept.ite
    | with_reducible refine Kept.ofSnd ?_ (by with_reducible assumption)
    | with_reducible refine Kept.ofSnd2 ?_ (by with_reducible assumption)
    | with_reducible refine Kept.ofFst ?_ (by with_reducible assumption)
    | split
    | dsimp only

theorem State.clearRange_kept (hp : Has pp 0x1) (s : State) (lo hi : Nat) (h : zz.Kept pp s) : zz.Kept pp (s.clearRange lo hi) :=
  State.Kept.fields (hp _ rfl) h fun c => Store.filter_wf c _

end Sys2Proof.Machine
end

