-- ==== Sys2Proof/Laws/KeptFleet.lean ====
section
/-! SUPPORT. What the functions of Sys2Proof/Machine/Fleet.lean keep: one lemma for each, by the lemmas of what it calls. -/
namespace Sys2Proof.Machine

variable {pp : Part → Bool} {zz : State}

theorem State.alertOn_kept (hp : Has pp 0x10) (s : State) (hk : zz.Kept pp s) :
    zz.Kept pp (State.alertOn s) := by
  unfold State.alertOn
  repeat' first
    | with_reducible assumption
    | ((with_reducible refine Has.mono hp ?_); exact rfl)
    | ((with_reducible refine Has.get hp _ ?_); exact rfl)
    | with_reducible exact (rfl : _ = _)
    | with_reducible exact id
    | (((with_reducible intro _); rfl))
    | with_reducible intro _
    | with_reducible apply Outcome.Kept.next
    | with_reducible apply Kept.ite
    | with_reducible apply OKept.ite
    | with_reducible refine Kept.ofSnd ?_ (by with_reducible assumption)
    | with_reducible refine Kept.ofSnd2 ?_ (by with_reducible assumption)
    | with_reducible refine Kept.ofFst ?_ (by with_reducible assumption)
    | split
    | dsimp only
    | with_reducible apply State.Kept.pins

theorem State.latchPm_kept (hp : Has pp 0x800010) (s : State) (page : Nat) (reg : Nat) (bits : Nat) (hk : zz.Kept pp s) :
    zz.Kept pp (State.latchPm s page reg bits) := by
  unfold State.latchPm
  repeat' first
    | with_reducible assumption
    | ((with_reducible refine Has.mono hp ?_); exact rfl)
    | ((with_reducible refine Has.get hp _ ?_); exact rfl)
    | with_reducible intro _
    | with_reducible apply State.alertOn_kept
    | with_reducible apply Outcome.Kept.next
    | with_reducible apply Kept.ite
    | with_reducible apply OKept.ite
    | with_reducible refine Kept.ofSnd ?_ (by with_reducible assumption)
    | with_reducible refine Kept.ofSnd2 ?_ (by with_reducible assumption)
    | with_reducible refine Kept.ofFst ?_ (by with_reducible assumption)
    | split
    | dsimp only
    | with_reducible apply State.Kept.pmbus

theorem State.latchWord_kept (hp : Has pp 0x800010) (s : State) (page : Nat) (bits : Nat) (hk : zz.Kept pp s) :
    zz.Kept pp (State.latchWord s page bits) := by
  unfold State.latchWord
  repeat' first
    | with_reducible assumption
    | ((with_reducible refine Has.mono hp ?_); exact rfl)
    | ((with_reducible refine Has.get hp _ ?_); exact rfl)
    | with_reducible intro _
    | with_reducible apply State.latchPm_kept
    | with_reducible apply Outcome.Kept.next
    | with_reducible apply Kept.ite
    | with_reducible apply OKept.ite
    | with_reducible refine Kept.ofSnd ?_ (by with_reducible assumption)
    | with_reducible refine Kept.ofSnd2 ?_ (by with_reducible assumption)
    | with_reducible refine Kept.ofFst ?_ (by with_reducible assumption)
    | split
    | dsimp only

theorem State.settleFleet_kept (hp : Has pp 0x800051) (s : State) (hk : zz.Kept pp s) :
    zz.Kept pp (State.settleFleet s) := by
  unfold State.settleFleet
  repeat' first
    | with_reducible assumption
    | ((with_reducible refine Has.mono hp ?_); exact rfl)
    | ((with_reducible refine Has.get hp _ ?_); exact rfl)
    | with_reducible intro _
    | with_reducible apply State.latchPm_kept
    | with_reducible apply State.notify_kept
    | with_reducible apply Outcome.Kept.next
    | with_reducible apply Kept.ite
    | with_reducible apply OKept.ite
    | with_reducible refine Kept.ofSnd ?_ (by with_reducible assumption)
    | with_reducible refine Kept.ofSnd2 ?_ (by with_reducible assumption)
    | with_reducible refine Kept.ofFst ?_ (by with_reducible assumption)
    | split
    | dsimp only
    | with_reducible apply State.Kept.mailbox

theorem State.settleBrake_kept (hp : Has pp 0x400021) (s : State) (was : Nat) (hk : zz.Kept pp s) :
    zz.Kept pp (State.settleBrake s was) := by
  unfold State.settleBrake
  repeat' first
    | with_reducible assumption
    | ((with_reducible refine Has.mono hp ?_); exact rfl)
    | ((with_reducible refine Has.get hp _ ?_); exact rfl)
    | with_reducible intro _
    | with_reducible apply State.when_kept
    | with_reducible apply State.flagF_kept
    | with_reducible apply State.setF_kept
    | with_reducible apply State.incF_kept
    | with_reducible apply State.trace_kept
    | with_reducible apply Outcome.Kept.next
    | with_reducible apply Kept.ite
    | with_reducible apply OKept.ite
    | with_reducible refine Kept.ofSnd ?_ (by with_reducible assumption)
    | with_reducible refine Kept.ofSnd2 ?_ (by with_reducible assumption)
    | with_reducible refine Kept.ofFst ?_ (by with_reducible assumption)
    | split
    | dsimp only

end Sys2Proof.Machine
end

