-- ==== Sys2Proof/Laws/KeptFlash.lean ====
section
/-! SUPPORT. What the functions of Sys2Proof/Machine/Flash.lean keep: one lemma for each, by the lemmas of what it calls. -/
namespace Sys2Proof.Machine

variable {pp : Part → Bool} {zz : State}

theorem State.programByte_kept (hp : Has pp 0x80) (s : State) (a : Nat) (v : Byte) (hk : zz.Kept pp s) :
    zz.Kept pp (State.programByte s a v) := by
  unfold State.programByte
  repeat' first
    | with_reducible assumption
    | ((with_reducible refine Has.mono hp ?_); exact rfl)
    | ((with_reducible refine Has.get hp _ ?_); exact rfl)
    | with_reducible intro _
    | with_reducible apply Outcome.Kept.next
    | with_reducible apply Kept.ite
    | with_reducible apply OKept.ite
    | with_reducible refine Kept.ofSnd ?_ (by with_reducible assumption)
    | with_reducible refine Kept.ofSnd2 ?_ (by with_reducible assumption)
    | with_reducible refine Kept.ofFst ?_ (by with_reducible assumption)
    | split
    | dsimp only
    | with_reducible apply State.Kept.flash

theorem State.program_kept (hp : Has pp 0x80) (s : State) (off : Nat) (v : List Byte) (hk : zz.Kept pp s) :
    zz.Kept pp (State.program s off v) := by
  unfold State.program
  repeat' first
    | with_reducible assumption
    | ((with_reducible refine Has.mono hp ?_); exact rfl)
    | ((with_reducible refine Has.get hp _ ?_); exact rfl)
    | with_reducible intro _
    | with_reducible apply State.forEach_kept
    | with_reducible apply State.programByte_kept
    | with_reducible apply Outcome.Kept.next
    | with_reducible apply Kept.ite
    | with_reducible apply OKept.ite
    | with_reducible refine Kept.ofSnd ?_ (by with_reducible assumption)
    | with_reducible refine Kept.ofSnd2 ?_ (by with_reducible assumption)
    | with_reducible refine Kept.ofFst ?_ (by with_reducible assumption)
    | split
    | dsimp only

theorem State.erase_kept (hp : Has pp 0x80) (s : State) (off : Nat) (len : Nat) (hk : zz.Kept pp s) :
    zz.Kept pp (State.erase s off len) := by
  unfold State.erase
  repeat' first
    | with_reducible assumption
    | ((with_reducible refine Has.mono hp ?_); exact rfl)
    | ((with_reducible refine Has.get hp _ ?_); exact rfl)
    | with_reducible intro _
    | with_reducible apply Outcome.Kept.next
    | with_reducible apply Kept.ite
    | with_reducible apply OKept.ite
    | with_reducible refine Kept.ofSnd ?_ (by with_reducible assumption)
    | with_reducible refine Kept.ofSnd2 ?_ (by with_reducible assumption)
    | with_reducible refine Kept.ofFst ?_ (by with_reducible assumption)
    | split
    | dsimp only
    | with_reducible apply State.Kept.flash

theorem State.evtAdvance_kept (hp : Has pp 0x1) (s : State) (slot : Nat) (hk : zz.Kept pp s) :
    zz.Kept pp (State.evtAdvance s slot) := by
  unfold State.evtAdvance
  repeat' first
    | with_reducible assumption
    | ((with_reducible refine Has.mono hp ?_); exact rfl)
    | ((with_reducible refine Has.get hp _ ?_); exact rfl)
    | with_reducible intro _
    | with_reducible apply State.setF_kept
    | with_reducible apply Outcome.Kept.next
    | with_reducible apply Kept.ite
    | with_reducible apply OKept.ite
    | with_reducible refine Kept.ofSnd ?_ (by with_reducible assumption)
    | with_reducible refine Kept.ofSnd2 ?_ (by with_reducible assumption)
    | with_reducible refine Kept.ofFst ?_ (by with_reducible assumption)
    | split
    | dsimp only

end Sys2Proof.Machine
end

