-- ==== Sys2Proof/Laws/KeptFlashWork.lean ====
section
/-! SUPPORT. What the functions of Sys2Proof/Machine/FlashWork.lean keep: one lemma for each, by the lemmas of what it calls. -/
namespace Sys2Proof.Machine

variable {pp : Part → Bool} {zz : State}

theorem State.runCmd_kept (hp : Has pp 0x80) (s : State) (c : DeviceCmd) (hk : zz.Kept pp s) :
    zz.Kept pp (State.runCmd s c) := by
  unfold State.runCmd
  repeat' first
    | with_reducible assumption
    | ((with_reducible refine Has.mono hp ?_); exact rfl)
    | ((with_reducible refine Has.get hp _ ?_); exact rfl)
    | with_reducible intro _
    | with_reducible apply State.erase_kept
    | with_reducible apply State.program_kept
    | with_reducible apply Outcome.Kept.next
    | with_reducible apply Kept.ite
    | with_reducible apply OKept.ite
    | with_reducible refine Kept.ofSnd ?_ (by with_reducible assumption)
    | with_reducible refine Kept.ofSnd2 ?_ (by with_reducible assumption)
    | with_reducible refine Kept.ofFst ?_ (by with_reducible assumption)
    | split
    | dsimp only

theorem State.setWork_kept (hp : Has pp 0x80) (s : State) (l : List (FlashJob × DeviceCmd)) (hk : zz.Kept pp s) :
    zz.Kept pp (State.setWork s l) := by
  unfold State.setWork
  repeat' first
    | with_reducible assumption
    | ((with_reducible refine Has.mono hp ?_); exact rfl)
    | ((with_reducible refine Has.get hp _ ?_); exact rfl)
    | with_reducible intro _
    | with_reducible apply Outcome.Kept.next
    | with_reducible apply Kept.ite
    | with_reducible apply OKept.ite
    | with_reducible refine Kept.ofSnd ?_ (by with_reducible assumption)
    | with_reducible refine Kept.ofSnd2 ?_ (by with_reducible assumption)
    | with_reducible refine Kept.ofFst ?_ (by with_reducible assumption)
    | split
    | dsimp only
    | with_reducible apply State.Kept.flash

theorem State.beginWork_kept (hp : Has pp 0x80) (s : State) (job : FlashJob) (l : List DeviceCmd) (hk : zz.Kept pp s) :
    zz.Kept pp (State.beginWork s job l) := by
  unfold State.beginWork
  repeat' first
    | with_reducible assumption
    | ((with_reducible refine Has.mono hp ?_); exact rfl)
    | ((with_reducible refine Has.get hp _ ?_); exact rfl)
    | with_reducible intro _
    | with_reducible apply State.setWork_kept
    | with_reducible apply Outcome.Kept.next
    | with_reducible apply Kept.ite
    | with_reducible apply OKept.ite
    | with_reducible refine Kept.ofSnd ?_ (by with_reducible assumption)
    | with_reducible refine Kept.ofSnd2 ?_ (by with_reducible assumption)
    | with_reducible refine Kept.ofFst ?_ (by with_reducible assumption)
    | split
    | dsimp only

theorem State.dropJob_kept (hp : Has pp 0x80) (s : State) (job : FlashJob) (hk : zz.Kept pp s) :
    zz.Kept pp (State.dropJob s job) := by
  unfold State.dropJob
  repeat' first
    | with_reducible assumption
    | ((with_reducible refine Has.mono hp ?_); exact rfl)
    | ((with_reducible refine Has.get hp _ ?_); exact rfl)
    | with_reducible intro _
    | with_reducible apply State.setWork_kept
    | with_reducible apply Outcome.Kept.next
    | with_reducible apply Kept.ite
    | with_reducible apply OKept.ite
    | with_reducible refine Kept.ofSnd ?_ (by with_reducible assumption)
    | with_reducible refine Kept.ofSnd2 ?_ (by with_reducible assumption)
    | with_reducible refine Kept.ofFst ?_ (by with_reducible assumption)
    | split
    | dsimp only

theorem State.endJob_kept (hp : Has pp 0x80) (s : State) (job : FlashJob) (hk : zz.Kept pp s) :
    zz.Kept pp (State.endJob s job) := by
  unfold State.endJob
  repeat' first
    | with_reducible assumption
    | ((with_reducible refine Has.mono hp ?_); exact rfl)
    | ((with_reducible refine Has.get hp _ ?_); exact rfl)
    | with_reducible intro _
    | with_reducible apply State.dropJob_kept
    | with_reducible apply State.forEach_kept
    | with_reducible apply State.runCmd_kept
    | with_reducible apply Outcome.Kept.next
    | with_reducible apply Kept.ite
    | with_reducible apply OKept.ite
    | with_reducible refine Kept.ofSnd ?_ (by with_reducible assumption)
    | with_reducible refine Kept.ofSnd2 ?_ (by with_reducible assumption)
    | with_reducible refine Kept.ofFst ?_ (by with_reducible assumption)
    | split
    | dsimp only

theorem State.flashTrace_kept (hp : Has pp 0x400021) (s : State) (kind : Nat) (off : Nat) (hk : zz.Kept pp s) :
    zz.Kept pp (State.flashTrace s kind off) := by
  unfold State.flashTrace
  repeat' first
    | with_reducible assumption
    | ((with_reducible refine Has.mono hp ?_); exact rfl)
    | ((with_reducible refine Has.get hp _ ?_); exact rfl)
    | with_reducible intro _
    | with_reducible apply State.trace_kept
    | with_reducible apply Outcome.Kept.next
    | with_reducible apply Kept.ite
    | with_reducible apply OKept.ite
    | with_reducible refine Kept.ofSnd ?_ (by with_reducible assumption)
    | with_reducible refine Kept.ofSnd2 ?_ (by with_reducible assumption)
    | with_reducible refine Kept.ofFst ?_ (by with_reducible assumption)
    | split
    | dsimp only

theorem State.traceCmd_kept (hp : Has pp 0x400021) (s : State) (c : DeviceCmd) (hk : zz.Kept pp s) :
    zz.Kept pp (State.traceCmd s c) := by
  unfold State.traceCmd
  repeat' first
    | with_reducible assumption
    | ((with_reducible refine Has.mono hp ?_); exact rfl)
    | ((with_reducible refine Has.get hp _ ?_); exact rfl)
    | with_reducible intro _
    | with_reducible apply State.flashTrace_kept
    | with_reducible apply Outcome.Kept.next
    | with_reducible apply Kept.ite
    | with_reducible apply OKept.ite
    | with_reducible refine Kept.ofSnd ?_ (by with_reducible assumption)
    | with_reducible refine Kept.ofSnd2 ?_ (by with_reducible assumption)
    | with_reducible refine Kept.ofFst ?_ (by with_reducible assumption)
    | split
    | dsimp only

theorem State.tearCmd_kept (hp : Has pp 0x20000080) (s : State) (c : DeviceCmd) (hk : zz.Kept pp s) :
    zz.Kept pp (State.tearCmd s c) := by
  unfold State.tearCmd
  repeat' first
    | with_reducible assumption
    | ((with_reducible refine Has.mono hp ?_); exact rfl)
    | ((with_reducible refine Has.get hp _ ?_); exact rfl)
    | with_reducible intro _
    | with_reducible apply State.forEach_kept
    | with_reducible apply State.programByte_kept
    | with_reducible apply Outcome.Kept.next
    | with_reducible apply Kept.ite
    | with_reducible apply OKept.ite
    | with_reducible refine Kept.ofSnd ?_ (by with_reducible assumption)
    | with_reducible refine Kept.ofSnd2 ?_ (by with_reducible assumption)
    | with_reducible refine Kept.ofFst ?_ (by with_reducible assumption)
    | split
    | dsimp only
    | with_reducible apply State.Kept.flash_free
    | with_reducible apply State.Kept.free

theorem State.spoilCopy_kept (hp : Has pp 0x80) (s : State) (c : Copy) (hk : zz.Kept pp s) :
    zz.Kept pp (State.spoilCopy s c) := by
  unfold State.spoilCopy
  repeat' first
    | with_reducible assumption
    | ((with_reducible refine Has.mono hp ?_); exact rfl)
    | ((with_reducible refine Has.get hp _ ?_); exact rfl)
    | with_reducible intro _
    | with_reducible apply State.when_kept
    | with_reducible apply State.erase_kept
    | with_reducible apply Outcome.Kept.next
    | with_reducible apply Kept.ite
    | with_reducible apply OKept.ite
    | with_reducible refine Kept.ofSnd ?_ (by with_reducible assumption)
    | with_reducible refine Kept.ofSnd2 ?_ (by with_reducible assumption)
    | with_reducible refine Kept.ofFst ?_ (by with_reducible assumption)
    | split
    | dsimp only

theorem State.abortCmd_kept (hp : Has pp 0x20000080) (s : State) (c : DeviceCmd) (hk : zz.Kept pp s) :
    zz.Kept pp (State.abortCmd s c) := by
  unfold State.abortCmd
  repeat' first
    | with_reducible assumption
    | ((with_reducible refine Has.mono hp ?_); exact rfl)
    | ((with_reducible refine Has.get hp _ ?_); exact rfl)
    | with_reducible intro _
    | with_reducible apply State.forEach_kept
    | with_reducible apply State.tearCmd_kept
    | with_reducible apply State.spoilCopy_kept
    | with_reducible apply Outcome.Kept.next
    | with_reducible apply Kept.ite
    | with_reducible apply OKept.ite
    | with_reducible refine Kept.ofSnd ?_ (by with_reducible assumption)
    | with_reducible refine Kept.ofSnd2 ?_ (by with_reducible assumption)
    | with_reducible refine Kept.ofFst ?_ (by with_reducible assumption)
    | split
    | dsimp only

theorem State.breakOff_kept (hp : Has pp 0x20000080) (s : State) (l : List DeviceCmd) (hk : zz.Kept pp s) :
    zz.Kept pp (State.breakOff s l) := by
  unfold State.breakOff
  repeat' first
    | with_reducible assumption
    | ((with_reducible refine Has.mono hp ?_); exact rfl)
    | ((with_reducible refine Has.get hp _ ?_); exact rfl)
    | with_reducible intro _
    | with_reducible apply State.drawFree_kept
    | with_reducible apply State.forEach_kept
    | with_reducible apply State.runCmd_kept
    | with_reducible apply State.abortCmd_kept
    | with_reducible apply Outcome.Kept.next
    | with_reducible apply Kept.ite
    | with_reducible apply OKept.ite
    | with_reducible refine Kept.ofSnd ?_ (by with_reducible assumption)
    | with_reducible refine Kept.ofSnd2 ?_ (by with_reducible assumption)
    | with_reducible refine Kept.ofFst ?_ (by with_reducible assumption)
    | split
    | dsimp only

theorem State.cutJob_kept (hp : Has pp 0x20000080) (s : State) (job : FlashJob) (hk : zz.Kept pp s) :
    zz.Kept pp (State.cutJob s job) := by
  unfold State.cutJob
  repeat' first
    | with_reducible assumption
    | ((with_reducible refine Has.mono hp ?_); exact rfl)
    | ((with_reducible refine Has.get hp _ ?_); exact rfl)
    | with_reducible intro _
    | with_reducible apply State.dropJob_kept
    | with_reducible apply State.breakOff_kept
    | with_reducible apply Outcome.Kept.next
    | with_reducible apply Kept.ite
    | with_reducible apply OKept.ite
    | with_reducible refine Kept.ofSnd ?_ (by with_reducible assumption)
    | with_reducible refine Kept.ofSnd2 ?_ (by with_reducible assumption)
    | with_reducible refine Kept.ofFst ?_ (by with_reducible assumption)
    | split
    | dsimp only

theorem State.tryCmds_kept (hp : Has pp 0x204000a1) (s : State) (ok : Bool) (l : List DeviceCmd) (hk : zz.Kept pp s) :
    zz.Kept pp (State.tryCmds s ok l).1 := by
  unfold State.tryCmds
  repeat' first
    | with_reducible assumption
    | ((with_reducible refine Has.mono hp ?_); exact rfl)
    | ((with_reducible refine Has.get hp _ ?_); exact rfl)
    | with_reducible intro _
    | with_reducible apply State.forEach_kept
    | with_reducible apply State.runCmd_kept
    | with_reducible apply State.traceCmd_kept
    | with_reducible apply State.drawFree_kept
    | with_reducible apply State.tearCmd_kept
    | with_reducible apply Outcome.Kept.next
    | with_reducible apply Kept.ite
    | with_reducible apply OKept.ite
    | with_reducible refine Kept.ofSnd ?_ (by with_reducible assumption)
    | with_reducible refine Kept.ofSnd2 ?_ (by with_reducible assumption)
    | with_reducible refine Kept.ofFst ?_ (by with_reducible assumption)
    | split
    | dsimp only

theorem State.workNow_kept (hp : Has pp 0x20000000) (s : State) (hk : zz.Kept pp s) :
    zz.Kept pp (State.workNow s).2 := by
  unfold State.workNow
  repeat' first
    | with_reducible assumption
    | ((with_reducible refine Has.mono hp ?_); exact rfl)
    | ((with_reducible refine Has.get hp _ ?_); exact rfl)
    | with_reducible intro _
    | with_reducible apply State.drawFree_kept
    | with_reducible apply Outcome.Kept.next
    | with_reducible apply Kept.ite
    | with_reducible apply OKept.ite
    | with_reducible refine Kept.ofSnd ?_ (by with_reducible assumption)
    | with_reducible refine Kept.ofSnd2 ?_ (by with_reducible assumption)
    | with_reducible refine Kept.ofFst ?_ (by with_reducible assumption)
    | split
    | dsimp only

theorem State.stopWork_kept (hp : Has pp 0x20000080) (s : State) (hk : zz.Kept pp s) :
    zz.Kept pp (State.stopWork s) := by
  unfold State.stopWork
  repeat' first
    | with_reducible assumption
    | ((with_reducible refine Has.mono hp ?_); exact rfl)
    | ((with_reducible refine Has.get hp _ ?_); exact rfl)
    | with_reducible intro _
    | with_reducible apply State.workNow_kept
    | with_reducible apply State.drawFree_kept
    | with_reducible apply State.setWork_kept
    | with_reducible apply State.forEach_kept
    | with_reducible apply State.runCmd_kept
    | with_reducible apply Outcome.Kept.next
    | with_reducible apply Kept.ite
    | with_reducible apply OKept.ite
    | with_reducible refine Kept.ofSnd ?_ (by with_reducible assumption)
    | with_reducible refine Kept.ofSnd2 ?_ (by with_reducible assumption)
    | with_reducible refine Kept.ofFst ?_ (by with_reducible assumption)
    | split
    | dsimp only

theorem State.abortWork_kept (hp : Has pp 0x20000080) (s : State) (l : List DeviceCmd) (hk : zz.Kept pp s) :
    zz.Kept pp (State.abortWork s l) := by
  unfold State.abortWork
  repeat' first
    | with_reducible assumption
    | ((with_reducible refine Has.mono hp ?_); exact rfl)
    | ((with_reducible refine Has.get hp _ ?_); exact rfl)
    | with_reducible intro _
    | with_reducible apply State.setWork_kept
    | with_reducible apply State.breakOff_kept
    | with_reducible apply Outcome.Kept.next
    | with_reducible apply Kept.ite
    | with_reducible apply OKept.ite
    | with_reducible refine Kept.ofSnd ?_ (by with_reducible assumption)
    | with_reducible refine Kept.ofSnd2 ?_ (by with_reducible assumption)
    | with_reducible refine Kept.ofFst ?_ (by with_reducible assumption)
    | split
    | dsimp only

end Sys2Proof.Machine
end

