-- ==== Sys2Proof/Laws/KeptTrip.lean ====
section
/-! SUPPORT. What the functions of Sys2Proof/Machine/Trip.lean keep: one lemma for each, by the lemmas of what it calls. -/
namespace Sys2Proof.Machine

variable {pp : Part → Bool} {zz : State}

theorem State.tripProgram_kept (hp : Has pp 0x201) (s : State) (start : Nat) (hk : zz.Kept pp s) :
    zz.Kept pp (State.tripProgram s start) := by
  unfold State.tripProgram
  repeat' first
    | with_reducible assumption
    | ((with_reducible refine Has.mono hp ?_); exact rfl)
    | ((with_reducible refine Has.get hp _ ?_); exact rfl)
    | with_reducible intro _
    | with_reducible apply State.setF_kept
    | with_reducible apply State.when_kept
    | with_reducible apply Outcome.Kept.next
    | with_reducible apply Kept.ite
    | with_reducible apply OKept.ite
    | with_reducible refine Kept.ofSnd ?_ (by with_reducible assumption)
    | with_reducible refine Kept.ofSnd2 ?_ (by with_reducible assumption)
    | with_reducible refine Kept.ofFst ?_ (by with_reducible assumption)
    | split
    | dsimp only
    | with_reducible apply State.Kept.trip

theorem State.tripTake_kept (hp : Has pp 0x20000281) (s : State) (c : TripCause) (hk : zz.Kept pp s) :
    zz.Kept pp (State.tripTake s c) := by
  unfold State.tripTake
  repeat' first
    | with_reducible assumption
    | ((with_reducible refine Has.mono hp ?_); exact rfl)
    | ((with_reducible refine Has.get hp _ ?_); exact rfl)
    | with_reducible intro _
    | with_reducible apply State.workNow_kept
    | with_reducible apply State.when_kept
    | with_reducible apply State.setF_kept
    | with_reducible apply State.abortWork_kept
    | with_reducible apply State.tripProgram_kept
    | with_reducible apply Outcome.Kept.next
    | with_reducible apply Kept.ite
    | with_reducible apply OKept.ite
    | with_reducible refine Kept.ofSnd ?_ (by with_reducible assumption)
    | with_reducible refine Kept.ofSnd2 ?_ (by with_reducible assumption)
    | with_reducible refine Kept.ofFst ?_ (by with_reducible assumption)
    | split
    | dsimp only
    | with_reducible apply State.Kept.trip
    | with_reducible apply State.Kept.flash_trip

theorem State.powerOff_kept (hp : Has pp 0xc08431) (s : State) (hk : zz.Kept pp s) :
    zz.Kept pp (State.powerOff s) := by
  unfold State.powerOff
  repeat' first
    | with_reducible assumption
    | ((with_reducible refine Has.mono hp ?_); exact rfl)
    | ((with_reducible refine Has.get hp _ ?_); exact rfl)
    | with_reducible exact (rfl : _ = _)
    | with_reducible exact id
    | (((with_reducible intro _); rfl))
    | with_reducible intro _
    | with_reducible apply State.forEach_kept
    | with_reducible apply State.setDom_kept
    | with_reducible apply State.settleBrake_kept
    | with_reducible apply State.setF_kept
    | with_reducible apply State.latchWord_kept
    | with_reducible apply Outcome.Kept.next
    | with_reducible apply Kept.ite
    | with_reducible apply OKept.ite
    | with_reducible refine Kept.ofSnd ?_ (by with_reducible assumption)
    | with_reducible refine Kept.ofSnd2 ?_ (by with_reducible assumption)
    | with_reducible refine Kept.ofFst ?_ (by with_reducible assumption)
    | split
    | dsimp only
    | with_reducible apply State.Kept.pins
    | with_reducible apply State.Kept.supply

theorem State.powerOffDue_kept (hp : Has pp 0xc08631) (s : State) (hk : zz.Kept pp s) :
    zz.Kept pp (State.powerOffDue s) := by
  unfold State.powerOffDue
  repeat' first
    | with_reducible assumption
    | ((with_reducible refine Has.mono hp ?_); exact rfl)
    | ((with_reducible refine Has.get hp _ ?_); exact rfl)
    | with_reducible intro _
    | with_reducible apply State.when_kept
    | with_reducible apply State.powerOff_kept
    | with_reducible apply Outcome.Kept.next
    | with_reducible apply Kept.ite
    | with_reducible apply OKept.ite
    | with_reducible refine Kept.ofSnd ?_ (by with_reducible assumption)
    | with_reducible refine Kept.ofSnd2 ?_ (by with_reducible assumption)
    | with_reducible refine Kept.ofFst ?_ (by with_reducible assumption)
    | split
    | dsimp only
    | with_reducible apply State.Kept.trip

end Sys2Proof.Machine
end

