-- ==== Sys2Proof/Laws/KeptRails.lean ====
section
/-! SUPPORT. What the functions of Sys2Proof/Machine/Rails.lean keep: one lemma for each, by the lemmas of what it calls. -/
namespace Sys2Proof.Machine

variable {pp : Part → Bool} {zz : State}

theorem State.railEvent_kept (hp : Has pp 0xc00031) (s : State) (k : Nat) (m : Nat) (hk : zz.Kept pp s) :
    zz.Kept pp (State.railEvent s k m) := by
  unfold State.railEvent
  repeat' first
    | with_reducible assumption
    | ((with_reducible refine Has.mono hp ?_); exact rfl)
    | ((with_reducible refine Has.get hp _ ?_); exact rfl)
    | with_reducible intro _
    | with_reducible apply State.orF_kept
    | with_reducible apply State.latchPm_kept
    | with_reducible apply State.trace_kept
    | with_reducible apply Outcome.Kept.next
    | with_reducible apply Kept.ite
    | with_reducible apply OKept.ite
    | with_reducible refine Kept.ofSnd ?_ (by with_reducible assumption)
    | with_reducible refine Kept.ofSnd2 ?_ (by with_reducible assumption)
    | with_reducible refine Kept.ofFst ?_ (by with_reducible assumption)
    | split
    | dsimp only

theorem State.setPhaseState_kept (hp : Has pp 0x8400021) (s : State) (p : Nat) (st : Nat) (hk : zz.Kept pp s) :
    zz.Kept pp (State.setPhaseState s p st) := by
  unfold State.setPhaseState
  repeat' first
    | with_reducible assumption
    | ((with_reducible refine Has.mono hp ?_); exact rfl)
    | ((with_reducible refine Has.get hp _ ?_); exact rfl)
    | with_reducible intro _
    | with_reducible apply State.setF_kept
    | with_reducible apply State.when_kept
    | with_reducible apply State.trace_kept
    | with_reducible apply Outcome.Kept.next
    | with_reducible apply Kept.ite
    | with_reducible apply OKept.ite
    | with_reducible refine Kept.ofSnd ?_ (by with_reducible assumption)
    | with_reducible refine Kept.ofSnd2 ?_ (by with_reducible assumption)
    | with_reducible refine Kept.ofFst ?_ (by with_reducible assumption)
    | split
    | dsimp only
    | with_reducible apply State.Kept.health

theorem State.setPwm_kept (hp : Has pp 0x1000) (s : State) (p : Nat) (w : Pwm) (hk : zz.Kept pp s) :
    zz.Kept pp (State.setPwm s p w) := by
  unfold State.setPwm
  repeat' first
    | with_reducible assumption
    | ((with_reducible refine Has.mono hp ?_); exact rfl)
    | ((with_reducible refine Has.get hp _ ?_); exact rfl)
    | with_reducible intro _
    | with_reducible apply State.setPhase_kept
    | with_reducible apply Outcome.Kept.next
    | with_reducible apply Kept.ite
    | with_reducible apply OKept.ite
    | with_reducible refine Kept.ofSnd ?_ (by with_reducible assumption)
    | with_reducible refine Kept.ofSnd2 ?_ (by with_reducible assumption)
    | with_reducible refine Kept.ofFst ?_ (by with_reducible assumption)
    | split
    | dsimp only

theorem State.recomputeIlim_kept (hp : Has pp 0x200000001) (s : State) (k : Nat) (hk : zz.Kept pp s) :
    zz.Kept pp (State.recomputeIlim s k) := by
  unfold State.recomputeIlim
  repeat' first
    | with_reducible assumption
    | ((with_reducible refine Has.mono hp ?_); exact rfl)
    | ((with_reducible refine Has.get hp _ ?_); exact rfl)
    | with_reducible intro _
    | with_reducible apply State.setF_kept
    | with_reducible apply State.keepLate_kept
    | with_reducible apply Outcome.Kept.next
    | with_reducible apply Kept.ite
    | with_reducible apply OKept.ite
    | with_reducible refine Kept.ofSnd ?_ (by with_reducible assumption)
    | with_reducible refine Kept.ofSnd2 ?_ (by with_reducible assumption)
    | with_reducible refine Kept.ofFst ?_ (by with_reducible assumption)
    | split
    | dsimp only

theorem State.retarget_kept (hp : Has pp 0x200000001) (s : State) (k : Nat) (hk : zz.Kept pp s) :
    zz.Kept pp (State.retarget s k) := by
  unfold State.retarget
  repeat' first
    | with_reducible assumption
    | ((with_reducible refine Has.mono hp ?_); exact rfl)
    | ((with_reducible refine Has.get hp _ ?_); exact rfl)
    | with_reducible intro _
    | with_reducible apply State.setF_kept
    | with_reducible apply State.keepLate_kept
    | with_reducible apply Outcome.Kept.next
    | with_reducible apply Kept.ite
    | with_reducible apply OKept.ite
    | with_reducible refine Kept.ofSnd ?_ (by with_reducible assumption)
    | with_reducible refine Kept.ofSnd2 ?_ (by with_reducible assumption)
    | with_reducible refine Kept.ofFst ?_ (by with_reducible assumption)
    | split
    | dsimp only

theorem State.imposeDrag_kept (hp : Has pp 0xc00831) (s : State) (k : Nat) (hk : zz.Kept pp s) :
    zz.Kept pp (State.imposeDrag s k) := by
  unfold State.imposeDrag
  repeat' first
    | with_reducible assumption
    | ((with_reducible refine Has.mono hp ?_); exact rfl)
    | ((with_reducible refine Has.get hp _ ?_); exact rfl)
    | with_reducible intro _
    | with_reducible apply State.setRail_kept
    | with_reducible apply State.railEvent_kept
    | with_reducible apply State.setF_kept
    | with_reducible apply Outcome.Kept.next
    | with_reducible apply Kept.ite
    | with_reducible apply OKept.ite
    | with_reducible refine Kept.ofSnd ?_ (by with_reducible assumption)
    | with_reducible refine Kept.ofSnd2 ?_ (by with_reducible assumption)
    | with_reducible refine Kept.ofFst ?_ (by with_reducible assumption)
    | split
    | dsimp only

theorem State.dropDrag_kept (hp : Has pp 0x800) (s : State) (k : Nat) (hk : zz.Kept pp s) :
    zz.Kept pp (State.dropDrag s k) := by
  unfold State.dropDrag
  repeat' first
    | with_reducible assumption
    | ((with_reducible refine Has.mono hp ?_); exact rfl)
    | ((with_reducible refine Has.get hp _ ?_); exact rfl)
    | with_reducible intro _
    | with_reducible apply State.when_kept
    | with_reducible apply State.setRail_kept
    | with_reducible apply Outcome.Kept.next
    | with_reducible apply Kept.ite
    | with_reducible apply OKept.ite
    | with_reducible refine Kept.ofSnd ?_ (by with_reducible assumption)
    | with_reducible refine Kept.ofSnd2 ?_ (by with_reducible assumption)
    | with_reducible refine Kept.ofFst ?_ (by with_reducible assumption)
    | split
    | dsimp only

theorem State.dragAfterCut_kept (hp : Has pp 0xc00831) (s : State) (k : Nat) (hk : zz.Kept pp s) :
    zz.Kept pp (State.dragAfterCut s k) := by
  unfold State.dragAfterCut
  repeat' first
    | with_reducible assumption
    | ((with_reducible refine Has.mono hp ?_); exact rfl)
    | ((with_reducible refine Has.get hp _ ?_); exact rfl)
    | with_reducible intro _
    | with_reducible apply State.imposeDrag_kept
    | with_reducible apply State.dropDrag_kept
    | with_reducible apply Outcome.Kept.next
    | with_reducible apply Kept.ite
    | with_reducible apply OKept.ite
    | with_reducible refine Kept.ofSnd ?_ (by with_reducible assumption)
    | with_reducible refine Kept.ofSnd2 ?_ (by with_reducible assumption)
    | with_reducible refine Kept.ofFst ?_ (by with_reducible assumption)
    | split
    | dsimp only

theorem State.followLimit_kept (hp : Has pp 0x200c00831) (s : State) (k : Nat) (hk : zz.Kept pp s) :
    zz.Kept pp (State.followLimit s k) := by
  unfold State.followLimit
  repeat' first
    | with_reducible assumption
    | ((with_reducible refine Has.mono hp ?_); exact rfl)
    | ((with_reducible refine Has.get hp _ ?_); exact rfl)
    | with_reducible intro _
    | with_reducible apply State.recomputeIlim_kept
    | with_reducible apply State.when_kept
    | with_reducible apply State.imposeDrag_kept
    | with_reducible apply Outcome.Kept.next
    | with_reducible apply Kept.ite
    | with_reducible apply OKept.ite
    | with_reducible refine Kept.ofSnd ?_ (by with_reducible assumption)
    | with_reducible refine Kept.ofSnd2 ?_ (by with_reducible assumption)
    | with_reducible refine Kept.ofFst ?_ (by with_reducible assumption)
    | split
    | dsimp only

theorem State.holdLoadLine_kept (hp : Has pp 0x800) (s : State) (k : Nat) (h : Nat) (rll : Nat) (hk : zz.Kept pp s) :
    zz.Kept pp (State.holdLoadLine s k h rll) := by
  unfold State.holdLoadLine
  repeat' first
    | with_reducible assumption
    | ((with_reducible refine Has.mono hp ?_); exact rfl)
    | ((with_reducible refine Has.get hp _ ?_); exact rfl)
    | with_reducible intro _
    | with_reducible apply State.when_kept
    | with_reducible apply State.setRail_kept
    | with_reducible apply Outcome.Kept.next
    | with_reducible apply Kept.ite
    | with_reducible apply OKept.ite
    | with_reducible refine Kept.ofSnd ?_ (by with_reducible assumption)
    | with_reducible refine Kept.ofSnd2 ?_ (by with_reducible assumption)
    | with_reducible refine Kept.ofFst ?_ (by with_reducible assumption)
    | split
    | dsimp only

theorem State.railOff_kept (hp : Has pp 0x8c01031) (s : State) (k : Nat) (hk : zz.Kept pp s) :
    zz.Kept pp (State.railOff s k) := by
  unfold State.railOff
  repeat' first
    | with_reducible assumption
    | ((with_reducible refine Has.mono hp ?_); exact rfl)
    | ((with_reducible refine Has.get hp _ ?_); exact rfl)
    | with_reducible intro _
    | with_reducible apply State.forEach_kept
    | with_reducible apply State.setPwm_kept
    | with_reducible apply State.setPhaseState_kept
    | with_reducible apply State.when_kept
    | with_reducible apply State.latchWord_kept
    | with_reducible apply State.setF_kept
    | with_reducible apply Outcome.Kept.next
    | with_reducible apply Kept.ite
    | with_reducible apply OKept.ite
    | with_reducible refine Kept.ofSnd ?_ (by with_reducible assumption)
    | with_reducible refine Kept.ofSnd2 ?_ (by with_reducible assumption)
    | with_reducible refine Kept.ofFst ?_ (by with_reducible assumption)
    | split
    | dsimp only

theorem State.railFaultAt_kept (hp : Has pp 0x28c012b1) (s : State) (k : Nat) (limit : Nat) (lastPhase : Bool) (hk : zz.Kept pp s) :
    zz.Kept pp (State.railFaultAt s k limit lastPhase) := by
  unfold State.railFaultAt
  repeat' first
    | with_reducible assumption
    | ((with_reducible refine Has.mono hp ?_); exact rfl)
    | ((with_reducible refine Has.get hp _ ?_); exact rfl)
    | with_reducible intro _
    | with_reducible apply State.setF_kept
    | with_reducible apply State.railOff_kept
    | with_reducible apply State.railEvent_kept
    | with_reducible apply State.tripTake_kept
    | with_reducible apply Outcome.Kept.next
    | with_reducible apply Kept.ite
    | with_reducible apply OKept.ite
    | with_reducible refine Kept.ofSnd ?_ (by with_reducible assumption)
    | with_reducible refine Kept.ofSnd2 ?_ (by with_reducible assumption)
    | with_reducible refine Kept.ofFst ?_ (by with_reducible assumption)
    | split
    | dsimp only

theorem State.afterFailure_kept (hp : Has pp 0x28c012b1) (s : State) (k : Nat) (hk : zz.Kept pp s) :
    zz.Kept pp (State.afterFailure s k) := by
  unfold State.afterFailure
  repeat' first
    | with_reducible assumption
    | ((with_reducible refine Has.mono hp ?_); exact rfl)
    | ((with_reducible refine Has.get hp _ ?_); exact rfl)
    | with_reducible intro _
    | with_reducible apply State.when_kept
    | with_reducible apply State.railEvent_kept
    | with_reducible apply State.setF_kept
    | with_reducible apply State.railFaultAt_kept
    | with_reducible apply Outcome.Kept.next
    | with_reducible apply Kept.ite
    | with_reducible apply OKept.ite
    | with_reducible refine Kept.ofSnd ?_ (by with_reducible assumption)
    | with_reducible refine Kept.ofSnd2 ?_ (by with_reducible assumption)
    | with_reducible refine Kept.ofFst ?_ (by with_reducible assumption)
    | split
    | dsimp only

theorem State.failOpen_kept (hp : Has pp 0x228c01af1) (s : State) (k : Nat) (l : List Nat) (hk : zz.Kept pp s) :
    zz.Kept pp (State.failOpen s k l) := by
  unfold State.failOpen
  repeat' first
    | with_reducible assumption
    | ((with_reducible refine Has.mono hp ?_); exact rfl)
    | ((with_reducible refine Has.get hp _ ?_); exact rfl)
    | with_reducible intro _
    | with_reducible apply State.forEach_kept
    | with_reducible apply State.railEvent_kept
    | with_reducible apply State.setPhaseState_kept
    | with_reducible apply State.setPwm_kept
    | with_reducible apply State.setRail_kept
    | with_reducible apply State.settleFleet_kept
    | with_reducible apply State.afterFailure_kept
    | with_reducible apply State.dragAfterCut_kept
    | with_reducible apply State.recomputeIlim_kept
    | with_reducible apply Outcome.Kept.after
    | with_reducible apply Outcome.Kept.next
    | with_reducible apply Kept.ite
    | with_reducible apply OKept.ite
    | with_reducible refine Kept.ofSnd ?_ (by with_reducible assumption)
    | with_reducible refine Kept.ofSnd2 ?_ (by with_reducible assumption)
    | with_reducible refine Kept.ofFst ?_ (by with_reducible assumption)
    | split
    | dsimp only

theorem State.failSense_kept (hp : Has pp 0x208c00831) (s : State) (k : Nat) (l : List Nat) (imbalance : Bool) (hk : zz.Kept pp s) :
    zz.Kept pp (State.failSense s k l imbalance) := by
  unfold State.failSense
  repeat' first
    | with_reducible assumption
    | ((with_reducible refine Has.mono hp ?_); exact rfl)
    | ((with_reducible refine Has.get hp _ ?_); exact rfl)
    | with_reducible intro _
    | with_reducible apply State.forEach_kept
    | with_reducible apply State.railEvent_kept
    | with_reducible apply State.setPhaseState_kept
    | with_reducible apply State.setRail_kept
    | with_reducible apply State.dragAfterCut_kept
    | with_reducible apply State.recomputeIlim_kept
    | with_reducible apply Outcome.Kept.next
    | with_reducible apply Kept.ite
    | with_reducible apply OKept.ite
    | with_reducible refine Kept.ofSnd ?_ (by with_reducible assumption)
    | with_reducible refine Kept.ofSnd2 ?_ (by with_reducible assumption)
    | with_reducible refine Kept.ofFst ?_ (by with_reducible assumption)
    | split
    | dsimp only

theorem State.cutPulse_kept (hp : Has pp 0x1000) (s : State) (p : Nat) (hk : zz.Kept pp s) :
    zz.Kept pp (State.cutPulse s p) := by
  unfold State.cutPulse
  repeat' first
    | with_reducible assumption
    | ((with_reducible refine Has.mono hp ?_); exact rfl)
    | ((with_reducible refine Has.get hp _ ?_); exact rfl)
    | with_reducible intro _
    | with_reducible apply State.setPhase_kept
    | with_reducible apply Outcome.Kept.next
    | with_reducible apply Kept.ite
    | with_reducible apply OKept.ite
    | with_reducible refine Kept.ofSnd ?_ (by with_reducible assumption)
    | with_reducible refine Kept.ofSnd2 ?_ (by with_reducible assumption)
    | with_reducible refine Kept.ofFst ?_ (by with_reducible assumption)
    | split
    | dsimp only

theorem State.respace_kept (hp : Has pp 0x1000) (s : State) (k : Nat) (hk : zz.Kept pp s) :
    zz.Kept pp (State.respace s k) := by
  unfold State.respace
  repeat' first
    | with_reducible assumption
    | ((with_reducible refine Has.mono hp ?_); exact rfl)
    | ((with_reducible refine Has.get hp _ ?_); exact rfl)
    | with_reducible intro _
    | with_reducible apply State.forEach_kept
    | with_reducible apply State.setPhase_kept
    | with_reducible apply Outcome.Kept.next
    | with_reducible apply Kept.ite
    | with_reducible apply OKept.ite
    | with_reducible refine Kept.ofSnd ?_ (by with_reducible assumption)
    | with_reducible refine Kept.ofSnd2 ?_ (by with_reducible assumption)
    | with_reducible refine Kept.ofFst ?_ (by with_reducible assumption)
    | split
    | dsimp only

theorem State.shiftEdges_kept (hp : Has pp 0x1000) (s : State) (hk : zz.Kept pp s) :
    zz.Kept pp (State.shiftEdges s) := by
  unfold State.shiftEdges
  repeat' first
    | with_reducible assumption
    | ((with_reducible refine Has.mono hp ?_); exact rfl)
    | ((with_reducible refine Has.get hp _ ?_); exact rfl)
    | with_reducible intro _
    | with_reducible apply State.forEach_kept
    | with_reducible apply State.setPhase_kept
    | with_reducible apply Outcome.Kept.next
    | with_reducible apply Kept.ite
    | with_reducible apply OKept.ite
    | with_reducible refine Kept.ofSnd ?_ (by with_reducible assumption)
    | with_reducible refine Kept.ofSnd2 ?_ (by with_reducible assumption)
    | with_reducible refine Kept.ofFst ?_ (by with_reducible assumption)
    | split
    | dsimp only

theorem State.endPulses_kept (hp : Has pp 0x1000) (s : State) (k : Nat) (catchUp : Bool) (hk : zz.Kept pp s) :
    zz.Kept pp (State.endPulses s k catchUp) := by
  unfold State.endPulses
  repeat' first
    | with_reducible assumption
    | ((with_reducible refine Has.mono hp ?_); exact rfl)
    | ((with_reducible refine Has.get hp _ ?_); exact rfl)
    | with_reducible intro _
    | with_reducible apply State.forEach_kept
    | with_reducible apply State.setPhase_kept
    | with_reducible apply Outcome.Kept.next
    | with_reducible apply Kept.ite
    | with_reducible apply OKept.ite
    | with_reducible refine Kept.ofSnd ?_ (by with_reducible assumption)
    | with_reducible refine Kept.ofSnd2 ?_ (by with_reducible assumption)
    | with_reducible refine Kept.ofFst ?_ (by with_reducible assumption)
    | split
    | dsimp only

theorem State.controlRail_kept (hp : Has pp 0x1800) (s : State) (k : Nat) (catchUp : Bool) (hk : zz.Kept pp s) :
    zz.Kept pp (State.controlRail s k catchUp) := by
  unfold State.controlRail
  repeat' first
    | with_reducible assumption
    | ((with_reducible refine Has.mono hp ?_); exact rfl)
    | ((with_reducible refine Has.get hp _ ?_); exact rfl)
    | with_reducible intro _
    | with_reducible apply State.setRail_kept
    | with_reducible apply State.forEach_kept
    | with_reducible apply State.setPwm_kept
    | with_reducible apply State.setPhase_kept
    | with_reducible apply Outcome.Kept.next
    | with_reducible apply Kept.ite
    | with_reducible apply OKept.ite
    | with_reducible refine Kept.ofSnd ?_ (by with_reducible assumption)
    | with_reducible refine Kept.ofSnd2 ?_ (by with_reducible assumption)
    | with_reducible refine Kept.ofFst ?_ (by with_reducible assumption)
    | split
    | dsimp only

theorem State.endOvHold_kept (hp : Has pp 0x1001) (s : State) (k : Nat) (hk : zz.Kept pp s) :
    zz.Kept pp (State.endOvHold s k) := by
  unfold State.endOvHold
  repeat' first
    | with_reducible assumption
    | ((with_reducible refine Has.mono hp ?_); exact rfl)
    | ((with_reducible refine Has.get hp _ ?_); exact rfl)
    | with_reducible intro _
    | with_reducible apply State.forEach_kept
    | with_reducible apply State.setF_kept
    | with_reducible apply State.when_kept
    | with_reducible apply State.setPwm_kept
    | with_reducible apply Outcome.Kept.next
    | with_reducible apply Kept.ite
    | with_reducible apply OKept.ite
    | with_reducible refine Kept.ofSnd ?_ (by with_reducible assumption)
    | with_reducible refine Kept.ofSnd2 ?_ (by with_reducible assumption)
    | with_reducible refine Kept.ofFst ?_ (by with_reducible assumption)
    | split
    | dsimp only

theorem State.watchRail_kept (hp : Has pp 0x1801) (s : State) (k : Nat) (hk : zz.Kept pp s) :
    zz.Kept pp (State.watchRail s k) := by
  unfold State.watchRail
  repeat' first
    | with_reducible assumption
    | ((with_reducible refine Has.mono hp ?_); exact rfl)
    | ((with_reducible refine Has.get hp _ ?_); exact rfl)
    | with_reducible intro _
    | with_reducible apply State.when_kept
    | with_reducible apply State.endOvHold_kept
    | with_reducible apply State.setRail_kept
    | with_reducible apply Outcome.Kept.next
    | with_reducible apply Kept.ite
    | with_reducible apply OKept.ite
    | with_reducible refine Kept.ofSnd ?_ (by with_reducible assumption)
    | with_reducible refine Kept.ofSnd2 ?_ (by with_reducible assumption)
    | with_reducible refine Kept.ofFst ?_ (by with_reducible assumption)
    | split
    | dsimp only

theorem State.tickWork_kept (hp : Has pp 0xc09e31) (s : State) (catchUp : Bool) (hk : zz.Kept pp s) :
    zz.Kept pp (State.tickWork s catchUp) := by
  unfold State.tickWork
  repeat' first
    | with_reducible assumption
    | ((with_reducible refine Has.mono hp ?_); exact rfl)
    | ((with_reducible refine Has.get hp _ ?_); exact rfl)
    | with_reducible intro _
    | with_reducible apply State.forEach_kept
    | with_reducible apply State.powerOffDue_kept
    | with_reducible apply State.watchRail_kept
    | with_reducible apply State.controlRail_kept
    | with_reducible apply State.endPulses_kept
    | with_reducible apply Outcome.Kept.next
    | with_reducible apply Kept.ite
    | with_reducible apply OKept.ite
    | with_reducible refine Kept.ofSnd ?_ (by with_reducible assumption)
    | with_reducible refine Kept.ofSnd2 ?_ (by with_reducible assumption)
    | with_reducible refine Kept.ofFst ?_ (by with_reducible assumption)
    | split
    | dsimp only

theorem State.estimate_kept (hp : Has pp 0x1) (s : State) (k : Nat) (hk : zz.Kept pp s) :
    zz.Kept pp (State.estimate s k) := by
  unfold State.estimate
  repeat' first
    | with_reducible assumption
    | ((with_reducible refine Has.mono hp ?_); exact rfl)
    | ((with_reducible refine Has.get hp _ ?_); exact rfl)
    | with_reducible intro _
    | with_reducible apply State.setF_kept
    | with_reducible apply State.forEach_kept
    | with_reducible apply State.satF_kept
    | with_reducible apply Outcome.Kept.next
    | with_reducible apply Kept.ite
    | with_reducible apply OKept.ite
    | with_reducible refine Kept.ofSnd ?_ (by with_reducible assumption)
    | with_reducible refine Kept.ofSnd2 ?_ (by with_reducible assumption)
    | with_reducible refine Kept.ofFst ?_ (by with_reducible assumption)
    | split
    | dsimp only

theorem State.recomputePerm_kept (hp : Has pp 0x200000001) (s : State) (k : Nat) (hk : zz.Kept pp s) :
    zz.Kept pp (State.recomputePerm s k) := by
  unfold State.recomputePerm
  repeat' first
    | with_reducible assumption
    | ((with_reducible refine Has.mono hp ?_); exact rfl)
    | ((with_reducible refine Has.get hp _ ?_); exact rfl)
    | with_reducible intro _
    | with_reducible apply State.forEach_kept
    | with_reducible apply State.setF_kept
    | with_reducible apply State.keepLate_kept
    | with_reducible apply Outcome.Kept.next
    | with_reducible apply Kept.ite
    | with_reducible apply OKept.ite
    | with_reducible refine Kept.ofSnd ?_ (by with_reducible assumption)
    | with_reducible refine Kept.ofSnd2 ?_ (by with_reducible assumption)
    | with_reducible refine Kept.ofFst ?_ (by with_reducible assumption)
    | split
    | dsimp only

theorem State.finishVset_kept (hp : Has pp 0x1) (s : State) (k : Nat) (status : Nat) (hk : zz.Kept pp s) :
    zz.Kept pp (State.finishVset s k status) := by
  unfold State.finishVset
  repeat' first
    | with_reducible assumption
    | ((with_reducible refine Has.mono hp ?_); exact rfl)
    | ((with_reducible refine Has.get hp _ ?_); exact rfl)
    | with_reducible intro _
    | with_reducible apply State.setF_kept
    | with_reducible apply Outcome.Kept.next
    | with_reducible apply Kept.ite
    | with_reducible apply OKept.ite
    | with_reducible refine Kept.ofSnd ?_ (by with_reducible assumption)
    | with_reducible refine Kept.ofSnd2 ?_ (by with_reducible assumption)
    | with_reducible refine Kept.ofFst ?_ (by with_reducible assumption)
    | split
    | dsimp only

theorem State.seqStep_kept (hp : Has pp 0x200400821) (s : State) (demanded : Nat → Bool) (k : Nat) (hk : zz.Kept pp s) :
    zz.Kept pp (State.seqStep s demanded k) := by
  unfold State.seqStep
  repeat' first
    | with_reducible assumption
    | ((with_reducible refine Has.mono hp ?_); exact rfl)
    | ((with_reducible refine Has.get hp _ ?_); exact rfl)
    | with_reducible intro _
    | with_reducible apply State.when_kept
    | with_reducible apply State.setF_kept
    | with_reducible apply State.incF_kept
    | with_reducible apply State.trace_kept
    | with_reducible apply State.setRail_kept
    | with_reducible apply State.finishVset_kept
    | with_reducible apply State.recomputePerm_kept
    | with_reducible apply Outcome.Kept.next
    | with_reducible apply Kept.ite
    | with_reducible apply OKept.ite
    | with_reducible refine Kept.ofSnd ?_ (by with_reducible assumption)
    | with_reducible refine Kept.ofSnd2 ?_ (by with_reducible assumption)
    | with_reducible refine Kept.ofFst ?_ (by with_reducible assumption)
    | split
    | dsimp only

theorem State.startStep_kept (hp : Has pp 0x200000801) (s : State) (k : Nat) (hk : zz.Kept pp s) :
    zz.Kept pp (State.startStep s k) := by
  unfold State.startStep
  repeat' first
    | with_reducible assumption
    | ((with_reducible refine Has.mono hp ?_); exact rfl)
    | ((with_reducible refine Has.get hp _ ?_); exact rfl)
    | with_reducible intro _
    | with_reducible apply State.setRail_kept
    | with_reducible apply State.recomputePerm_kept
    | with_reducible apply State.setF_kept
    | with_reducible apply Outcome.Kept.next
    | with_reducible apply Kept.ite
    | with_reducible apply OKept.ite
    | with_reducible refine Kept.ofSnd ?_ (by with_reducible assumption)
    | with_reducible refine Kept.ofSnd2 ?_ (by with_reducible assumption)
    | with_reducible refine Kept.ofFst ?_ (by with_reducible assumption)
    | split
    | dsimp only

theorem State.startRail_kept (hp : Has pp 0x208401821) (s : State) (k : Nat) (hk : zz.Kept pp s) :
    zz.Kept pp (State.startRail s k) := by
  unfold State.startRail
  repeat' first
    | with_reducible assumption
    | ((with_reducible refine Has.mono hp ?_); exact rfl)
    | ((with_reducible refine Has.get hp _ ?_); exact rfl)
    | with_reducible apply Kept.foldl
    | with_reducible apply Kept.foldlFst
    | with_reducible apply Kept.foldlSnd
    | with_reducible intro _
    | with_reducible apply State.forEach_kept
    | with_reducible apply State.setPhaseState_kept
    | with_reducible apply State.setRail_kept
    | with_reducible apply State.setF_kept
    | with_reducible apply State.respace_kept
    | with_reducible apply State.recomputeIlim_kept
    | with_reducible apply Outcome.Kept.next
    | with_reducible apply Kept.ite
    | with_reducible apply OKept.ite
    | with_reducible refine Kept.ofSnd ?_ (by with_reducible assumption)
    | with_reducible refine Kept.ofSnd2 ?_ (by with_reducible assumption)
    | with_reducible refine Kept.ofFst ?_ (by with_reducible assumption)
    | split
    | dsimp only

theorem State.closeShort_kept (hp : Has pp 0x8000801) (s : State) (k : Nat) (hk : zz.Kept pp s) :
    zz.Kept pp (State.closeShort s k) := by
  unfold State.closeShort
  repeat' first
    | with_reducible assumption
    | ((with_reducible refine Has.mono hp ?_); exact rfl)
    | ((with_reducible refine Has.get hp _ ?_); exact rfl)
    | with_reducible intro _
    | with_reducible apply State.setRail_kept
    | with_reducible apply State.satF_kept
    | with_reducible apply Outcome.Kept.next
    | with_reducible apply Kept.ite
    | with_reducible apply OKept.ite
    | with_reducible refine Kept.ofSnd ?_ (by with_reducible assumption)
    | with_reducible refine Kept.ofSnd2 ?_ (by with_reducible assumption)
    | with_reducible refine Kept.ofFst ?_ (by with_reducible assumption)
    | split
    | dsimp only
    | with_reducible apply State.Kept.health

theorem State.closeLong_kept (hp : Has pp 0x801) (s : State) (k : Nat) (stamp : Nat) (hk : zz.Kept pp s) :
    zz.Kept pp (State.closeLong s k stamp) := by
  unfold State.closeLong
  repeat' first
    | with_reducible assumption
    | ((with_reducible refine Has.mono hp ?_); exact rfl)
    | ((with_reducible refine Has.get hp _ ?_); exact rfl)
    | with_reducible intro _
    | with_reducible apply State.setRail_kept
    | with_reducible apply State.setF_kept
    | with_reducible apply State.satF_kept
    | with_reducible apply Outcome.Kept.next
    | with_reducible apply Kept.ite
    | with_reducible apply OKept.ite
    | with_reducible refine Kept.ofSnd ?_ (by with_reducible assumption)
    | with_reducible refine Kept.ofSnd2 ?_ (by with_reducible assumption)
    | with_reducible refine Kept.ofFst ?_ (by with_reducible assumption)
    | split
    | dsimp only

theorem State.peak_kept (hp : Has pp 0x200000001) (s : State) (f : Field) (v : Nat) (hk : zz.Kept pp s) :
    zz.Kept pp (State.peak s f v) := by
  unfold State.peak
  repeat' first
    | with_reducible assumption
    | ((with_reducible refine Has.mono hp ?_); exact rfl)
    | ((with_reducible refine Has.get hp _ ?_); exact rfl)
    | with_reducible intro _
    | with_reducible apply State.satF_kept
    | with_reducible apply State.keepLate_kept
    | with_reducible apply Outcome.Kept.next
    | with_reducible apply Kept.ite
    | with_reducible apply OKept.ite
    | with_reducible refine Kept.ofSnd ?_ (by with_reducible assumption)
    | with_reducible refine Kept.ofSnd2 ?_ (by with_reducible assumption)
    | with_reducible refine Kept.ofFst ?_ (by with_reducible assumption)
    | split
    | dsimp only

theorem State.countConditions_kept (hp : Has pp 0x1800) (s : State) (k : Nat) (i : Nat) (v : Nat) (hk : zz.Kept pp s) :
    zz.Kept pp (State.countConditions s k i v) := by
  unfold State.countConditions
  repeat' first
    | with_reducible assumption
    | ((with_reducible refine Has.mono hp ?_); exact rfl)
    | ((with_reducible refine Has.get hp _ ?_); exact rfl)
    | with_reducible intro _
    | with_reducible apply State.setRail_kept
    | with_reducible apply State.forEach_kept
    | with_reducible apply State.setPhase_kept
    | with_reducible apply Outcome.Kept.next
    | with_reducible apply Kept.ite
    | with_reducible apply OKept.ite
    | with_reducible refine Kept.ofSnd ?_ (by with_reducible assumption)
    | with_reducible refine Kept.ofSnd2 ?_ (by with_reducible assumption)
    | with_reducible refine Kept.ofFst ?_ (by with_reducible assumption)
    | split
    | dsimp only

theorem State.railBeat_kept (hp : Has pp 0x208121801) (s : State) (k : Nat) (hk : zz.Kept pp s) :
    zz.Kept pp (State.railBeat s k) := by
  unfold State.railBeat
  repeat' first
    | with_reducible assumption
    | ((with_reducible refine Has.mono hp ?_); exact rfl)
    | ((with_reducible refine Has.get hp _ ?_); exact rfl)
    | with_reducible intro _
    | with_reducible apply State.when_kept
    | with_reducible apply State.closeShort_kept
    | with_reducible apply State.closeLong_kept
    | with_reducible apply State.setRail_kept
    | with_reducible apply State.incF_kept
    | with_reducible apply State.setF_kept
    | with_reducible apply State.countConditions_kept
    | with_reducible apply State.peak_kept
    | with_reducible apply Outcome.Kept.next
    | with_reducible apply Kept.ite
    | with_reducible apply OKept.ite
    | with_reducible refine Kept.ofSnd ?_ (by with_reducible assumption)
    | with_reducible refine Kept.ofSnd2 ?_ (by with_reducible assumption)
    | with_reducible refine Kept.ofFst ?_ (by with_reducible assumption)
    | split
    | dsimp only
    | with_reducible apply State.Kept.cap
    | with_reducible apply State.Kept.model

theorem State.dragTick_kept (hp : Has pp 0x801) (s : State) (k : Nat) (hk : zz.Kept pp s) :
    zz.Kept pp (State.dragTick s k) := by
  unfold State.dragTick
  repeat' first
    | with_reducible assumption
    | ((with_reducible refine Has.mono hp ?_); exact rfl)
    | ((with_reducible refine Has.get hp _ ?_); exact rfl)
    | with_reducible intro _
    | with_reducible apply State.setRail_kept
    | with_reducible apply State.dropDrag_kept
    | with_reducible apply State.setF_kept
    | with_reducible apply Outcome.Kept.next
    | with_reducible apply Kept.ite
    | with_reducible apply OKept.ite
    | with_reducible refine Kept.ofSnd ?_ (by with_reducible assumption)
    | with_reducible refine Kept.ofSnd2 ?_ (by with_reducible assumption)
    | with_reducible refine Kept.ofFst ?_ (by with_reducible assumption)
    | split
    | dsimp only

theorem State.shedPhase_kept (hp : Has pp 0x8401021) (s : State) (p : Nat) (hk : zz.Kept pp s) :
    zz.Kept pp (State.shedPhase s p) := by
  unfold State.shedPhase
  repeat' first
    | with_reducible assumption
    | ((with_reducible refine Has.mono hp ?_); exact rfl)
    | ((with_reducible refine Has.get hp _ ?_); exact rfl)
    | with_reducible intro _
    | with_reducible apply State.setPhaseState_kept
    | with_reducible apply State.setPwm_kept
    | with_reducible apply Outcome.Kept.next
    | with_reducible apply Kept.ite
    | with_reducible apply OKept.ite
    | with_reducible refine Kept.ofSnd ?_ (by with_reducible assumption)
    | with_reducible refine Kept.ofSnd2 ?_ (by with_reducible assumption)
    | with_reducible refine Kept.ofFst ?_ (by with_reducible assumption)
    | split
    | dsimp only

theorem State.unshed_kept (hp : Has pp 0x8400021) (s : State) (l : List Nat) (hk : zz.Kept pp s) :
    zz.Kept pp (State.unshed s l) := by
  unfold State.unshed
  repeat' first
    | with_reducible assumption
    | ((with_reducible refine Has.mono hp ?_); exact rfl)
    | ((with_reducible refine Has.get hp _ ?_); exact rfl)
    | with_reducible intro _
    | with_reducible apply State.forEach_kept
    | with_reducible apply State.setPhaseState_kept
    | with_reducible apply Outcome.Kept.next
    | with_reducible apply Kept.ite
    | with_reducible apply OKept.ite
    | with_reducible refine Kept.ofSnd ?_ (by with_reducible assumption)
    | with_reducible refine Kept.ofSnd2 ?_ (by with_reducible assumption)
    | with_reducible refine Kept.ofFst ?_ (by with_reducible assumption)
    | split
    | dsimp only

theorem State.shedTick_kept (hp : Has pp 0x8401821) (s : State) (k : Nat) (hk : zz.Kept pp s) :
    zz.Kept pp (State.shedTick s k) := by
  unfold State.shedTick
  repeat' first
    | with_reducible assumption
    | ((with_reducible refine Has.mono hp ?_); exact rfl)
    | ((with_reducible refine Has.get hp _ ?_); exact rfl)
    | with_reducible intro _
    | with_reducible apply State.setRail_kept
    | with_reducible apply State.unshed_kept
    | with_reducible apply State.when_kept
    | with_reducible apply State.shedPhase_kept
    | with_reducible apply Outcome.Kept.next
    | with_reducible apply Kept.ite
    | with_reducible apply OKept.ite
    | with_reducible refine Kept.ofSnd ?_ (by with_reducible assumption)
    | with_reducible refine Kept.ofSnd2 ?_ (by with_reducible assumption)
    | with_reducible refine Kept.ofFst ?_ (by with_reducible assumption)
    | split
    | dsimp only

theorem State.railTick0_kept (hp : Has pp 0x208521821) (s : State) (demanded : Nat → Bool) (k : Nat) (hk : zz.Kept pp s) :
    zz.Kept pp (State.railTick0 s demanded k) := by
  unfold State.railTick0
  repeat' first
    | with_reducible assumption
    | ((with_reducible refine Has.mono hp ?_); exact rfl)
    | ((with_reducible refine Has.get hp _ ?_); exact rfl)
    | with_reducible intro _
    | with_reducible apply State.dragTick_kept
    | with_reducible apply State.railBeat_kept
    | with_reducible apply State.startStep_kept
    | with_reducible apply State.seqStep_kept
    | with_reducible apply State.shedTick_kept
    | with_reducible apply State.when_kept
    | with_reducible apply State.setRail_kept
    | with_reducible apply State.retarget_kept
    | with_reducible apply State.respace_kept
    | with_reducible apply Outcome.Kept.next
    | with_reducible apply Kept.ite
    | with_reducible apply OKept.ite
    | with_reducible refine Kept.ofSnd ?_ (by with_reducible assumption)
    | with_reducible refine Kept.ofSnd2 ?_ (by with_reducible assumption)
    | with_reducible refine Kept.ofFst ?_ (by with_reducible assumption)
    | split
    | dsimp only

end Sys2Proof.Machine
end

