-- ==== Sys2Proof/Laws/KeptDomains.lean ====
section
/-! SUPPORT. What the functions of Sys2Proof/Machine/Domains.lean keep: one lemma for each, by the lemmas of what it calls. -/
namespace Sys2Proof.Machine

variable {pp : Part → Bool} {zz : State}

theorem State.keepVote_kept (hp : Has pp 0x200000000) (s : State) (d : Nat) (hk : zz.Kept pp s) :
    zz.Kept pp (State.keepVote s d) := by
  unfold State.keepVote
  repeat' first
    | with_reducible assumption
    | ((with_reducible refine Has.mono hp ?_); exact rfl)
    | ((with_reducible refine Has.get hp _ ?_); exact rfl)
    | with_reducible intro _
    | with_reducible apply State.noteOld_kept
    | with_reducible apply Outcome.Kept.next
    | with_reducible apply Kept.ite
    | with_reducible apply OKept.ite
    | with_reducible refine Kept.ofSnd ?_ (by with_reducible assumption)
    | with_reducible refine Kept.ofSnd2 ?_ (by with_reducible assumption)
    | with_reducible refine Kept.ofFst ?_ (by with_reducible assumption)
    | split
    | dsimp only

theorem State.carryEnergy_kept (hp : Has pp 0x100000) (s : State) (d : Nat) (hk : zz.Kept pp s) :
    zz.Kept pp (State.carryEnergy s d) := by
  unfold State.carryEnergy
  repeat' first
    | with_reducible assumption
    | ((with_reducible refine Has.mono hp ?_); exact rfl)
    | ((with_reducible refine Has.get hp _ ?_); exact rfl)
    | with_reducible intro _
    | with_reducible apply Outcome.Kept.next
    | with_reducible apply Kept.ite
    | with_reducible apply OKept.ite
    | with_reducible refine Kept.ofSnd ?_ (by with_reducible assumption)
    | with_reducible refine Kept.ofSnd2 ?_ (by with_reducible assumption)
    | with_reducible refine Kept.ofFst ?_ (by with_reducible assumption)
    | split
    | dsimp only
    | with_reducible apply State.Kept.model

theorem State.resetCpa_kept (hp : Has pp 0x204001) (s : State) (n : Nat) (hk : zz.Kept pp s) :
    zz.Kept pp (State.resetCpa s n) := by
  unfold State.resetCpa
  repeat' first
    | with_reducible assumption
    | ((with_reducible refine Has.mono hp ?_); exact rfl)
    | ((with_reducible refine Has.get hp _ ?_); exact rfl)
    | with_reducible intro _
    | with_reducible apply State.clearRange_kept
    | with_reducible apply Outcome.Kept.next
    | with_reducible apply Kept.ite
    | with_reducible apply OKept.ite
    | with_reducible refine Kept.ofSnd ?_ (by with_reducible assumption)
    | with_reducible refine Kept.ofSnd2 ?_ (by with_reducible assumption)
    | with_reducible refine Kept.ofFst ?_ (by with_reducible assumption)
    | split
    | dsimp only
    | with_reducible apply State.Kept.cpas_sync

theorem State.resetClc_kept (hp : Has pp 0x2001) (s : State) (c : Nat) (hk : zz.Kept pp s) :
    zz.Kept pp (State.resetClc s c) := by
  unfold State.resetClc
  repeat' first
    | with_reducible assumption
    | ((with_reducible refine Has.mono hp ?_); exact rfl)
    | ((with_reducible refine Has.get hp _ ?_); exact rfl)
    | with_reducible intro _
    | with_reducible apply State.clearRange_kept
    | with_reducible apply State.setClc_kept
    | with_reducible apply Outcome.Kept.next
    | with_reducible apply Kept.ite
    | with_reducible apply OKept.ite
    | with_reducible refine Kept.ofSnd ?_ (by with_reducible assumption)
    | with_reducible refine Kept.ofSnd2 ?_ (by with_reducible assumption)
    | with_reducible refine Kept.ofFst ?_ (by with_reducible assumption)
    | split
    | dsimp only
    | with_reducible apply State.Kept.clcs

theorem State.resetDomain_kept (hp : Has pp 0x306001) (s : State) (d : Nat) (hk : zz.Kept pp s) :
    zz.Kept pp (State.resetDomain s d) := by
  unfold State.resetDomain
  repeat' first
    | with_reducible assumption
    | ((with_reducible refine Has.mono hp ?_); exact rfl)
    | ((with_reducible refine Has.get hp _ ?_); exact rfl)
    | with_reducible intro _
    | with_reducible apply State.forEach_kept
    | with_reducible apply State.carryEnergy_kept
    | with_reducible apply State.resetCpa_kept
    | with_reducible apply State.resetClc_kept
    | with_reducible apply Outcome.Kept.next
    | with_reducible apply Kept.ite
    | with_reducible apply OKept.ite
    | with_reducible refine Kept.ofSnd ?_ (by with_reducible assumption)
    | with_reducible refine Kept.ofSnd2 ?_ (by with_reducible assumption)
    | with_reducible refine Kept.ofFst ?_ (by with_reducible assumption)
    | split
    | dsimp only

theorem State.bandReturn_kept (hp : Has pp 0x80000) (s : State) (k : Nat) (hk : zz.Kept pp s) :
    zz.Kept pp (State.bandReturn s k) := by
  unfold State.bandReturn
  repeat' first
    | with_reducible assumption
    | ((with_reducible refine Has.mono hp ?_); exact rfl)
    | ((with_reducible refine Has.get hp _ ?_); exact rfl)
    | with_reducible intro _
    | with_reducible apply Outcome.Kept.next
    | with_reducible apply Kept.ite
    | with_reducible apply OKept.ite
    | with_reducible refine Kept.ofSnd ?_ (by with_reducible assumption)
    | with_reducible refine Kept.ofSnd2 ?_ (by with_reducible assumption)
    | with_reducible refine Kept.ofFst ?_ (by with_reducible assumption)
    | split
    | dsimp only
    | with_reducible apply State.Kept.therm

theorem State.startMeter_kept (hp : Has pp 0x4000) (s : State) (n : Nat) (hk : zz.Kept pp s) :
    zz.Kept pp (State.startMeter s n) := by
  unfold State.startMeter
  repeat' first
    | with_reducible assumption
    | ((with_reducible refine Has.mono hp ?_); exact rfl)
    | ((with_reducible refine Has.get hp _ ?_); exact rfl)
    | with_reducible intro _
    | with_reducible apply State.setCpa_kept
    | with_reducible apply Outcome.Kept.next
    | with_reducible apply Kept.ite
    | with_reducible apply OKept.ite
    | with_reducible refine Kept.ofSnd ?_ (by with_reducible assumption)
    | with_reducible refine Kept.ofSnd2 ?_ (by with_reducible assumption)
    | with_reducible refine Kept.ofFst ?_ (by with_reducible assumption)
    | split
    | dsimp only

theorem State.releaseDomain_kept (hp : Has pp 0x10084001) (s : State) (d : Nat) (hk : zz.Kept pp s) :
    zz.Kept pp (State.releaseDomain s d) := by
  unfold State.releaseDomain
  repeat' first
    | with_reducible assumption
    | ((with_reducible refine Has.mono hp ?_); exact rfl)
    | ((with_reducible refine Has.get hp _ ?_); exact rfl)
    | with_reducible intro _
    | with_reducible apply State.forEach_kept
    | with_reducible apply State.startMeter_kept
    | with_reducible apply State.reload_kept
    | with_reducible apply State.setF_kept
    | with_reducible apply State.bandReturn_kept
    | with_reducible apply Outcome.Kept.next
    | with_reducible apply Kept.ite
    | with_reducible apply OKept.ite
    | with_reducible refine Kept.ofSnd ?_ (by with_reducible assumption)
    | with_reducible refine Kept.ofSnd2 ?_ (by with_reducible assumption)
    | with_reducible refine Kept.ofFst ?_ (by with_reducible assumption)
    | split
    | dsimp only

theorem State.domEnter_kept (hp : Has pp 0x400021) (s : State) (d : Nat) (st : Nat) (hk : zz.Kept pp s) :
    zz.Kept pp (State.domEnter s d st) := by
  unfold State.domEnter
  repeat' first
    | with_reducible assumption
    | ((with_reducible refine Has.mono hp ?_); exact rfl)
    | ((with_reducible refine Has.get hp _ ?_); exact rfl)
    | with_reducible intro _
    | with_reducible apply State.trace_kept
    | with_reducible apply State.incF_kept
    | with_reducible apply State.setF_kept
    | with_reducible apply Outcome.Kept.next
    | with_reducible apply Kept.ite
    | with_reducible apply OKept.ite
    | with_reducible refine Kept.ofSnd ?_ (by with_reducible assumption)
    | with_reducible refine Kept.ofSnd2 ?_ (by with_reducible assumption)
    | with_reducible refine Kept.ofFst ?_ (by with_reducible assumption)
    | split
    | dsimp only

theorem State.domDrive_kept (hp : Has pp 0x1078e021) (s : State) (d : Nat) (hk : zz.Kept pp s) :
    zz.Kept pp (State.domDrive s d) := by
  unfold State.domDrive
  repeat' first
    | with_reducible assumption
    | ((with_reducible refine Has.mono hp ?_); exact rfl)
    | ((with_reducible refine Has.get hp _ ?_); exact rfl)
    | with_reducible intro _
    | with_reducible apply State.setDom_kept
    | with_reducible apply State.domEnter_kept
    | with_reducible apply State.releaseDomain_kept
    | with_reducible apply State.setF_kept
    | with_reducible apply State.resetDomain_kept
    | with_reducible apply Outcome.Kept.next
    | with_reducible apply Kept.ite
    | with_reducible apply OKept.ite
    | with_reducible refine Kept.ofSnd ?_ (by with_reducible assumption)
    | with_reducible refine Kept.ofSnd2 ?_ (by with_reducible assumption)
    | with_reducible refine Kept.ofFst ?_ (by with_reducible assumption)
    | split
    | dsimp only

theorem State.leaveOn_kept (hp : Has pp 0x8000000) (s : State) (d : Nat) (hk : zz.Kept pp s) :
    zz.Kept pp (State.leaveOn s d) := by
  unfold State.leaveOn
  repeat' first
    | with_reducible assumption
    | ((with_reducible refine Has.mono hp ?_); exact rfl)
    | ((with_reducible refine Has.get hp _ ?_); exact rfl)
    | with_reducible intro _
    | with_reducible apply Outcome.Kept.next
    | with_reducible apply Kept.ite
    | with_reducible apply OKept.ite
    | with_reducible refine Kept.ofSnd ?_ (by with_reducible assumption)
    | with_reducible refine Kept.ofSnd2 ?_ (by with_reducible assumption)
    | with_reducible refine Kept.ofFst ?_ (by with_reducible assumption)
    | split
    | dsimp only
    | with_reducible apply State.Kept.health

theorem State.domBegin_kept (hp : Has pp 0x1878e021) (s : State) (d : Nat) (q : DomSeq) (st : Nat) (hk : zz.Kept pp s) :
    zz.Kept pp (State.domBegin s d q st) := by
  unfold State.domBegin
  repeat' first
    | with_reducible assumption
    | ((with_reducible refine Has.mono hp ?_); exact rfl)
    | ((with_reducible refine Has.get hp _ ?_); exact rfl)
    | with_reducible intro _
    | with_reducible apply State.setDom_kept
    | with_reducible apply State.when_kept
    | with_reducible apply State.leaveOn_kept
    | with_reducible apply State.domDrive_kept
    | with_reducible apply State.setF_kept
    | with_reducible apply Outcome.Kept.next
    | with_reducible apply Kept.ite
    | with_reducible apply OKept.ite
    | with_reducible refine Kept.ofSnd ?_ (by with_reducible assumption)
    | with_reducible refine Kept.ofSnd2 ?_ (by with_reducible assumption)
    | with_reducible refine Kept.ofFst ?_ (by with_reducible assumption)
    | split
    | dsimp only

theorem State.beginExit_kept (hp : Has pp 0x1878e021) (s : State) (retention : Bool) (d : Nat) (hk : zz.Kept pp s) :
    zz.Kept pp (State.beginExit s retention d) := by
  unfold State.beginExit
  repeat' first
    | with_reducible assumption
    | ((with_reducible refine Has.mono hp ?_); exact rfl)
    | ((with_reducible refine Has.get hp _ ?_); exact rfl)
    | with_reducible intro _
    | with_reducible apply State.domBegin_kept
    | with_reducible apply Outcome.Kept.next
    | with_reducible apply Kept.ite
    | with_reducible apply OKept.ite
    | with_reducible refine Kept.ofSnd ?_ (by with_reducible assumption)
    | with_reducible refine Kept.ofSnd2 ?_ (by with_reducible assumption)
    | with_reducible refine Kept.ofFst ?_ (by with_reducible assumption)
    | split
    | dsimp only

theorem State.domTick_kept (hp : Has pp 0x1878e021) (s0 : State) (acc : State × List Nat) (d : Nat) (hk2 : zz.Kept pp acc.1) :
    zz.Kept pp (State.domTick s0 acc d).1 := by
  unfold State.domTick
  repeat' first
    | with_reducible assumption
    | ((with_reducible refine Has.mono hp ?_); exact rfl)
    | ((with_reducible refine Has.get hp _ ?_); exact rfl)
    | with_reducible intro _
    | with_reducible apply State.setF_kept
    | with_reducible apply State.domDrive_kept
    | with_reducible apply State.setDom_kept
    | with_reducible apply State.beginExit_kept
    | with_reducible apply State.domBegin_kept
    | with_reducible apply State.when_kept
    | with_reducible apply Outcome.Kept.next
    | with_reducible apply Kept.ite
    | with_reducible apply OKept.ite
    | with_reducible refine Kept.ofSnd ?_ (by with_reducible assumption)
    | with_reducible refine Kept.ofSnd2 ?_ (by with_reducible assumption)
    | with_reducible refine Kept.ofFst ?_ (by with_reducible assumption)
    | split
    | dsimp only

theorem State.domainTick0_kept (hp : Has pp 0x1879e021) (s0 : State) (s : State) (hk : zz.Kept pp s) :
    zz.Kept pp (State.domainTick0 s0 s) := by
  unfold State.domainTick0
  repeat' first
    | with_reducible assumption
    | ((with_reducible refine Has.mono hp ?_); exact rfl)
    | ((with_reducible refine Has.get hp _ ?_); exact rfl)
    | with_reducible apply Kept.foldl
    | with_reducible apply Kept.foldlFst
    | with_reducible apply Kept.foldlSnd
    | with_reducible intro _
    | with_reducible apply State.domTick_kept
    | with_reducible apply Outcome.Kept.next
    | with_reducible apply Kept.ite
    | with_reducible apply OKept.ite
    | with_reducible refine Kept.ofSnd ?_ (by with_reducible assumption)
    | with_reducible refine Kept.ofSnd2 ?_ (by with_reducible assumption)
    | with_reducible refine Kept.ofFst ?_ (by with_reducible assumption)
    | split
    | dsimp only
    | with_reducible apply State.Kept.away

end Sys2Proof.Machine
end

