-- ==== Sys2Proof/Laws/KeptDroop.lean ====
section
/-! SUPPORT. What the functions of Sys2Proof/Machine/Droop.lean keep: one lemma for each, by the lemmas of what it calls. -/
namespace Sys2Proof.Machine

variable {pp : Part → Bool} {zz : State}

theorem State.setRun_kept (hp : Has pp 0x1) (s : State) (c : Nat) (f : Nat) (hk : zz.Kept pp s) :
    zz.Kept pp (State.setRun s c f) := by
  unfold State.setRun
  repeat' first
    | with_reducible assumption
    | ((with_reducible refine Has.mono hp ?_); exact rfl)
    | ((with_reducible refine Has.get hp _ ?_); exact rfl)
    | with_reducible intro _
    | with_reducible apply State.setF_kept
    | with_reducible apply Outcome.Kept.next
    | with_reducible apply Kept.ite
    | with_reducible apply OKept.ite
    | with_reducible refine Kept.ofSnd ?_ (by with_reducible assumption)
    | with_reducible refine Kept.ofSnd2 ?_ (by with_reducible assumption)
    | with_reducible refine Kept.ofFst ?_ (by with_reducible assumption)
    | split
    | dsimp only

theorem State.pllRequest_kept (hp : Has pp 0x2001) (s : State) (c : Nat) (hk : zz.Kept pp s) :
    zz.Kept pp (State.pllRequest s c) := by
  unfold State.pllRequest
  repeat' first
    | with_reducible assumption
    | ((with_reducible refine Has.mono hp ?_); exact rfl)
    | ((with_reducible refine Has.get hp _ ?_); exact rfl)
    | with_reducible intro _
    | with_reducible apply State.setRun_kept
    | with_reducible apply State.setClc_kept
    | with_reducible apply Outcome.Kept.next
    | with_reducible apply Kept.ite
    | with_reducible apply OKept.ite
    | with_reducible refine Kept.ofSnd ?_ (by with_reducible assumption)
    | with_reducible refine Kept.ofSnd2 ?_ (by with_reducible assumption)
    | with_reducible refine Kept.ofFst ?_ (by with_reducible assumption)
    | split
    | dsimp only

theorem State.rampAdvance_kept (hp : Has pp 0x6001) (s : State) (c : Nat) (hk : zz.Kept pp s) :
    zz.Kept pp (State.rampAdvance s c) := by
  unfold State.rampAdvance
  repeat' first
    | with_reducible assumption
    | ((with_reducible refine Has.mono hp ?_); exact rfl)
    | ((with_reducible refine Has.get hp _ ?_); exact rfl)
    | with_reducible intro _
    | with_reducible apply State.setClc_kept
    | with_reducible apply State.reduceAcc_kept
    | with_reducible apply State.pllRequest_kept
    | with_reducible apply State.setRun_kept
    | with_reducible apply Outcome.Kept.next
    | with_reducible apply Kept.ite
    | with_reducible apply OKept.ite
    | with_reducible refine Kept.ofSnd ?_ (by with_reducible assumption)
    | with_reducible refine Kept.ofSnd2 ?_ (by with_reducible assumption)
    | with_reducible refine Kept.ofFst ?_ (by with_reducible assumption)
    | split
    | dsimp only

theorem State.rampBegin_kept (hp : Has pp 0x6001) (s : State) (c : Nat) (switch : RampStep) (hk : zz.Kept pp s) :
    zz.Kept pp (State.rampBegin s c switch) := by
  unfold State.rampBegin
  repeat' first
    | with_reducible assumption
    | ((with_reducible refine Has.mono hp ?_); exact rfl)
    | ((with_reducible refine Has.get hp _ ?_); exact rfl)
    | with_reducible intro _
    | with_reducible apply State.setClc_kept
    | with_reducible apply State.rampAdvance_kept
    | with_reducible apply State.setRun_kept
    | with_reducible apply Outcome.Kept.next
    | with_reducible apply Kept.ite
    | with_reducible apply OKept.ite
    | with_reducible refine Kept.ofSnd ?_ (by with_reducible assumption)
    | with_reducible refine Kept.ofSnd2 ?_ (by with_reducible assumption)
    | with_reducible refine Kept.ofFst ?_ (by with_reducible assumption)
    | split
    | dsimp only

theorem State.freqRetarget_kept (hp : Has pp 0x6001) (s : State) (c : Nat) (hk : zz.Kept pp s) :
    zz.Kept pp (State.freqRetarget s c) := by
  unfold State.freqRetarget
  repeat' first
    | with_reducible assumption
    | ((with_reducible refine Has.mono hp ?_); exact rfl)
    | ((with_reducible refine Has.get hp _ ?_); exact rfl)
    | with_reducible intro _
    | with_reducible apply State.pllRequest_kept
    | with_reducible apply State.setClc_kept
    | with_reducible apply State.rampBegin_kept
    | with_reducible apply Outcome.Kept.next
    | with_reducible apply Kept.ite
    | with_reducible apply OKept.ite
    | with_reducible refine Kept.ofSnd ?_ (by with_reducible assumption)
    | with_reducible refine Kept.ofSnd2 ?_ (by with_reducible assumption)
    | with_reducible refine Kept.ofFst ?_ (by with_reducible assumption)
    | split
    | dsimp only

theorem execClusterFreqRetarget_kept (hp : Has pp 0x6001) (cluster : Fin 12) (s : State) (hk : zz.Kept pp s) :
    Outcome.Kept pp zz (execClusterFreqRetarget cluster s) := by
  unfold execClusterFreqRetarget
  repeat' first
    | with_reducible assumption
    | ((with_reducible refine Has.mono hp ?_); exact rfl)
    | ((with_reducible refine Has.get hp _ ?_); exact rfl)
    | with_reducible intro _
    | with_reducible apply State.freqRetarget_kept
    | with_reducible apply Outcome.Kept.next
    | with_reducible apply Kept.ite
    | with_reducible apply OKept.ite
    | with_reducible refine Kept.ofSnd ?_ (by with_reducible assumption)
    | with_reducible refine Kept.ofSnd2 ?_ (by with_reducible assumption)
    | with_reducible refine Kept.ofFst ?_ (by with_reducible assumption)
    | split
    | dsimp only

theorem execPllLock_kept (hp : Has pp 0x6001) (cluster : Fin 12) (s : State) (hk : zz.Kept pp s) :
    Outcome.Kept pp zz (execPllLock cluster s) := by
  unfold execPllLock
  repeat' first
    | with_reducible assumption
    | ((with_reducible refine Has.mono hp ?_); exact rfl)
    | ((with_reducible refine Has.get hp _ ?_); exact rfl)
    | with_reducible intro _
    | with_reducible apply State.pllRequest_kept
    | with_reducible apply State.setClc_kept
    | with_reducible apply State.rampBegin_kept
    | with_reducible apply Outcome.Kept.next
    | with_reducible apply Kept.ite
    | with_reducible apply OKept.ite
    | with_reducible refine Kept.ofSnd ?_ (by with_reducible assumption)
    | with_reducible refine Kept.ofSnd2 ?_ (by with_reducible assumption)
    | with_reducible refine Kept.ofFst ?_ (by with_reducible assumption)
    | split
    | dsimp only

theorem execPllLockTimeout_kept (hp : Has pp 0x2001) (cluster : Fin 12) (s : State) (hk : zz.Kept pp s) :
    Outcome.Kept pp zz (execPllLockTimeout cluster s) := by
  unfold execPllLockTimeout
  repeat' first
    | with_reducible assumption
    | ((with_reducible refine Has.mono hp ?_); exact rfl)
    | ((with_reducible refine Has.get hp _ ?_); exact rfl)
    | with_reducible intro _
    | with_reducible apply State.setClc_kept
    | with_reducible apply State.setRun_kept
    | with_reducible apply State.raise_kept
    | with_reducible apply Outcome.Kept.next
    | with_reducible apply Kept.ite
    | with_reducible apply OKept.ite
    | with_reducible refine Kept.ofSnd ?_ (by with_reducible assumption)
    | with_reducible refine Kept.ofSnd2 ?_ (by with_reducible assumption)
    | with_reducible refine Kept.ofFst ?_ (by with_reducible assumption)
    | split
    | dsimp only

theorem execDividerRampStep_kept (hp : Has pp 0x6001) (cluster : Fin 12) (s : State) (hk : zz.Kept pp s) :
    Outcome.Kept pp zz (execDividerRampStep cluster s) := by
  unfold execDividerRampStep
  repeat' first
    | with_reducible assumption
    | ((with_reducible refine Has.mono hp ?_); exact rfl)
    | ((with_reducible refine Has.get hp _ ?_); exact rfl)
    | with_reducible intro _
    | with_reducible apply State.rampAdvance_kept
    | with_reducible apply State.freqRetarget_kept
    | with_reducible apply Outcome.Kept.next
    | with_reducible apply Kept.ite
    | with_reducible apply OKept.ite
    | with_reducible refine Kept.ofSnd ?_ (by with_reducible assumption)
    | with_reducible refine Kept.ofSnd2 ?_ (by with_reducible assumption)
    | with_reducible refine Kept.ofFst ?_ (by with_reducible assumption)
    | split
    | dsimp only

theorem State.noteNotice_kept (hp : Has pp 0x4000) (s : State) (n : Nat) (d : Nat) (hk : zz.Kept pp s) :
    zz.Kept pp (State.noteNotice s n d) := by
  unfold State.noteNotice
  repeat' first
    | with_reducible assumption
    | ((with_reducible refine Has.mono hp ?_); exact rfl)
    | ((with_reducible refine Has.get hp _ ?_); exact rfl)
    | with_reducible intro _
    | with_reducible apply State.when_kept
    | with_reducible apply State.setCpa_kept
    | with_reducible apply Outcome.Kept.next
    | with_reducible apply Kept.ite
    | with_reducible apply OKept.ite
    | with_reducible refine Kept.ofSnd ?_ (by with_reducible assumption)
    | with_reducible refine Kept.ofSnd2 ?_ (by with_reducible assumption)
    | with_reducible refine Kept.ofFst ?_ (by with_reducible assumption)
    | split
    | dsimp only

theorem State.noteDepth_kept (hp : Has pp 0x1) (s : State) (n : Nat) (d : Nat) (hk : zz.Kept pp s) :
    zz.Kept pp (State.noteDepth s n d) := by
  unfold State.noteDepth
  repeat' first
    | with_reducible assumption
    | ((with_reducible refine Has.mono hp ?_); exact rfl)
    | ((with_reducible refine Has.get hp _ ?_); exact rfl)
    | with_reducible intro _
    | with_reducible apply State.satF_kept
    | with_reducible apply Outcome.Kept.next
    | with_reducible apply Kept.ite
    | with_reducible apply OKept.ite
    | with_reducible refine Kept.ofSnd ?_ (by with_reducible assumption)
    | with_reducible refine Kept.ofSnd2 ?_ (by with_reducible assumption)
    | with_reducible refine Kept.ofFst ?_ (by with_reducible assumption)
    | split
    | dsimp only

theorem State.setShoe_kept (hp : Has pp 0x4000) (s : State) (n : Nat) (hk : zz.Kept pp s) :
    zz.Kept pp (State.setShoe s n) := by
  unfold State.setShoe
  repeat' first
    | with_reducible assumption
    | ((with_reducible refine Has.mono hp ?_); exact rfl)
    | ((with_reducible refine Has.get hp _ ?_); exact rfl)
    | with_reducible intro _
    | with_reducible apply State.setCpa_kept
    | with_reducible apply Outcome.Kept.next
    | with_reducible apply Kept.ite
    | with_reducible apply OKept.ite
    | with_reducible refine Kept.ofSnd ?_ (by with_reducible assumption)
    | with_reducible refine Kept.ofSnd2 ?_ (by with_reducible assumption)
    | with_reducible refine Kept.ofFst ?_ (by with_reducible assumption)
    | split
    | dsimp only

theorem execNoticeCrossing_kept (hp : Has pp 0x4001) (core : Fin 288) (sample : Nat) (s : State) (hk : zz.Kept pp s) :
    Outcome.Kept pp zz (execNoticeCrossing core sample s) := by
  unfold execNoticeCrossing
  repeat' first
    | with_reducible assumption
    | ((with_reducible refine Has.mono hp ?_); exact rfl)
    | ((with_reducible refine Has.get hp _ ?_); exact rfl)
    | with_reducible intro _
    | with_reducible apply State.noteNotice_kept
    | with_reducible apply State.noteDepth_kept
    | with_reducible apply State.incF_kept
    | with_reducible apply Outcome.Kept.next
    | with_reducible apply Kept.ite
    | with_reducible apply OKept.ite
    | with_reducible refine Kept.ofSnd ?_ (by with_reducible assumption)
    | with_reducible refine Kept.ofSnd2 ?_ (by with_reducible assumption)
    | with_reducible refine Kept.ofFst ?_ (by with_reducible assumption)
    | split
    | dsimp only

theorem execShoeCrossing_kept (hp : Has pp 0x4001) (core : Fin 288) (sample : Nat) (s : State) (hk : zz.Kept pp s) :
    Outcome.Kept pp zz (execShoeCrossing core sample s) := by
  unfold execShoeCrossing
  repeat' first
    | with_reducible assumption
    | ((with_reducible refine Has.mono hp ?_); exact rfl)
    | ((with_reducible refine Has.get hp _ ?_); exact rfl)
    | with_reducible intro _
    | with_reducible apply State.setShoe_kept
    | with_reducible apply State.noteNotice_kept
    | with_reducible apply State.incF_kept
    | with_reducible apply State.noteDepth_kept
    | with_reducible apply Outcome.Kept.next
    | with_reducible apply Kept.ite
    | with_reducible apply OKept.ite
    | with_reducible refine Kept.ofSnd ?_ (by with_reducible assumption)
    | with_reducible refine Kept.ofSnd2 ?_ (by with_reducible assumption)
    | with_reducible refine Kept.ofFst ?_ (by with_reducible assumption)
    | split
    | dsimp only

theorem execHardCrossing_kept (hp : Has pp 0x4001) (core : Fin 288) (sample : Nat) (s : State) (hk : zz.Kept pp s) :
    Outcome.Kept pp zz (execHardCrossing core sample s) := by
  unfold execHardCrossing
  repeat' first
    | with_reducible assumption
    | ((with_reducible refine Has.mono hp ?_); exact rfl)
    | ((with_reducible refine Has.get hp _ ?_); exact rfl)
    | with_reducible intro _
    | with_reducible apply State.setShoe_kept
    | with_reducible apply State.noteNotice_kept
    | with_reducible apply State.noteDepth_kept
    | with_reducible apply State.incF_kept
    | with_reducible apply State.setCpa_kept
    | with_reducible apply Outcome.Kept.next
    | with_reducible apply Kept.ite
    | with_reducible apply OKept.ite
    | with_reducible refine Kept.ofSnd ?_ (by with_reducible assumption)
    | with_reducible refine Kept.ofSnd2 ?_ (by with_reducible assumption)
    | with_reducible refine Kept.ofFst ?_ (by with_reducible assumption)
    | split
    | dsimp only

theorem execShoeHoldExpiry_kept (hp : Has pp 0x4000) (core : Fin 288) (s : State) (hk : zz.Kept pp s) :
    Outcome.Kept pp zz (execShoeHoldExpiry core s) := by
  unfold execShoeHoldExpiry
  repeat' first
    | with_reducible assumption
    | ((with_reducible refine Has.mono hp ?_); exact rfl)
    | ((with_reducible refine Has.get hp _ ?_); exact rfl)
    | with_reducible intro _
    | with_reducible apply State.setCpa_kept
    | with_reducible apply Outcome.Kept.next
    | with_reducible apply Kept.ite
    | with_reducible apply OKept.ite
    | with_reducible refine Kept.ofSnd ?_ (by with_reducible assumption)
    | with_reducible refine Kept.ofSnd2 ?_ (by with_reducible assumption)
    | with_reducible refine Kept.ofFst ?_ (by with_reducible assumption)
    | split
    | dsimp only

theorem execShoeRampStep_kept (hp : Has pp 0x4000) (core : Fin 288) (s : State) (hk : zz.Kept pp s) :
    Outcome.Kept pp zz (execShoeRampStep core s) := by
  unfold execShoeRampStep
  repeat' first
    | with_reducible assumption
    | ((with_reducible refine Has.mono hp ?_); exact rfl)
    | ((with_reducible refine Has.get hp _ ?_); exact rfl)
    | with_reducible intro _
    | with_reducible apply State.setCpa_kept
    | with_reducible apply Outcome.Kept.next
    | with_reducible apply Kept.ite
    | with_reducible apply OKept.ite
    | with_reducible refine Kept.ofSnd ?_ (by with_reducible assumption)
    | with_reducible refine Kept.ofSnd2 ?_ (by with_reducible assumption)
    | with_reducible refine Kept.ofFst ?_ (by with_reducible assumption)
    | split
    | dsimp only

theorem execHardHoldExpiry_kept (hp : Has pp 0x4000) (core : Fin 288) (s : State) (hk : zz.Kept pp s) :
    Outcome.Kept pp zz (execHardHoldExpiry core s) := by
  unfold execHardHoldExpiry
  repeat' first
    | with_reducible assumption
    | ((with_reducible refine Has.mono hp ?_); exact rfl)
    | ((with_reducible refine Has.get hp _ ?_); exact rfl)
    | with_reducible intro _
    | with_reducible apply State.setCpa_kept
    | with_reducible apply Outcome.Kept.next
    | with_reducible apply Kept.ite
    | with_reducible apply OKept.ite
    | with_reducible refine Kept.ofSnd ?_ (by with_reducible assumption)
    | with_reducible refine Kept.ofSnd2 ?_ (by with_reducible assumption)
    | with_reducible refine Kept.ofFst ?_ (by with_reducible assumption)
    | split
    | dsimp only

theorem execHardRampStep_kept (hp : Has pp 0x4000) (core : Fin 288) (s : State) (hk : zz.Kept pp s) :
    Outcome.Kept pp zz (execHardRampStep core s) := by
  unfold execHardRampStep
  repeat' first
    | with_reducible assumption
    | ((with_reducible refine Has.mono hp ?_); exact rfl)
    | ((with_reducible refine Has.get hp _ ?_); exact rfl)
    | with_reducible intro _
    | with_reducible apply State.setCpa_kept
    | with_reducible apply Outcome.Kept.next
    | with_reducible apply Kept.ite
    | with_reducible apply OKept.ite
    | with_reducible refine Kept.ofSnd ?_ (by with_reducible assumption)
    | with_reducible refine Kept.ofSnd2 ?_ (by with_reducible assumption)
    | with_reducible refine Kept.ofFst ?_ (by with_reducible assumption)
    | split
    | dsimp only

theorem execCpaCounterClear_kept (hp : Has pp 0x1) (core : Fin 288) (value : Word) (s : State) (hk : zz.Kept pp s) :
    Outcome.Kept pp zz (execCpaCounterClear core value s) := by
  unfold execCpaCounterClear
  repeat' first
    | with_reducible assumption
    | ((with_reducible refine Has.mono hp ?_); exact rfl)
    | ((with_reducible refine Has.get hp _ ?_); exact rfl)
    | with_reducible intro _
    | with_reducible apply State.setF_kept
    | with_reducible apply Outcome.Kept.next
    | with_reducible apply Kept.ite
    | with_reducible apply OKept.ite
    | with_reducible refine Kept.ofSnd ?_ (by with_reducible assumption)
    | with_reducible refine Kept.ofSnd2 ?_ (by with_reducible assumption)
    | with_reducible refine Kept.ofFst ?_ (by with_reducible assumption)
    | split
    | dsimp only

theorem execDragOverrideWrite_kept (hp : Has pp 0x1) (writer : Writer) (core : Fin 288) (value : Word) (s : State) (hk : zz.Kept pp s) :
    Outcome.Kept pp zz (execDragOverrideWrite writer core value s) := by
  unfold execDragOverrideWrite
  repeat' first
    | with_reducible assumption
    | ((with_reducible refine Has.mono hp ?_); exact rfl)
    | ((with_reducible refine Has.get hp _ ?_); exact rfl)
    | with_reducible intro _
    | with_reducible apply State.setF_kept
    | with_reducible apply Outcome.Kept.next
    | with_reducible apply Kept.ite
    | with_reducible apply OKept.ite
    | with_reducible refine Kept.ofSnd ?_ (by with_reducible assumption)
    | with_reducible refine Kept.ofSnd2 ?_ (by with_reducible assumption)
    | with_reducible refine Kept.ofFst ?_ (by with_reducible assumption)
    | split
    | dsimp only

theorem execLoadNotice_kept (hp : Has pp 0x4001) (core : Fin 288) (cls : Fin 16) (density : BitVec 8) (lead : BitVec 8) (engines : BitVec 4) (s : State) (hk : zz.Kept pp s) :
    Outcome.Kept pp zz (execLoadNotice core cls density lead engines s) := by
  unfold execLoadNotice
  repeat' first
    | with_reducible assumption
    | ((with_reducible refine Has.mono hp ?_); exact rfl)
    | ((with_reducible refine Has.get hp _ ?_); exact rfl)
    | with_reducible intro _
    | with_reducible apply State.incF_kept
    | with_reducible apply State.setCpa_kept
    | with_reducible apply Outcome.Kept.next
    | with_reducible apply Kept.ite
    | with_reducible apply OKept.ite
    | with_reducible refine Kept.ofSnd ?_ (by with_reducible assumption)
    | with_reducible refine Kept.ofSnd2 ?_ (by with_reducible assumption)
    | with_reducible refine Kept.ofFst ?_ (by with_reducible assumption)
    | split
    | dsimp only

theorem execClcNoticeTake_kept (hp : Has pp 0x6001) (cluster : Fin 12) (s : State) (hk : zz.Kept pp s) :
    Outcome.Kept pp zz (execClcNoticeTake cluster s) := by
  unfold execClcNoticeTake
  repeat' first
    | with_reducible assumption
    | ((with_reducible refine Has.mono hp ?_); exact rfl)
    | ((with_reducible refine Has.get hp _ ?_); exact rfl)
    | with_reducible intro _
    | with_reducible apply State.forEach_kept
    | with_reducible apply State.setCpa_kept
    | with_reducible apply State.setClc_kept
    | with_reducible apply State.when_kept
    | with_reducible apply State.incF_kept
    | with_reducible apply Outcome.Kept.next
    | with_reducible apply Kept.ite
    | with_reducible apply OKept.ite
    | with_reducible refine Kept.ofSnd ?_ (by with_reducible assumption)
    | with_reducible refine Kept.ofSnd2 ?_ (by with_reducible assumption)
    | with_reducible refine Kept.ofFst ?_ (by with_reducible assumption)
    | split
    | dsimp only

theorem State.endCoupling_kept (hp : Has pp 0x801) (s : State) (k : Nat) (hk : zz.Kept pp s) :
    zz.Kept pp (State.endCoupling s k) := by
  unfold State.endCoupling
  repeat' first
    | with_reducible assumption
    | ((with_reducible refine Has.mono hp ?_); exact rfl)
    | ((with_reducible refine Has.get hp _ ?_); exact rfl)
    | with_reducible intro _
    | with_reducible apply State.setRail_kept
    | with_reducible apply State.setF_kept
    | with_reducible apply Outcome.Kept.next
    | with_reducible apply Kept.ite
    | with_reducible apply OKept.ite
    | with_reducible refine Kept.ofSnd ?_ (by with_reducible assumption)
    | with_reducible refine Kept.ofSnd2 ?_ (by with_reducible assumption)
    | with_reducible refine Kept.ofFst ?_ (by with_reducible assumption)
    | split
    | dsimp only

theorem State.raiseTick0_kept (hp : Has pp 0x2801) (s : State) (k : Nat) (hk : zz.Kept pp s) :
    zz.Kept pp (State.raiseTick0 s k) := by
  unfold State.raiseTick0
  repeat' first
    | with_reducible assumption
    | ((with_reducible refine Has.mono hp ?_); exact rfl)
    | ((with_reducible refine Has.get hp _ ?_); exact rfl)
    | with_reducible intro _
    | with_reducible apply State.forEach_kept
    | with_reducible apply State.setClc_kept
    | with_reducible apply State.when_kept
    | with_reducible apply State.satF_kept
    | with_reducible apply State.setF_kept
    | with_reducible apply State.setRail_kept
    | with_reducible apply State.endCoupling_kept
    | with_reducible apply Outcome.Kept.next
    | with_reducible apply Kept.ite
    | with_reducible apply OKept.ite
    | with_reducible refine Kept.ofSnd ?_ (by with_reducible assumption)
    | with_reducible refine Kept.ofSnd2 ?_ (by with_reducible assumption)
    | with_reducible refine Kept.ofFst ?_ (by with_reducible assumption)
    | split
    | dsimp only

theorem execCouplingRaiseEnd_kept (hp : Has pp 0x801) (rail : Fin 4) (s : State) (hk : zz.Kept pp s) :
    Outcome.Kept pp zz (execCouplingRaiseEnd rail s) := by
  unfold execCouplingRaiseEnd
  repeat' first
    | with_reducible assumption
    | ((with_reducible refine Has.mono hp ?_); exact rfl)
    | ((with_reducible refine Has.get hp _ ?_); exact rfl)
    | with_reducible intro _
    | with_reducible apply State.endCoupling_kept
    | with_reducible apply Outcome.Kept.next
    | with_reducible apply Kept.ite
    | with_reducible apply OKept.ite
    | with_reducible refine Kept.ofSnd ?_ (by with_reducible assumption)
    | with_reducible refine Kept.ofSnd2 ?_ (by with_reducible assumption)
    | with_reducible refine Kept.ofFst ?_ (by with_reducible assumption)
    | split
    | dsimp only

theorem State.refill_kept (hp : Has pp 0x1) (s : State) (n : Nat) (hk : zz.Kept pp s) :
    zz.Kept pp (State.refill s n) := by
  unfold State.refill
  repeat' first
    | with_reducible assumption
    | ((with_reducible refine Has.mono hp ?_); exact rfl)
    | ((with_reducible refine Has.get hp _ ?_); exact rfl)
    | with_reducible intro _
    | with_reducible apply State.satF_kept
    | with_reducible apply Outcome.Kept.next
    | with_reducible apply Kept.ite
    | with_reducible apply OKept.ite
    | with_reducible refine Kept.ofSnd ?_ (by with_reducible assumption)
    | with_reducible refine Kept.ofSnd2 ?_ (by with_reducible assumption)
    | with_reducible refine Kept.ofFst ?_ (by with_reducible assumption)
    | split
    | dsimp only

theorem State.enterWait_kept (hp : Has pp 0x4001) (s : State) (n : Nat) (e : Nat) (hk : zz.Kept pp s) :
    zz.Kept pp (State.enterWait s n e) := by
  unfold State.enterWait
  repeat' first
    | with_reducible assumption
    | ((with_reducible refine Has.mono hp ?_); exact rfl)
    | ((with_reducible refine Has.get hp _ ?_); exact rfl)
    | with_reducible intro _
    | with_reducible apply State.setCpa_kept
    | with_reducible apply State.refill_kept
    | with_reducible apply State.when_kept
    | with_reducible apply State.setF_kept
    | with_reducible apply Outcome.Kept.next
    | with_reducible apply Kept.ite
    | with_reducible apply OKept.ite
    | with_reducible refine Kept.ofSnd ?_ (by with_reducible assumption)
    | with_reducible refine Kept.ofSnd2 ?_ (by with_reducible assumption)
    | with_reducible refine Kept.ofFst ?_ (by with_reducible assumption)
    | split
    | dsimp only

theorem State.leaveWait_kept (hp : Has pp 0x4001) (s : State) (n : Nat) (e : Nat) (coupled : Bool) (hk : zz.Kept pp s) :
    zz.Kept pp (State.leaveWait s n e coupled) := by
  unfold State.leaveWait
  repeat' first
    | with_reducible assumption
    | ((with_reducible refine Has.mono hp ?_); exact rfl)
    | ((with_reducible refine Has.get hp _ ?_); exact rfl)
    | with_reducible intro _
    | with_reducible apply State.setCpa_kept
    | with_reducible apply State.refill_kept
    | with_reducible apply Outcome.Kept.next
    | with_reducible apply Kept.ite
    | with_reducible apply OKept.ite
    | with_reducible refine Kept.ofSnd ?_ (by with_reducible assumption)
    | with_reducible refine Kept.ofSnd2 ?_ (by with_reducible assumption)
    | with_reducible refine Kept.ofFst ?_ (by with_reducible assumption)
    | split
    | dsimp only

theorem State.takeMode_kept (hp : Has pp 0x4001) (s : State) (n : Nat) (hk : zz.Kept pp s) :
    zz.Kept pp (State.takeMode s n) := by
  unfold State.takeMode
  repeat' first
    | with_reducible assumption
    | ((with_reducible refine Has.mono hp ?_); exact rfl)
    | ((with_reducible refine Has.get hp _ ?_); exact rfl)
    | with_reducible intro _
    | with_reducible apply State.refill_kept
    | with_reducible apply State.setF_kept
    | with_reducible apply State.setCpa_kept
    | with_reducible apply Outcome.Kept.next
    | with_reducible apply Kept.ite
    | with_reducible apply OKept.ite
    | with_reducible refine Kept.ofSnd ?_ (by with_reducible assumption)
    | with_reducible refine Kept.ofSnd2 ?_ (by with_reducible assumption)
    | with_reducible refine Kept.ofFst ?_ (by with_reducible assumption)
    | split
    | dsimp only

theorem execIssueWindowStart_kept (hp : Has pp 0x4001) (core : Fin 288) (issued : List Nat) (s : State) (hk : zz.Kept pp s) :
    Outcome.Kept pp zz (execIssueWindowStart core issued s) := by
  unfold execIssueWindowStart
  repeat' first
    | with_reducible assumption
    | ((with_reducible refine Has.mono hp ?_); exact rfl)
    | ((with_reducible refine Has.get hp _ ?_); exact rfl)
    | with_reducible apply Kept.foldl
    | with_reducible apply Kept.foldlFst
    | with_reducible apply Kept.foldlSnd
    | with_reducible intro _
    | with_reducible apply State.takeMode_kept
    | with_reducible apply State.setCpa_kept
    | with_reducible apply State.satF_kept
    | with_reducible apply State.when_kept
    | with_reducible apply State.incF_kept
    | with_reducible apply Outcome.Kept.next
    | with_reducible apply Kept.ite
    | with_reducible apply OKept.ite
    | with_reducible refine Kept.ofSnd ?_ (by with_reducible assumption)
    | with_reducible refine Kept.ofSnd2 ?_ (by with_reducible assumption)
    | with_reducible refine Kept.ofFst ?_ (by with_reducible assumption)
    | split
    | dsimp only

theorem State.share_kept (hp : Has pp 0x4000) (s : State) (c : Nat) (l : List Nat) (base : Nat) (extra : Nat) (hk : zz.Kept pp s) :
    zz.Kept pp (State.share s c l base extra) := by
  unfold State.share
  repeat' first
    | with_reducible assumption
    | ((with_reducible refine Has.mono hp ?_); exact rfl)
    | ((with_reducible refine Has.get hp _ ?_); exact rfl)
    | with_reducible intro _
    | with_reducible apply State.forEach_kept
    | with_reducible apply State.setCpa_kept
    | with_reducible apply Outcome.Kept.next
    | with_reducible apply Kept.ite
    | with_reducible apply OKept.ite
    | with_reducible refine Kept.ofSnd ?_ (by with_reducible assumption)
    | with_reducible refine Kept.ofSnd2 ?_ (by with_reducible assumption)
    | with_reducible refine Kept.ofFst ?_ (by with_reducible assumption)
    | split
    | dsimp only

theorem execDidtPeriod_kept (hp : Has pp 0x6001) (cluster : Fin 12) (s : State) (hk : zz.Kept pp s) :
    Outcome.Kept pp zz (execDidtPeriod cluster s) := by
  unfold execDidtPeriod
  repeat' first
    | with_reducible assumption
    | ((with_reducible refine Has.mono hp ?_); exact rfl)
    | ((with_reducible refine Has.get hp _ ?_); exact rfl)
    | with_reducible intro _
    | with_reducible apply State.forEach_kept
    | with_reducible apply State.shapePeriod_kept
    | with_reducible apply State.share_kept
    | with_reducible apply State.satF_kept
    | with_reducible apply State.setClc_kept
    | with_reducible apply Outcome.Kept.next
    | with_reducible apply Kept.ite
    | with_reducible apply OKept.ite
    | with_reducible refine Kept.ofSnd ?_ (by with_reducible assumption)
    | with_reducible refine Kept.ofSnd2 ?_ (by with_reducible assumption)
    | with_reducible refine Kept.ofFst ?_ (by with_reducible assumption)
    | split
    | dsimp only

theorem execFillerDecay_kept (hp : Has pp 0x4001) (core : Fin 288) (s : State) (hk : zz.Kept pp s) :
    Outcome.Kept pp zz (execFillerDecay core s) := by
  unfold execFillerDecay
  repeat' first
    | with_reducible assumption
    | ((with_reducible refine Has.mono hp ?_); exact rfl)
    | ((with_reducible refine Has.get hp _ ?_); exact rfl)
    | with_reducible intro _
    | with_reducible apply State.setCpa_kept
    | with_reducible apply State.setF_kept
    | with_reducible apply Outcome.Kept.next
    | with_reducible apply Kept.ite
    | with_reducible apply OKept.ite
    | with_reducible refine Kept.ofSnd ?_ (by with_reducible assumption)
    | with_reducible refine Kept.ofSnd2 ?_ (by with_reducible assumption)
    | with_reducible refine Kept.ofFst ?_ (by with_reducible assumption)
    | split
    | dsimp only

end Sys2Proof.Machine
end

