-- ==== Sys2Proof/Laws/KeptModes.lean ====
section
/-! SUPPORT. What the functions of Sys2Proof/Machine/Modes.lean keep: one lemma for each, by the lemmas of what it calls. -/
namespace Sys2Proof.Machine

variable {pp : Part → Bool} {zz : State}

theorem State.enterMode_kept (hp : Has pp 0x400021) (s : State) (m : Nat) (hk : zz.Kept pp s) :
    zz.Kept pp (State.enterMode s m) := by
  unfold State.enterMode
  repeat' first
    | with_reducible assumption
    | ((with_reducible refine Has.mono hp ?_); exact rfl)
    | ((with_reducible refine Has.get hp _ ?_); exact rfl)
    | with_reducible intro _
    | with_reducible apply State.setF_kept
    | with_reducible apply State.incF_kept
    | with_reducible apply State.trace_kept
    | with_reducible apply Outcome.Kept.next
    | with_reducible apply Kept.ite
    | with_reducible apply OKept.ite
    | with_reducible refine Kept.ofSnd ?_ (by with_reducible assumption)
    | with_reducible refine Kept.ofSnd2 ?_ (by with_reducible assumption)
    | with_reducible refine Kept.ofFst ?_ (by with_reducible assumption)
    | split
    | dsimp only

end Sys2Proof.Machine
end

