-- ==== Sys2Proof/Laws/KeptBudget.lean ====
section
/-! SUPPORT. What the functions of Sys2Proof/Machine/Budget.lean keep: one lemma for each, by the lemmas of what it calls. -/
namespace Sys2Proof.Machine

variable {pp : Part → Bool} {zz : State}

theorem State.grantCeil_kept (hp : Has pp 0x20000000) (s : State) (n : Nat) (g : Option Nat) (hk : zz.Kept pp s) :
    zz.Kept pp (State.grantCeil s n g).2 := by
  unfold State.grantCeil
  repeat' first
    | with_reducible assumption
    | ((with_reducible refine Has.mono hp ?_); exact rfl)
    | ((with_reducible refine Has.get hp _ ?_); exact rfl)
    | with_reducible intro _
    | with_reducible apply State.drawFree_kept
    | with_reducible apply Outcome.Kept.next
    | with_reducible apply Kept.ite
    | with_reducible apply OKept.ite
    | with_reducible refine Kept.ofSnd ?_ (by with_reducible assumption)
    | with_reducible refine Kept.ofSnd2 ?_ (by with_reducible assumption)
    | with_reducible refine Kept.ofFst ?_ (by with_reducible assumption)
    | split
    | dsimp only

theorem State.noteFloor_kept (hp : Has pp 0x20001) (s : State) (hk : zz.Kept pp s) :
    zz.Kept pp (State.noteFloor s) := by
  unfold State.noteFloor
  repeat' first
    | with_reducible assumption
    | ((with_reducible refine Has.mono hp ?_); exact rfl)
    | ((with_reducible refine Has.get hp _ ?_); exact rfl)
    | with_reducible intro _
    | with_reducible apply State.when_kept
    | with_reducible apply State.raise_kept
    | with_reducible apply Outcome.Kept.next
    | with_reducible apply Kept.ite
    | with_reducible apply OKept.ite
    | with_reducible refine Kept.ofSnd ?_ (by with_reducible assumption)
    | with_reducible refine Kept.ofSnd2 ?_ (by with_reducible assumption)
    | with_reducible refine Kept.ofFst ?_ (by with_reducible assumption)
    | split
    | dsimp only
    | with_reducible apply State.Kept.cap

theorem State.takeGrant_kept (hp : Has pp 0x220020001) (s : State) (n : Nat) (g : Option Nat) (hk : zz.Kept pp s) :
    zz.Kept pp (State.takeGrant s n g) := by
  unfold State.takeGrant
  repeat' first
    | with_reducible assumption
    | ((with_reducible refine Has.mono hp ?_); exact rfl)
    | ((with_reducible refine Has.get hp _ ?_); exact rfl)
    | with_reducible intro _
    | with_reducible apply State.grantCeil_kept
    | with_reducible apply State.setF_kept
    | with_reducible apply State.keepLate_kept
    | with_reducible apply State.when_kept
    | with_reducible apply State.noteFloor_kept
    | with_reducible apply Outcome.Kept.next
    | with_reducible apply Kept.ite
    | with_reducible apply OKept.ite
    | with_reducible refine Kept.ofSnd ?_ (by with_reducible assumption)
    | with_reducible refine Kept.ofSnd2 ?_ (by with_reducible assumption)
    | with_reducible refine Kept.ofFst ?_ (by with_reducible assumption)
    | split
    | dsimp only

theorem State.coreGrants_kept (hp : Has pp 0x220024001) (s : State) (c : Nat) (hk : zz.Kept pp s) :
    zz.Kept pp (State.coreGrants s c) := by
  unfold State.coreGrants
  repeat' first
    | with_reducible assumption
    | ((with_reducible refine Has.mono hp ?_); exact rfl)
    | ((with_reducible refine Has.get hp _ ?_); exact rfl)
    | with_reducible intro _
    | with_reducible apply State.satF_kept
    | with_reducible apply State.forEach_kept
    | with_reducible apply State.takeGrant_kept
    | with_reducible apply State.setCpa_kept
    | with_reducible apply Outcome.Kept.next
    | with_reducible apply Kept.ite
    | with_reducible apply OKept.ite
    | with_reducible refine Kept.ofSnd ?_ (by with_reducible assumption)
    | with_reducible refine Kept.ofSnd2 ?_ (by with_reducible assumption)
    | with_reducible refine Kept.ofFst ?_ (by with_reducible assumption)
    | split
    | dsimp only

theorem State.sendFrame_kept (hp : Has pp 0x40000) (s : State) (port : Nat) (typ : Nat) (payload : List Byte) (hk : zz.Kept pp s) :
    zz.Kept pp (State.sendFrame s port typ payload) := by
  unfold State.sendFrame
  repeat' first
    | with_reducible assumption
    | ((with_reducible refine Has.mono hp ?_); exact rfl)
    | ((with_reducible refine Has.get hp _ ?_); exact rfl)
    | with_reducible intro _
    | with_reducible apply Outcome.Kept.next
    | with_reducible apply Kept.ite
    | with_reducible apply OKept.ite
    | with_reducible refine Kept.ofSnd ?_ (by with_reducible assumption)
    | with_reducible refine Kept.ofSnd2 ?_ (by with_reducible assumption)
    | with_reducible refine Kept.ofFst ?_ (by with_reducible assumption)
    | split
    | dsimp only
    | with_reducible apply State.Kept.links

theorem State.showOwnProfile_kept (hp : Has pp 0x1) (s : State) (hk : zz.Kept pp s) :
    zz.Kept pp (State.showOwnProfile s) := by
  unfold State.showOwnProfile
  repeat' first
    | with_reducible assumption
    | ((with_reducible refine Has.mono hp ?_); exact rfl)
    | ((with_reducible refine Has.get hp _ ?_); exact rfl)
    | with_reducible intro _
    | with_reducible apply State.showProfile_kept
    | with_reducible apply Outcome.Kept.next
    | with_reducible apply Kept.ite
    | with_reducible apply OKept.ite
    | with_reducible refine Kept.ofSnd ?_ (by with_reducible assumption)
    | with_reducible refine Kept.ofSnd2 ?_ (by with_reducible assumption)
    | with_reducible refine Kept.ofFst ?_ (by with_reducible assumption)
    | split
    | dsimp only

theorem State.strapFault_kept (hp : Has pp 0xc60071) (s : State) (hk : zz.Kept pp s) :
    zz.Kept pp (State.strapFault s) := by
  unfold State.strapFault
  repeat' first
    | with_reducible assumption
    | ((with_reducible refine Has.mono hp ?_); exact rfl)
    | ((with_reducible refine Has.get hp _ ?_); exact rfl)
    | with_reducible intro _
    | with_reducible apply State.setF_kept
    | with_reducible apply State.forEach_kept
    | with_reducible apply State.showOwnProfile_kept
    | with_reducible apply State.settleFleet_kept
    | with_reducible apply State.when_kept
    | with_reducible apply State.enterMode_kept
    | with_reducible apply Outcome.Kept.next
    | with_reducible apply Kept.ite
    | with_reducible apply OKept.ite
    | with_reducible refine Kept.ofSnd ?_ (by with_reducible assumption)
    | with_reducible refine Kept.ofSnd2 ?_ (by with_reducible assumption)
    | with_reducible refine Kept.ofFst ?_ (by with_reducible assumption)
    | split
    | dsimp only
    | with_reducible apply State.Kept.cap_links

theorem State.linkStart_kept (hp : Has pp 0x40001) (s : State) (hk : zz.Kept pp s) :
    zz.Kept pp (State.linkStart s) := by
  unfold State.linkStart
  repeat' first
    | with_reducible assumption
    | ((with_reducible refine Has.mono hp ?_); exact rfl)
    | ((with_reducible refine Has.get hp _ ?_); exact rfl)
    | with_reducible intro _
    | with_reducible apply State.setF_kept
    | with_reducible apply Outcome.Kept.next
    | with_reducible apply Kept.ite
    | with_reducible apply OKept.ite
    | with_reducible refine Kept.ofSnd ?_ (by with_reducible assumption)
    | with_reducible refine Kept.ofSnd2 ?_ (by with_reducible assumption)
    | with_reducible refine Kept.ofFst ?_ (by with_reducible assumption)
    | split
    | dsimp only
    | with_reducible apply State.Kept.links

theorem State.autoBudget_kept (hp : Has pp 0x40001) (s : State) (hk : zz.Kept pp s) :
    zz.Kept pp (State.autoBudget s) := by
  unfold State.autoBudget
  repeat' first
    | with_reducible assumption
    | ((with_reducible refine Has.mono hp ?_); exact rfl)
    | ((with_reducible refine Has.get hp _ ?_); exact rfl)
    | with_reducible intro _
    | with_reducible apply State.satF_kept
    | with_reducible apply Outcome.Kept.next
    | with_reducible apply Kept.ite
    | with_reducible apply OKept.ite
    | with_reducible refine Kept.ofSnd ?_ (by with_reducible assumption)
    | with_reducible refine Kept.ofSnd2 ?_ (by with_reducible assumption)
    | with_reducible refine Kept.ofFst ?_ (by with_reducible assumption)
    | split
    | dsimp only
    | with_reducible apply State.Kept.links

theorem State.dieFrame_kept (hp : Has pp 0x1) (s : State) (d : Nat) (hk : zz.Kept pp s) :
    zz.Kept pp (State.dieFrame s d) := by
  unfold State.dieFrame
  repeat' first
    | with_reducible assumption
    | ((with_reducible refine Has.mono hp ?_); exact rfl)
    | ((with_reducible refine Has.get hp _ ?_); exact rfl)
    | with_reducible intro _
    | with_reducible apply State.satF_kept
    | with_reducible apply State.when_kept
    | with_reducible apply State.raise_kept
    | with_reducible apply State.setF_kept
    | with_reducible apply State.incF_kept
    | with_reducible apply Outcome.Kept.next
    | with_reducible apply Kept.ite
    | with_reducible apply OKept.ite
    | with_reducible refine Kept.ofSnd ?_ (by with_reducible assumption)
    | with_reducible refine Kept.ofSnd2 ?_ (by with_reducible assumption)
    | with_reducible refine Kept.ofFst ?_ (by with_reducible assumption)
    | split
    | dsimp only

theorem State.sendIdentities_kept (hp : Has pp 0x40000) (s : State) (hk : zz.Kept pp s) :
    zz.Kept pp (State.sendIdentities s) := by
  unfold State.sendIdentities
  repeat' first
    | with_reducible assumption
    | ((with_reducible refine Has.mono hp ?_); exact rfl)
    | ((with_reducible refine Has.get hp _ ?_); exact rfl)
    | with_reducible intro _
    | with_reducible apply State.forEach_kept
    | with_reducible apply State.sendFrame_kept
    | with_reducible apply Outcome.Kept.next
    | with_reducible apply Kept.ite
    | with_reducible apply OKept.ite
    | with_reducible refine Kept.ofSnd ?_ (by with_reducible assumption)
    | with_reducible refine Kept.ofSnd2 ?_ (by with_reducible assumption)
    | with_reducible refine Kept.ofFst ?_ (by with_reducible assumption)
    | split
    | dsimp only
    | with_reducible apply State.Kept.links

theorem State.measureDie_kept (hp : Has pp 0x1) (s : State) (pnc : Nat) (hk : zz.Kept pp s) :
    zz.Kept pp (State.measureDie s pnc) := by
  unfold State.measureDie
  repeat' first
    | with_reducible assumption
    | ((with_reducible refine Has.mono hp ?_); exact rfl)
    | ((with_reducible refine Has.get hp _ ?_); exact rfl)
    | with_reducible intro _
    | with_reducible apply State.satF_kept
    | with_reducible apply Outcome.Kept.next
    | with_reducible apply Kept.ite
    | with_reducible apply OKept.ite
    | with_reducible refine Kept.ofSnd ?_ (by with_reducible assumption)
    | with_reducible refine Kept.ofSnd2 ?_ (by with_reducible assumption)
    | with_reducible refine Kept.ofFst ?_ (by with_reducible assumption)
    | split
    | dsimp only

theorem State.distribute_kept (hp : Has pp 0x40001) (s : State) (hk : zz.Kept pp s) :
    zz.Kept pp (State.distribute s) := by
  unfold State.distribute
  repeat' first
    | with_reducible assumption
    | ((with_reducible refine Has.mono hp ?_); exact rfl)
    | ((with_reducible refine Has.get hp _ ?_); exact rfl)
    | with_reducible intro _
    | with_reducible apply State.setF_kept
    | with_reducible apply State.forEach_kept
    | with_reducible apply State.satF_kept
    | with_reducible apply Outcome.Kept.next
    | with_reducible apply Kept.ite
    | with_reducible apply OKept.ite
    | with_reducible refine Kept.ofSnd ?_ (by with_reducible assumption)
    | with_reducible refine Kept.ofSnd2 ?_ (by with_reducible assumption)
    | with_reducible refine Kept.ofFst ?_ (by with_reducible assumption)
    | split
    | dsimp only
    | with_reducible apply State.Kept.links

theorem State.viewOwn_kept (hp : Has pp 0x1) (s : State) (hk : zz.Kept pp s) :
    zz.Kept pp (State.viewOwn s) := by
  unfold State.viewOwn
  repeat' first
    | with_reducible assumption
    | ((with_reducible refine Has.mono hp ?_); exact rfl)
    | ((with_reducible refine Has.get hp _ ?_); exact rfl)
    | with_reducible intro _
    | with_reducible apply State.setF_kept
    | with_reducible apply State.satF_kept
    | with_reducible apply Outcome.Kept.next
    | with_reducible apply Kept.ite
    | with_reducible apply OKept.ite
    | with_reducible refine Kept.ofSnd ?_ (by with_reducible assumption)
    | with_reducible refine Kept.ofSnd2 ?_ (by with_reducible assumption)
    | with_reducible refine Kept.ofFst ?_ (by with_reducible assumption)
    | split
    | dsimp only

theorem State.leaderFrame_kept (hp : Has pp 0x40001) (s : State) (hk : zz.Kept pp s) :
    zz.Kept pp (State.leaderFrame s) := by
  unfold State.leaderFrame
  repeat' first
    | with_reducible assumption
    | ((with_reducible refine Has.mono hp ?_); exact rfl)
    | ((with_reducible refine Has.get hp _ ?_); exact rfl)
    | with_reducible intro _
    | with_reducible apply State.viewOwn_kept
    | with_reducible apply State.forEach_kept
    | with_reducible apply State.dieFrame_kept
    | with_reducible apply State.sendFrame_kept
    | with_reducible apply State.satF_kept
    | with_reducible apply State.autoBudget_kept
    | with_reducible apply Outcome.Kept.next
    | with_reducible apply Kept.ite
    | with_reducible apply OKept.ite
    | with_reducible refine Kept.ofSnd ?_ (by with_reducible assumption)
    | with_reducible refine Kept.ofSnd2 ?_ (by with_reducible assumption)
    | with_reducible refine Kept.ofFst ?_ (by with_reducible assumption)
    | split
    | dsimp only
    | with_reducible apply State.Kept.links

theorem State.lawFrame_kept (hp : Has pp 0x460021) (s : State) (hk : zz.Kept pp s) :
    zz.Kept pp (State.lawFrame s) := by
  unfold State.lawFrame
  repeat' first
    | with_reducible assumption
    | ((with_reducible refine Has.mono hp ?_); exact rfl)
    | ((with_reducible refine Has.get hp _ ?_); exact rfl)
    | with_reducible intro _
    | with_reducible apply State.capLaw_kept
    | with_reducible apply Outcome.Kept.next
    | with_reducible apply Kept.ite
    | with_reducible apply OKept.ite
    | with_reducible refine Kept.ofSnd ?_ (by with_reducible assumption)
    | with_reducible refine Kept.ofSnd2 ?_ (by with_reducible assumption)
    | with_reducible refine Kept.ofFst ?_ (by with_reducible assumption)
    | split
    | dsimp only
    | with_reducible apply State.Kept.links

theorem State.adoptGrant_kept (hp : Has pp 0x40001) (s : State) (hk : zz.Kept pp s) :
    zz.Kept pp (State.adoptGrant s) := by
  unfold State.adoptGrant
  repeat' first
    | with_reducible assumption
    | ((with_reducible refine Has.mono hp ?_); exact rfl)
    | ((with_reducible refine Has.get hp _ ?_); exact rfl)
    | with_reducible intro _
    | with_reducible apply State.showProfile_kept
    | with_reducible apply Outcome.Kept.next
    | with_reducible apply Kept.ite
    | with_reducible apply OKept.ite
    | with_reducible refine Kept.ofSnd ?_ (by with_reducible assumption)
    | with_reducible refine Kept.ofSnd2 ?_ (by with_reducible assumption)
    | with_reducible refine Kept.ofFst ?_ (by with_reducible assumption)
    | split
    | dsimp only
    | with_reducible apply State.Kept.links

theorem State.followerFrame_kept (hp : Has pp 0x40001) (s : State) (hk : zz.Kept pp s) :
    zz.Kept pp (State.followerFrame s) := by
  unfold State.followerFrame
  repeat' first
    | with_reducible assumption
    | ((with_reducible refine Has.mono hp ?_); exact rfl)
    | ((with_reducible refine Has.get hp _ ?_); exact rfl)
    | with_reducible intro _
    | with_reducible apply State.when_kept
    | with_reducible apply State.autoBudget_kept
    | with_reducible apply State.forEach_kept
    | with_reducible apply State.sendFrame_kept
    | with_reducible apply Outcome.Kept.next
    | with_reducible apply Kept.ite
    | with_reducible apply OKept.ite
    | with_reducible refine Kept.ofSnd ?_ (by with_reducible assumption)
    | with_reducible refine Kept.ofSnd2 ?_ (by with_reducible assumption)
    | with_reducible refine Kept.ofFst ?_ (by with_reducible assumption)
    | split
    | dsimp only
    | with_reducible apply State.Kept.links

theorem State.linkFrame_kept (hp : Has pp 0x40001) (s : State) (hk : zz.Kept pp s) :
    zz.Kept pp (State.linkFrame s) := by
  unfold State.linkFrame
  repeat' first
    | with_reducible assumption
    | ((with_reducible refine Has.mono hp ?_); exact rfl)
    | ((with_reducible refine Has.get hp _ ?_); exact rfl)
    | with_reducible intro _
    | with_reducible apply State.autoBudget_kept
    | with_reducible apply State.sendIdentities_kept
    | with_reducible apply State.leaderFrame_kept
    | with_reducible apply State.followerFrame_kept
    | with_reducible apply Outcome.Kept.next
    | with_reducible apply Kept.ite
    | with_reducible apply OKept.ite
    | with_reducible refine Kept.ofSnd ?_ (by with_reducible assumption)
    | with_reducible refine Kept.ofSnd2 ?_ (by with_reducible assumption)
    | with_reducible refine Kept.ofFst ?_ (by with_reducible assumption)
    | split
    | dsimp only

theorem State.budgetFrame_kept (hp : Has pp 0x460021) (s : State) (die : Nat) (beats : Nat) (hk : zz.Kept pp s) :
    zz.Kept pp (State.budgetFrame s die beats) := by
  unfold State.budgetFrame
  repeat' first
    | with_reducible assumption
    | ((with_reducible refine Has.mono hp ?_); exact rfl)
    | ((with_reducible refine Has.get hp _ ?_); exact rfl)
    | with_reducible intro _
    | with_reducible apply State.dieWindow_kept
    | with_reducible apply State.when_kept
    | with_reducible apply State.distribute_kept
    | with_reducible apply State.linkFrame_kept
    | with_reducible apply State.viewOwn_kept
    | with_reducible apply State.autoBudget_kept
    | with_reducible apply State.setF_kept
    | with_reducible apply State.lawFrame_kept
    | with_reducible apply Outcome.Kept.next
    | with_reducible apply Kept.ite
    | with_reducible apply OKept.ite
    | with_reducible refine Kept.ofSnd ?_ (by with_reducible assumption)
    | with_reducible refine Kept.ofSnd2 ?_ (by with_reducible assumption)
    | with_reducible refine Kept.ofFst ?_ (by with_reducible assumption)
    | split
    | dsimp only
    | with_reducible apply State.Kept.cap
    | with_reducible apply State.Kept.links

theorem State.dieBudgets_kept (hp : Has pp 0x560021) (s : State) (hk : zz.Kept pp s) :
    zz.Kept pp (State.dieBudgets s) := by
  unfold State.dieBudgets
  repeat' first
    | with_reducible assumption
    | ((with_reducible refine Has.mono hp ?_); exact rfl)
    | ((with_reducible refine Has.get hp _ ?_); exact rfl)
    | with_reducible intro _
    | with_reducible apply State.satF_kept
    | with_reducible apply State.measureDie_kept
    | with_reducible apply State.adoptGrant_kept
    | with_reducible apply State.budgetFrame_kept
    | with_reducible apply State.when_kept
    | with_reducible apply State.linkFrame_kept
    | with_reducible apply Outcome.Kept.next
    | with_reducible apply Kept.ite
    | with_reducible apply OKept.ite
    | with_reducible refine Kept.ofSnd ?_ (by with_reducible assumption)
    | with_reducible refine Kept.ofSnd2 ?_ (by with_reducible assumption)
    | with_reducible refine Kept.ofFst ?_ (by with_reducible assumption)
    | split
    | dsimp only
    | with_reducible apply State.Kept.cap_model

theorem State.writeDieBudgets_kept (hp : Has pp 0x20440021) (s : State) (hk : zz.Kept pp s) :
    zz.Kept pp (State.writeDieBudgets s) := by
  unfold State.writeDieBudgets
  repeat' first
    | with_reducible assumption
    | ((with_reducible refine Has.mono hp ?_); exact rfl)
    | ((with_reducible refine Has.get hp _ ?_); exact rfl)
    | with_reducible intro _
    | with_reducible apply State.drawFree_kept
    | with_reducible apply State.forEach_kept
    | with_reducible apply State.satF_kept
    | with_reducible apply State.trace_kept
    | with_reducible apply Outcome.Kept.next
    | with_reducible apply Kept.ite
    | with_reducible apply OKept.ite
    | with_reducible refine Kept.ofSnd ?_ (by with_reducible assumption)
    | with_reducible refine Kept.ofSnd2 ?_ (by with_reducible assumption)
    | with_reducible refine Kept.ofFst ?_ (by with_reducible assumption)
    | split
    | dsimp only
    | with_reducible apply State.Kept.links

theorem State.idlReceive_kept (hp : Has pp 0x40001) (s : State) (port : Nat) (typ : Nat) (b : List Byte) (apply : State → State) (hf : ∀ (t : State), zz.Kept pp t → zz.Kept pp (apply t)) (hk : zz.Kept pp s) :
    zz.Kept pp (State.idlReceive s port typ b apply) := by
  unfold State.idlReceive
  repeat' first
    | with_reducible assumption
    | ((with_reducible refine Has.mono hp ?_); exact rfl)
    | ((with_reducible refine Has.get hp _ ?_); exact rfl)
    | with_reducible intro _
    | with_reducible apply hf
    | with_reducible apply State.incF_kept
    | with_reducible apply Outcome.Kept.next
    | with_reducible apply Kept.ite
    | with_reducible apply OKept.ite
    | with_reducible refine Kept.ofSnd ?_ (by with_reducible assumption)
    | with_reducible refine Kept.ofSnd2 ?_ (by with_reducible assumption)
    | with_reducible refine Kept.ofFst ?_ (by with_reducible assumption)
    | split
    | dsimp only
    | with_reducible apply State.Kept.links

theorem State.identityReceived_kept (hp : Has pp 0xc60071) (s : State) (port : Nat) (b : List Byte) (hk : zz.Kept pp s) :
    zz.Kept pp (State.identityReceived s port b) := by
  unfold State.identityReceived
  repeat' first
    | with_reducible assumption
    | ((with_reducible refine Has.mono hp ?_); exact rfl)
    | ((with_reducible refine Has.get hp _ ?_); exact rfl)
    | with_reducible intro _
    | with_reducible apply State.setF_kept
    | with_reducible apply State.strapFault_kept
    | with_reducible apply Outcome.Kept.next
    | with_reducible apply Kept.ite
    | with_reducible apply OKept.ite
    | with_reducible refine Kept.ofSnd ?_ (by with_reducible assumption)
    | with_reducible refine Kept.ofSnd2 ?_ (by with_reducible assumption)
    | with_reducible refine Kept.ofFst ?_ (by with_reducible assumption)
    | split
    | dsimp only
    | with_reducible apply State.Kept.links

theorem execDieLost_kept (hp : Has pp 0x1) (die : Fin 4) (s : State) (hk : zz.Kept pp s) :
    Outcome.Kept pp zz (execDieLost die s) := by
  unfold execDieLost
  repeat' first
    | with_reducible assumption
    | ((with_reducible refine Has.mono hp ?_); exact rfl)
    | ((with_reducible refine Has.get hp _ ?_); exact rfl)
    | with_reducible intro _
    | with_reducible apply State.raise_kept
    | with_reducible apply State.setF_kept
    | with_reducible apply State.satF_kept
    | with_reducible apply Outcome.Kept.next
    | with_reducible apply Kept.ite
    | with_reducible apply OKept.ite
    | with_reducible refine Kept.ofSnd ?_ (by with_reducible assumption)
    | with_reducible refine Kept.ofSnd2 ?_ (by with_reducible assumption)
    | with_reducible refine Kept.ofFst ?_ (by with_reducible assumption)
    | split
    | dsimp only

theorem State.leaderLost_kept (hp : Has pp 0x40001) (s : State) (hk : zz.Kept pp s) :
    zz.Kept pp (State.leaderLost s) := by
  unfold State.leaderLost
  repeat' first
    | with_reducible assumption
    | ((with_reducible refine Has.mono hp ?_); exact rfl)
    | ((with_reducible refine Has.get hp _ ?_); exact rfl)
    | with_reducible intro _
    | with_reducible apply State.when_kept
    | with_reducible apply State.raise_kept
    | with_reducible apply State.setF_kept
    | with_reducible apply Outcome.Kept.next
    | with_reducible apply Kept.ite
    | with_reducible apply OKept.ite
    | with_reducible refine Kept.ofSnd ?_ (by with_reducible assumption)
    | with_reducible refine Kept.ofSnd2 ?_ (by with_reducible assumption)
    | with_reducible refine Kept.ofFst ?_ (by with_reducible assumption)
    | split
    | dsimp only
    | with_reducible apply State.Kept.links

theorem execLeaderLost_kept (hp : Has pp 0x40001) (s : State) (hk : zz.Kept pp s) :
    Outcome.Kept pp zz (execLeaderLost s) := by
  unfold execLeaderLost
  repeat' first
    | with_reducible assumption
    | ((with_reducible refine Has.mono hp ?_); exact rfl)
    | ((with_reducible refine Has.get hp _ ?_); exact rfl)
    | with_reducible intro _
    | with_reducible apply State.leaderLost_kept
    | with_reducible apply Outcome.Kept.next
    | with_reducible apply Kept.ite
    | with_reducible apply OKept.ite
    | with_reducible refine Kept.ofSnd ?_ (by with_reducible assumption)
    | with_reducible refine Kept.ofSnd2 ?_ (by with_reducible assumption)
    | with_reducible refine Kept.ofFst ?_ (by with_reducible assumption)
    | split
    | dsimp only

theorem execLeaderIdentityTimeout_kept (hp : Has pp 0x40001) (s : State) (hk : zz.Kept pp s) :
    Outcome.Kept pp zz (execLeaderIdentityTimeout s) := by
  unfold execLeaderIdentityTimeout
  repeat' first
    | with_reducible assumption
    | ((with_reducible refine Has.mono hp ?_); exact rfl)
    | ((with_reducible refine Has.get hp _ ?_); exact rfl)
    | with_reducible intro _
    | with_reducible apply State.when_kept
    | with_reducible apply State.leaderLost_kept
    | with_reducible apply Outcome.Kept.next
    | with_reducible apply Kept.ite
    | with_reducible apply OKept.ite
    | with_reducible refine Kept.ofSnd ?_ (by with_reducible assumption)
    | with_reducible refine Kept.ofSnd2 ?_ (by with_reducible assumption)
    | with_reducible refine Kept.ofFst ?_ (by with_reducible assumption)
    | split
    | dsimp only
    | with_reducible apply State.Kept.links

theorem State.portEnable_kept (hp : Has pp 0x60001) (s : State) (hk : zz.Kept pp s) :
    zz.Kept pp (State.portEnable s) := by
  unfold State.portEnable
  repeat' first
    | with_reducible assumption
    | ((with_reducible refine Has.mono hp ?_); exact rfl)
    | ((with_reducible refine Has.get hp _ ?_); exact rfl)
    | with_reducible intro _
    | with_reducible apply State.setF_kept
    | with_reducible apply Outcome.Kept.next
    | with_reducible apply Kept.ite
    | with_reducible apply OKept.ite
    | with_reducible refine Kept.ofSnd ?_ (by with_reducible assumption)
    | with_reducible refine Kept.ofSnd2 ?_ (by with_reducible assumption)
    | with_reducible refine Kept.ofFst ?_ (by with_reducible assumption)
    | split
    | dsimp only
    | with_reducible apply State.Kept.cap_links

theorem State.packageReport_kept (hp : Has pp 0x40001) (s : State) (hk : zz.Kept pp s) :
    zz.Kept pp (State.packageReport s) := by
  unfold State.packageReport
  repeat' first
    | with_reducible assumption
    | ((with_reducible refine Has.mono hp ?_); exact rfl)
    | ((with_reducible refine Has.get hp _ ?_); exact rfl)
    | with_reducible intro _
    | with_reducible apply State.when_kept
    | with_reducible apply State.incF_kept
    | with_reducible apply State.sendFrame_kept
    | with_reducible apply State.setF_kept
    | with_reducible apply State.satF_kept
    | with_reducible apply Outcome.Kept.next
    | with_reducible apply Kept.ite
    | with_reducible apply OKept.ite
    | with_reducible refine Kept.ofSnd ?_ (by with_reducible assumption)
    | with_reducible refine Kept.ofSnd2 ?_ (by with_reducible assumption)
    | with_reducible refine Kept.ofFst ?_ (by with_reducible assumption)
    | split
    | dsimp only
    | with_reducible apply State.Kept.links

theorem State.writePbpTx_kept (hp : Has pp 0x400021) (s : State) (hk : zz.Kept pp s) :
    zz.Kept pp (State.writePbpTx s) := by
  unfold State.writePbpTx
  repeat' first
    | with_reducible assumption
    | ((with_reducible refine Has.mono hp ?_); exact rfl)
    | ((with_reducible refine Has.get hp _ ?_); exact rfl)
    | with_reducible intro _
    | with_reducible apply State.satF_kept
    | with_reducible apply State.trace_kept
    | with_reducible apply Outcome.Kept.next
    | with_reducible apply Kept.ite
    | with_reducible apply OKept.ite
    | with_reducible refine Kept.ofSnd ?_ (by with_reducible assumption)
    | with_reducible refine Kept.ofSnd2 ?_ (by with_reducible assumption)
    | with_reducible refine Kept.ofFst ?_ (by with_reducible assumption)
    | split
    | dsimp only

theorem State.pbpSilent_kept (hp : Has pp 0x60001) (s : State) (hk : zz.Kept pp s) :
    zz.Kept pp (State.pbpSilent s) := by
  unfold State.pbpSilent
  repeat' first
    | with_reducible assumption
    | ((with_reducible refine Has.mono hp ?_); exact rfl)
    | ((with_reducible refine Has.get hp _ ?_); exact rfl)
    | with_reducible intro _
    | with_reducible apply State.raise_kept
    | with_reducible apply State.setF_kept
    | with_reducible apply Outcome.Kept.next
    | with_reducible apply Kept.ite
    | with_reducible apply OKept.ite
    | with_reducible refine Kept.ofSnd ?_ (by with_reducible assumption)
    | with_reducible refine Kept.ofSnd2 ?_ (by with_reducible assumption)
    | with_reducible refine Kept.ofFst ?_ (by with_reducible assumption)
    | split
    | dsimp only
    | with_reducible apply State.Kept.cap
    | with_reducible apply State.Kept.links

theorem execPackageFrame_kept (hp : Has pp 0x10040001) (s : State) (hk : zz.Kept pp s) :
    Outcome.Kept pp zz (execPackageFrame s) := by
  unfold execPackageFrame
  repeat' first
    | with_reducible assumption
    | ((with_reducible refine Has.mono hp ?_); exact rfl)
    | ((with_reducible refine Has.get hp _ ?_); exact rfl)
    | with_reducible intro _
    | with_reducible apply State.packageReport_kept
    | with_reducible apply State.reload_kept
    | with_reducible apply Outcome.Kept.next
    | with_reducible apply Kept.ite
    | with_reducible apply OKept.ite
    | with_reducible refine Kept.ofSnd ?_ (by with_reducible assumption)
    | with_reducible refine Kept.ofSnd2 ?_ (by with_reducible assumption)
    | with_reducible refine Kept.ofFst ?_ (by with_reducible assumption)
    | split
    | dsimp only

theorem execDieBudgetFrame_kept (hp : Has pp 0x10560021) (s : State) (hk : zz.Kept pp s) :
    Outcome.Kept pp zz (execDieBudgetFrame s) := by
  unfold execDieBudgetFrame
  repeat' first
    | with_reducible assumption
    | ((with_reducible refine Has.mono hp ?_); exact rfl)
    | ((with_reducible refine Has.get hp _ ?_); exact rfl)
    | with_reducible intro _
    | with_reducible apply State.act_kept
    | with_reducible apply execPackageFrame_kept
    | with_reducible apply State.dieBudgets_kept
    | with_reducible apply State.reload_kept
    | with_reducible apply Outcome.Kept.next
    | with_reducible apply Kept.ite
    | with_reducible apply OKept.ite
    | with_reducible refine Kept.ofSnd ?_ (by with_reducible assumption)
    | with_reducible refine Kept.ofSnd2 ?_ (by with_reducible assumption)
    | with_reducible refine Kept.ofFst ?_ (by with_reducible assumption)
    | split
    | dsimp only

theorem execCoreGrantFrame_kept (hp : Has pp 0x230564021) (cluster : Fin 12) (s : State) (hk : zz.Kept pp s) :
    Outcome.Kept pp zz (execCoreGrantFrame cluster s) := by
  unfold execCoreGrantFrame
  repeat' first
    | with_reducible assumption
    | ((with_reducible refine Has.mono hp ?_); exact rfl)
    | ((with_reducible refine Has.get hp _ ?_); exact rfl)
    | with_reducible intro _
    | with_reducible apply State.act_kept
    | with_reducible apply execDieBudgetFrame_kept
    | with_reducible apply State.coreGrants_kept
    | with_reducible apply State.reload_kept
    | with_reducible apply Outcome.Kept.next
    | with_reducible apply Kept.ite
    | with_reducible apply OKept.ite
    | with_reducible refine Kept.ofSnd ?_ (by with_reducible assumption)
    | with_reducible refine Kept.ofSnd2 ?_ (by with_reducible assumption)
    | with_reducible refine Kept.ofFst ?_ (by with_reducible assumption)
    | split
    | dsimp only

theorem State.owedFrames_kept (hp : Has pp 0x230564021) (s : State) (hk : zz.Kept pp s) :
    zz.Kept pp (State.owedFrames s) := by
  unfold State.owedFrames
  repeat' first
    | with_reducible assumption
    | ((with_reducible refine Has.mono hp ?_); exact rfl)
    | ((with_reducible refine Has.get hp _ ?_); exact rfl)
    | with_reducible intro _
    | with_reducible apply State.act_kept
    | with_reducible apply execDieBudgetFrame_kept
    | with_reducible apply State.forEach_kept
    | with_reducible apply execCoreGrantFrame_kept
    | with_reducible apply Outcome.Kept.next
    | with_reducible apply Kept.ite
    | with_reducible apply OKept.ite
    | with_reducible refine Kept.ofSnd ?_ (by with_reducible assumption)
    | with_reducible refine Kept.ofSnd2 ?_ (by with_reducible assumption)
    | with_reducible refine Kept.ofFst ?_ (by with_reducible assumption)
    | split
    | dsimp only

theorem execPbpSilent_kept (hp : Has pp 0x230564021) (s : State) (hk : zz.Kept pp s) :
    Outcome.Kept pp zz (execPbpSilent s) := by
  unfold execPbpSilent
  repeat' first
    | with_reducible assumption
    | ((with_reducible refine Has.mono hp ?_); exact rfl)
    | ((with_reducible refine Has.get hp _ ?_); exact rfl)
    | with_reducible intro _
    | with_reducible apply State.pbpSilent_kept
    | with_reducible apply State.owedFrames_kept
    | with_reducible apply Outcome.Kept.next
    | with_reducible apply Kept.ite
    | with_reducible apply OKept.ite
    | with_reducible refine Kept.ofSnd ?_ (by with_reducible assumption)
    | with_reducible refine Kept.ofSnd2 ?_ (by with_reducible assumption)
    | with_reducible refine Kept.ofFst ?_ (by with_reducible assumption)
    | split
    | dsimp only

theorem execFlpDieBudgetWrite_kept (hp : Has pp 0x230564021) (s : State) (hk : zz.Kept pp s) :
    Outcome.Kept pp zz (execFlpDieBudgetWrite s) := by
  unfold execFlpDieBudgetWrite
  repeat' first
    | with_reducible assumption
    | ((with_reducible refine Has.mono hp ?_); exact rfl)
    | ((with_reducible refine Has.get hp _ ?_); exact rfl)
    | with_reducible intro _
    | with_reducible apply State.writeDieBudgets_kept
    | with_reducible apply State.owedFrames_kept
    | with_reducible apply Outcome.Kept.next
    | with_reducible apply Kept.ite
    | with_reducible apply OKept.ite
    | with_reducible refine Kept.ofSnd ?_ (by with_reducible assumption)
    | with_reducible refine Kept.ofSnd2 ?_ (by with_reducible assumption)
    | with_reducible refine Kept.ofFst ?_ (by with_reducible assumption)
    | split
    | dsimp only

theorem execFlpPbpTxWrite_kept (hp : Has pp 0x230564021) (s : State) (hk : zz.Kept pp s) :
    Outcome.Kept pp zz (execFlpPbpTxWrite s) := by
  unfold execFlpPbpTxWrite
  repeat' first
    | with_reducible assumption
    | ((with_reducible refine Has.mono hp ?_); exact rfl)
    | ((with_reducible refine Has.get hp _ ?_); exact rfl)
    | with_reducible intro _
    | with_reducible apply State.writePbpTx_kept
    | with_reducible apply State.owedFrames_kept
    | with_reducible apply Outcome.Kept.next
    | with_reducible apply Kept.ite
    | with_reducible apply OKept.ite
    | with_reducible refine Kept.ofSnd ?_ (by with_reducible assumption)
    | with_reducible refine Kept.ofSnd2 ?_ (by with_reducible assumption)
    | with_reducible refine Kept.ofFst ?_ (by with_reducible assumption)
    | split
    | dsimp only

theorem execMeterInterval_kept (hp : Has pp 0x230564821) (core : Fin 288) (counts : List Nat) (fillIssue : Nat) (s : State) (hk : zz.Kept pp s) :
    Outcome.Kept pp zz (execMeterInterval core counts fillIssue s) := by
  unfold execMeterInterval
  repeat' first
    | with_reducible assumption
    | ((with_reducible refine Has.mono hp ?_); exact rfl)
    | ((with_reducible refine Has.get hp _ ?_); exact rfl)
    | with_reducible intro _
    | with_reducible apply State.owedFrames_kept
    | with_reducible apply State.setCpa_kept
    | with_reducible apply State.satF_kept
    | with_reducible apply State.addEnergy_kept
    | with_reducible apply State.setF_kept
    | with_reducible apply State.setRail_kept
    | with_reducible apply Outcome.Kept.next
    | with_reducible apply Kept.ite
    | with_reducible apply OKept.ite
    | with_reducible refine Kept.ofSnd ?_ (by with_reducible assumption)
    | with_reducible refine Kept.ofSnd2 ?_ (by with_reducible assumption)
    | with_reducible refine Kept.ofFst ?_ (by with_reducible assumption)
    | split
    | dsimp only
    | with_reducible apply State.Kept.cap

theorem execFlpCapUpdate_kept (hp : Has pp 0x230564021) (s : State) (hk : zz.Kept pp s) :
    Outcome.Kept pp zz (execFlpCapUpdate s) := by
  unfold execFlpCapUpdate
  repeat' first
    | with_reducible assumption
    | ((with_reducible refine Has.mono hp ?_); exact rfl)
    | ((with_reducible refine Has.get hp _ ?_); exact rfl)
    | with_reducible intro _
    | with_reducible apply State.owedFrames_kept
    | with_reducible apply State.trace_kept
    | with_reducible apply State.writeForce_kept
    | with_reducible apply Outcome.Kept.next
    | with_reducible apply Kept.ite
    | with_reducible apply OKept.ite
    | with_reducible refine Kept.ofSnd ?_ (by with_reducible assumption)
    | with_reducible refine Kept.ofSnd2 ?_ (by with_reducible assumption)
    | with_reducible refine Kept.ofFst ?_ (by with_reducible assumption)
    | split
    | dsimp only

theorem execIdentityFrame_kept (hp : Has pp 0x230d64071) (port : Fin 3) (frame : List Byte) (s : State) (hk : zz.Kept pp s) :
    Outcome.Kept pp zz (execIdentityFrame port frame s) := by
  unfold execIdentityFrame
  repeat' first
    | with_reducible assumption
    | ((with_reducible refine Has.mono hp ?_); exact rfl)
    | ((with_reducible refine Has.get hp _ ?_); exact rfl)
    | with_reducible intro _
    | with_reducible apply State.idlReceive_kept
    | with_reducible apply State.owedFrames_kept
    | with_reducible apply State.identityReceived_kept
    | with_reducible apply Outcome.Kept.next
    | with_reducible apply Kept.ite
    | with_reducible apply OKept.ite
    | with_reducible refine Kept.ofSnd ?_ (by with_reducible assumption)
    | with_reducible refine Kept.ofSnd2 ?_ (by with_reducible assumption)
    | with_reducible refine Kept.ofFst ?_ (by with_reducible assumption)
    | split
    | dsimp only

theorem execReportFrame_kept (hp : Has pp 0x230564021) (port : Fin 3) (frame : List Byte) (s : State) (hk : zz.Kept pp s) :
    Outcome.Kept pp zz (execReportFrame port frame s) := by
  unfold execReportFrame
  repeat' first
    | with_reducible assumption
    | ((with_reducible refine Has.mono hp ?_); exact rfl)
    | ((with_reducible refine Has.get hp _ ?_); exact rfl)
    | with_reducible intro _
    | with_reducible apply State.idlReceive_kept
    | with_reducible apply State.owedFrames_kept
    | with_reducible apply State.setF_kept
    | with_reducible apply Outcome.Kept.next
    | with_reducible apply Kept.ite
    | with_reducible apply OKept.ite
    | with_reducible refine Kept.ofSnd ?_ (by with_reducible assumption)
    | with_reducible refine Kept.ofSnd2 ?_ (by with_reducible assumption)
    | with_reducible refine Kept.ofFst ?_ (by with_reducible assumption)
    | split
    | dsimp only
    | with_reducible apply State.Kept.links

theorem execGrantFrame_kept (hp : Has pp 0x230564021) (port : Fin 3) (frame : List Byte) (s : State) (hk : zz.Kept pp s) :
    Outcome.Kept pp zz (execGrantFrame port frame s) := by
  unfold execGrantFrame
  repeat' first
    | with_reducible assumption
    | ((with_reducible refine Has.mono hp ?_); exact rfl)
    | ((with_reducible refine Has.get hp _ ?_); exact rfl)
    | with_reducible intro _
    | with_reducible apply State.idlReceive_kept
    | with_reducible apply State.act_kept
    | with_reducible apply State.owedFrames_kept
    | with_reducible apply execLeaderLost_kept
    | with_reducible apply State.setF_kept
    | with_reducible apply State.writeForce_kept
    | with_reducible apply State.when_kept
    | with_reducible apply State.raise_kept
    | with_reducible apply Outcome.Kept.next
    | with_reducible apply Kept.ite
    | with_reducible apply OKept.ite
    | with_reducible refine Kept.ofSnd ?_ (by with_reducible assumption)
    | with_reducible refine Kept.ofSnd2 ?_ (by with_reducible assumption)
    | with_reducible refine Kept.ofFst ?_ (by with_reducible assumption)
    | split
    | dsimp only
    | with_reducible apply State.Kept.links

theorem State.takePFrame_kept (hp : Has pp 0x460021) (s : State) (frame : List Byte) (hk : zz.Kept pp s) :
    zz.Kept pp (State.takePFrame s frame) := by
  unfold State.takePFrame
  repeat' first
    | with_reducible assumption
    | ((with_reducible refine Has.mono hp ?_); exact rfl)
    | ((with_reducible refine Has.get hp _ ?_); exact rfl)
    | with_reducible intro _
    | with_reducible apply State.setF_kept
    | with_reducible apply State.when_kept
    | with_reducible apply State.raise_kept
    | with_reducible apply State.trace_kept
    | with_reducible apply Outcome.Kept.next
    | with_reducible apply Kept.ite
    | with_reducible apply OKept.ite
    | with_reducible refine Kept.ofSnd ?_ (by with_reducible assumption)
    | with_reducible refine Kept.ofSnd2 ?_ (by with_reducible assumption)
    | with_reducible refine Kept.ofFst ?_ (by with_reducible assumption)
    | split
    | dsimp only
    | with_reducible apply State.Kept.cap_links

theorem State.receivePFrame_kept (hp : Has pp 0x460021) (s : State) (frame : List Byte) (hk : zz.Kept pp s) :
    zz.Kept pp (State.receivePFrame s frame) := by
  unfold State.receivePFrame
  repeat' first
    | with_reducible assumption
    | ((with_reducible refine Has.mono hp ?_); exact rfl)
    | ((with_reducible refine Has.get hp _ ?_); exact rfl)
    | with_reducible intro _
    | with_reducible apply State.incF_kept
    | with_reducible apply State.takePFrame_kept
    | with_reducible apply Outcome.Kept.next
    | with_reducible apply Kept.ite
    | with_reducible apply OKept.ite
    | with_reducible refine Kept.ofSnd ?_ (by with_reducible assumption)
    | with_reducible refine Kept.ofSnd2 ?_ (by with_reducible assumption)
    | with_reducible refine Kept.ofFst ?_ (by with_reducible assumption)
    | split
    | dsimp only

theorem execPFrame_kept (hp : Has pp 0x230564021) (frame : List Byte) (s : State) (hk : zz.Kept pp s) :
    Outcome.Kept pp zz (execPFrame frame s) := by
  unfold execPFrame
  repeat' first
    | with_reducible assumption
    | ((with_reducible refine Has.mono hp ?_); exact rfl)
    | ((with_reducible refine Has.get hp _ ?_); exact rfl)
    | with_reducible intro _
    | with_reducible apply State.receivePFrame_kept
    | with_reducible apply State.pbpSilent_kept
    | with_reducible apply State.owedFrames_kept
    | with_reducible apply Outcome.Kept.next
    | with_reducible apply Kept.ite
    | with_reducible apply OKept.ite
    | with_reducible refine Kept.ofSnd ?_ (by with_reducible assumption)
    | with_reducible refine Kept.ofSnd2 ?_ (by with_reducible assumption)
    | with_reducible refine Kept.ofFst ?_ (by with_reducible assumption)
    | split
    | dsimp only

end Sys2Proof.Machine
end

