-- ==== Sys2Proof/Laws/KeptEcc.lean ====
section
/-! SUPPORT. What the functions of Sys2Proof/Machine/Ecc.lean keep: one lemma for each, by the lemmas of what it calls. -/
namespace Sys2Proof.Machine

variable {pp : Part → Bool} {zz : State}

theorem State.classify_kept (hp : Has pp 0x20000000) (s : State) (e : Nat) (hk : zz.Kept pp s) :
    zz.Kept pp (State.classify s e).2 := by
  unfold State.classify
  repeat' first
    | with_reducible assumption
    | ((with_reducible refine Has.mono hp ?_); exact rfl)
    | ((with_reducible refine Has.get hp _ ?_); exact rfl)
    | with_reducible intro _
    | with_reducible apply State.drawFree_kept
    | with_reducible apply Outcome.Kept.next
    | with_reducible apply Kept.ite
    | with_reducible apply OKept.ite
    | with_reducible refine Kept.ofSnd ?_ (by with_reducible assumption)
    | with_reducible refine Kept.ofSnd2 ?_ (by with_reducible assumption)
    | with_reducible refine Kept.ofFst ?_ (by with_reducible assumption)
    | split
    | dsimp only

theorem State.noteCorrected_kept (hp : Has pp 0x400001) (s : State) (m : Nat) (w : Nat) (i : Nat) (scrub : Bool) (hk : zz.Kept pp s) :
    zz.Kept pp (State.noteCorrected s m w i scrub) := by
  unfold State.noteCorrected
  repeat' first
    | with_reducible assumption
    | ((with_reducible refine Has.mono hp ?_); exact rfl)
    | ((with_reducible refine Has.get hp _ ?_); exact rfl)
    | with_reducible intro _
    | with_reducible apply State.raise_kept
    | with_reducible apply State.incF_kept
    | with_reducible apply State.setF_kept
    | with_reducible apply State.when_kept
    | with_reducible apply Outcome.Kept.next
    | with_reducible apply Kept.ite
    | with_reducible apply OKept.ite
    | with_reducible refine Kept.ofSnd ?_ (by with_reducible assumption)
    | with_reducible refine Kept.ofSnd2 ?_ (by with_reducible assumption)
    | with_reducible refine Kept.ofFst ?_ (by with_reducible assumption)
    | split
    | dsimp only
    | with_reducible apply State.Kept.ecc

theorem State.eccRead_kept (hp : Has pp 0x20400001) (s : State) (m : Nat) (w : Nat) (scrub : Bool) (hk : zz.Kept pp s) :
    zz.Kept pp (State.eccRead s m w scrub).2 := by
  unfold State.eccRead
  repeat' first
    | with_reducible assumption
    | ((with_reducible refine Has.mono hp ?_); exact rfl)
    | ((with_reducible refine Has.get hp _ ?_); exact rfl)
    | with_reducible intro _
    | with_reducible apply State.classify_kept
    | with_reducible apply State.setError_kept
    | with_reducible apply State.drawFree_kept
    | with_reducible apply State.noteCorrected_kept
    | with_reducible apply State.raise_kept
    | with_reducible apply State.incF_kept
    | with_reducible apply State.setF_kept
    | with_reducible apply Outcome.Kept.next
    | with_reducible apply Kept.ite
    | with_reducible apply OKept.ite
    | with_reducible refine Kept.ofSnd ?_ (by with_reducible assumption)
    | with_reducible refine Kept.ofSnd2 ?_ (by with_reducible assumption)
    | with_reducible refine Kept.ofFst ?_ (by with_reducible assumption)
    | split
    | dsimp only

theorem State.eccClear_kept (hp : Has pp 0x400000) (s : State) (m : Nat) (hk : zz.Kept pp s) :
    zz.Kept pp (State.eccClear s m) := by
  unfold State.eccClear
  repeat' first
    | with_reducible assumption
    | ((with_reducible refine Has.mono hp ?_); exact rfl)
    | ((with_reducible refine Has.get hp _ ?_); exact rfl)
    | with_reducible intro _
    | with_reducible apply Outcome.Kept.next
    | with_reducible apply Kept.ite
    | with_reducible apply OKept.ite
    | with_reducible refine Kept.ofSnd ?_ (by with_reducible assumption)
    | with_reducible refine Kept.ofSnd2 ?_ (by with_reducible assumption)
    | with_reducible refine Kept.ofFst ?_ (by with_reducible assumption)
    | split
    | dsimp only
    | with_reducible apply State.Kept.ecc

theorem State.eccUse_kept (hp : Has pp 0x400000) (s : State) (l : List Nat) (hk : zz.Kept pp s) :
    zz.Kept pp (State.eccUse s l) := by
  unfold State.eccUse
  repeat' first
    | with_reducible assumption
    | ((with_reducible refine Has.mono hp ?_); exact rfl)
    | ((with_reducible refine Has.get hp _ ?_); exact rfl)
    | with_reducible intro _
    | with_reducible apply Outcome.Kept.next
    | with_reducible apply Kept.ite
    | with_reducible apply OKept.ite
    | with_reducible refine Kept.ofSnd ?_ (by with_reducible assumption)
    | with_reducible refine Kept.ofSnd2 ?_ (by with_reducible assumption)
    | with_reducible refine Kept.ofFst ?_ (by with_reducible assumption)
    | split
    | dsimp only
    | with_reducible apply State.Kept.ecc

theorem State.eccWriteAll_kept (hp : Has pp 0x400001) (s : State) (m : Nat) (l : List Nat) (hk : zz.Kept pp s) :
    zz.Kept pp (State.eccWriteAll s m l) := by
  unfold State.eccWriteAll
  repeat' first
    | with_reducible assumption
    | ((with_reducible refine Has.mono hp ?_); exact rfl)
    | ((with_reducible refine Has.get hp _ ?_); exact rfl)
    | with_reducible intro _
    | with_reducible apply State.forEach_kept
    | with_reducible apply State.eccWrite_kept
    | with_reducible apply Outcome.Kept.next
    | with_reducible apply Kept.ite
    | with_reducible apply OKept.ite
    | with_reducible refine Kept.ofSnd ?_ (by with_reducible assumption)
    | with_reducible refine Kept.ofSnd2 ?_ (by with_reducible assumption)
    | with_reducible refine Kept.ofFst ?_ (by with_reducible assumption)
    | split
    | dsimp only

end Sys2Proof.Machine
end

