-- ==== Sys2Proof/Laws/KeptSyncOps.lean ====
section
/-! SUPPORT. What the functions of Sys2Proof/Machine/SyncOps.lean keep: one lemma for each, by the lemmas of what it calls. -/
namespace Sys2Proof.Machine

variable {pp : Part → Bool} {zz : State}

theorem State.mapSync_kept (hp : Has pp 0x200000) (s : State) (g : Sync → Sync) (hk : zz.Kept pp s) :
    zz.Kept pp (State.mapSync s g) := by
  unfold State.mapSync
  repeat' first
    | with_reducible assumption
    | ((with_reducible refine Has.mono hp ?_); exact rfl)
    | ((with_reducible refine Has.get hp _ ?_); exact rfl)
    | with_reducible intro _
    | with_reducible apply Outcome.Kept.next
    | with_reducible apply Kept.ite
    | with_reducible apply OKept.ite
    | with_reducible refine Kept.ofSnd ?_ (by with_reducible assumption)
    | with_reducible refine Kept.ofSnd2 ?_ (by with_reducible assumption)
    | with_reducible refine Kept.ofFst ?_ (by with_reducible assumption)
    | split
    | dsimp only
    | with_reducible apply State.Kept.sync

theorem State.setObj_kept (hp : Has pp 0x200000) (s : State) (f : Nat) (g : SyncObj → SyncObj) (hk : zz.Kept pp s) :
    zz.Kept pp (State.setObj s f g) := by
  unfold State.setObj
  repeat' first
    | with_reducible assumption
    | ((with_reducible refine Has.mono hp ?_); exact rfl)
    | ((with_reducible refine Has.get hp _ ?_); exact rfl)
    | with_reducible intro _
    | with_reducible apply State.mapSync_kept
    | with_reducible apply Outcome.Kept.next
    | with_reducible apply Kept.ite
    | with_reducible apply OKept.ite
    | with_reducible refine Kept.ofSnd ?_ (by with_reducible assumption)
    | with_reducible refine Kept.ofSnd2 ?_ (by with_reducible assumption)
    | with_reducible refine Kept.ofFst ?_ (by with_reducible assumption)
    | split
    | dsimp only

theorem State.deliver_kept (hp : Has pp 0x200204001) (s : State) (core : Nat) (eng : Nat) (status : Nat) (value : Nat) (coupled : Bool) (hk : zz.Kept pp s) :
    zz.Kept pp (State.deliver s core eng status value coupled) := by
  unfold State.deliver
  repeat' first
    | with_reducible assumption
    | ((with_reducible refine Has.mono hp ?_); exact rfl)
    | ((with_reducible refine Has.get hp _ ?_); exact rfl)
    | with_reducible intro _
    | with_reducible apply State.setF_kept
    | with_reducible apply State.mapSync_kept
    | with_reducible apply State.keepVote_kept
    | with_reducible apply State.when_kept
    | with_reducible apply State.leaveWait_kept
    | with_reducible apply Outcome.Kept.next
    | with_reducible apply Kept.ite
    | with_reducible apply OKept.ite
    | with_reducible refine Kept.ofSnd ?_ (by with_reducible assumption)
    | with_reducible refine Kept.ofSnd2 ?_ (by with_reducible assumption)
    | with_reducible refine Kept.ofFst ?_ (by with_reducible assumption)
    | split
    | dsimp only

theorem State.deliverOpen_kept (hp : Has pp 0x220204001) (s : State) (core : Nat) (eng : Nat) (status : Nat) (hk : zz.Kept pp s) :
    zz.Kept pp (State.deliverOpen s core eng status) := by
  unfold State.deliverOpen
  repeat' first
    | with_reducible assumption
    | ((with_reducible refine Has.mono hp ?_); exact rfl)
    | ((with_reducible refine Has.get hp _ ?_); exact rfl)
    | with_reducible intro _
    | with_reducible apply State.drawFree_kept
    | with_reducible apply State.deliver_kept
    | with_reducible apply Outcome.Kept.next
    | with_reducible apply Kept.ite
    | with_reducible apply OKept.ite
    | with_reducible refine Kept.ofSnd ?_ (by with_reducible assumption)
    | with_reducible refine Kept.ofSnd2 ?_ (by with_reducible assumption)
    | with_reducible refine Kept.ofFst ?_ (by with_reducible assumption)
    | split
    | dsimp only

theorem State.finish_kept (hp : Has pp 0x220204001) (s : State) (core : Nat) (eng : Nat) (status : Nat) (value : Option Nat) (hk : zz.Kept pp s) :
    zz.Kept pp (State.finish s core eng status value) := by
  unfold State.finish
  repeat' first
    | with_reducible assumption
    | ((with_reducible refine Has.mono hp ?_); exact rfl)
    | ((with_reducible refine Has.get hp _ ?_); exact rfl)
    | with_reducible intro _
    | with_reducible apply State.deliver_kept
    | with_reducible apply State.deliverOpen_kept
    | with_reducible apply Outcome.Kept.next
    | with_reducible apply Kept.ite
    | with_reducible apply OKept.ite
    | with_reducible refine Kept.ofSnd ?_ (by with_reducible assumption)
    | with_reducible refine Kept.ofSnd2 ?_ (by with_reducible assumption)
    | with_reducible refine Kept.ofFst ?_ (by with_reducible assumption)
    | split
    | dsimp only

theorem State.postIn_kept (hp : Has pp 0x200000) (s : State) (n : Nat) (core : Nat) (eng : Nat) (status : Nat) (value : Option Nat) (hk : zz.Kept pp s) :
    zz.Kept pp (State.postIn s n core eng status value) := by
  unfold State.postIn
  repeat' first
    | with_reducible assumption
    | ((with_reducible refine Has.mono hp ?_); exact rfl)
    | ((with_reducible refine Has.get hp _ ?_); exact rfl)
    | with_reducible intro _
    | with_reducible apply State.mapSync_kept
    | with_reducible apply Outcome.Kept.next
    | with_reducible apply Kept.ite
    | with_reducible apply OKept.ite
    | with_reducible refine Kept.ofSnd ?_ (by with_reducible assumption)
    | with_reducible refine Kept.ofSnd2 ?_ (by with_reducible assumption)
    | with_reducible refine Kept.ofFst ?_ (by with_reducible assumption)
    | split
    | dsimp only

theorem State.post_kept (hp : Has pp 0x200000) (s : State) (core : Nat) (eng : Nat) (status : Nat) (value : Option Nat) (hk : zz.Kept pp s) :
    zz.Kept pp (State.post s core eng status value) := by
  unfold State.post
  repeat' first
    | with_reducible assumption
    | ((with_reducible refine Has.mono hp ?_); exact rfl)
    | ((with_reducible refine Has.get hp _ ?_); exact rfl)
    | with_reducible intro _
    | with_reducible apply State.postIn_kept
    | with_reducible apply Outcome.Kept.next
    | with_reducible apply Kept.ite
    | with_reducible apply OKept.ite
    | with_reducible refine Kept.ofSnd ?_ (by with_reducible assumption)
    | with_reducible refine Kept.ofSnd2 ?_ (by with_reducible assumption)
    | with_reducible refine Kept.ofFst ?_ (by with_reducible assumption)
    | split
    | dsimp only

theorem State.startWait_kept (hp : Has pp 0x4001) (s : State) (core : Nat) (eng : Nat) (hk : zz.Kept pp s) :
    zz.Kept pp (State.startWait s core eng) := by
  unfold State.startWait
  repeat' first
    | with_reducible assumption
    | ((with_reducible refine Has.mono hp ?_); exact rfl)
    | ((with_reducible refine Has.get hp _ ?_); exact rfl)
    | with_reducible intro _
    | with_reducible apply State.when_kept
    | with_reducible apply State.enterWait_kept
    | with_reducible apply Outcome.Kept.next
    | with_reducible apply Kept.ite
    | with_reducible apply OKept.ite
    | with_reducible refine Kept.ofSnd ?_ (by with_reducible assumption)
    | with_reducible refine Kept.ofSnd2 ?_ (by with_reducible assumption)
    | with_reducible refine Kept.ofFst ?_ (by with_reducible assumption)
    | split
    | dsimp only

theorem State.setSlot_kept (hp : Has pp 0x200000) (s : State) (core : Nat) (eng : Nat) (slot : Nat) (v : Nat) (hk : zz.Kept pp s) :
    zz.Kept pp (State.setSlot s core eng slot v) := by
  unfold State.setSlot
  repeat' first
    | with_reducible assumption
    | ((with_reducible refine Has.mono hp ?_); exact rfl)
    | ((with_reducible refine Has.get hp _ ?_); exact rfl)
    | with_reducible intro _
    | with_reducible apply State.mapSync_kept
    | with_reducible apply Outcome.Kept.next
    | with_reducible apply Kept.ite
    | with_reducible apply OKept.ite
    | with_reducible refine Kept.ofSnd ?_ (by with_reducible assumption)
    | with_reducible refine Kept.ofSnd2 ?_ (by with_reducible assumption)
    | with_reducible refine Kept.ofFst ?_ (by with_reducible assumption)
    | split
    | dsimp only

theorem State.tryCollect_kept (hp : Has pp 0x200000) (s : State) (core : Nat) (eng : Nat) (hk : zz.Kept pp s) :
    zz.Kept pp (State.tryCollect s core eng) := by
  unfold State.tryCollect
  repeat' first
    | with_reducible assumption
    | ((with_reducible refine Has.mono hp ?_); exact rfl)
    | ((with_reducible refine Has.get hp _ ?_); exact rfl)
    | with_reducible intro _
    | with_reducible apply State.forEach_kept
    | with_reducible apply State.setSlot_kept
    | with_reducible apply State.post_kept
    | with_reducible apply Outcome.Kept.next
    | with_reducible apply Kept.ite
    | with_reducible apply OKept.ite
    | with_reducible refine Kept.ofSnd ?_ (by with_reducible assumption)
    | with_reducible refine Kept.ofSnd2 ?_ (by with_reducible assumption)
    | with_reducible refine Kept.ofFst ?_ (by with_reducible assumption)
    | split
    | dsimp only

theorem State.sendDie_kept (hp : Has pp 0x200000) (s : State) (words : List Nat) (hk : zz.Kept pp s) :
    zz.Kept pp (State.sendDie s words) := by
  unfold State.sendDie
  repeat' first
    | with_reducible assumption
    | ((with_reducible refine Has.mono hp ?_); exact rfl)
    | ((with_reducible refine Has.get hp _ ?_); exact rfl)
    | with_reducible intro _
    | with_reducible apply State.when_kept
    | with_reducible apply State.mapSync_kept
    | with_reducible apply Outcome.Kept.next
    | with_reducible apply Kept.ite
    | with_reducible apply OKept.ite
    | with_reducible refine Kept.ofSnd ?_ (by with_reducible assumption)
    | with_reducible refine Kept.ofSnd2 ?_ (by with_reducible assumption)
    | with_reducible refine Kept.ofFst ?_ (by with_reducible assumption)
    | split
    | dsimp only

theorem State.sendRelease_kept (hp : Has pp 0x200000) (s : State) (die : Nat) (idx : Nat) (kind : Nat) (take : Nat) (gen : Nat) (w2 : Nat) (w3 : Nat) (hk : zz.Kept pp s) :
    zz.Kept pp (State.sendRelease s die idx kind take gen w2 w3) := by
  unfold State.sendRelease
  repeat' first
    | with_reducible assumption
    | ((with_reducible refine Has.mono hp ?_); exact rfl)
    | ((with_reducible refine Has.get hp _ ?_); exact rfl)
    | with_reducible intro _
    | with_reducible apply State.sendDie_kept
    | with_reducible apply Outcome.Kept.next
    | with_reducible apply Kept.ite
    | with_reducible apply OKept.ite
    | with_reducible refine Kept.ofSnd ?_ (by with_reducible assumption)
    | with_reducible refine Kept.ofSnd2 ?_ (by with_reducible assumption)
    | with_reducible refine Kept.ofFst ?_ (by with_reducible assumption)
    | split
    | dsimp only

theorem State.withdraw_kept (hp : Has pp 0x200000) (s : State) (w : Waiter) (hk : zz.Kept pp s) :
    zz.Kept pp (State.withdraw s w) := by
  unfold State.withdraw
  repeat' first
    | with_reducible assumption
    | ((with_reducible refine Has.mono hp ?_); exact rfl)
    | ((with_reducible refine Has.get hp _ ?_); exact rfl)
    | with_reducible intro _
    | with_reducible apply State.sendDie_kept
    | with_reducible apply Outcome.Kept.next
    | with_reducible apply Kept.ite
    | with_reducible apply OKept.ite
    | with_reducible refine Kept.ofSnd ?_ (by with_reducible assumption)
    | with_reducible refine Kept.ofSnd2 ?_ (by with_reducible assumption)
    | with_reducible refine Kept.ofFst ?_ (by with_reducible assumption)
    | split
    | dsimp only

theorem State.endPost_kept (hp : Has pp 0x200204001) (s : State) (w : Waiter) (i : Nat) (hk : zz.Kept pp s) :
    zz.Kept pp (State.endPost s w i) := by
  unfold State.endPost
  repeat' first
    | with_reducible assumption
    | ((with_reducible refine Has.mono hp ?_); exact rfl)
    | ((with_reducible refine Has.get hp _ ?_); exact rfl)
    | with_reducible intro _
    | with_reducible apply State.deliver_kept
    | with_reducible apply State.setSlot_kept
    | with_reducible apply Outcome.Kept.next
    | with_reducible apply Kept.ite
    | with_reducible apply OKept.ite
    | with_reducible refine Kept.ofSnd ?_ (by with_reducible assumption)
    | with_reducible refine Kept.ofSnd2 ?_ (by with_reducible assumption)
    | with_reducible refine Kept.ofFst ?_ (by with_reducible assumption)
    | split
    | dsimp only

theorem State.forgetCounts_kept (hp : Has pp 0x200000) (s : State) (f : Nat) (hk : zz.Kept pp s) :
    zz.Kept pp (State.forgetCounts s f) := by
  unfold State.forgetCounts
  repeat' first
    | with_reducible assumption
    | ((with_reducible refine Has.mono hp ?_); exact rfl)
    | ((with_reducible refine Has.get hp _ ?_); exact rfl)
    | with_reducible intro _
    | with_reducible apply State.when_kept
    | with_reducible apply State.mapSync_kept
    | with_reducible apply Outcome.Kept.next
    | with_reducible apply Kept.ite
    | with_reducible apply OKept.ite
    | with_reducible refine Kept.ofSnd ?_ (by with_reducible assumption)
    | with_reducible refine Kept.ofSnd2 ?_ (by with_reducible assumption)
    | with_reducible refine Kept.ofFst ?_ (by with_reducible assumption)
    | split
    | dsimp only

theorem State.endRecord_kept (hp : Has pp 0x220204001) (s : State) (w : Waiter) (status : Nat) (value : Option Nat) (coupled : Bool) (hk : zz.Kept pp s) :
    zz.Kept pp (State.endRecord s w status value coupled) := by
  unfold State.endRecord
  repeat' first
    | with_reducible assumption
    | ((with_reducible refine Has.mono hp ?_); exact rfl)
    | ((with_reducible refine Has.get hp _ ?_); exact rfl)
    | with_reducible intro _
    | with_reducible apply State.endPost_kept
    | with_reducible apply State.mapSync_kept
    | with_reducible apply State.keepVote_kept
    | with_reducible apply State.forgetCounts_kept
    | with_reducible apply State.when_kept
    | with_reducible apply State.setF_kept
    | with_reducible apply State.withdraw_kept
    | with_reducible apply State.tryCollect_kept
    | with_reducible apply State.setSlot_kept
    | with_reducible apply State.deliver_kept
    | with_reducible apply State.deliverOpen_kept
    | with_reducible apply Outcome.Kept.next
    | with_reducible apply Kept.ite
    | with_reducible apply OKept.ite
    | with_reducible refine Kept.ofSnd ?_ (by with_reducible assumption)
    | with_reducible refine Kept.ofSnd2 ?_ (by with_reducible assumption)
    | with_reducible refine Kept.ofFst ?_ (by with_reducible assumption)
    | split
    | dsimp only

theorem State.setRecord_kept (hp : Has pp 0x200000) (s : State) (w : Waiter) (g : Waiter → Waiter) (hk : zz.Kept pp s) :
    zz.Kept pp (State.setRecord s w g) := by
  unfold State.setRecord
  repeat' first
    | with_reducible assumption
    | ((with_reducible refine Has.mono hp ?_); exact rfl)
    | ((with_reducible refine Has.get hp _ ?_); exact rfl)
    | with_reducible intro _
    | with_reducible apply State.mapSync_kept
    | with_reducible apply Outcome.Kept.next
    | with_reducible apply Kept.ite
    | with_reducible apply OKept.ite
    | with_reducible refine Kept.ofSnd ?_ (by with_reducible assumption)
    | with_reducible refine Kept.ofSnd2 ?_ (by with_reducible assumption)
    | with_reducible refine Kept.ofFst ?_ (by with_reducible assumption)
    | split
    | dsimp only

theorem State.endSoon_kept (hp : Has pp 0x200000) (s : State) (w : Waiter) (status : Nat) (value : Option Nat) (hk : zz.Kept pp s) :
    zz.Kept pp (State.endSoon s w status value) := by
  unfold State.endSoon
  repeat' first
    | with_reducible assumption
    | ((with_reducible refine Has.mono hp ?_); exact rfl)
    | ((with_reducible refine Has.get hp _ ?_); exact rfl)
    | with_reducible intro _
    | with_reducible apply State.setRecord_kept
    | with_reducible apply Outcome.Kept.next
    | with_reducible apply Kept.ite
    | with_reducible apply OKept.ite
    | with_reducible refine Kept.ofSnd ?_ (by with_reducible assumption)
    | with_reducible refine Kept.ofSnd2 ?_ (by with_reducible assumption)
    | with_reducible refine Kept.ofFst ?_ (by with_reducible assumption)
    | split
    | dsimp only

theorem State.endBack_kept (hp : Has pp 0x200000) (s : State) (w : Waiter) (status : Nat) (hk : zz.Kept pp s) :
    zz.Kept pp (State.endBack s w status) := by
  unfold State.endBack
  repeat' first
    | with_reducible assumption
    | ((with_reducible refine Has.mono hp ?_); exact rfl)
    | ((with_reducible refine Has.get hp _ ?_); exact rfl)
    | with_reducible intro _
    | with_reducible apply State.setRecord_kept
    | with_reducible apply Outcome.Kept.next
    | with_reducible apply Kept.ite
    | with_reducible apply OKept.ite
    | with_reducible refine Kept.ofSnd ?_ (by with_reducible assumption)
    | with_reducible refine Kept.ofSnd2 ?_ (by with_reducible assumption)
    | with_reducible refine Kept.ofFst ?_ (by with_reducible assumption)
    | split
    | dsimp only

theorem State.takeRecord_kept (hp : Has pp 0x604001) (s : State) (q : SyncReq) (f : Nat) (op : Nat) (arg : Nat) (rid : Nat) (slot : Option Nat) (hk : zz.Kept pp s) :
    zz.Kept pp (State.takeRecord s q f op arg rid slot) := by
  unfold State.takeRecord
  repeat' first
    | with_reducible assumption
    | ((with_reducible refine Has.mono hp ?_); exact rfl)
    | ((with_reducible refine Has.get hp _ ?_); exact rfl)
    | with_reducible intro _
    | with_reducible apply State.mapSync_kept
    | with_reducible apply State.when_kept
    | with_reducible apply State.setF_kept
    | with_reducible apply State.eccWrite_kept
    | with_reducible apply State.startWait_kept
    | with_reducible apply Outcome.Kept.next
    | with_reducible apply Kept.ite
    | with_reducible apply OKept.ite
    | with_reducible refine Kept.ofSnd ?_ (by with_reducible assumption)
    | with_reducible refine Kept.ofSnd2 ?_ (by with_reducible assumption)
    | with_reducible refine Kept.ofFst ?_ (by with_reducible assumption)
    | split
    | dsimp only

theorem State.setPoll_kept (hp : Has pp 0x200000) (s : State) (core : Nat) (eng : Nat) (g : Poll → Poll) (hk : zz.Kept pp s) :
    zz.Kept pp (State.setPoll s core eng g) := by
  unfold State.setPoll
  repeat' first
    | with_reducible assumption
    | ((with_reducible refine Has.mono hp ?_); exact rfl)
    | ((with_reducible refine Has.get hp _ ?_); exact rfl)
    | with_reducible intro _
    | with_reducible apply State.mapSync_kept
    | with_reducible apply Outcome.Kept.next
    | with_reducible apply Kept.ite
    | with_reducible apply OKept.ite
    | with_reducible refine Kept.ofSnd ?_ (by with_reducible assumption)
    | with_reducible refine Kept.ofSnd2 ?_ (by with_reducible assumption)
    | with_reducible refine Kept.ofFst ?_ (by with_reducible assumption)
    | split
    | dsimp only

theorem State.refuse_kept (hp : Has pp 0x204001) (s : State) (q : SyncReq) (f : Nat) (op : Nat) (gen : Nat) (asked : Bool) (hk : zz.Kept pp s) :
    zz.Kept pp (State.refuse s q f op gen asked) := by
  unfold State.refuse
  repeat' first
    | with_reducible assumption
    | ((with_reducible refine Has.mono hp ?_); exact rfl)
    | ((with_reducible refine Has.get hp _ ?_); exact rfl)
    | with_reducible intro _
    | with_reducible apply State.raise_kept
    | with_reducible apply State.incF_kept
    | with_reducible apply State.setPoll_kept
    | with_reducible apply State.mapSync_kept
    | with_reducible apply State.startWait_kept
    | with_reducible apply Outcome.Kept.next
    | with_reducible apply Kept.ite
    | with_reducible apply OKept.ite
    | with_reducible refine Kept.ofSnd ?_ (by with_reducible assumption)
    | with_reducible refine Kept.ofSnd2 ?_ (by with_reducible assumption)
    | with_reducible refine Kept.ofFst ?_ (by with_reducible assumption)
    | split
    | dsimp only

theorem State.schedule_kept (hp : Has pp 0x200000) (s : State) (f : Nat) (hk : zz.Kept pp s) :
    zz.Kept pp (State.schedule s f) := by
  unfold State.schedule
  repeat' first
    | with_reducible assumption
    | ((with_reducible refine Has.mono hp ?_); exact rfl)
    | ((with_reducible refine Has.get hp _ ?_); exact rfl)
    | with_reducible intro _
    | with_reducible apply State.mapSync_kept
    | with_reducible apply Outcome.Kept.next
    | with_reducible apply Kept.ite
    | with_reducible apply OKept.ite
    | with_reducible refine Kept.ofSnd ?_ (by with_reducible assumption)
    | with_reducible refine Kept.ofSnd2 ?_ (by with_reducible assumption)
    | with_reducible refine Kept.ofFst ?_ (by with_reducible assumption)
    | split
    | dsimp only

theorem State.tellGeneration_kept (hp : Has pp 0x200000) (s : State) (f : Nat) (hk : zz.Kept pp s) :
    zz.Kept pp (State.tellGeneration s f) := by
  unfold State.tellGeneration
  repeat' first
    | with_reducible assumption
    | ((with_reducible refine Has.mono hp ?_); exact rfl)
    | ((with_reducible refine Has.get hp _ ?_); exact rfl)
    | with_reducible intro _
    | with_reducible apply State.forEach_kept
    | with_reducible apply State.sendRelease_kept
    | with_reducible apply State.mapSync_kept
    | with_reducible apply Outcome.Kept.next
    | with_reducible apply Kept.ite
    | with_reducible apply OKept.ite
    | with_reducible refine Kept.ofSnd ?_ (by with_reducible assumption)
    | with_reducible refine Kept.ofSnd2 ?_ (by with_reducible assumption)
    | with_reducible refine Kept.ofFst ?_ (by with_reducible assumption)
    | split
    | dsimp only

theorem State.objFault_kept (hp : Has pp 0x200001) (s : State) (f : Nat) (word0 : Bool) (hk : zz.Kept pp s) :
    zz.Kept pp (State.objFault s f word0) := by
  unfold State.objFault
  repeat' first
    | with_reducible assumption
    | ((with_reducible refine Has.mono hp ?_); exact rfl)
    | ((with_reducible refine Has.get hp _ ?_); exact rfl)
    | with_reducible intro _
    | with_reducible apply State.raise_kept
    | with_reducible apply State.setObj_kept
    | with_reducible apply State.setF_kept
    | with_reducible apply State.mapSync_kept
    | with_reducible apply State.forEach_kept
    | with_reducible apply State.endSoon_kept
    | with_reducible apply State.post_kept
    | with_reducible apply State.sendRelease_kept
    | with_reducible apply Outcome.Kept.next
    | with_reducible apply Kept.ite
    | with_reducible apply OKept.ite
    | with_reducible refine Kept.ofSnd ?_ (by with_reducible assumption)
    | with_reducible refine Kept.ofSnd2 ?_ (by with_reducible assumption)
    | with_reducible refine Kept.ofFst ?_ (by with_reducible assumption)
    | split
    | dsimp only

theorem State.scrambleObj_kept (hp : Has pp 0x20200000) (s : State) (f : Nat) (word : Nat) (hk : zz.Kept pp s) :
    zz.Kept pp (State.scrambleObj s f word) := by
  unfold State.scrambleObj
  repeat' first
    | with_reducible assumption
    | ((with_reducible refine Has.mono hp ?_); exact rfl)
    | ((with_reducible refine Has.get hp _ ?_); exact rfl)
    | with_reducible intro _
    | with_reducible apply State.drawFree_kept
    | with_reducible apply State.setObj_kept
    | with_reducible apply Outcome.Kept.next
    | with_reducible apply Kept.ite
    | with_reducible apply OKept.ite
    | with_reducible refine Kept.ofSnd ?_ (by with_reducible assumption)
    | with_reducible refine Kept.ofSnd2 ?_ (by with_reducible assumption)
    | with_reducible refine Kept.ofFst ?_ (by with_reducible assumption)
    | split
    | dsimp only

theorem State.readObj_kept (hp : Has pp 0x20600001) (s : State) (f : Nat) (words : List Nat) (hk : zz.Kept pp s) :
    zz.Kept pp (State.readObj s f words) := by
  unfold State.readObj
  repeat' first
    | with_reducible assumption
    | ((with_reducible refine Has.mono hp ?_); exact rfl)
    | ((with_reducible refine Has.get hp _ ?_); exact rfl)
    | with_reducible intro _
    | with_reducible apply State.forEach_kept
    | with_reducible apply State.eccRead_kept
    | with_reducible apply State.objFault_kept
    | with_reducible apply State.scrambleObj_kept
    | with_reducible apply State.when_kept
    | with_reducible apply State.setObj_kept
    | with_reducible apply Outcome.Kept.next
    | with_reducible apply Kept.ite
    | with_reducible apply OKept.ite
    | with_reducible refine Kept.ofSnd ?_ (by with_reducible assumption)
    | with_reducible refine Kept.ofSnd2 ?_ (by with_reducible assumption)
    | with_reducible refine Kept.ofFst ?_ (by with_reducible assumption)
    | split
    | dsimp only

theorem State.scrambleRecord_kept (hp : Has pp 0x20200000) (s : State) (rid : Nat) (hk : zz.Kept pp s) :
    zz.Kept pp (State.scrambleRecord s rid) := by
  unfold State.scrambleRecord
  repeat' first
    | with_reducible assumption
    | ((with_reducible refine Has.mono hp ?_); exact rfl)
    | ((with_reducible refine Has.get hp _ ?_); exact rfl)
    | with_reducible intro _
    | with_reducible apply State.drawFree_kept
    | with_reducible apply State.mapSync_kept
    | with_reducible apply Outcome.Kept.next
    | with_reducible apply Kept.ite
    | with_reducible apply OKept.ite
    | with_reducible refine Kept.ofSnd ?_ (by with_reducible assumption)
    | with_reducible refine Kept.ofSnd2 ?_ (by with_reducible assumption)
    | with_reducible refine Kept.ofFst ?_ (by with_reducible assumption)
    | split
    | dsimp only

theorem State.checkRecord_kept (hp : Has pp 0x20600001) (s : State) (w : Waiter) (hk : zz.Kept pp s) :
    zz.Kept pp (State.checkRecord s w).2 := by
  unfold State.checkRecord
  repeat' first
    | with_reducible assumption
    | ((with_reducible refine Has.mono hp ?_); exact rfl)
    | ((with_reducible refine Has.get hp _ ?_); exact rfl)
    | with_reducible intro _
    | with_reducible apply State.eccRead_kept
    | with_reducible apply State.when_kept
    | with_reducible apply State.scrambleRecord_kept
    | with_reducible apply Outcome.Kept.next
    | with_reducible apply Kept.ite
    | with_reducible apply OKept.ite
    | with_reducible refine Kept.ofSnd ?_ (by with_reducible assumption)
    | with_reducible refine Kept.ofSnd2 ?_ (by with_reducible assumption)
    | with_reducible refine Kept.ofFst ?_ (by with_reducible assumption)
    | split
    | dsimp only

theorem State.endReleased_kept (hp : Has pp 0x20600001) (s : State) (w : Waiter) (status : Nat) (value : Option Nat) (hk : zz.Kept pp s) :
    zz.Kept pp (State.endReleased s w status value) := by
  unfold State.endReleased
  repeat' first
    | with_reducible assumption
    | ((with_reducible refine Has.mono hp ?_); exact rfl)
    | ((with_reducible refine Has.get hp _ ?_); exact rfl)
    | with_reducible intro _
    | with_reducible apply State.endSoon_kept
    | with_reducible apply State.checkRecord_kept
    | with_reducible apply Outcome.Kept.next
    | with_reducible apply Kept.ite
    | with_reducible apply OKept.ite
    | with_reducible refine Kept.ofSnd ?_ (by with_reducible assumption)
    | with_reducible refine Kept.ofSnd2 ?_ (by with_reducible assumption)
    | with_reducible refine Kept.ofFst ?_ (by with_reducible assumption)
    | split
    | dsimp only

theorem State.recordFault_kept (hp : Has pp 0x200001) (s : State) (w : Waiter) (hk : zz.Kept pp s) :
    zz.Kept pp (State.recordFault s w) := by
  unfold State.recordFault
  repeat' first
    | with_reducible assumption
    | ((with_reducible refine Has.mono hp ?_); exact rfl)
    | ((with_reducible refine Has.get hp _ ?_); exact rfl)
    | with_reducible intro _
    | with_reducible apply State.raise_kept
    | with_reducible apply State.setF_kept
    | with_reducible apply State.endBack_kept
    | with_reducible apply Outcome.Kept.next
    | with_reducible apply Kept.ite
    | with_reducible apply OKept.ite
    | with_reducible refine Kept.ofSnd ?_ (by with_reducible assumption)
    | with_reducible refine Kept.ofSnd2 ?_ (by with_reducible assumption)
    | with_reducible refine Kept.ofFst ?_ (by with_reducible assumption)
    | split
    | dsimp only

theorem State.readRecord_kept (hp : Has pp 0x20600001) (s : State) (w : Waiter) (hk : zz.Kept pp s) :
    zz.Kept pp (State.readRecord s w).2 := by
  unfold State.readRecord
  repeat' first
    | with_reducible assumption
    | ((with_reducible refine Has.mono hp ?_); exact rfl)
    | ((with_reducible refine Has.get hp _ ?_); exact rfl)
    | with_reducible intro _
    | with_reducible apply State.checkRecord_kept
    | with_reducible apply State.recordFault_kept
    | with_reducible apply Outcome.Kept.next
    | with_reducible apply Kept.ite
    | with_reducible apply OKept.ite
    | with_reducible refine Kept.ofSnd ?_ (by with_reducible assumption)
    | with_reducible refine Kept.ofSnd2 ?_ (by with_reducible assumption)
    | with_reducible refine Kept.ofFst ?_ (by with_reducible assumption)
    | split
    | dsimp only

theorem State.keepCtx_kept (hp : Has pp 0x200000000) (s : State) (x : Nat) (hk : zz.Kept pp s) :
    zz.Kept pp (State.keepCtx s x) := by
  unfold State.keepCtx
  repeat' first
    | with_reducible assumption
    | ((with_reducible refine Has.mono hp ?_); exact rfl)
    | ((with_reducible refine Has.get hp _ ?_); exact rfl)
    | with_reducible intro _
    | with_reducible apply State.keepLate_kept
    | with_reducible apply Outcome.Kept.next
    | with_reducible apply Kept.ite
    | with_reducible apply OKept.ite
    | with_reducible refine Kept.ofSnd ?_ (by with_reducible assumption)
    | with_reducible refine Kept.ofSnd2 ?_ (by with_reducible assumption)
    | with_reducible refine Kept.ofFst ?_ (by with_reducible assumption)
    | split
    | dsimp only

theorem State.drain_kept (hp : Has pp 0x200200001) (s : State) (x : Nat) (cause : Nat) (cmd : Bool) (hk : zz.Kept pp s) :
    zz.Kept pp (State.drain s x cause cmd) := by
  unfold State.drain
  repeat' first
    | with_reducible assumption
    | ((with_reducible refine Has.mono hp ?_); exact rfl)
    | ((with_reducible refine Has.get hp _ ?_); exact rfl)
    | with_reducible intro _
    | with_reducible apply State.setF_kept
    | with_reducible apply State.keepCtx_kept
    | with_reducible apply State.mapSync_kept
    | with_reducible apply Outcome.Kept.next
    | with_reducible apply Kept.ite
    | with_reducible apply OKept.ite
    | with_reducible refine Kept.ofSnd ?_ (by with_reducible assumption)
    | with_reducible refine Kept.ofSnd2 ?_ (by with_reducible assumption)
    | with_reducible refine Kept.ofFst ?_ (by with_reducible assumption)
    | split
    | dsimp only

theorem State.ctxFault_kept (hp : Has pp 0x200200001) (s : State) (x : Nat) (hk : zz.Kept pp s) :
    zz.Kept pp (State.ctxFault s x) := by
  unfold State.ctxFault
  repeat' first
    | with_reducible assumption
    | ((with_reducible refine Has.mono hp ?_); exact rfl)
    | ((with_reducible refine Has.get hp _ ?_); exact rfl)
    | with_reducible intro _
    | with_reducible apply State.raise_kept
    | with_reducible apply State.drain_kept
    | with_reducible apply Outcome.Kept.next
    | with_reducible apply Kept.ite
    | with_reducible apply OKept.ite
    | with_reducible refine Kept.ofSnd ?_ (by with_reducible assumption)
    | with_reducible refine Kept.ofSnd2 ?_ (by with_reducible assumption)
    | with_reducible refine Kept.ofFst ?_ (by with_reducible assumption)
    | split
    | dsimp only

theorem State.patchXlt_kept (hp : Has pp 0x1) (s : State) (w : Nat) (d : Nat) (hk : zz.Kept pp s) :
    zz.Kept pp (State.patchXlt s w d) := by
  unfold State.patchXlt
  repeat' first
    | with_reducible assumption
    | ((with_reducible refine Has.mono hp ?_); exact rfl)
    | ((with_reducible refine Has.get hp _ ?_); exact rfl)
    | with_reducible intro _
    | with_reducible apply State.setF_kept
    | with_reducible apply Outcome.Kept.next
    | with_reducible apply Kept.ite
    | with_reducible apply OKept.ite
    | with_reducible refine Kept.ofSnd ?_ (by with_reducible assumption)
    | with_reducible refine Kept.ofSnd2 ?_ (by with_reducible assumption)
    | with_reducible refine Kept.ofFst ?_ (by with_reducible assumption)
    | split
    | dsimp only

theorem State.xltFault_kept (hp : Has pp 0x200600001) (s : State) (w : Nat) (hk : zz.Kept pp s) :
    zz.Kept pp (State.xltFault s w) := by
  unfold State.xltFault
  repeat' first
    | with_reducible assumption
    | ((with_reducible refine Has.mono hp ?_); exact rfl)
    | ((with_reducible refine Has.get hp _ ?_); exact rfl)
    | with_reducible intro _
    | with_reducible apply State.ctxFault_kept
    | with_reducible apply State.eccWrite_kept
    | with_reducible apply State.patchXlt_kept
    | with_reducible apply Outcome.Kept.next
    | with_reducible apply Kept.ite
    | with_reducible apply OKept.ite
    | with_reducible refine Kept.ofSnd ?_ (by with_reducible assumption)
    | with_reducible refine Kept.ofSnd2 ?_ (by with_reducible assumption)
    | with_reducible refine Kept.ofFst ?_ (by with_reducible assumption)
    | split
    | dsimp only

theorem State.checkXlt_kept (hp : Has pp 0x220600001) (s : State) (w : Nat) (hk : zz.Kept pp s) :
    zz.Kept pp (State.checkXlt s w).2 := by
  unfold State.checkXlt
  repeat' first
    | with_reducible assumption
    | ((with_reducible refine Has.mono hp ?_); exact rfl)
    | ((with_reducible refine Has.get hp _ ?_); exact rfl)
    | with_reducible intro _
    | with_reducible apply State.eccRead_kept
    | with_reducible apply State.xltFault_kept
    | with_reducible apply State.drawFree_kept
    | with_reducible apply State.patchXlt_kept
    | with_reducible apply Outcome.Kept.next
    | with_reducible apply Kept.ite
    | with_reducible apply OKept.ite
    | with_reducible refine Kept.ofSnd ?_ (by with_reducible assumption)
    | with_reducible refine Kept.ofSnd2 ?_ (by with_reducible assumption)
    | with_reducible refine Kept.ofFst ?_ (by with_reducible assumption)
    | split
    | dsimp only

theorem State.walkOnce_kept (hp : Has pp 0x20600001) (s : State) (k : Walk) (hk : zz.Kept pp s) :
    zz.Kept pp (State.walkOnce s k) := by
  unfold State.walkOnce
  repeat' first
    | with_reducible assumption
    | ((with_reducible refine Has.mono hp ?_); exact rfl)
    | ((with_reducible refine Has.get hp _ ?_); exact rfl)
    | with_reducible intro _
    | with_reducible apply State.forEach_kept
    | with_reducible apply State.readRecord_kept
    | with_reducible apply State.endBack_kept
    | with_reducible apply State.mapSync_kept
    | with_reducible apply Outcome.Kept.next
    | with_reducible apply Kept.ite
    | with_reducible apply OKept.ite
    | with_reducible refine Kept.ofSnd ?_ (by with_reducible assumption)
    | with_reducible refine Kept.ofSnd2 ?_ (by with_reducible assumption)
    | with_reducible refine Kept.ofFst ?_ (by with_reducible assumption)
    | split
    | dsimp only

theorem State.walkTick_kept (hp : Has pp 0x20600001) (s : State) (hk : zz.Kept pp s) :
    zz.Kept pp (State.walkTick s) := by
  unfold State.walkTick
  repeat' first
    | with_reducible assumption
    | ((with_reducible refine Has.mono hp ?_); exact rfl)
    | ((with_reducible refine Has.get hp _ ?_); exact rfl)
    | with_reducible intro _
    | with_reducible apply State.forEach_kept
    | with_reducible apply State.walkOnce_kept
    | with_reducible apply Outcome.Kept.next
    | with_reducible apply Kept.ite
    | with_reducible apply OKept.ite
    | with_reducible refine Kept.ofSnd ?_ (by with_reducible assumption)
    | with_reducible refine Kept.ofSnd2 ?_ (by with_reducible assumption)
    | with_reducible refine Kept.ofFst ?_ (by with_reducible assumption)
    | split
    | dsimp only

theorem State.deliverDue_kept (hp : Has pp 0x220204001) (s : State) (hk : zz.Kept pp s) :
    zz.Kept pp (State.deliverDue s) := by
  unfold State.deliverDue
  repeat' first
    | with_reducible assumption
    | ((with_reducible refine Has.mono hp ?_); exact rfl)
    | ((with_reducible refine Has.get hp _ ?_); exact rfl)
    | with_reducible intro _
    | with_reducible apply State.mapSync_kept
    | with_reducible apply State.forEach_kept
    | with_reducible apply State.finish_kept
    | with_reducible apply State.endRecord_kept
    | with_reducible apply Outcome.Kept.next
    | with_reducible apply Kept.ite
    | with_reducible apply OKept.ite
    | with_reducible refine Kept.ofSnd ?_ (by with_reducible assumption)
    | with_reducible refine Kept.ofSnd2 ?_ (by with_reducible assumption)
    | with_reducible refine Kept.ofFst ?_ (by with_reducible assumption)
    | split
    | dsimp only

end Sys2Proof.Machine
end

