-- ==== Sys2Proof/Laws/KeptSyncApply.lean ====
section
/-! SUPPORT. What the functions of Sys2Proof/Machine/SyncApply.lean keep: one lemma for each, by the lemmas of what it calls. -/
namespace Sys2Proof.Machine

variable {pp : Part → Bool} {zz : State}

theorem opRead_kept (s : State) (f opf arg : Nat) (hk : zz.Kept pp s) :
    zz.Kept pp (opRead s f opf arg).2.2 := by
  unfold opRead
  repeat' first
    | with_reducible assumption
    | with_reducible intro _
    | with_reducible apply Outcome.Kept.next
    | with_reducible apply Kept.ite
    | with_reducible apply OKept.ite
    | with_reducible refine Kept.ofSnd ?_ (by with_reducible assumption)
    | with_reducible refine Kept.ofSnd2 ?_ (by with_reducible assumption)
    | with_reducible refine Kept.ofFst ?_ (by with_reducible assumption)
    | split
    | dsimp only

theorem opInit_kept (hp : Has pp 0x600001) (s : State) (f opf arg : Nat) (hk : zz.Kept pp s) :
    zz.Kept pp (opInit s f opf arg).2.2 := by
  unfold opInit
  repeat' first
    | with_reducible assumption
    | ((with_reducible refine Has.mono hp ?_); exact rfl)
    | ((with_reducible refine Has.get hp _ ?_); exact rfl)
    | with_reducible intro _
    | with_reducible apply State.setObj_kept
    | with_reducible apply State.forEach_kept
    | with_reducible apply State.eccWrite_kept
    | with_reducible apply Outcome.Kept.next
    | with_reducible apply Kept.ite
    | with_reducible apply OKept.ite
    | with_reducible refine Kept.ofSnd ?_ (by with_reducible assumption)
    | with_reducible refine Kept.ofSnd2 ?_ (by with_reducible assumption)
    | with_reducible refine Kept.ofFst ?_ (by with_reducible assumption)
    | split
    | dsimp only

theorem State.serveOne_kept (hp : Has pp 0x20600001) (s : State) (f : Nat) (hk : zz.Kept pp s) :
    zz.Kept pp (State.serveOne s f) := by
  unfold State.serveOne
  repeat' first
    | with_reducible assumption
    | ((with_reducible refine Has.mono hp ?_); exact rfl)
    | ((with_reducible refine Has.get hp _ ?_); exact rfl)
    | with_reducible intro _
    | with_reducible apply State.when_kept
    | with_reducible apply State.mapSync_kept
    | with_reducible apply State.endReleased_kept
    | with_reducible apply State.sendRelease_kept
    | with_reducible apply Outcome.Kept.next
    | with_reducible apply Kept.ite
    | with_reducible apply OKept.ite
    | with_reducible refine Kept.ofSnd ?_ (by with_reducible assumption)
    | with_reducible refine Kept.ofSnd2 ?_ (by with_reducible assumption)
    | with_reducible refine Kept.ofFst ?_ (by with_reducible assumption)
    | split
    | dsimp only

theorem State.serve_kept (hp : Has pp 0x20600001) (s : State) (f n : Nat) (h : zz.Kept pp s) : zz.Kept pp (s.serve f n) := by
  induction n generalizing s with
  | zero => exact h
  | succ n ih => exact ih _ (State.serveOne_kept (Has.mono hp rfl) s f h)

theorem State.signal_kept (hp : Has pp 0x20600001) (s : State) (f : Nat) (n : Nat) (hk : zz.Kept pp s) :
    zz.Kept pp (State.signal s f n) := by
  unfold State.signal
  repeat' first
    | with_reducible assumption
    | ((with_reducible refine Has.mono hp ?_); exact rfl)
    | ((with_reducible refine Has.get hp _ ?_); exact rfl)
    | with_reducible intro _
    | with_reducible apply State.serve_kept
    | with_reducible apply State.when_kept
    | with_reducible apply State.setObj_kept
    | with_reducible apply State.raise_kept
    | with_reducible apply Outcome.Kept.next
    | with_reducible apply Kept.ite
    | with_reducible apply OKept.ite
    | with_reducible refine Kept.ofSnd ?_ (by with_reducible assumption)
    | with_reducible refine Kept.ofSnd2 ?_ (by with_reducible assumption)
    | with_reducible refine Kept.ofFst ?_ (by with_reducible assumption)
    | split
    | dsimp only

theorem opSignal_kept (hp : Has pp 0x20600001) (s : State) (f opf arg : Nat) (hk : zz.Kept pp s) :
    zz.Kept pp (opSignal s f opf arg).2.2 := by
  unfold opSignal
  repeat' first
    | with_reducible assumption
    | ((with_reducible refine Has.mono hp ?_); exact rfl)
    | ((with_reducible refine Has.get hp _ ?_); exact rfl)
    | with_reducible intro _
    | with_reducible apply State.signal_kept
    | with_reducible apply Outcome.Kept.next
    | with_reducible apply Kept.ite
    | with_reducible apply OKept.ite
    | with_reducible refine Kept.ofSnd ?_ (by with_reducible assumption)
    | with_reducible refine Kept.ofSnd2 ?_ (by with_reducible assumption)
    | with_reducible refine Kept.ofFst ?_ (by with_reducible assumption)
    | split
    | dsimp only

theorem opWait_kept (hp : Has pp 0x200000) (s : State) (f opf arg : Nat) (hk : zz.Kept pp s) :
    zz.Kept pp (opWait s f opf arg).2.2 := by
  unfold opWait
  repeat' first
    | with_reducible assumption
    | ((with_reducible refine Has.mono hp ?_); exact rfl)
    | ((with_reducible refine Has.get hp _ ?_); exact rfl)
    | with_reducible intro _
    | with_reducible apply State.setObj_kept
    | with_reducible apply Outcome.Kept.next
    | with_reducible apply Kept.ite
    | with_reducible apply OKept.ite
    | with_reducible refine Kept.ofSnd ?_ (by with_reducible assumption)
    | with_reducible refine Kept.ofSnd2 ?_ (by with_reducible assumption)
    | with_reducible refine Kept.ofFst ?_ (by with_reducible assumption)
    | split
    | dsimp only

theorem opEvTake_kept (hp : Has pp 0x200000) (s : State) (f opf arg : Nat) (hk : zz.Kept pp s) :
    zz.Kept pp (opEvTake s f opf arg).2.2 := by
  unfold opEvTake
  repeat' first
    | with_reducible assumption
    | ((with_reducible refine Has.mono hp ?_); exact rfl)
    | ((with_reducible refine Has.get hp _ ?_); exact rfl)
    | with_reducible intro _
    | with_reducible apply State.setObj_kept
    | with_reducible apply Outcome.Kept.next
    | with_reducible apply Kept.ite
    | with_reducible apply OKept.ite
    | with_reducible refine Kept.ofSnd ?_ (by with_reducible assumption)
    | with_reducible refine Kept.ofSnd2 ?_ (by with_reducible assumption)
    | with_reducible refine Kept.ofFst ?_ (by with_reducible assumption)
    | split
    | dsimp only

theorem opTry_kept (hp : Has pp 0x200000) (s : State) (f opf arg : Nat) (hk : zz.Kept pp s) :
    zz.Kept pp (opTry s f opf arg).2.2 := by
  unfold opTry
  repeat' first
    | with_reducible assumption
    | ((with_reducible refine Has.mono hp ?_); exact rfl)
    | ((with_reducible refine Has.get hp _ ?_); exact rfl)
    | with_reducible intro _
    | with_reducible apply opWait_kept
    | with_reducible apply opEvTake_kept
    | with_reducible apply Outcome.Kept.next
    | with_reducible apply Kept.ite
    | with_reducible apply OKept.ite
    | with_reducible refine Kept.ofSnd ?_ (by with_reducible assumption)
    | with_reducible refine Kept.ofSnd2 ?_ (by with_reducible assumption)
    | with_reducible refine Kept.ofFst ?_ (by with_reducible assumption)
    | split
    | dsimp only

theorem State.arrive_kept (hp : Has pp 0x200000) (s : State) (f : Nat) (hk : zz.Kept pp s) :
    zz.Kept pp (State.arrive s f).2.2 := by
  unfold State.arrive
  repeat' first
    | with_reducible assumption
    | ((with_reducible refine Has.mono hp ?_); exact rfl)
    | ((with_reducible refine Has.get hp _ ?_); exact rfl)
    | with_reducible intro _
    | with_reducible apply State.setObj_kept
    | with_reducible apply Outcome.Kept.next
    | with_reducible apply Kept.ite
    | with_reducible apply OKept.ite
    | with_reducible refine Kept.ofSnd ?_ (by with_reducible assumption)
    | with_reducible refine Kept.ofSnd2 ?_ (by with_reducible assumption)
    | with_reducible refine Kept.ofFst ?_ (by with_reducible assumption)
    | split
    | dsimp only

theorem opArrive_kept (hp : Has pp 0x200000) (s : State) (f opf arg : Nat) (hk : zz.Kept pp s) :
    zz.Kept pp (opArrive s f opf arg).2.2 := by
  unfold opArrive
  repeat' first
    | with_reducible assumption
    | ((with_reducible refine Has.mono hp ?_); exact rfl)
    | ((with_reducible refine Has.get hp _ ?_); exact rfl)
    | with_reducible intro _
    | with_reducible apply State.arrive_kept
    | with_reducible apply Outcome.Kept.next
    | with_reducible apply Kept.ite
    | with_reducible apply OKept.ite
    | with_reducible refine Kept.ofSnd ?_ (by with_reducible assumption)
    | with_reducible refine Kept.ofSnd2 ?_ (by with_reducible assumption)
    | with_reducible refine Kept.ofFst ?_ (by with_reducible assumption)
    | split
    | dsimp only

theorem opArriveNw_kept (hp : Has pp 0x200000) (s : State) (f opf arg : Nat) (hk : zz.Kept pp s) :
    zz.Kept pp (opArriveNw s f opf arg).2.2 := by
  unfold opArriveNw
  repeat' first
    | with_reducible assumption
    | ((with_reducible refine Has.mono hp ?_); exact rfl)
    | ((with_reducible refine Has.get hp _ ?_); exact rfl)
    | with_reducible intro _
    | with_reducible apply State.arrive_kept
    | with_reducible apply Outcome.Kept.next
    | with_reducible apply Kept.ite
    | with_reducible apply OKept.ite
    | with_reducible refine Kept.ofSnd ?_ (by with_reducible assumption)
    | with_reducible refine Kept.ofSnd2 ?_ (by with_reducible assumption)
    | with_reducible refine Kept.ofFst ?_ (by with_reducible assumption)
    | split
    | dsimp only

theorem State.setEvent_kept (hp : Has pp 0x20600001) (s : State) (f : Nat) (silent : Bool) (hk : zz.Kept pp s) :
    zz.Kept pp (State.setEvent s f silent) := by
  unfold State.setEvent
  repeat' first
    | with_reducible assumption
    | ((with_reducible refine Has.mono hp ?_); exact rfl)
    | ((with_reducible refine Has.get hp _ ?_); exact rfl)
    | with_reducible intro _
    | with_reducible apply State.raise_kept
    | with_reducible apply State.setObj_kept
    | with_reducible apply State.forEach_kept
    | with_reducible apply State.endReleased_kept
    | with_reducible apply State.when_kept
    | with_reducible apply State.mapSync_kept
    | with_reducible apply State.sendRelease_kept
    | with_reducible apply Outcome.Kept.next
    | with_reducible apply Kept.ite
    | with_reducible apply OKept.ite
    | with_reducible refine Kept.ofSnd ?_ (by with_reducible assumption)
    | with_reducible refine Kept.ofSnd2 ?_ (by with_reducible assumption)
    | with_reducible refine Kept.ofFst ?_ (by with_reducible assumption)
    | split
    | dsimp only

theorem opEvSet_kept (hp : Has pp 0x20600001) (s : State) (f opf arg : Nat) (hk : zz.Kept pp s) :
    zz.Kept pp (opEvSet s f opf arg).2.2 := by
  unfold opEvSet
  repeat' first
    | with_reducible assumption
    | ((with_reducible refine Has.mono hp ?_); exact rfl)
    | ((with_reducible refine Has.get hp _ ?_); exact rfl)
    | with_reducible intro _
    | with_reducible apply State.setEvent_kept
    | with_reducible apply Outcome.Kept.next
    | with_reducible apply Kept.ite
    | with_reducible apply OKept.ite
    | with_reducible refine Kept.ofSnd ?_ (by with_reducible assumption)
    | with_reducible refine Kept.ofSnd2 ?_ (by with_reducible assumption)
    | with_reducible refine Kept.ofFst ?_ (by with_reducible assumption)
    | split
    | dsimp only

theorem opEvClear_kept (hp : Has pp 0x200000) (s : State) (f opf arg : Nat) (hk : zz.Kept pp s) :
    zz.Kept pp (opEvClear s f opf arg).2.2 := by
  unfold opEvClear
  repeat' first
    | with_reducible assumption
    | ((with_reducible refine Has.mono hp ?_); exact rfl)
    | ((with_reducible refine Has.get hp _ ?_); exact rfl)
    | with_reducible intro _
    | with_reducible apply State.setObj_kept
    | with_reducible apply Outcome.Kept.next
    | with_reducible apply Kept.ite
    | with_reducible apply OKept.ite
    | with_reducible refine Kept.ofSnd ?_ (by with_reducible assumption)
    | with_reducible refine Kept.ofSnd2 ?_ (by with_reducible assumption)
    | with_reducible refine Kept.ofFst ?_ (by with_reducible assumption)
    | split
    | dsimp only

theorem opEvWait_kept (s : State) (f opf arg : Nat) (hk : zz.Kept pp s) :
    zz.Kept pp (opEvWait s f opf arg).2.2 := by
  unfold opEvWait
  repeat' first
    | with_reducible assumption
    | with_reducible intro _
    | with_reducible apply Outcome.Kept.next
    | with_reducible apply Kept.ite
    | with_reducible apply OKept.ite
    | with_reducible refine Kept.ofSnd ?_ (by with_reducible assumption)
    | with_reducible refine Kept.ofSnd2 ?_ (by with_reducible assumption)
    | with_reducible refine Kept.ofFst ?_ (by with_reducible assumption)
    | split
    | dsimp only

theorem State.releasePair_kept (hp : Has pp 0x20600001) (s : State) (f : Nat) (op : Nat) (hk : zz.Kept pp s) :
    zz.Kept pp (State.releasePair s f op) := by
  unfold State.releasePair
  repeat' first
    | with_reducible assumption
    | ((with_reducible refine Has.mono hp ?_); exact rfl)
    | ((with_reducible refine Has.get hp _ ?_); exact rfl)
    | with_reducible intro _
    | with_reducible apply State.forEach_kept
    | with_reducible apply State.endReleased_kept
    | with_reducible apply State.sendRelease_kept
    | with_reducible apply State.mapSync_kept
    | with_reducible apply Outcome.Kept.next
    | with_reducible apply Kept.ite
    | with_reducible apply OKept.ite
    | with_reducible refine Kept.ofSnd ?_ (by with_reducible assumption)
    | with_reducible refine Kept.ofSnd2 ?_ (by with_reducible assumption)
    | with_reducible refine Kept.ofFst ?_ (by with_reducible assumption)
    | split
    | dsimp only

theorem State.overLimit_kept (hp : Has pp 0x200001) (s : State) (f : Nat) (hk : zz.Kept pp s) :
    zz.Kept pp (State.overLimit s f) := by
  unfold State.overLimit
  repeat' first
    | with_reducible assumption
    | ((with_reducible refine Has.mono hp ?_); exact rfl)
    | ((with_reducible refine Has.get hp _ ?_); exact rfl)
    | with_reducible intro _
    | with_reducible apply State.raise_kept
    | with_reducible apply State.setObj_kept
    | with_reducible apply Outcome.Kept.next
    | with_reducible apply Kept.ite
    | with_reducible apply OKept.ite
    | with_reducible refine Kept.ofSnd ?_ (by with_reducible assumption)
    | with_reducible refine Kept.ofSnd2 ?_ (by with_reducible assumption)
    | with_reducible refine Kept.ofFst ?_ (by with_reducible assumption)
    | split
    | dsimp only

theorem opProduce_kept (hp : Has pp 0x20600001) (s : State) (f opf arg : Nat) (hk : zz.Kept pp s) :
    zz.Kept pp (opProduce s f opf arg).2.2 := by
  unfold opProduce
  repeat' first
    | with_reducible assumption
    | ((with_reducible refine Has.mono hp ?_); exact rfl)
    | ((with_reducible refine Has.get hp _ ?_); exact rfl)
    | with_reducible intro _
    | with_reducible apply State.overLimit_kept
    | with_reducible apply State.releasePair_kept
    | with_reducible apply State.setObj_kept
    | with_reducible apply Outcome.Kept.next
    | with_reducible apply Kept.ite
    | with_reducible apply OKept.ite
    | with_reducible refine Kept.ofSnd ?_ (by with_reducible assumption)
    | with_reducible refine Kept.ofSnd2 ?_ (by with_reducible assumption)
    | with_reducible refine Kept.ofFst ?_ (by with_reducible assumption)
    | split
    | dsimp only

theorem opConsume_kept (hp : Has pp 0x20600001) (s : State) (f opf arg : Nat) (hk : zz.Kept pp s) :
    zz.Kept pp (opConsume s f opf arg).2.2 := by
  unfold opConsume
  repeat' first
    | with_reducible assumption
    | ((with_reducible refine Has.mono hp ?_); exact rfl)
    | ((with_reducible refine Has.get hp _ ?_); exact rfl)
    | with_reducible intro _
    | with_reducible apply State.overLimit_kept
    | with_reducible apply State.releasePair_kept
    | with_reducible apply State.setObj_kept
    | with_reducible apply Outcome.Kept.next
    | with_reducible apply Kept.ite
    | with_reducible apply OKept.ite
    | with_reducible refine Kept.ofSnd ?_ (by with_reducible assumption)
    | with_reducible refine Kept.ofSnd2 ?_ (by with_reducible assumption)
    | with_reducible refine Kept.ofFst ?_ (by with_reducible assumption)
    | split
    | dsimp only

theorem opWaitData_kept (s : State) (f opf arg : Nat) (hk : zz.Kept pp s) :
    zz.Kept pp (opWaitData s f opf arg).2.2 := by
  unfold opWaitData
  repeat' first
    | with_reducible assumption
    | with_reducible intro _
    | with_reducible apply Outcome.Kept.next
    | with_reducible apply Kept.ite
    | with_reducible apply OKept.ite
    | with_reducible refine Kept.ofSnd ?_ (by with_reducible assumption)
    | with_reducible refine Kept.ofSnd2 ?_ (by with_reducible assumption)
    | with_reducible refine Kept.ofFst ?_ (by with_reducible assumption)
    | split
    | dsimp only

theorem opWaitSpace_kept (s : State) (f opf arg : Nat) (hk : zz.Kept pp s) :
    zz.Kept pp (opWaitSpace s f opf arg).2.2 := by
  unfold opWaitSpace
  repeat' first
    | with_reducible assumption
    | with_reducible intro _
    | with_reducible apply Outcome.Kept.next
    | with_reducible apply Kept.ite
    | with_reducible apply OKept.ite
    | with_reducible refine Kept.ofSnd ?_ (by with_reducible assumption)
    | with_reducible refine Kept.ofSnd2 ?_ (by with_reducible assumption)
    | with_reducible refine Kept.ofFst ?_ (by with_reducible assumption)
    | split
    | dsimp only

theorem State.lowerTargets_kept (hp : Has pp 0x200000) (s : State) (f : Nat) (base : Nat) (hk : zz.Kept pp s) :
    zz.Kept pp (State.lowerTargets s f base) := by
  unfold State.lowerTargets
  repeat' first
    | with_reducible assumption
    | ((with_reducible refine Has.mono hp ?_); exact rfl)
    | ((with_reducible refine Has.get hp _ ?_); exact rfl)
    | with_reducible intro _
    | with_reducible apply State.mapSync_kept
    | with_reducible apply Outcome.Kept.next
    | with_reducible apply Kept.ite
    | with_reducible apply OKept.ite
    | with_reducible refine Kept.ofSnd ?_ (by with_reducible assumption)
    | with_reducible refine Kept.ofSnd2 ?_ (by with_reducible assumption)
    | with_reducible refine Kept.ofFst ?_ (by with_reducible assumption)
    | split
    | dsimp only

theorem opRealign_kept (hp : Has pp 0x200000) (s : State) (f opf arg : Nat) (hk : zz.Kept pp s) :
    zz.Kept pp (opRealign s f opf arg).2.2 := by
  unfold opRealign
  repeat' first
    | with_reducible assumption
    | ((with_reducible refine Has.mono hp ?_); exact rfl)
    | ((with_reducible refine Has.get hp _ ?_); exact rfl)
    | with_reducible intro _
    | with_reducible apply State.arrive_kept
    | with_reducible apply State.when_kept
    | with_reducible apply State.lowerTargets_kept
    | with_reducible apply State.setObj_kept
    | with_reducible apply Outcome.Kept.next
    | with_reducible apply Kept.ite
    | with_reducible apply OKept.ite
    | with_reducible refine Kept.ofSnd ?_ (by with_reducible assumption)
    | with_reducible refine Kept.ofSnd2 ?_ (by with_reducible assumption)
    | with_reducible refine Kept.ofFst ?_ (by with_reducible assumption)
    | split
    | dsimp only

theorem State.applyOp_kept (hp : Has pp 0x20600001) (s : State) (f : Nat) (who : Signaller) (op : Nat) (opf : Nat) (arg : Nat) (g : OpFun) (hf : ∀ t a b c, zz.Kept pp t → zz.Kept pp (g t a b c).2.2) (hk : zz.Kept pp s) :
    zz.Kept pp (State.applyOp s f who op opf arg g).2.2 := by
  unfold State.applyOp
  repeat' first
    | with_reducible assumption
    | ((with_reducible refine Has.mono hp ?_); exact rfl)
    | ((with_reducible refine Has.get hp _ ?_); exact rfl)
    | with_reducible intro _
    | with_reducible apply hf
    | with_reducible apply State.readObj_kept
    | with_reducible apply State.setF_kept
    | with_reducible apply State.when_kept
    | with_reducible apply State.setObj_kept
    | with_reducible apply State.forEach_kept
    | with_reducible apply State.eccWrite_kept
    | with_reducible apply Outcome.Kept.next
    | with_reducible apply Kept.ite
    | with_reducible apply OKept.ite
    | with_reducible refine Kept.ofSnd ?_ (by with_reducible assumption)
    | with_reducible refine Kept.ofSnd2 ?_ (by with_reducible assumption)
    | with_reducible refine Kept.ofFst ?_ (by with_reducible assumption)
    | split
    | dsimp only

theorem State.completed_kept (hp : Has pp 0x200000) (s : State) (f : Nat) (c : Bool) (hk : zz.Kept pp s) :
    zz.Kept pp (State.completed s f c) := by
  unfold State.completed
  repeat' first
    | with_reducible assumption
    | ((with_reducible refine Has.mono hp ?_); exact rfl)
    | ((with_reducible refine Has.get hp _ ?_); exact rfl)
    | with_reducible intro _
    | with_reducible apply State.when_kept
    | with_reducible apply State.tellGeneration_kept
    | with_reducible apply State.schedule_kept
    | with_reducible apply Outcome.Kept.next
    | with_reducible apply Kept.ite
    | with_reducible apply OKept.ite
    | with_reducible refine Kept.ofSnd ?_ (by with_reducible assumption)
    | with_reducible refine Kept.ofSnd2 ?_ (by with_reducible assumption)
    | with_reducible refine Kept.ofFst ?_ (by with_reducible assumption)
    | split
    | dsimp only

theorem State.settle_kept (hp : Has pp 0x604001) (s : State) (q : SyncReq) (f : Nat) (slot : Option Nat) (e : OpEnd) (hk : zz.Kept pp s) :
    zz.Kept pp (State.settle s q f slot e) := by
  unfold State.settle
  repeat' first
    | with_reducible assumption
    | ((with_reducible refine Has.mono hp ?_); exact rfl)
    | ((with_reducible refine Has.get hp _ ?_); exact rfl)
    | with_reducible intro _
    | with_reducible apply State.post_kept
    | with_reducible apply State.setSlot_kept
    | with_reducible apply State.takeRecord_kept
    | with_reducible apply State.refuse_kept
    | with_reducible apply Outcome.Kept.next
    | with_reducible apply Kept.ite
    | with_reducible apply OKept.ite
    | with_reducible refine Kept.ofSnd ?_ (by with_reducible assumption)
    | with_reducible refine Kept.ofSnd2 ?_ (by with_reducible assumption)
    | with_reducible refine Kept.ofFst ?_ (by with_reducible assumption)
    | split
    | dsimp only

theorem State.sendForward_kept (hp : Has pp 0x200000) (s : State) (q : SyncReq) (f : Nat) (word : Nat) (arg : Nat) (rid : Option Nat) (slot : Option Nat) (hk : zz.Kept pp s) :
    zz.Kept pp (State.sendForward s q f word arg rid slot) := by
  unfold State.sendForward
  repeat' first
    | with_reducible assumption
    | ((with_reducible refine Has.mono hp ?_); exact rfl)
    | ((with_reducible refine Has.get hp _ ?_); exact rfl)
    | with_reducible intro _
    | with_reducible apply State.sendDie_kept
    | with_reducible apply State.mapSync_kept
    | with_reducible apply Outcome.Kept.next
    | with_reducible apply Kept.ite
    | with_reducible apply OKept.ite
    | with_reducible refine Kept.ofSnd ?_ (by with_reducible assumption)
    | with_reducible refine Kept.ofSnd2 ?_ (by with_reducible assumption)
    | with_reducible refine Kept.ofFst ?_ (by with_reducible assumption)
    | split
    | dsimp only

theorem State.forward_kept (hp : Has pp 0x604001) (s : State) (q : SyncReq) (f : Nat) (word : Nat) (arg : Nat) (slot : Option Nat) (hk : zz.Kept pp s) :
    zz.Kept pp (State.forward s q f word arg slot) := by
  unfold State.forward
  repeat' first
    | with_reducible assumption
    | ((with_reducible refine Has.mono hp ?_); exact rfl)
    | ((with_reducible refine Has.get hp _ ?_); exact rfl)
    | with_reducible intro _
    | with_reducible apply State.post_kept
    | with_reducible apply State.incF_kept
    | with_reducible apply State.sendForward_kept
    | with_reducible apply State.takeRecord_kept
    | with_reducible apply State.when_kept
    | with_reducible apply State.refuse_kept
    | with_reducible apply Outcome.Kept.next
    | with_reducible apply Kept.ite
    | with_reducible apply OKept.ite
    | with_reducible refine Kept.ofSnd ?_ (by with_reducible assumption)
    | with_reducible refine Kept.ofSnd2 ?_ (by with_reducible assumption)
    | with_reducible refine Kept.ofFst ?_ (by with_reducible assumption)
    | split
    | dsimp only

theorem State.pollRead_kept (hp : Has pp 0x20604001) (s : State) (q : SyncReq) (p : Poll) (hk : zz.Kept pp s) :
    zz.Kept pp (State.pollRead s q p) := by
  unfold State.pollRead
  repeat' first
    | with_reducible assumption
    | ((with_reducible refine Has.mono hp ?_); exact rfl)
    | ((with_reducible refine Has.get hp _ ?_); exact rfl)
    | with_reducible intro _
    | with_reducible apply State.setPoll_kept
    | with_reducible apply State.forward_kept
    | with_reducible apply State.readObj_kept
    | with_reducible apply State.setF_kept
    | with_reducible apply State.post_kept
    | with_reducible apply Outcome.Kept.next
    | with_reducible apply Kept.ite
    | with_reducible apply OKept.ite
    | with_reducible refine Kept.ofSnd ?_ (by with_reducible assumption)
    | with_reducible refine Kept.ofSnd2 ?_ (by with_reducible assumption)
    | with_reducible refine Kept.ofFst ?_ (by with_reducible assumption)
    | split
    | dsimp only

theorem State.applyReq_kept (hp : Has pp 0x20604001) (s : State) (q : SyncReq) (g : OpFun) (hf : ∀ t a b c, zz.Kept pp t → zz.Kept pp (g t a b c).2.2) (hk : zz.Kept pp s) :
    zz.Kept pp (State.applyReq s q g) := by
  unfold State.applyReq
  repeat' first
    | with_reducible assumption
    | ((with_reducible refine Has.mono hp ?_); exact rfl)
    | ((with_reducible refine Has.get hp _ ?_); exact rfl)
    | with_reducible intro _
    | with_reducible apply hf
    | with_reducible apply State.post_kept
    | with_reducible apply State.pollRead_kept
    | with_reducible apply State.forward_kept
    | with_reducible apply State.applyOp_kept
    | with_reducible apply State.completed_kept
    | with_reducible apply State.settle_kept
    | with_reducible apply Outcome.Kept.next
    | with_reducible apply Kept.ite
    | with_reducible apply OKept.ite
    | with_reducible refine Kept.ofSnd ?_ (by with_reducible assumption)
    | with_reducible refine Kept.ofSnd2 ?_ (by with_reducible assumption)
    | with_reducible refine Kept.ofFst ?_ (by with_reducible assumption)
    | split
    | dsimp only

theorem State.applyCollect_kept (hp : Has pp 0x204001) (s : State) (q : SyncReq) (hk : zz.Kept pp s) :
    zz.Kept pp (State.applyCollect s q) := by
  unfold State.applyCollect
  repeat' first
    | with_reducible assumption
    | ((with_reducible refine Has.mono hp ?_); exact rfl)
    | ((with_reducible refine Has.get hp _ ?_); exact rfl)
    | with_reducible intro _
    | with_reducible apply State.post_kept
    | with_reducible apply State.mapSync_kept
    | with_reducible apply State.setF_kept
    | with_reducible apply State.tryCollect_kept
    | with_reducible apply State.when_kept
    | with_reducible apply State.startWait_kept
    | with_reducible apply Outcome.Kept.next
    | with_reducible apply Kept.ite
    | with_reducible apply OKept.ite
    | with_reducible refine Kept.ofSnd ?_ (by with_reducible assumption)
    | with_reducible refine Kept.ofSnd2 ?_ (by with_reducible assumption)
    | with_reducible refine Kept.ofFst ?_ (by with_reducible assumption)
    | split
    | dsimp only

theorem State.applyHead_kept (hp : Has pp 0x200000) (s : State) (op : Nat) (h : State → SyncReq → State) (hf : ∀ (t : State) (x1 : SyncReq), zz.Kept pp t → zz.Kept pp (h t x1)) (hk : zz.Kept pp s) :
    zz.Kept pp (State.applyHead s op h) := by
  unfold State.applyHead
  repeat' first
    | with_reducible assumption
    | ((with_reducible refine Has.mono hp ?_); exact rfl)
    | ((with_reducible refine Has.get hp _ ?_); exact rfl)
    | with_reducible intro _
    | with_reducible apply hf
    | with_reducible apply State.mapSync_kept
    | with_reducible apply Outcome.Kept.next
    | with_reducible apply Kept.ite
    | with_reducible apply OKept.ite
    | with_reducible refine Kept.ofSnd ?_ (by with_reducible assumption)
    | with_reducible refine Kept.ofSnd2 ?_ (by with_reducible assumption)
    | with_reducible refine Kept.ofFst ?_ (by with_reducible assumption)
    | split
    | dsimp only

theorem opFun_kept (hp : Has pp 0x20600001) (n : Nat) (s : State) (f opf arg : Nat) (hk : zz.Kept pp s) :
    zz.Kept pp (opFun n s f opf arg).2.2 := by
  unfold opFun
  split
  all_goals first
    | exact opInit_kept (Has.mono hp rfl) s f opf arg hk
    | exact opInit_kept s f opf arg hk
    | exact opSignal_kept (Has.mono hp rfl) s f opf arg hk
    | exact opSignal_kept s f opf arg hk
    | exact opWait_kept (Has.mono hp rfl) s f opf arg hk
    | exact opWait_kept s f opf arg hk
    | exact opTry_kept (Has.mono hp rfl) s f opf arg hk
    | exact opTry_kept s f opf arg hk
    | exact opArrive_kept (Has.mono hp rfl) s f opf arg hk
    | exact opArrive_kept s f opf arg hk
    | exact opArriveNw_kept (Has.mono hp rfl) s f opf arg hk
    | exact opArriveNw_kept s f opf arg hk
    | exact opEvSet_kept (Has.mono hp rfl) s f opf arg hk
    | exact opEvSet_kept s f opf arg hk
    | exact opEvClear_kept (Has.mono hp rfl) s f opf arg hk
    | exact opEvClear_kept s f opf arg hk
    | exact opEvWait_kept (Has.mono hp rfl) s f opf arg hk
    | exact opEvWait_kept s f opf arg hk
    | exact opEvTake_kept (Has.mono hp rfl) s f opf arg hk
    | exact opEvTake_kept s f opf arg hk
    | exact opProduce_kept (Has.mono hp rfl) s f opf arg hk
    | exact opProduce_kept s f opf arg hk
    | exact opConsume_kept (Has.mono hp rfl) s f opf arg hk
    | exact opConsume_kept s f opf arg hk
    | exact opWaitData_kept (Has.mono hp rfl) s f opf arg hk
    | exact opWaitData_kept s f opf arg hk
    | exact opWaitSpace_kept (Has.mono hp rfl) s f opf arg hk
    | exact opWaitSpace_kept s f opf arg hk
    | exact opRealign_kept (Has.mono hp rfl) s f opf arg hk
    | exact opRealign_kept s f opf arg hk
    | exact opRead_kept (Has.mono hp rfl) s f opf arg hk
    | exact opRead_kept s f opf arg hk

theorem State.finishBatch_kept (hp : Has pp 0x20604001) (s : State) (hk : zz.Kept pp s) :
    zz.Kept pp (State.finishBatch s) := by
  unfold State.finishBatch
  repeat' first
    | with_reducible assumption
    | ((with_reducible refine Has.mono hp ?_); exact rfl)
    | ((with_reducible refine Has.get hp _ ?_); exact rfl)
    | with_reducible intro _
    | with_reducible apply State.forEach_kept
    | with_reducible apply State.applyHead_kept
    | with_reducible apply State.applyCollect_kept
    | with_reducible apply State.applyReq_kept
    | with_reducible apply opFun_kept
    | with_reducible apply Outcome.Kept.next
    | with_reducible apply Kept.ite
    | with_reducible apply OKept.ite
    | with_reducible refine Kept.ofSnd ?_ (by with_reducible assumption)
    | with_reducible refine Kept.ofSnd2 ?_ (by with_reducible assumption)
    | with_reducible refine Kept.ofFst ?_ (by with_reducible assumption)
    | split
    | dsimp only

end Sys2Proof.Machine
end

