-- ==== Sys2Proof/Laws/KeptSyncRows.lean ====
section
/-! SUPPORT. What the functions of Sys2Proof/Machine/SyncRows.lean keep: one lemma for each, by the lemmas of what it calls. -/
namespace Sys2Proof.Machine

variable {pp : Part → Bool} {zz : State}

theorem State.xltMiss_kept (hp : Has pp 0x1) (s : State) (hk : zz.Kept pp s) :
    zz.Kept pp (State.xltMiss s).2 := by
  unfold State.xltMiss
  repeat' first
    | with_reducible assumption
    | ((with_reducible refine Has.mono hp ?_); exact rfl)
    | ((with_reducible refine Has.get hp _ ?_); exact rfl)
    | with_reducible intro _
    | with_reducible apply State.incF_kept
    | with_reducible apply Outcome.Kept.next
    | with_reducible apply Kept.ite
    | with_reducible apply OKept.ite
    | with_reducible refine Kept.ofSnd ?_ (by with_reducible assumption)
    | with_reducible refine Kept.ofSnd2 ?_ (by with_reducible assumption)
    | with_reducible refine Kept.ofFst ?_ (by with_reducible assumption)
    | split
    | dsimp only

theorem State.translate_kept (hp : Has pp 0x220600001) (s : State) (x : Nat) (word : Nat) (hk : zz.Kept pp s) :
    zz.Kept pp (State.translate s x word).2 := by
  unfold State.translate
  repeat' first
    | with_reducible assumption
    | ((with_reducible refine Has.mono hp ?_); exact rfl)
    | ((with_reducible refine Has.get hp _ ?_); exact rfl)
    | with_reducible intro _
    | with_reducible apply State.xltMiss_kept
    | with_reducible apply State.checkXlt_kept
    | with_reducible apply Outcome.Kept.next
    | with_reducible apply Kept.ite
    | with_reducible apply OKept.ite
    | with_reducible refine Kept.ofSnd ?_ (by with_reducible assumption)
    | with_reducible refine Kept.ofSnd2 ?_ (by with_reducible assumption)
    | with_reducible refine Kept.ofFst ?_ (by with_reducible assumption)
    | split
    | dsimp only

theorem State.joinBatch_kept (hp : Has pp 0x200000) (s : State) (q : SyncReq) (hk : zz.Kept pp s) :
    zz.Kept pp (State.joinBatch s q) := by
  unfold State.joinBatch
  repeat' first
    | with_reducible assumption
    | ((with_reducible refine Has.mono hp ?_); exact rfl)
    | ((with_reducible refine Has.get hp _ ?_); exact rfl)
    | with_reducible intro _
    | with_reducible apply State.mapSync_kept
    | with_reducible apply Outcome.Kept.next
    | with_reducible apply Kept.ite
    | with_reducible apply OKept.ite
    | with_reducible refine Kept.ofSnd ?_ (by with_reducible assumption)
    | with_reducible refine Kept.ofSnd2 ?_ (by with_reducible assumption)
    | with_reducible refine Kept.ofFst ?_ (by with_reducible assumption)
    | split
    | dsimp only

theorem State.countTaken_kept (hp : Has pp 0x200000) (s : State) (c : Nat) (hk : zz.Kept pp s) :
    zz.Kept pp (State.countTaken s c) := by
  unfold State.countTaken
  repeat' first
    | with_reducible assumption
    | ((with_reducible refine Has.mono hp ?_); exact rfl)
    | ((with_reducible refine Has.get hp _ ?_); exact rfl)
    | with_reducible intro _
    | with_reducible apply State.mapSync_kept
    | with_reducible apply Outcome.Kept.next
    | with_reducible apply Kept.ite
    | with_reducible apply OKept.ite
    | with_reducible refine Kept.ofSnd ?_ (by with_reducible assumption)
    | with_reducible refine Kept.ofSnd2 ?_ (by with_reducible assumption)
    | with_reducible refine Kept.ofFst ?_ (by with_reducible assumption)
    | split
    | dsimp only

theorem State.turnDown_kept (hp : Has pp 0x200000) (s : State) (core : Nat) (eng : Nat) (status : Nat) (hk : zz.Kept pp s) :
    zz.Kept pp (State.turnDown s core eng status) := by
  unfold State.turnDown
  repeat' first
    | with_reducible assumption
    | ((with_reducible refine Has.mono hp ?_); exact rfl)
    | ((with_reducible refine Has.get hp _ ?_); exact rfl)
    | with_reducible intro _
    | with_reducible apply State.postIn_kept
    | with_reducible apply Outcome.Kept.next
    | with_reducible apply Kept.ite
    | with_reducible apply OKept.ite
    | with_reducible refine Kept.ofSnd ?_ (by with_reducible assumption)
    | with_reducible refine Kept.ofSnd2 ?_ (by with_reducible assumption)
    | with_reducible refine Kept.ofFst ?_ (by with_reducible assumption)
    | split
    | dsimp only

theorem State.takeRequest_kept (hp : Has pp 0x220600001) (s : State) (r : Sreq) (hk : zz.Kept pp s) :
    zz.Kept pp (State.takeRequest s r) := by
  unfold State.takeRequest
  repeat' first
    | with_reducible assumption
    | ((with_reducible refine Has.mono hp ?_); exact rfl)
    | ((with_reducible refine Has.get hp _ ?_); exact rfl)
    | with_reducible intro _
    | with_reducible apply State.mapSync_kept
    | with_reducible apply State.countTaken_kept
    | with_reducible apply State.turnDown_kept
    | with_reducible apply State.translate_kept
    | with_reducible apply State.joinBatch_kept
    | with_reducible apply Outcome.Kept.next
    | with_reducible apply Kept.ite
    | with_reducible apply OKept.ite
    | with_reducible refine Kept.ofSnd ?_ (by with_reducible assumption)
    | with_reducible refine Kept.ofSnd2 ?_ (by with_reducible assumption)
    | with_reducible refine Kept.ofFst ?_ (by with_reducible assumption)
    | split
    | dsimp only

theorem State.reissue_kept (hp : Has pp 0x200001) (s : State) (p : Poll) (hk : zz.Kept pp s) :
    zz.Kept pp (State.reissue s p) := by
  unfold State.reissue
  repeat' first
    | with_reducible assumption
    | ((with_reducible refine Has.mono hp ?_); exact rfl)
    | ((with_reducible refine Has.get hp _ ?_); exact rfl)
    | with_reducible intro _
    | with_reducible apply State.incF_kept
    | with_reducible apply State.mapSync_kept
    | with_reducible apply State.countTaken_kept
    | with_reducible apply State.setPoll_kept
    | with_reducible apply State.turnDown_kept
    | with_reducible apply State.joinBatch_kept
    | with_reducible apply Outcome.Kept.next
    | with_reducible apply Kept.ite
    | with_reducible apply OKept.ite
    | with_reducible refine Kept.ofSnd ?_ (by with_reducible assumption)
    | with_reducible refine Kept.ofSnd2 ?_ (by with_reducible assumption)
    | with_reducible refine Kept.ofFst ?_ (by with_reducible assumption)
    | split
    | dsimp only

theorem State.serveCluster_kept (hp : Has pp 0x220600001) (s : State) (c : Nat) (hk : zz.Kept pp s) :
    zz.Kept pp (State.serveCluster s c) := by
  unfold State.serveCluster
  repeat' first
    | with_reducible assumption
    | ((with_reducible refine Has.mono hp ?_); exact rfl)
    | ((with_reducible refine Has.get hp _ ?_); exact rfl)
    | with_reducible intro _
    | with_reducible apply State.forEach_kept
    | with_reducible apply State.takeRequest_kept
    | with_reducible apply State.reissue_kept
    | with_reducible apply Outcome.Kept.next
    | with_reducible apply Kept.ite
    | with_reducible apply OKept.ite
    | with_reducible refine Kept.ofSnd ?_ (by with_reducible assumption)
    | with_reducible refine Kept.ofSnd2 ?_ (by with_reducible assumption)
    | with_reducible refine Kept.ofFst ?_ (by with_reducible assumption)
    | split
    | dsimp only

theorem State.serveClusters_kept (hp : Has pp 0x220600001) (s : State) (hk : zz.Kept pp s) :
    zz.Kept pp (State.serveClusters s) := by
  unfold State.serveClusters
  repeat' first
    | with_reducible assumption
    | ((with_reducible refine Has.mono hp ?_); exact rfl)
    | ((with_reducible refine Has.get hp _ ?_); exact rfl)
    | with_reducible intro _
    | with_reducible apply State.forEach_kept
    | with_reducible apply State.serveCluster_kept
    | with_reducible apply Outcome.Kept.next
    | with_reducible apply Kept.ite
    | with_reducible apply OKept.ite
    | with_reducible refine Kept.ofSnd ?_ (by with_reducible assumption)
    | with_reducible refine Kept.ofSnd2 ?_ (by with_reducible assumption)
    | with_reducible refine Kept.ofFst ?_ (by with_reducible assumption)
    | split
    | dsimp only

theorem execSyncRequestTaken_kept (hp : Has pp 0x220600001) (core : Fin 288) (engine : Fin 7) (word : Word) (arg : Word) (s : State) (hk : zz.Kept pp s) :
    Outcome.Kept pp zz (execSyncRequestTaken core engine word arg s) := by
  unfold execSyncRequestTaken
  dsimp only
  repeat' first
    | with_reducible assumption
    | ((with_reducible refine Has.mono hp ?_); exact rfl)
    | ((with_reducible refine Has.get hp _ ?_); exact rfl)
    | with_reducible intro _
    | with_reducible apply State.mapSync_kept
    | with_reducible apply State.serveCluster_kept
    | with_reducible apply Outcome.Kept.next
    | with_reducible apply Kept.ite
    | with_reducible apply OKept.ite
    | with_reducible refine Kept.ofSnd ?_ (by with_reducible assumption)
    | with_reducible refine Kept.ofSnd2 ?_ (by with_reducible assumption)
    | with_reducible refine Kept.ofFst ?_ (by with_reducible assumption)
    | split
    | dsimp only

theorem State.hopWrite_kept (hp : Has pp 0x200001) (s : State) (word : Nat) (hk : zz.Kept pp s) :
    zz.Kept pp (State.hopWrite s word) := by
  unfold State.hopWrite
  repeat' first
    | with_reducible assumption
    | ((with_reducible refine Has.mono hp ?_); exact rfl)
    | ((with_reducible refine Has.get hp _ ?_); exact rfl)
    | with_reducible intro _
    | with_reducible apply State.setF_kept
    | with_reducible apply State.turnDown_kept
    | with_reducible apply State.joinBatch_kept
    | with_reducible apply Outcome.Kept.next
    | with_reducible apply Kept.ite
    | with_reducible apply OKept.ite
    | with_reducible refine Kept.ofSnd ?_ (by with_reducible assumption)
    | with_reducible refine Kept.ofSnd2 ?_ (by with_reducible assumption)
    | with_reducible refine Kept.ofFst ?_ (by with_reducible assumption)
    | split
    | dsimp only

theorem execSyncRead_kept (hp : Has pp 0x20604001) (s : State) (hk : zz.Kept pp s) :
    Outcome.Kept pp zz (execSyncRead s) := by
  unfold execSyncRead
  repeat' first
    | with_reducible assumption
    | ((with_reducible refine Has.mono hp ?_); exact rfl)
    | ((with_reducible refine Has.get hp _ ?_); exact rfl)
    | with_reducible intro _
    | with_reducible apply State.applyHead_kept
    | with_reducible apply State.applyReq_kept
    | with_reducible apply opRead_kept
    | with_reducible apply Outcome.Kept.next
    | with_reducible apply Kept.ite
    | with_reducible apply OKept.ite
    | with_reducible refine Kept.ofSnd ?_ (by with_reducible assumption)
    | with_reducible refine Kept.ofSnd2 ?_ (by with_reducible assumption)
    | with_reducible refine Kept.ofFst ?_ (by with_reducible assumption)
    | split
    | dsimp only

theorem execSyncInit_kept (hp : Has pp 0x20604001) (s : State) (hk : zz.Kept pp s) :
    Outcome.Kept pp zz (execSyncInit s) := by
  unfold execSyncInit
  repeat' first
    | with_reducible assumption
    | ((with_reducible refine Has.mono hp ?_); exact rfl)
    | ((with_reducible refine Has.get hp _ ?_); exact rfl)
    | with_reducible intro _
    | with_reducible apply State.applyHead_kept
    | with_reducible apply State.applyReq_kept
    | with_reducible apply opInit_kept
    | with_reducible apply Outcome.Kept.next
    | with_reducible apply Kept.ite
    | with_reducible apply OKept.ite
    | with_reducible refine Kept.ofSnd ?_ (by with_reducible assumption)
    | with_reducible refine Kept.ofSnd2 ?_ (by with_reducible assumption)
    | with_reducible refine Kept.ofFst ?_ (by with_reducible assumption)
    | split
    | dsimp only

theorem execSyncSignal_kept (hp : Has pp 0x20604001) (s : State) (hk : zz.Kept pp s) :
    Outcome.Kept pp zz (execSyncSignal s) := by
  unfold execSyncSignal
  repeat' first
    | with_reducible assumption
    | ((with_reducible refine Has.mono hp ?_); exact rfl)
    | ((with_reducible refine Has.get hp _ ?_); exact rfl)
    | with_reducible intro _
    | with_reducible apply State.applyHead_kept
    | with_reducible apply State.applyReq_kept
    | with_reducible apply opSignal_kept
    | with_reducible apply Outcome.Kept.next
    | with_reducible apply Kept.ite
    | with_reducible apply OKept.ite
    | with_reducible refine Kept.ofSnd ?_ (by with_reducible assumption)
    | with_reducible refine Kept.ofSnd2 ?_ (by with_reducible assumption)
    | with_reducible refine Kept.ofFst ?_ (by with_reducible assumption)
    | split
    | dsimp only

theorem execSyncWait_kept (hp : Has pp 0x20604001) (s : State) (hk : zz.Kept pp s) :
    Outcome.Kept pp zz (execSyncWait s) := by
  unfold execSyncWait
  repeat' first
    | with_reducible assumption
    | ((with_reducible refine Has.mono hp ?_); exact rfl)
    | ((with_reducible refine Has.get hp _ ?_); exact rfl)
    | with_reducible intro _
    | with_reducible apply State.applyHead_kept
    | with_reducible apply State.applyReq_kept
    | with_reducible apply opWait_kept
    | with_reducible apply Outcome.Kept.next
    | with_reducible apply Kept.ite
    | with_reducible apply OKept.ite
    | with_reducible refine Kept.ofSnd ?_ (by with_reducible assumption)
    | with_reducible refine Kept.ofSnd2 ?_ (by with_reducible assumption)
    | with_reducible refine Kept.ofFst ?_ (by with_reducible assumption)
    | split
    | dsimp only

theorem execSyncTry_kept (hp : Has pp 0x20604001) (s : State) (hk : zz.Kept pp s) :
    Outcome.Kept pp zz (execSyncTry s) := by
  unfold execSyncTry
  repeat' first
    | with_reducible assumption
    | ((with_reducible refine Has.mono hp ?_); exact rfl)
    | ((with_reducible refine Has.get hp _ ?_); exact rfl)
    | with_reducible intro _
    | with_reducible apply State.applyHead_kept
    | with_reducible apply State.applyReq_kept
    | with_reducible apply opTry_kept
    | with_reducible apply Outcome.Kept.next
    | with_reducible apply Kept.ite
    | with_reducible apply OKept.ite
    | with_reducible refine Kept.ofSnd ?_ (by with_reducible assumption)
    | with_reducible refine Kept.ofSnd2 ?_ (by with_reducible assumption)
    | with_reducible refine Kept.ofFst ?_ (by with_reducible assumption)
    | split
    | dsimp only

theorem execSyncArrive_kept (hp : Has pp 0x20604001) (s : State) (hk : zz.Kept pp s) :
    Outcome.Kept pp zz (execSyncArrive s) := by
  unfold execSyncArrive
  repeat' first
    | with_reducible assumption
    | ((with_reducible refine Has.mono hp ?_); exact rfl)
    | ((with_reducible refine Has.get hp _ ?_); exact rfl)
    | with_reducible intro _
    | with_reducible apply State.applyHead_kept
    | with_reducible apply State.applyReq_kept
    | with_reducible apply opArrive_kept
    | with_reducible apply Outcome.Kept.next
    | with_reducible apply Kept.ite
    | with_reducible apply OKept.ite
    | with_reducible refine Kept.ofSnd ?_ (by with_reducible assumption)
    | with_reducible refine Kept.ofSnd2 ?_ (by with_reducible assumption)
    | with_reducible refine Kept.ofFst ?_ (by with_reducible assumption)
    | split
    | dsimp only

theorem execSyncArriveNw_kept (hp : Has pp 0x20604001) (s : State) (hk : zz.Kept pp s) :
    Outcome.Kept pp zz (execSyncArriveNw s) := by
  unfold execSyncArriveNw
  repeat' first
    | with_reducible assumption
    | ((with_reducible refine Has.mono hp ?_); exact rfl)
    | ((with_reducible refine Has.get hp _ ?_); exact rfl)
    | with_reducible intro _
    | with_reducible apply State.applyHead_kept
    | with_reducible apply State.applyReq_kept
    | with_reducible apply opArriveNw_kept
    | with_reducible apply Outcome.Kept.next
    | with_reducible apply Kept.ite
    | with_reducible apply OKept.ite
    | with_reducible refine Kept.ofSnd ?_ (by with_reducible assumption)
    | with_reducible refine Kept.ofSnd2 ?_ (by with_reducible assumption)
    | with_reducible refine Kept.ofFst ?_ (by with_reducible assumption)
    | split
    | dsimp only

theorem execSyncEvSet_kept (hp : Has pp 0x20604001) (s : State) (hk : zz.Kept pp s) :
    Outcome.Kept pp zz (execSyncEvSet s) := by
  unfold execSyncEvSet
  repeat' first
    | with_reducible assumption
    | ((with_reducible refine Has.mono hp ?_); exact rfl)
    | ((with_reducible refine Has.get hp _ ?_); exact rfl)
    | with_reducible intro _
    | with_reducible apply State.applyHead_kept
    | with_reducible apply State.applyReq_kept
    | with_reducible apply opEvSet_kept
    | with_reducible apply Outcome.Kept.next
    | with_reducible apply Kept.ite
    | with_reducible apply OKept.ite
    | with_reducible refine Kept.ofSnd ?_ (by with_reducible assumption)
    | with_reducible refine Kept.ofSnd2 ?_ (by with_reducible assumption)
    | with_reducible refine Kept.ofFst ?_ (by with_reducible assumption)
    | split
    | dsimp only

theorem execSyncEvClear_kept (hp : Has pp 0x20604001) (s : State) (hk : zz.Kept pp s) :
    Outcome.Kept pp zz (execSyncEvClear s) := by
  unfold execSyncEvClear
  repeat' first
    | with_reducible assumption
    | ((with_reducible refine Has.mono hp ?_); exact rfl)
    | ((with_reducible refine Has.get hp _ ?_); exact rfl)
    | with_reducible intro _
    | with_reducible apply State.applyHead_kept
    | with_reducible apply State.applyReq_kept
    | with_reducible apply opEvClear_kept
    | with_reducible apply Outcome.Kept.next
    | with_reducible apply Kept.ite
    | with_reducible apply OKept.ite
    | with_reducible refine Kept.ofSnd ?_ (by with_reducible assumption)
    | with_reducible refine Kept.ofSnd2 ?_ (by with_reducible assumption)
    | with_reducible refine Kept.ofFst ?_ (by with_reducible assumption)
    | split
    | dsimp only

theorem execSyncEvWait_kept (hp : Has pp 0x20604001) (s : State) (hk : zz.Kept pp s) :
    Outcome.Kept pp zz (execSyncEvWait s) := by
  unfold execSyncEvWait
  repeat' first
    | with_reducible assumption
    | ((with_reducible refine Has.mono hp ?_); exact rfl)
    | ((with_reducible refine Has.get hp _ ?_); exact rfl)
    | with_reducible intro _
    | with_reducible apply State.applyHead_kept
    | with_reducible apply State.applyReq_kept
    | with_reducible apply opEvWait_kept
    | with_reducible apply Outcome.Kept.next
    | with_reducible apply Kept.ite
    | with_reducible apply OKept.ite
    | with_reducible refine Kept.ofSnd ?_ (by with_reducible assumption)
    | with_reducible refine Kept.ofSnd2 ?_ (by with_reducible assumption)
    | with_reducible refine Kept.ofFst ?_ (by with_reducible assumption)
    | split
    | dsimp only

theorem execSyncEvTake_kept (hp : Has pp 0x20604001) (s : State) (hk : zz.Kept pp s) :
    Outcome.Kept pp zz (execSyncEvTake s) := by
  unfold execSyncEvTake
  repeat' first
    | with_reducible assumption
    | ((with_reducible refine Has.mono hp ?_); exact rfl)
    | ((with_reducible refine Has.get hp _ ?_); exact rfl)
    | with_reducible intro _
    | with_reducible apply State.applyHead_kept
    | with_reducible apply State.applyReq_kept
    | with_reducible apply opEvTake_kept
    | with_reducible apply Outcome.Kept.next
    | with_reducible apply Kept.ite
    | with_reducible apply OKept.ite
    | with_reducible refine Kept.ofSnd ?_ (by with_reducible assumption)
    | with_reducible refine Kept.ofSnd2 ?_ (by with_reducible assumption)
    | with_reducible refine Kept.ofFst ?_ (by with_reducible assumption)
    | split
    | dsimp only

theorem execSyncProduce_kept (hp : Has pp 0x20604001) (s : State) (hk : zz.Kept pp s) :
    Outcome.Kept pp zz (execSyncProduce s) := by
  unfold execSyncProduce
  repeat' first
    | with_reducible assumption
    | ((with_reducible refine Has.mono hp ?_); exact rfl)
    | ((with_reducible refine Has.get hp _ ?_); exact rfl)
    | with_reducible intro _
    | with_reducible apply State.applyHead_kept
    | with_reducible apply State.applyReq_kept
    | with_reducible apply opProduce_kept
    | with_reducible apply Outcome.Kept.next
    | with_reducible apply Kept.ite
    | with_reducible apply OKept.ite
    | with_reducible refine Kept.ofSnd ?_ (by with_reducible assumption)
    | with_reducible refine Kept.ofSnd2 ?_ (by with_reducible assumption)
    | with_reducible refine Kept.ofFst ?_ (by with_reducible assumption)
    | split
    | dsimp only

theorem execSyncConsume_kept (hp : Has pp 0x20604001) (s : State) (hk : zz.Kept pp s) :
    Outcome.Kept pp zz (execSyncConsume s) := by
  unfold execSyncConsume
  repeat' first
    | with_reducible assumption
    | ((with_reducible refine Has.mono hp ?_); exact rfl)
    | ((with_reducible refine Has.get hp _ ?_); exact rfl)
    | with_reducible intro _
    | with_reducible apply State.applyHead_kept
    | with_reducible apply State.applyReq_kept
    | with_reducible apply opConsume_kept
    | with_reducible apply Outcome.Kept.next
    | with_reducible apply Kept.ite
    | with_reducible apply OKept.ite
    | with_reducible refine Kept.ofSnd ?_ (by with_reducible assumption)
    | with_reducible refine Kept.ofSnd2 ?_ (by with_reducible assumption)
    | with_reducible refine Kept.ofFst ?_ (by with_reducible assumption)
    | split
    | dsimp only

theorem execSyncWaitData_kept (hp : Has pp 0x20604001) (s : State) (hk : zz.Kept pp s) :
    Outcome.Kept pp zz (execSyncWaitData s) := by
  unfold execSyncWaitData
  repeat' first
    | with_reducible assumption
    | ((with_reducible refine Has.mono hp ?_); exact rfl)
    | ((with_reducible refine Has.get hp _ ?_); exact rfl)
    | with_reducible intro _
    | with_reducible apply State.applyHead_kept
    | with_reducible apply State.applyReq_kept
    | with_reducible apply opWaitData_kept
    | with_reducible apply Outcome.Kept.next
    | with_reducible apply Kept.ite
    | with_reducible apply OKept.ite
    | with_reducible refine Kept.ofSnd ?_ (by with_reducible assumption)
    | with_reducible refine Kept.ofSnd2 ?_ (by with_reducible assumption)
    | with_reducible refine Kept.ofFst ?_ (by with_reducible assumption)
    | split
    | dsimp only

theorem execSyncWaitSpace_kept (hp : Has pp 0x20604001) (s : State) (hk : zz.Kept pp s) :
    Outcome.Kept pp zz (execSyncWaitSpace s) := by
  unfold execSyncWaitSpace
  repeat' first
    | with_reducible assumption
    | ((with_reducible refine Has.mono hp ?_); exact rfl)
    | ((with_reducible refine Has.get hp _ ?_); exact rfl)
    | with_reducible intro _
    | with_reducible apply State.applyHead_kept
    | with_reducible apply State.applyReq_kept
    | with_reducible apply opWaitSpace_kept
    | with_reducible apply Outcome.Kept.next
    | with_reducible apply Kept.ite
    | with_reducible apply OKept.ite
    | with_reducible refine Kept.ofSnd ?_ (by with_reducible assumption)
    | with_reducible refine Kept.ofSnd2 ?_ (by with_reducible assumption)
    | with_reducible refine Kept.ofFst ?_ (by with_reducible assumption)
    | split
    | dsimp only

theorem execSyncRealign_kept (hp : Has pp 0x20604001) (s : State) (hk : zz.Kept pp s) :
    Outcome.Kept pp zz (execSyncRealign s) := by
  unfold execSyncRealign
  repeat' first
    | with_reducible assumption
    | ((with_reducible refine Has.mono hp ?_); exact rfl)
    | ((with_reducible refine Has.get hp _ ?_); exact rfl)
    | with_reducible intro _
    | with_reducible apply State.applyHead_kept
    | with_reducible apply State.applyReq_kept
    | with_reducible apply opRealign_kept
    | with_reducible apply Outcome.Kept.next
    | with_reducible apply Kept.ite
    | with_reducible apply OKept.ite
    | with_reducible refine Kept.ofSnd ?_ (by with_reducible assumption)
    | with_reducible refine Kept.ofSnd2 ?_ (by with_reducible assumption)
    | with_reducible refine Kept.ofFst ?_ (by with_reducible assumption)
    | split
    | dsimp only

theorem execSyncCollect_kept (hp : Has pp 0x204001) (s : State) (hk : zz.Kept pp s) :
    Outcome.Kept pp zz (execSyncCollect s) := by
  unfold execSyncCollect
  repeat' first
    | with_reducible assumption
    | ((with_reducible refine Has.mono hp ?_); exact rfl)
    | ((with_reducible refine Has.get hp _ ?_); exact rfl)
    | with_reducible intro _
    | with_reducible apply State.applyHead_kept
    | with_reducible apply State.applyCollect_kept
    | with_reducible apply Outcome.Kept.next
    | with_reducible apply Kept.ite
    | with_reducible apply OKept.ite
    | with_reducible refine Kept.ofSnd ?_ (by with_reducible assumption)
    | with_reducible refine Kept.ofSnd2 ?_ (by with_reducible assumption)
    | with_reducible refine Kept.ofFst ?_ (by with_reducible assumption)
    | split
    | dsimp only

theorem execCouplingNotice_kept (hp : Has pp 0x200800) (object : Fin 18432) (s : State) (hk : zz.Kept pp s) :
    Outcome.Kept pp zz (execCouplingNotice object s) := by
  unfold execCouplingNotice
  repeat' first
    | with_reducible assumption
    | ((with_reducible refine Has.mono hp ?_); exact rfl)
    | ((with_reducible refine Has.get hp _ ?_); exact rfl)
    | with_reducible intro _
    | with_reducible apply State.forEach_kept
    | with_reducible apply State.setRail_kept
    | with_reducible apply State.mapSync_kept
    | with_reducible apply Outcome.Kept.next
    | with_reducible apply Kept.ite
    | with_reducible apply OKept.ite
    | with_reducible refine Kept.ofSnd ?_ (by with_reducible assumption)
    | with_reducible refine Kept.ofSnd2 ?_ (by with_reducible assumption)
    | with_reducible refine Kept.ofFst ?_ (by with_reducible assumption)
    | split
    | dsimp only

theorem execBarrierRelease_kept (hp : Has pp 0x220604021) (object : Fin 18432) (s : State) (hk : zz.Kept pp s) :
    Outcome.Kept pp zz (execBarrierRelease object s) := by
  unfold execBarrierRelease
  repeat' first
    | with_reducible assumption
    | ((with_reducible refine Has.mono hp ?_); exact rfl)
    | ((with_reducible refine Has.get hp _ ?_); exact rfl)
    | with_reducible intro _
    | with_reducible apply State.forEach_kept
    | with_reducible apply State.checkRecord_kept
    | with_reducible apply State.mapSync_kept
    | with_reducible apply State.setObj_kept
    | with_reducible apply State.setF_kept
    | with_reducible apply State.when_kept
    | with_reducible apply State.trace_kept
    | with_reducible apply State.endRecord_kept
    | with_reducible apply State.setRecord_kept
    | with_reducible apply State.setPoll_kept
    | with_reducible apply State.deliver_kept
    | with_reducible apply Outcome.Kept.next
    | with_reducible apply Kept.ite
    | with_reducible apply OKept.ite
    | with_reducible refine Kept.ofSnd ?_ (by with_reducible assumption)
    | with_reducible refine Kept.ofSnd2 ?_ (by with_reducible assumption)
    | with_reducible refine Kept.ofFst ?_ (by with_reducible assumption)
    | split
    | dsimp only

theorem execClusterRelease_kept (hp : Has pp 0x220204001) (cluster : Fin 12) (s : State) (hk : zz.Kept pp s) :
    Outcome.Kept pp zz (execClusterRelease cluster s) := by
  unfold execClusterRelease
  repeat' first
    | with_reducible assumption
    | ((with_reducible refine Has.mono hp ?_); exact rfl)
    | ((with_reducible refine Has.get hp _ ?_); exact rfl)
    | with_reducible intro _
    | with_reducible apply State.forEach_kept
    | with_reducible apply State.endRecord_kept
    | with_reducible apply State.deliver_kept
    | with_reducible apply Outcome.Kept.next
    | with_reducible apply Kept.ite
    | with_reducible apply OKept.ite
    | with_reducible refine Kept.ofSnd ?_ (by with_reducible assumption)
    | with_reducible refine Kept.ofSnd2 ?_ (by with_reducible assumption)
    | with_reducible refine Kept.ofFst ?_ (by with_reducible assumption)
    | split
    | dsimp only

theorem execSyncPollReissue_kept (hp : Has pp 0x220604001) (core : Fin 288) (engine : Fin 7) (s : State) (hk : zz.Kept pp s) :
    Outcome.Kept pp zz (execSyncPollReissue core engine s) := by
  unfold execSyncPollReissue
  repeat' first
    | with_reducible assumption
    | ((with_reducible refine Has.mono hp ?_); exact rfl)
    | ((with_reducible refine Has.get hp _ ?_); exact rfl)
    | with_reducible intro _
    | with_reducible apply State.deliverOpen_kept
    | with_reducible apply State.serveCluster_kept
    | with_reducible apply Outcome.Kept.next
    | with_reducible apply Kept.ite
    | with_reducible apply OKept.ite
    | with_reducible refine Kept.ofSnd ?_ (by with_reducible assumption)
    | with_reducible refine Kept.ofSnd2 ?_ (by with_reducible assumption)
    | with_reducible refine Kept.ofFst ?_ (by with_reducible assumption)
    | split
    | dsimp only

theorem State.arriveMsg_kept (hp : Has pp 0x200000) (s : State) (type : Nat) (w0 : Word) (w1 : Word) (w2 : Word) (w3 : Word) (hk : zz.Kept pp s) :
    zz.Kept pp (State.arriveMsg s type w0 w1 w2 w3) := by
  unfold State.arriveMsg
  repeat' first
    | with_reducible assumption
    | ((with_reducible refine Has.mono hp ?_); exact rfl)
    | ((with_reducible refine Has.get hp _ ?_); exact rfl)
    | with_reducible intro _
    | with_reducible apply State.mapSync_kept
    | with_reducible apply Outcome.Kept.next
    | with_reducible apply Kept.ite
    | with_reducible apply OKept.ite
    | with_reducible refine Kept.ofSnd ?_ (by with_reducible assumption)
    | with_reducible refine Kept.ofSnd2 ?_ (by with_reducible assumption)
    | with_reducible refine Kept.ofFst ?_ (by with_reducible assumption)
    | split
    | dsimp only

theorem execOpreq_kept (hp : Has pp 0x200000) (w0 : Word) (w1 : Word) (w2 : Word) (w3 : Word) (s : State) (hk : zz.Kept pp s) :
    Outcome.Kept pp zz (execOpreq w0 w1 w2 w3 s) := by
  unfold execOpreq
  repeat' first
    | with_reducible assumption
    | ((with_reducible refine Has.mono hp ?_); exact rfl)
    | ((with_reducible refine Has.get hp _ ?_); exact rfl)
    | with_reducible intro _
    | with_reducible apply State.arriveMsg_kept
    | with_reducible apply Outcome.Kept.next
    | with_reducible apply Kept.ite
    | with_reducible apply OKept.ite
    | with_reducible refine Kept.ofSnd ?_ (by with_reducible assumption)
    | with_reducible refine Kept.ofSnd2 ?_ (by with_reducible assumption)
    | with_reducible refine Kept.ofFst ?_ (by with_reducible assumption)
    | split
    | dsimp only

theorem execOprsp_kept (hp : Has pp 0x200000) (w0 : Word) (w1 : Word) (w2 : Word) (w3 : Word) (s : State) (hk : zz.Kept pp s) :
    Outcome.Kept pp zz (execOprsp w0 w1 w2 w3 s) := by
  unfold execOprsp
  repeat' first
    | with_reducible assumption
    | ((with_reducible refine Has.mono hp ?_); exact rfl)
    | ((with_reducible refine Has.get hp _ ?_); exact rfl)
    | with_reducible intro _
    | with_reducible apply State.arriveMsg_kept
    | with_reducible apply Outcome.Kept.next
    | with_reducible apply Kept.ite
    | with_reducible apply OKept.ite
    | with_reducible refine Kept.ofSnd ?_ (by with_reducible assumption)
    | with_reducible refine Kept.ofSnd2 ?_ (by with_reducible assumption)
    | with_reducible refine Kept.ofFst ?_ (by with_reducible assumption)
    | split
    | dsimp only

theorem execPkgRelease_kept (hp : Has pp 0x200000) (w0 : Word) (w1 : Word) (w2 : Word) (w3 : Word) (s : State) (hk : zz.Kept pp s) :
    Outcome.Kept pp zz (execPkgRelease w0 w1 w2 w3 s) := by
  unfold execPkgRelease
  repeat' first
    | with_reducible assumption
    | ((with_reducible refine Has.mono hp ?_); exact rfl)
    | ((with_reducible refine Has.get hp _ ?_); exact rfl)
    | with_reducible intro _
    | with_reducible apply State.arriveMsg_kept
    | with_reducible apply Outcome.Kept.next
    | with_reducible apply Kept.ite
    | with_reducible apply OKept.ite
    | with_reducible refine Kept.ofSnd ?_ (by with_reducible assumption)
    | with_reducible refine Kept.ofSnd2 ?_ (by with_reducible assumption)
    | with_reducible refine Kept.ofFst ?_ (by with_reducible assumption)
    | split
    | dsimp only

theorem execPkgWithdraw_kept (hp : Has pp 0x200000) (w0 : Word) (w1 : Word) (w2 : Word) (w3 : Word) (s : State) (hk : zz.Kept pp s) :
    Outcome.Kept pp zz (execPkgWithdraw w0 w1 w2 w3 s) := by
  unfold execPkgWithdraw
  repeat' first
    | with_reducible assumption
    | ((with_reducible refine Has.mono hp ?_); exact rfl)
    | ((with_reducible refine Has.get hp _ ?_); exact rfl)
    | with_reducible intro _
    | with_reducible apply State.arriveMsg_kept
    | with_reducible apply Outcome.Kept.next
    | with_reducible apply Kept.ite
    | with_reducible apply OKept.ite
    | with_reducible refine Kept.ofSnd ?_ (by with_reducible assumption)
    | with_reducible refine Kept.ofSnd2 ?_ (by with_reducible assumption)
    | with_reducible refine Kept.ofFst ?_ (by with_reducible assumption)
    | split
    | dsimp only

theorem execPkgReturn_kept (hp : Has pp 0x200000) (w0 : Word) (w1 : Word) (w2 : Word) (w3 : Word) (s : State) (hk : zz.Kept pp s) :
    Outcome.Kept pp zz (execPkgReturn w0 w1 w2 w3 s) := by
  unfold execPkgReturn
  repeat' first
    | with_reducible assumption
    | ((with_reducible refine Has.mono hp ?_); exact rfl)
    | ((with_reducible refine Has.get hp _ ?_); exact rfl)
    | with_reducible intro _
    | with_reducible apply State.arriveMsg_kept
    | with_reducible apply Outcome.Kept.next
    | with_reducible apply Kept.ite
    | with_reducible apply OKept.ite
    | with_reducible refine Kept.ofSnd ?_ (by with_reducible assumption)
    | with_reducible refine Kept.ofSnd2 ?_ (by with_reducible assumption)
    | with_reducible refine Kept.ofFst ?_ (by with_reducible assumption)
    | split
    | dsimp only

theorem State.answer_kept (hp : Has pp 0x20200000) (s : State) (m : List Nat) (waiting : Nat) (status : Nat) (value : Option Nat) (hk : zz.Kept pp s) :
    zz.Kept pp (State.answer s m waiting status value) := by
  unfold State.answer
  repeat' first
    | with_reducible assumption
    | ((with_reducible refine Has.mono hp ?_); exact rfl)
    | ((with_reducible refine Has.get hp _ ?_); exact rfl)
    | with_reducible intro _
    | with_reducible apply State.drawFree_kept
    | with_reducible apply State.sendDie_kept
    | with_reducible apply Outcome.Kept.next
    | with_reducible apply Kept.ite
    | with_reducible apply OKept.ite
    | with_reducible refine Kept.ofSnd ?_ (by with_reducible assumption)
    | with_reducible refine Kept.ofSnd2 ?_ (by with_reducible assumption)
    | with_reducible refine Kept.ofFst ?_ (by with_reducible assumption)
    | split
    | dsimp only

theorem State.applyOpreq_kept (hp : Has pp 0x20600001) (s : State) (m : List Nat) (hk : zz.Kept pp s) :
    zz.Kept pp (State.applyOpreq s m) := by
  unfold State.applyOpreq
  repeat' first
    | with_reducible assumption
    | ((with_reducible refine Has.mono hp ?_); exact rfl)
    | ((with_reducible refine Has.get hp _ ?_); exact rfl)
    | with_reducible intro _
    | with_reducible apply State.answer_kept
    | with_reducible apply State.applyOp_kept
    | with_reducible apply opFun_kept
    | with_reducible apply State.mapSync_kept
    | with_reducible apply State.completed_kept
    | with_reducible apply Outcome.Kept.next
    | with_reducible apply Kept.ite
    | with_reducible apply OKept.ite
    | with_reducible refine Kept.ofSnd ?_ (by with_reducible assumption)
    | with_reducible refine Kept.ofSnd2 ?_ (by with_reducible assumption)
    | with_reducible refine Kept.ofFst ?_ (by with_reducible assumption)
    | split
    | dsimp only

theorem State.pollAnswer_kept (hp : Has pp 0x200000) (s : State) (q : SyncReq) (p : Poll) (status : Nat) (value : Nat) (hk : zz.Kept pp s) :
    zz.Kept pp (State.pollAnswer s q p status value) := by
  unfold State.pollAnswer
  repeat' first
    | with_reducible assumption
    | ((with_reducible refine Has.mono hp ?_); exact rfl)
    | ((with_reducible refine Has.get hp _ ?_); exact rfl)
    | with_reducible intro _
    | with_reducible apply State.post_kept
    | with_reducible apply State.setPoll_kept
    | with_reducible apply Outcome.Kept.next
    | with_reducible apply Kept.ite
    | with_reducible apply OKept.ite
    | with_reducible refine Kept.ofSnd ?_ (by with_reducible assumption)
    | with_reducible refine Kept.ofSnd2 ?_ (by with_reducible assumption)
    | with_reducible refine Kept.ofFst ?_ (by with_reducible assumption)
    | split
    | dsimp only

theorem State.endLater_kept (hp : Has pp 0x200000) (s : State) (q : SyncReq) (flat : Nat) (status : Nat) (value : Nat) (hk : zz.Kept pp s) :
    zz.Kept pp (State.endLater s q flat status value) := by
  unfold State.endLater
  repeat' first
    | with_reducible assumption
    | ((with_reducible refine Has.mono hp ?_); exact rfl)
    | ((with_reducible refine Has.get hp _ ?_); exact rfl)
    | with_reducible intro _
    | with_reducible apply State.setRecord_kept
    | with_reducible apply State.endSoon_kept
    | with_reducible apply Outcome.Kept.next
    | with_reducible apply Kept.ite
    | with_reducible apply OKept.ite
    | with_reducible refine Kept.ofSnd ?_ (by with_reducible assumption)
    | with_reducible refine Kept.ofSnd2 ?_ (by with_reducible assumption)
    | with_reducible refine Kept.ofFst ?_ (by with_reducible assumption)
    | split
    | dsimp only

theorem State.forwardEnd_kept (hp : Has pp 0x200000) (s : State) (f : Forward) (status : Nat) (value : Nat) (hk : zz.Kept pp s) :
    zz.Kept pp (State.forwardEnd s f status value) := by
  unfold State.forwardEnd
  repeat' first
    | with_reducible assumption
    | ((with_reducible refine Has.mono hp ?_); exact rfl)
    | ((with_reducible refine Has.get hp _ ?_); exact rfl)
    | with_reducible intro _
    | with_reducible apply State.endSoon_kept
    | with_reducible apply State.post_kept
    | with_reducible apply State.setSlot_kept
    | with_reducible apply State.pollAnswer_kept
    | with_reducible apply State.endLater_kept
    | with_reducible apply State.when_kept
    | with_reducible apply Outcome.Kept.next
    | with_reducible apply Kept.ite
    | with_reducible apply OKept.ite
    | with_reducible refine Kept.ofSnd ?_ (by with_reducible assumption)
    | with_reducible refine Kept.ofSnd2 ?_ (by with_reducible assumption)
    | with_reducible refine Kept.ofFst ?_ (by with_reducible assumption)
    | split
    | dsimp only

theorem State.applyOprsp_kept (hp : Has pp 0x200001) (s : State) (at_ : Nat) (m : List Nat) (hk : zz.Kept pp s) :
    zz.Kept pp (State.applyOprsp s at_ m) := by
  unfold State.applyOprsp
  repeat' first
    | with_reducible assumption
    | ((with_reducible refine Has.mono hp ?_); exact rfl)
    | ((with_reducible refine Has.get hp _ ?_); exact rfl)
    | with_reducible intro _
    | with_reducible apply State.satF_kept
    | with_reducible apply State.when_kept
    | with_reducible apply State.mapSync_kept
    | with_reducible apply State.post_kept
    | with_reducible apply State.setSlot_kept
    | with_reducible apply State.forwardEnd_kept
    | with_reducible apply Outcome.Kept.next
    | with_reducible apply Kept.ite
    | with_reducible apply OKept.ite
    | with_reducible refine Kept.ofSnd ?_ (by with_reducible assumption)
    | with_reducible refine Kept.ofSnd2 ?_ (by with_reducible assumption)
    | with_reducible refine Kept.ofFst ?_ (by with_reducible assumption)
    | split
    | dsimp only

theorem State.faultWaiters_kept (hp : Has pp 0x200000) (s : State) (on : Nat → Bool) (hk : zz.Kept pp s) :
    zz.Kept pp (State.faultWaiters s on) := by
  unfold State.faultWaiters
  repeat' first
    | with_reducible assumption
    | ((with_reducible refine Has.mono hp ?_); exact rfl)
    | ((with_reducible refine Has.get hp _ ?_); exact rfl)
    | with_reducible intro _
    | with_reducible apply State.forEach_kept
    | with_reducible apply State.endSoon_kept
    | with_reducible apply State.post_kept
    | with_reducible apply Outcome.Kept.next
    | with_reducible apply Kept.ite
    | with_reducible apply OKept.ite
    | with_reducible refine Kept.ofSnd ?_ (by with_reducible assumption)
    | with_reducible refine Kept.ofSnd2 ?_ (by with_reducible assumption)
    | with_reducible refine Kept.ofFst ?_ (by with_reducible assumption)
    | split
    | dsimp only

theorem State.returnRelease_kept (hp : Has pp 0x200000) (s : State) (m : List Nat) (kind : Nat) (hk : zz.Kept pp s) :
    zz.Kept pp (State.returnRelease s m kind) := by
  unfold State.returnRelease
  repeat' first
    | with_reducible assumption
    | ((with_reducible refine Has.mono hp ?_); exact rfl)
    | ((with_reducible refine Has.get hp _ ?_); exact rfl)
    | with_reducible intro _
    | with_reducible apply State.sendDie_kept
    | with_reducible apply Outcome.Kept.next
    | with_reducible apply Kept.ite
    | with_reducible apply OKept.ite
    | with_reducible refine Kept.ofSnd ?_ (by with_reducible assumption)
    | with_reducible refine Kept.ofSnd2 ?_ (by with_reducible assumption)
    | with_reducible refine Kept.ofFst ?_ (by with_reducible assumption)
    | split
    | dsimp only

theorem State.releaseOne_kept (hp : Has pp 0x20600001) (s : State) (m : List Nat) (op : Nat) (kind : Nat) (hk : zz.Kept pp s) :
    zz.Kept pp (State.releaseOne s m op kind) := by
  unfold State.releaseOne
  repeat' first
    | with_reducible assumption
    | ((with_reducible refine Has.mono hp ?_); exact rfl)
    | ((with_reducible refine Has.get hp _ ?_); exact rfl)
    | with_reducible intro _
    | with_reducible apply State.endReleased_kept
    | with_reducible apply State.returnRelease_kept
    | with_reducible apply Outcome.Kept.next
    | with_reducible apply Kept.ite
    | with_reducible apply OKept.ite
    | with_reducible refine Kept.ofSnd ?_ (by with_reducible assumption)
    | with_reducible refine Kept.ofSnd2 ?_ (by with_reducible assumption)
    | with_reducible refine Kept.ofFst ?_ (by with_reducible assumption)
    | split
    | dsimp only

theorem State.newGeneration_kept (hp : Has pp 0x20200000) (s : State) (f : Nat) (gen : Nat) (hk : zz.Kept pp s) :
    zz.Kept pp (State.newGeneration s f gen) := by
  unfold State.newGeneration
  repeat' first
    | with_reducible assumption
    | ((with_reducible refine Has.mono hp ?_); exact rfl)
    | ((with_reducible refine Has.get hp _ ?_); exact rfl)
    | with_reducible intro _
    | with_reducible apply State.drawFree_kept
    | with_reducible apply State.mapSync_kept
    | with_reducible apply State.lowerTargets_kept
    | with_reducible apply State.setObj_kept
    | with_reducible apply State.when_kept
    | with_reducible apply State.schedule_kept
    | with_reducible apply Outcome.Kept.next
    | with_reducible apply Kept.ite
    | with_reducible apply OKept.ite
    | with_reducible refine Kept.ofSnd ?_ (by with_reducible assumption)
    | with_reducible refine Kept.ofSnd2 ?_ (by with_reducible assumption)
    | with_reducible refine Kept.ofFst ?_ (by with_reducible assumption)
    | split
    | dsimp only

theorem State.newCounts_kept (hp : Has pp 0x20600001) (s : State) (f : Nat) (produced : Nat) (consumed : Nat) (hk : zz.Kept pp s) :
    zz.Kept pp (State.newCounts s f produced consumed) := by
  unfold State.newCounts
  repeat' first
    | with_reducible assumption
    | ((with_reducible refine Has.mono hp ?_); exact rfl)
    | ((with_reducible refine Has.get hp _ ?_); exact rfl)
    | with_reducible intro _
    | with_reducible apply State.forgetCounts_kept
    | with_reducible apply State.mapSync_kept
    | with_reducible apply State.forEach_kept
    | with_reducible apply State.endReleased_kept
    | with_reducible apply Outcome.Kept.next
    | with_reducible apply Kept.ite
    | with_reducible apply OKept.ite
    | with_reducible refine Kept.ofSnd ?_ (by with_reducible assumption)
    | with_reducible refine Kept.ofSnd2 ?_ (by with_reducible assumption)
    | with_reducible refine Kept.ofFst ?_ (by with_reducible assumption)
    | split
    | dsimp only

theorem State.applyRelease_kept (hp : Has pp 0x20600001) (s : State) (m : List Nat) (hk : zz.Kept pp s) :
    zz.Kept pp (State.applyRelease s m) := by
  unfold State.applyRelease
  repeat' first
    | with_reducible assumption
    | ((with_reducible refine Has.mono hp ?_); exact rfl)
    | ((with_reducible refine Has.get hp _ ?_); exact rfl)
    | with_reducible intro _
    | with_reducible apply State.newGeneration_kept
    | with_reducible apply State.releaseOne_kept
    | with_reducible apply State.forEach_kept
    | with_reducible apply State.endReleased_kept
    | with_reducible apply State.when_kept
    | with_reducible apply State.newCounts_kept
    | with_reducible apply State.faultWaiters_kept
    | with_reducible apply Outcome.Kept.next
    | with_reducible apply Kept.ite
    | with_reducible apply OKept.ite
    | with_reducible refine Kept.ofSnd ?_ (by with_reducible assumption)
    | with_reducible refine Kept.ofSnd2 ?_ (by with_reducible assumption)
    | with_reducible refine Kept.ofFst ?_ (by with_reducible assumption)
    | split
    | dsimp only

theorem State.applyWithdraw_kept (hp : Has pp 0x200000) (s : State) (m : List Nat) (hk : zz.Kept pp s) :
    zz.Kept pp (State.applyWithdraw s m) := by
  unfold State.applyWithdraw
  repeat' first
    | with_reducible assumption
    | ((with_reducible refine Has.mono hp ?_); exact rfl)
    | ((with_reducible refine Has.get hp _ ?_); exact rfl)
    | with_reducible intro _
    | with_reducible apply State.mapSync_kept
    | with_reducible apply Outcome.Kept.next
    | with_reducible apply Kept.ite
    | with_reducible apply OKept.ite
    | with_reducible refine Kept.ofSnd ?_ (by with_reducible assumption)
    | with_reducible refine Kept.ofSnd2 ?_ (by with_reducible assumption)
    | with_reducible refine Kept.ofFst ?_ (by with_reducible assumption)
    | split
    | dsimp only

theorem State.applyReturn_kept (hp : Has pp 0x20600001) (s : State) (m : List Nat) (hk : zz.Kept pp s) :
    zz.Kept pp (State.applyReturn s m) := by
  unfold State.applyReturn
  repeat' first
    | with_reducible assumption
    | ((with_reducible refine Has.mono hp ?_); exact rfl)
    | ((with_reducible refine Has.get hp _ ?_); exact rfl)
    | with_reducible intro _
    | with_reducible apply State.incF_kept
    | with_reducible apply State.signal_kept
    | with_reducible apply State.setEvent_kept
    | with_reducible apply Outcome.Kept.next
    | with_reducible apply Kept.ite
    | with_reducible apply OKept.ite
    | with_reducible refine Kept.ofSnd ?_ (by with_reducible assumption)
    | with_reducible refine Kept.ofSnd2 ?_ (by with_reducible assumption)
    | with_reducible refine Kept.ofFst ?_ (by with_reducible assumption)
    | split
    | dsimp only

theorem State.applyMsg_kept (hp : Has pp 0x20600001) (s : State) (at_ : Nat) (m : List Nat) (hk : zz.Kept pp s) :
    zz.Kept pp (State.applyMsg s at_ m) := by
  unfold State.applyMsg
  repeat' first
    | with_reducible assumption
    | ((with_reducible refine Has.mono hp ?_); exact rfl)
    | ((with_reducible refine Has.get hp _ ?_); exact rfl)
    | with_reducible intro _
    | with_reducible apply State.applyOpreq_kept
    | with_reducible apply State.applyOprsp_kept
    | with_reducible apply State.applyRelease_kept
    | with_reducible apply State.applyWithdraw_kept
    | with_reducible apply State.applyReturn_kept
    | with_reducible apply Outcome.Kept.next
    | with_reducible apply Kept.ite
    | with_reducible apply OKept.ite
    | with_reducible refine Kept.ofSnd ?_ (by with_reducible assumption)
    | with_reducible refine Kept.ofSnd2 ?_ (by with_reducible assumption)
    | with_reducible refine Kept.ofFst ?_ (by with_reducible assumption)
    | split
    | dsimp only

theorem State.takeMessages_kept (hp : Has pp 0x20600001) (s : State) (hk : zz.Kept pp s) :
    zz.Kept pp (State.takeMessages s) := by
  unfold State.takeMessages
  repeat' first
    | with_reducible assumption
    | ((with_reducible refine Has.mono hp ?_); exact rfl)
    | ((with_reducible refine Has.get hp _ ?_); exact rfl)
    | with_reducible intro _
    | with_reducible apply State.mapSync_kept
    | with_reducible apply State.forEach_kept
    | with_reducible apply State.applyMsg_kept
    | with_reducible apply Outcome.Kept.next
    | with_reducible apply Kept.ite
    | with_reducible apply OKept.ite
    | with_reducible refine Kept.ofSnd ?_ (by with_reducible assumption)
    | with_reducible refine Kept.ofSnd2 ?_ (by with_reducible assumption)
    | with_reducible refine Kept.ofFst ?_ (by with_reducible assumption)
    | split
    | dsimp only

theorem State.fabricTick_kept (hp : Has pp 0x220604001) (s : State) (hk : zz.Kept pp s) :
    zz.Kept pp (State.fabricTick s) := by
  unfold State.fabricTick
  repeat' first
    | with_reducible assumption
    | ((with_reducible refine Has.mono hp ?_); exact rfl)
    | ((with_reducible refine Has.get hp _ ?_); exact rfl)
    | with_reducible intro _
    | with_reducible apply State.walkTick_kept
    | with_reducible apply State.serveClusters_kept
    | with_reducible apply State.takeMessages_kept
    | with_reducible apply State.deliverDue_kept
    | with_reducible apply Outcome.Kept.next
    | with_reducible apply Kept.ite
    | with_reducible apply OKept.ite
    | with_reducible refine Kept.ofSnd ?_ (by with_reducible assumption)
    | with_reducible refine Kept.ofSnd2 ?_ (by with_reducible assumption)
    | with_reducible refine Kept.ofFst ?_ (by with_reducible assumption)
    | split
    | dsimp only

theorem State.fabricRest_kept (hp : Has pp 0x220604801) (s : State) (hk : zz.Kept pp s) :
    zz.Kept pp (State.fabricRest s) := by
  unfold State.fabricRest
  repeat' first
    | with_reducible assumption
    | ((with_reducible refine Has.mono hp ?_); exact rfl)
    | ((with_reducible refine Has.get hp _ ?_); exact rfl)
    | with_reducible intro _
    | with_reducible apply State.finishBatch_kept
    | with_reducible apply State.forEach_kept
    | with_reducible apply State.act_kept
    | with_reducible apply execCouplingNotice_kept
    | with_reducible apply execClusterRelease_kept
    | with_reducible apply execSyncPollReissue_kept
    | with_reducible apply Outcome.Kept.next
    | with_reducible apply Kept.ite
    | with_reducible apply OKept.ite
    | with_reducible refine Kept.ofSnd ?_ (by with_reducible assumption)
    | with_reducible refine Kept.ofSnd2 ?_ (by with_reducible assumption)
    | with_reducible refine Kept.ofFst ?_ (by with_reducible assumption)
    | split
    | dsimp only

end Sys2Proof.Machine
end

