-- ==== Sys2Proof/Laws/KeptSyncCtx.lean ====
section
/-! SUPPORT. What the functions of Sys2Proof/Machine/SyncCtx.lean keep: one lemma for each, by the lemmas of what it calls. -/
namespace Sys2Proof.Machine

variable {pp : Part → Bool} {zz : State}

theorem State.ctxResult_kept (hp : Has pp 0x1) (s : State) (status : Nat) (value : Nat) (hk : zz.Kept pp s) :
    zz.Kept pp (State.ctxResult s status value) := by
  unfold State.ctxResult
  repeat' first
    | with_reducible assumption
    | ((with_reducible refine Has.mono hp ?_); exact rfl)
    | ((with_reducible refine Has.get hp _ ?_); exact rfl)
    | with_reducible intro _
    | with_reducible apply State.setF_kept
    | with_reducible apply Outcome.Kept.next
    | with_reducible apply Kept.ite
    | with_reducible apply OKept.ite
    | with_reducible refine Kept.ofSnd ?_ (by with_reducible assumption)
    | with_reducible refine Kept.ofSnd2 ?_ (by with_reducible assumption)
    | with_reducible refine Kept.ofFst ?_ (by with_reducible assumption)
    | split
    | dsimp only

theorem State.ctxCommand_kept (hp : Has pp 0x1) (s : State) (g : State → State) (hf : ∀ (t : State), zz.Kept pp t → zz.Kept pp (g t)) (hk : zz.Kept pp s) :
    zz.Kept pp (State.ctxCommand s g) := by
  unfold State.ctxCommand
  repeat' first
    | with_reducible assumption
    | ((with_reducible refine Has.mono hp ?_); exact rfl)
    | ((with_reducible refine Has.get hp _ ?_); exact rfl)
    | with_reducible intro _
    | with_reducible apply hf
    | with_reducible apply State.ctxResult_kept
    | with_reducible apply Outcome.Kept.next
    | with_reducible apply Kept.ite
    | with_reducible apply OKept.ite
    | with_reducible refine Kept.ofSnd ?_ (by with_reducible assumption)
    | with_reducible refine Kept.ofSnd2 ?_ (by with_reducible assumption)
    | with_reducible refine Kept.ofFst ?_ (by with_reducible assumption)
    | split
    | dsimp only

theorem State.setWd_kept (hp : Has pp 0x200000001) (s : State) (x : Nat) (ms : Nat) (hk : zz.Kept pp s) :
    zz.Kept pp (State.setWd s x ms) := by
  unfold State.setWd
  repeat' first
    | with_reducible assumption
    | ((with_reducible refine Has.mono hp ?_); exact rfl)
    | ((with_reducible refine Has.get hp _ ?_); exact rfl)
    | with_reducible intro _
    | with_reducible apply State.setF_kept
    | with_reducible apply State.keepLate_kept
    | with_reducible apply Outcome.Kept.next
    | with_reducible apply Kept.ite
    | with_reducible apply OKept.ite
    | with_reducible refine Kept.ofSnd ?_ (by with_reducible assumption)
    | with_reducible refine Kept.ofSnd2 ?_ (by with_reducible assumption)
    | with_reducible refine Kept.ofFst ?_ (by with_reducible assumption)
    | split
    | dsimp only

theorem execCtxCreate_kept (hp : Has pp 0x200000001) (ctx : BitVec 10) (s : State) (hk : zz.Kept pp s) :
    Outcome.Kept pp zz (execCtxCreate ctx s) := by
  unfold execCtxCreate
  repeat' first
    | with_reducible assumption
    | ((with_reducible refine Has.mono hp ?_); exact rfl)
    | ((with_reducible refine Has.get hp _ ?_); exact rfl)
    | with_reducible intro _
    | with_reducible apply State.ctxCommand_kept
    | with_reducible apply State.ctxResult_kept
    | with_reducible apply State.setF_kept
    | with_reducible apply State.setWd_kept
    | with_reducible apply State.keepCtx_kept
    | with_reducible apply Outcome.Kept.next
    | with_reducible apply Kept.ite
    | with_reducible apply OKept.ite
    | with_reducible refine Kept.ofSnd ?_ (by with_reducible assumption)
    | with_reducible refine Kept.ofSnd2 ?_ (by with_reducible assumption)
    | with_reducible refine Kept.ofFst ?_ (by with_reducible assumption)
    | split
    | dsimp only

theorem State.keepPage_kept (hp : Has pp 0x200000000) (s : State) (p : Nat) (hk : zz.Kept pp s) :
    zz.Kept pp (State.keepPage s p) := by
  unfold State.keepPage
  repeat' first
    | with_reducible assumption
    | ((with_reducible refine Has.mono hp ?_); exact rfl)
    | ((with_reducible refine Has.get hp _ ?_); exact rfl)
    | with_reducible intro _
    | with_reducible apply State.keepLate_kept
    | with_reducible apply Outcome.Kept.next
    | with_reducible apply Kept.ite
    | with_reducible apply OKept.ite
    | with_reducible refine Kept.ofSnd ?_ (by with_reducible assumption)
    | with_reducible refine Kept.ofSnd2 ?_ (by with_reducible assumption)
    | with_reducible refine Kept.ofFst ?_ (by with_reducible assumption)
    | split
    | dsimp only

theorem State.freePage_kept (hp : Has pp 0x200000001) (s : State) (p : Nat) (hk : zz.Kept pp s) :
    zz.Kept pp (State.freePage s p) := by
  unfold State.freePage
  repeat' first
    | with_reducible assumption
    | ((with_reducible refine Has.mono hp ?_); exact rfl)
    | ((with_reducible refine Has.get hp _ ?_); exact rfl)
    | with_reducible intro _
    | with_reducible apply State.setF_kept
    | with_reducible apply State.keepPage_kept
    | with_reducible apply Outcome.Kept.next
    | with_reducible apply Kept.ite
    | with_reducible apply OKept.ite
    | with_reducible refine Kept.ofSnd ?_ (by with_reducible assumption)
    | with_reducible refine Kept.ofSnd2 ?_ (by with_reducible assumption)
    | with_reducible refine Kept.ofFst ?_ (by with_reducible assumption)
    | split
    | dsimp only

theorem State.clearPage_kept (hp : Has pp 0x200400001) (s : State) (p : Nat) (hk : zz.Kept pp s) :
    zz.Kept pp (State.clearPage s p) := by
  unfold State.clearPage
  repeat' first
    | with_reducible assumption
    | ((with_reducible refine Has.mono hp ?_); exact rfl)
    | ((with_reducible refine Has.get hp _ ?_); exact rfl)
    | with_reducible intro _
    | with_reducible apply State.forEach_kept
    | with_reducible apply State.keepLate_kept
    | with_reducible apply State.clearRange_kept
    | with_reducible apply State.eccWrite_kept
    | with_reducible apply Outcome.Kept.next
    | with_reducible apply Kept.ite
    | with_reducible apply OKept.ite
    | with_reducible refine Kept.ofSnd ?_ (by with_reducible assumption)
    | with_reducible refine Kept.ofSnd2 ?_ (by with_reducible assumption)
    | with_reducible refine Kept.ofFst ?_ (by with_reducible assumption)
    | split
    | dsimp only

theorem execCtxDestroy_kept (hp : Has pp 0x200400001) (ctx : BitVec 10) (s : State) (hk : zz.Kept pp s) :
    Outcome.Kept pp zz (execCtxDestroy ctx s) := by
  unfold execCtxDestroy
  repeat' first
    | with_reducible assumption
    | ((with_reducible refine Has.mono hp ?_); exact rfl)
    | ((with_reducible refine Has.get hp _ ?_); exact rfl)
    | with_reducible intro _
    | with_reducible apply State.ctxCommand_kept
    | with_reducible apply State.ctxResult_kept
    | with_reducible apply State.forEach_kept
    | with_reducible apply State.freePage_kept
    | with_reducible apply State.clearPage_kept
    | with_reducible apply State.setF_kept
    | with_reducible apply State.keepCtx_kept
    | with_reducible apply Outcome.Kept.next
    | with_reducible apply Kept.ite
    | with_reducible apply OKept.ite
    | with_reducible refine Kept.ofSnd ?_ (by with_reducible assumption)
    | with_reducible refine Kept.ofSnd2 ?_ (by with_reducible assumption)
    | with_reducible refine Kept.ofFst ?_ (by with_reducible assumption)
    | split
    | dsimp only

theorem execCtxAbort_kept (hp : Has pp 0x200200001) (ctx : BitVec 10) (s : State) (hk : zz.Kept pp s) :
    Outcome.Kept pp zz (execCtxAbort ctx s) := by
  unfold execCtxAbort
  repeat' first
    | with_reducible assumption
    | ((with_reducible refine Has.mono hp ?_); exact rfl)
    | ((with_reducible refine Has.get hp _ ?_); exact rfl)
    | with_reducible intro _
    | with_reducible apply State.setF_kept
    | with_reducible apply State.ctxCommand_kept
    | with_reducible apply State.ctxResult_kept
    | with_reducible apply State.drain_kept
    | with_reducible apply State.mapSync_kept
    | with_reducible apply Outcome.Kept.next
    | with_reducible apply Kept.ite
    | with_reducible apply OKept.ite
    | with_reducible refine Kept.ofSnd ?_ (by with_reducible assumption)
    | with_reducible refine Kept.ofSnd2 ?_ (by with_reducible assumption)
    | with_reducible refine Kept.ofFst ?_ (by with_reducible assumption)
    | split
    | dsimp only

theorem execAbortWalkEnd_kept (hp : Has pp 0x200600061) (ctx : BitVec 10) (s : State) (hk : zz.Kept pp s) :
    Outcome.Kept pp zz (execAbortWalkEnd ctx s) := by
  unfold execAbortWalkEnd
  repeat' first
    | with_reducible assumption
    | ((with_reducible refine Has.mono hp ?_); exact rfl)
    | ((with_reducible refine Has.get hp _ ?_); exact rfl)
    | with_reducible intro _
    | with_reducible apply State.setF_kept
    | with_reducible apply State.keepCtx_kept
    | with_reducible apply State.mapSync_kept
    | with_reducible apply State.when_kept
    | with_reducible apply State.ctxResult_kept
    | with_reducible apply State.forEach_kept
    | with_reducible apply State.reply_kept
    | with_reducible apply Outcome.Kept.next
    | with_reducible apply Kept.ite
    | with_reducible apply OKept.ite
    | with_reducible refine Kept.ofSnd ?_ (by with_reducible assumption)
    | with_reducible refine Kept.ofSnd2 ?_ (by with_reducible assumption)
    | with_reducible refine Kept.ofFst ?_ (by with_reducible assumption)
    | split
    | dsimp only
    | with_reducible apply State.Kept.mailbox

theorem execCtxResume_kept (hp : Has pp 0x200000001) (ctx : BitVec 10) (s : State) (hk : zz.Kept pp s) :
    Outcome.Kept pp zz (execCtxResume ctx s) := by
  unfold execCtxResume
  repeat' first
    | with_reducible assumption
    | ((with_reducible refine Has.mono hp ?_); exact rfl)
    | ((with_reducible refine Has.get hp _ ?_); exact rfl)
    | with_reducible intro _
    | with_reducible apply State.ctxCommand_kept
    | with_reducible apply State.ctxResult_kept
    | with_reducible apply State.setF_kept
    | with_reducible apply State.keepCtx_kept
    | with_reducible apply Outcome.Kept.next
    | with_reducible apply Kept.ite
    | with_reducible apply OKept.ite
    | with_reducible refine Kept.ofSnd ?_ (by with_reducible assumption)
    | with_reducible refine Kept.ofSnd2 ?_ (by with_reducible assumption)
    | with_reducible refine Kept.ofFst ?_ (by with_reducible assumption)
    | split
    | dsimp only

theorem execCtxMap_kept (hp : Has pp 0x200400001) (ctx : BitVec 10) (s : State) (hk : zz.Kept pp s) :
    Outcome.Kept pp zz (execCtxMap ctx s) := by
  unfold execCtxMap
  repeat' first
    | with_reducible assumption
    | ((with_reducible refine Has.mono hp ?_); exact rfl)
    | ((with_reducible refine Has.get hp _ ?_); exact rfl)
    | with_reducible intro _
    | with_reducible apply State.ctxCommand_kept
    | with_reducible apply State.ctxResult_kept
    | with_reducible apply State.clearPage_kept
    | with_reducible apply State.keepPage_kept
    | with_reducible apply State.setF_kept
    | with_reducible apply Outcome.Kept.next
    | with_reducible apply Kept.ite
    | with_reducible apply OKept.ite
    | with_reducible refine Kept.ofSnd ?_ (by with_reducible assumption)
    | with_reducible refine Kept.ofSnd2 ?_ (by with_reducible assumption)
    | with_reducible refine Kept.ofFst ?_ (by with_reducible assumption)
    | split
    | dsimp only

theorem execCtxUnmap_kept (hp : Has pp 0x200000001) (ctx : BitVec 10) (s : State) (hk : zz.Kept pp s) :
    Outcome.Kept pp zz (execCtxUnmap ctx s) := by
  unfold execCtxUnmap
  repeat' first
    | with_reducible assumption
    | ((with_reducible refine Has.mono hp ?_); exact rfl)
    | ((with_reducible refine Has.get hp _ ?_); exact rfl)
    | with_reducible intro _
    | with_reducible apply State.ctxCommand_kept
    | with_reducible apply State.ctxResult_kept
    | with_reducible apply State.freePage_kept
    | with_reducible apply Outcome.Kept.next
    | with_reducible apply Kept.ite
    | with_reducible apply OKept.ite
    | with_reducible refine Kept.ofSnd ?_ (by with_reducible assumption)
    | with_reducible refine Kept.ofSnd2 ?_ (by with_reducible assumption)
    | with_reducible refine Kept.ofFst ?_ (by with_reducible assumption)
    | split
    | dsimp only

theorem execCtxSetWd_kept (hp : Has pp 0x200000001) (ctx : BitVec 10) (s : State) (hk : zz.Kept pp s) :
    Outcome.Kept pp zz (execCtxSetWd ctx s) := by
  unfold execCtxSetWd
  repeat' first
    | with_reducible assumption
    | ((with_reducible refine Has.mono hp ?_); exact rfl)
    | ((with_reducible refine Has.get hp _ ?_); exact rfl)
    | with_reducible intro _
    | with_reducible apply State.ctxCommand_kept
    | with_reducible apply State.ctxResult_kept
    | with_reducible apply State.setWd_kept
    | with_reducible apply Outcome.Kept.next
    | with_reducible apply Kept.ite
    | with_reducible apply OKept.ite
    | with_reducible refine Kept.ofSnd ?_ (by with_reducible assumption)
    | with_reducible refine Kept.ofSnd2 ?_ (by with_reducible assumption)
    | with_reducible refine Kept.ofFst ?_ (by with_reducible assumption)
    | split
    | dsimp only

theorem State.ctxWrite_kept (hp : Has pp 0x200600001) (s : State) (word : Nat) (hk : zz.Kept pp s) :
    zz.Kept pp (State.ctxWrite s word) := by
  unfold State.ctxWrite
  repeat' first
    | with_reducible assumption
    | ((with_reducible refine Has.mono hp ?_); exact rfl)
    | ((with_reducible refine Has.get hp _ ?_); exact rfl)
    | with_reducible intro _
    | with_reducible apply State.act_kept
    | with_reducible apply execCtxCreate_kept
    | with_reducible apply execCtxDestroy_kept
    | with_reducible apply execCtxAbort_kept
    | with_reducible apply execCtxResume_kept
    | with_reducible apply execCtxMap_kept
    | with_reducible apply execCtxUnmap_kept
    | with_reducible apply execCtxSetWd_kept
    | with_reducible apply State.ctxCommand_kept
    | with_reducible apply State.ctxResult_kept
    | with_reducible apply Outcome.Kept.next
    | with_reducible apply Kept.ite
    | with_reducible apply OKept.ite
    | with_reducible refine Kept.ofSnd ?_ (by with_reducible assumption)
    | with_reducible refine Kept.ofSnd2 ?_ (by with_reducible assumption)
    | with_reducible refine Kept.ofFst ?_ (by with_reducible assumption)
    | split
    | dsimp only

theorem execCorectxWrite_kept (hp : Has pp 0x200000001) (core : Fin 288) (value : Word) (s : State) (hk : zz.Kept pp s) :
    Outcome.Kept pp zz (execCorectxWrite core value s) := by
  unfold execCorectxWrite
  repeat' first
    | with_reducible assumption
    | ((with_reducible refine Has.mono hp ?_); exact rfl)
    | ((with_reducible refine Has.get hp _ ?_); exact rfl)
    | with_reducible intro _
    | with_reducible apply State.setF_kept
    | with_reducible apply State.keepLate_kept
    | with_reducible apply Outcome.Kept.next
    | with_reducible apply Kept.ite
    | with_reducible apply OKept.ite
    | with_reducible refine Kept.ofSnd ?_ (by with_reducible assumption)
    | with_reducible refine Kept.ofSnd2 ?_ (by with_reducible assumption)
    | with_reducible refine Kept.ofFst ?_ (by with_reducible assumption)
    | split
    | dsimp only

theorem execTranslationEntryWrite_kept (hp : Has pp 0x220600001) (index : Fin 131072) (value : Word) (s : State) (hk : zz.Kept pp s) :
    Outcome.Kept pp zz (execTranslationEntryWrite index value s) := by
  unfold execTranslationEntryWrite
  repeat' first
    | with_reducible assumption
    | ((with_reducible refine Has.mono hp ?_); exact rfl)
    | ((with_reducible refine Has.get hp _ ?_); exact rfl)
    | with_reducible intro _
    | with_reducible apply State.keepLate_kept
    | with_reducible apply State.checkXlt_kept
    | with_reducible apply State.drawFree_kept
    | with_reducible apply State.patchXlt_kept
    | with_reducible apply State.eccWrite_kept
    | with_reducible apply State.setF_kept
    | with_reducible apply Outcome.Kept.next
    | with_reducible apply Kept.ite
    | with_reducible apply OKept.ite
    | with_reducible refine Kept.ofSnd ?_ (by with_reducible assumption)
    | with_reducible refine Kept.ofSnd2 ?_ (by with_reducible assumption)
    | with_reducible refine Kept.ofFst ?_ (by with_reducible assumption)
    | split
    | dsimp only

theorem State.countFiring_kept (hp : Has pp 0x1) (s : State) (x : Nat) (hk : zz.Kept pp s) :
    zz.Kept pp (State.countFiring s x) := by
  unfold State.countFiring
  repeat' first
    | with_reducible assumption
    | ((with_reducible refine Has.mono hp ?_); exact rfl)
    | ((with_reducible refine Has.get hp _ ?_); exact rfl)
    | with_reducible intro _
    | with_reducible apply State.raise_kept
    | with_reducible apply State.incF_kept
    | with_reducible apply Outcome.Kept.next
    | with_reducible apply Kept.ite
    | with_reducible apply OKept.ite
    | with_reducible refine Kept.ofSnd ?_ (by with_reducible assumption)
    | with_reducible refine Kept.ofSnd2 ?_ (by with_reducible assumption)
    | with_reducible refine Kept.ofFst ?_ (by with_reducible assumption)
    | split
    | dsimp only

theorem State.sweepRecord_kept (hp : Has pp 0x20600001) (acc : State × List WdReport) (w : Waiter) (hk2 : zz.Kept pp acc.1) :
    zz.Kept pp (State.sweepRecord acc w).1 := by
  unfold State.sweepRecord
  repeat' first
    | with_reducible assumption
    | ((with_reducible refine Has.mono hp ?_); exact rfl)
    | ((with_reducible refine Has.get hp _ ?_); exact rfl)
    | with_reducible intro _
    | with_reducible apply State.readRecord_kept
    | with_reducible apply State.countFiring_kept
    | with_reducible apply State.when_kept
    | with_reducible apply State.endBack_kept
    | with_reducible apply State.mapSync_kept
    | with_reducible apply Outcome.Kept.next
    | with_reducible apply Kept.ite
    | with_reducible apply OKept.ite
    | with_reducible refine Kept.ofSnd ?_ (by with_reducible assumption)
    | with_reducible refine Kept.ofSnd2 ?_ (by with_reducible assumption)
    | with_reducible refine Kept.ofFst ?_ (by with_reducible assumption)
    | split
    | dsimp only

theorem State.sweepPoll_kept (hp : Has pp 0x200001) (acc : State × List WdReport) (p : Poll) (hk2 : zz.Kept pp acc.1) :
    zz.Kept pp (State.sweepPoll acc p).1 := by
  unfold State.sweepPoll
  repeat' first
    | with_reducible assumption
    | ((with_reducible refine Has.mono hp ?_); exact rfl)
    | ((with_reducible refine Has.get hp _ ?_); exact rfl)
    | with_reducible intro _
    | with_reducible apply State.mapSync_kept
    | with_reducible apply State.countFiring_kept
    | with_reducible apply Outcome.Kept.next
    | with_reducible apply Kept.ite
    | with_reducible apply OKept.ite
    | with_reducible refine Kept.ofSnd ?_ (by with_reducible assumption)
    | with_reducible refine Kept.ofSnd2 ?_ (by with_reducible assumption)
    | with_reducible refine Kept.ofFst ?_ (by with_reducible assumption)
    | split
    | dsimp only

theorem State.queueReport_kept (hp : Has pp 0x200001) (s : State) (r : WdReport) (hk : zz.Kept pp s) :
    zz.Kept pp (State.queueReport s r) := by
  unfold State.queueReport
  repeat' first
    | with_reducible assumption
    | ((with_reducible refine Has.mono hp ?_); exact rfl)
    | ((with_reducible refine Has.get hp _ ?_); exact rfl)
    | with_reducible intro _
    | with_reducible apply State.raise_kept
    | with_reducible apply State.incF_kept
    | with_reducible apply State.mapSync_kept
    | with_reducible apply Outcome.Kept.next
    | with_reducible apply Kept.ite
    | with_reducible apply OKept.ite
    | with_reducible refine Kept.ofSnd ?_ (by with_reducible assumption)
    | with_reducible refine Kept.ofSnd2 ?_ (by with_reducible assumption)
    | with_reducible refine Kept.ofFst ?_ (by with_reducible assumption)
    | split
    | dsimp only

theorem State.sweepGroup_kept (hp : Has pp 0x20600001) (s : State) (k : Sweep) (hk : zz.Kept pp s) :
    zz.Kept pp (State.sweepGroup s k) := by
  unfold State.sweepGroup
  repeat' first
    | with_reducible assumption
    | ((with_reducible refine Has.mono hp ?_); exact rfl)
    | ((with_reducible refine Has.get hp _ ?_); exact rfl)
    | with_reducible apply Kept.foldl
    | with_reducible apply Kept.foldlFst
    | with_reducible apply Kept.foldlSnd
    | with_reducible intro _
    | with_reducible apply State.sweepRecord_kept
    | with_reducible apply State.mapSync_kept
    | with_reducible apply State.sweepPoll_kept
    | with_reducible apply State.forEach_kept
    | with_reducible apply State.queueReport_kept
    | with_reducible apply Outcome.Kept.next
    | with_reducible apply Kept.ite
    | with_reducible apply OKept.ite
    | with_reducible refine Kept.ofSnd ?_ (by with_reducible assumption)
    | with_reducible refine Kept.ofSnd2 ?_ (by with_reducible assumption)
    | with_reducible refine Kept.ofFst ?_ (by with_reducible assumption)
    | split
    | dsimp only

theorem State.sweepTick_kept (hp : Has pp 0x20600001) (s : State) (hk : zz.Kept pp s) :
    zz.Kept pp (State.sweepTick s) := by
  unfold State.sweepTick
  repeat' first
    | with_reducible assumption
    | ((with_reducible refine Has.mono hp ?_); exact rfl)
    | ((with_reducible refine Has.get hp _ ?_); exact rfl)
    | with_reducible intro _
    | with_reducible apply State.sweepGroup_kept
    | with_reducible apply Outcome.Kept.next
    | with_reducible apply Kept.ite
    | with_reducible apply OKept.ite
    | with_reducible refine Kept.ofSnd ?_ (by with_reducible assumption)
    | with_reducible refine Kept.ofSnd2 ?_ (by with_reducible assumption)
    | with_reducible refine Kept.ofFst ?_ (by with_reducible assumption)
    | split
    | dsimp only

theorem State.fabricBegin_kept (hp : Has pp 0x220604001) (s : State) (hk : zz.Kept pp s) :
    zz.Kept pp (State.fabricBegin s) := by
  unfold State.fabricBegin
  repeat' first
    | with_reducible assumption
    | ((with_reducible refine Has.mono hp ?_); exact rfl)
    | ((with_reducible refine Has.get hp _ ?_); exact rfl)
    | with_reducible intro _
    | with_reducible apply State.sweepTick_kept
    | with_reducible apply State.fabricTick_kept
    | with_reducible apply Outcome.Kept.next
    | with_reducible apply Kept.ite
    | with_reducible apply OKept.ite
    | with_reducible refine Kept.ofSnd ?_ (by with_reducible assumption)
    | with_reducible refine Kept.ofSnd2 ?_ (by with_reducible assumption)
    | with_reducible refine Kept.ofFst ?_ (by with_reducible assumption)
    | split
    | dsimp only

theorem execWatchdogSweep_kept (hp : Has pp 0x30600001) (s : State) (hk : zz.Kept pp s) :
    Outcome.Kept pp zz (execWatchdogSweep s) := by
  unfold execWatchdogSweep
  repeat' first
    | with_reducible assumption
    | ((with_reducible refine Has.mono hp ?_); exact rfl)
    | ((with_reducible refine Has.get hp _ ?_); exact rfl)
    | with_reducible intro _
    | with_reducible apply State.sweepGroup_kept
    | with_reducible apply State.begun_kept
    | with_reducible apply Outcome.Kept.next
    | with_reducible apply Kept.ite
    | with_reducible apply OKept.ite
    | with_reducible refine Kept.ofSnd ?_ (by with_reducible assumption)
    | with_reducible refine Kept.ofSnd2 ?_ (by with_reducible assumption)
    | with_reducible refine Kept.ofFst ?_ (by with_reducible assumption)
    | split
    | dsimp only

theorem execWdqPop_kept (hp : Has pp 0x200000) (value : Word) (s : State) (hk : zz.Kept pp s) :
    Outcome.Kept pp zz (execWdqPop value s) := by
  unfold execWdqPop
  repeat' first
    | with_reducible assumption
    | ((with_reducible refine Has.mono hp ?_); exact rfl)
    | ((with_reducible refine Has.get hp _ ?_); exact rfl)
    | with_reducible intro _
    | with_reducible apply State.mapSync_kept
    | with_reducible apply Outcome.Kept.next
    | with_reducible apply Kept.ite
    | with_reducible apply OKept.ite
    | with_reducible refine Kept.ofSnd ?_ (by with_reducible assumption)
    | with_reducible refine Kept.ofSnd2 ?_ (by with_reducible assumption)
    | with_reducible refine Kept.ofFst ?_ (by with_reducible assumption)
    | split
    | dsimp only

theorem execMgpWdqReport_kept (hp : Has pp 0x600061) (s : State) (hk : zz.Kept pp s) :
    Outcome.Kept pp zz (execMgpWdqReport s) := by
  unfold execMgpWdqReport
  repeat' first
    | with_reducible assumption
    | ((with_reducible refine Has.mono hp ?_); exact rfl)
    | ((with_reducible refine Has.get hp _ ?_); exact rfl)
    | with_reducible intro _
    | with_reducible apply State.notify_kept
    | with_reducible apply State.log_kept
    | with_reducible apply State.mapSync_kept
    | with_reducible apply Outcome.Kept.next
    | with_reducible apply Kept.ite
    | with_reducible apply OKept.ite
    | with_reducible refine Kept.ofSnd ?_ (by with_reducible assumption)
    | with_reducible refine Kept.ofSnd2 ?_ (by with_reducible assumption)
    | with_reducible refine Kept.ofFst ?_ (by with_reducible assumption)
    | split
    | dsimp only

theorem execDebugSelect_kept (hp : Has pp 0x200001) (value : Word) (s : State) (hk : zz.Kept pp s) :
    Outcome.Kept pp zz (execDebugSelect value s) := by
  unfold execDebugSelect
  repeat' first
    | with_reducible assumption
    | ((with_reducible refine Has.mono hp ?_); exact rfl)
    | ((with_reducible refine Has.get hp _ ?_); exact rfl)
    | with_reducible intro _
    | with_reducible apply State.mapSync_kept
    | with_reducible apply State.setF_kept
    | with_reducible apply Outcome.Kept.next
    | with_reducible apply Kept.ite
    | with_reducible apply OKept.ite
    | with_reducible refine Kept.ofSnd ?_ (by with_reducible assumption)
    | with_reducible refine Kept.ofSnd2 ?_ (by with_reducible assumption)
    | with_reducible refine Kept.ofFst ?_ (by with_reducible assumption)
    | split
    | dsimp only

theorem State.showWaiter_kept (hp : Has pp 0x1) (s : State) (i : Nat) (w : Option Waiter) (hk : zz.Kept pp s) :
    zz.Kept pp (State.showWaiter s i w) := by
  unfold State.showWaiter
  repeat' first
    | with_reducible assumption
    | ((with_reducible refine Has.mono hp ?_); exact rfl)
    | ((with_reducible refine Has.get hp _ ?_); exact rfl)
    | with_reducible intro _
    | with_reducible apply State.clearRange_kept
    | with_reducible apply State.setF_kept
    | with_reducible apply State.flagF_kept
    | with_reducible apply Outcome.Kept.next
    | with_reducible apply Kept.ite
    | with_reducible apply OKept.ite
    | with_reducible refine Kept.ofSnd ?_ (by with_reducible assumption)
    | with_reducible refine Kept.ofSnd2 ?_ (by with_reducible assumption)
    | with_reducible refine Kept.ofFst ?_ (by with_reducible assumption)
    | split
    | dsimp only

theorem State.snapshot_kept (hp : Has pp 0x20600001) (s : State) (f : Nat) (hk : zz.Kept pp s) :
    zz.Kept pp (State.snapshot s f) := by
  unfold State.snapshot
  repeat' first
    | with_reducible assumption
    | ((with_reducible refine Has.mono hp ?_); exact rfl)
    | ((with_reducible refine Has.get hp _ ?_); exact rfl)
    | with_reducible intro _
    | with_reducible apply State.readObj_kept
    | with_reducible apply State.setF_kept
    | with_reducible apply State.flagF_kept
    | with_reducible apply State.forEach_kept
    | with_reducible apply State.showWaiter_kept
    | with_reducible apply State.readRecord_kept
    | with_reducible apply Outcome.Kept.next
    | with_reducible apply Kept.ite
    | with_reducible apply OKept.ite
    | with_reducible refine Kept.ofSnd ?_ (by with_reducible assumption)
    | with_reducible refine Kept.ofSnd2 ?_ (by with_reducible assumption)
    | with_reducible refine Kept.ofFst ?_ (by with_reducible assumption)
    | split
    | dsimp only

theorem execDebugSnapshot_kept (hp : Has pp 0x20600001) (s : State) (hk : zz.Kept pp s) :
    Outcome.Kept pp zz (execDebugSnapshot s) := by
  unfold execDebugSnapshot
  repeat' first
    | with_reducible assumption
    | ((with_reducible refine Has.mono hp ?_); exact rfl)
    | ((with_reducible refine Has.get hp _ ?_); exact rfl)
    | with_reducible intro _
    | with_reducible apply State.snapshot_kept
    | with_reducible apply State.mapSync_kept
    | with_reducible apply State.setF_kept
    | with_reducible apply Outcome.Kept.next
    | with_reducible apply Kept.ite
    | with_reducible apply OKept.ite
    | with_reducible refine Kept.ofSnd ?_ (by with_reducible assumption)
    | with_reducible refine Kept.ofSnd2 ?_ (by with_reducible assumption)
    | with_reducible refine Kept.ofFst ?_ (by with_reducible assumption)
    | split
    | dsimp only

theorem State.contextRest_kept (hp : Has pp 0x220600061) (s : State) (hk : zz.Kept pp s) :
    zz.Kept pp (State.contextRest s) := by
  unfold State.contextRest
  repeat' first
    | with_reducible assumption
    | ((with_reducible refine Has.mono hp ?_); exact rfl)
    | ((with_reducible refine Has.get hp _ ?_); exact rfl)
    | with_reducible intro _
    | with_reducible apply State.forEach_kept
    | with_reducible apply State.act_kept
    | with_reducible apply execAbortWalkEnd_kept
    | with_reducible apply execDebugSnapshot_kept
    | with_reducible apply Outcome.Kept.next
    | with_reducible apply Kept.ite
    | with_reducible apply OKept.ite
    | with_reducible refine Kept.ofSnd ?_ (by with_reducible assumption)
    | with_reducible refine Kept.ofSnd2 ?_ (by with_reducible assumption)
    | with_reducible refine Kept.ofFst ?_ (by with_reducible assumption)
    | split
    | dsimp only

end Sys2Proof.Machine
end

