-- ==== Sys2Proof/Laws/KeptMailbox.lean ====
section
/-! SUPPORT. What the functions of Sys2Proof/Machine/Mailbox.lean keep: one lemma for each, by the lemmas of what it calls. -/
namespace Sys2Proof.Machine

variable {pp : Part → Bool} {zz : State}

theorem State.mapMail_kept (hp : Has pp 0x40) (s : State) (g : Mailbox → Mailbox) (hk : zz.Kept pp s) :
    zz.Kept pp (State.mapMail s g) := by
  unfold State.mapMail
  repeat' first
    | with_reducible assumption
    | ((with_reducible refine Has.mono hp ?_); exact rfl)
    | ((with_reducible refine Has.get hp _ ?_); exact rfl)
    | with_reducible intro _
    | with_reducible apply Outcome.Kept.next
    | with_reducible apply Kept.ite
    | with_reducible apply OKept.ite
    | with_reducible refine Kept.ofSnd ?_ (by with_reducible assumption)
    | with_reducible refine Kept.ofSnd2 ?_ (by with_reducible assumption)
    | with_reducible refine Kept.ofFst ?_ (by with_reducible assumption)
    | split
    | dsimp only
    | with_reducible apply State.Kept.mailbox

theorem State.complete_kept (hp : Has pp 0x8) (s : State) (value : Nat) (error : Bool) (hk : zz.Kept pp s) :
    zz.Kept pp (State.complete s value error) := by
  unfold State.complete
  repeat' first
    | with_reducible assumption
    | ((with_reducible refine Has.mono hp ?_); exact rfl)
    | ((with_reducible refine Has.get hp _ ?_); exact rfl)
    | with_reducible intro _
    | with_reducible apply Outcome.Kept.next
    | with_reducible apply Kept.ite
    | with_reducible apply OKept.ite
    | with_reducible refine Kept.ofSnd ?_ (by with_reducible assumption)
    | with_reducible refine Kept.ofSnd2 ?_ (by with_reducible assumption)
    | with_reducible refine Kept.ofFst ?_ (by with_reducible assumption)
    | split
    | dsimp only
    | with_reducible apply State.Kept.port

theorem State.countUnbound_kept (hp : Has pp 0x1) (s : State) (ch : Nat) (hk : zz.Kept pp s) :
    zz.Kept pp (State.countUnbound s ch) := by
  unfold State.countUnbound
  repeat' first
    | with_reducible assumption
    | ((with_reducible refine Has.mono hp ?_); exact rfl)
    | ((with_reducible refine Has.get hp _ ?_); exact rfl)
    | with_reducible intro _
    | with_reducible apply State.raise_kept
    | with_reducible apply State.incF_kept
    | with_reducible apply Outcome.Kept.next
    | with_reducible apply Kept.ite
    | with_reducible apply OKept.ite
    | with_reducible refine Kept.ofSnd ?_ (by with_reducible assumption)
    | with_reducible refine Kept.ofSnd2 ?_ (by with_reducible assumption)
    | with_reducible refine Kept.ofFst ?_ (by with_reducible assumption)
    | split
    | dsimp only

theorem State.rejectUnbound_kept (hp : Has pp 0x9) (s : State) (ch : Nat) (hk : zz.Kept pp s) :
    zz.Kept pp (State.rejectUnbound s ch) := by
  unfold State.rejectUnbound
  repeat' first
    | with_reducible assumption
    | ((with_reducible refine Has.mono hp ?_); exact rfl)
    | ((with_reducible refine Has.get hp _ ?_); exact rfl)
    | with_reducible intro _
    | with_reducible apply State.complete_kept
    | with_reducible apply State.countUnbound_kept
    | with_reducible apply Outcome.Kept.next
    | with_reducible apply Kept.ite
    | with_reducible apply OKept.ite
    | with_reducible refine Kept.ofSnd ?_ (by with_reducible assumption)
    | with_reducible refine Kept.ofSnd2 ?_ (by with_reducible assumption)
    | with_reducible refine Kept.ofFst ?_ (by with_reducible assumption)
    | split
    | dsimp only

theorem State.channelWrite_kept (hp : Has pp 0x109) (s : State) (p : Party) (ch : Nat) (f : State → State) (hf : ∀ (t : State), zz.Kept pp t → zz.Kept pp (f t)) (hk : zz.Kept pp s) :
    zz.Kept pp (State.channelWrite s p ch f) := by
  unfold State.channelWrite
  repeat' first
    | with_reducible assumption
    | ((with_reducible refine Has.mono hp ?_); exact rfl)
    | ((with_reducible refine Has.get hp _ ?_); exact rfl)
    | with_reducible intro _
    | with_reducible apply hf
    | with_reducible apply State.complete_kept
    | with_reducible apply State.rejectUnbound_kept
    | with_reducible apply Outcome.Kept.next
    | with_reducible apply Kept.ite
    | with_reducible apply OKept.ite
    | with_reducible refine Kept.ofSnd ?_ (by with_reducible assumption)
    | with_reducible refine Kept.ofSnd2 ?_ (by with_reducible assumption)
    | with_reducible refine Kept.ofFst ?_ (by with_reducible assumption)
    | split
    | dsimp only

theorem State.rejectWrite_kept (hp : Has pp 0x1) (s : State) (ch : Nat) (hk : zz.Kept pp s) :
    zz.Kept pp (State.rejectWrite s ch) := by
  unfold State.rejectWrite
  repeat' first
    | with_reducible assumption
    | ((with_reducible refine Has.mono hp ?_); exact rfl)
    | ((with_reducible refine Has.get hp _ ?_); exact rfl)
    | with_reducible intro _
    | with_reducible apply State.incF_kept
    | with_reducible apply Outcome.Kept.next
    | with_reducible apply Kept.ite
    | with_reducible apply OKept.ite
    | with_reducible refine Kept.ofSnd ?_ (by with_reducible assumption)
    | with_reducible refine Kept.ofSnd2 ?_ (by with_reducible assumption)
    | with_reducible refine Kept.ofFst ?_ (by with_reducible assumption)
    | split
    | dsimp only

theorem execMailboxWordWrite_kept (hp : Has pp 0x149) (party : Party) (channel : Fin 32) (word : Fin 16) (value : Word) (s : State) (hk : zz.Kept pp s) :
    Outcome.Kept pp zz (execMailboxWordWrite party channel word value s) := by
  unfold execMailboxWordWrite
  repeat' first
    | with_reducible assumption
    | ((with_reducible refine Has.mono hp ?_); exact rfl)
    | ((with_reducible refine Has.get hp _ ?_); exact rfl)
    | with_reducible intro _
    | with_reducible apply State.channelWrite_kept
    | with_reducible apply State.rejectWrite_kept
    | with_reducible apply State.setF_kept
    | with_reducible apply State.mapMail_kept
    | with_reducible apply Outcome.Kept.next
    | with_reducible apply Kept.ite
    | with_reducible apply OKept.ite
    | with_reducible refine Kept.ofSnd ?_ (by with_reducible assumption)
    | with_reducible refine Kept.ofSnd2 ?_ (by with_reducible assumption)
    | with_reducible refine Kept.ofFst ?_ (by with_reducible assumption)
    | split
    | dsimp only

theorem execMailboxGo_kept (hp : Has pp 0x109) (party : Party) (channel : Fin 32) (s : State) (hk : zz.Kept pp s) :
    Outcome.Kept pp zz (execMailboxGo party channel s) := by
  unfold execMailboxGo
  repeat' first
    | with_reducible assumption
    | ((with_reducible refine Has.mono hp ?_); exact rfl)
    | ((with_reducible refine Has.get hp _ ?_); exact rfl)
    | with_reducible intro _
    | with_reducible apply State.channelWrite_kept
    | with_reducible apply State.rejectWrite_kept
    | with_reducible apply State.setF_kept
    | with_reducible apply State.flagF_kept
    | with_reducible apply Outcome.Kept.next
    | with_reducible apply Kept.ite
    | with_reducible apply OKept.ite
    | with_reducible refine Kept.ofSnd ?_ (by with_reducible assumption)
    | with_reducible refine Kept.ofSnd2 ?_ (by with_reducible assumption)
    | with_reducible refine Kept.ofFst ?_ (by with_reducible assumption)
    | split
    | dsimp only

theorem execMailboxDone_kept (hp : Has pp 0x109) (party : Party) (channel : Fin 32) (s : State) (hk : zz.Kept pp s) :
    Outcome.Kept pp zz (execMailboxDone party channel s) := by
  unfold execMailboxDone
  repeat' first
    | with_reducible assumption
    | ((with_reducible refine Has.mono hp ?_); exact rfl)
    | ((with_reducible refine Has.get hp _ ?_); exact rfl)
    | with_reducible intro _
    | with_reducible apply State.channelWrite_kept
    | with_reducible apply State.setF_kept
    | with_reducible apply State.rejectWrite_kept
    | with_reducible apply Outcome.Kept.next
    | with_reducible apply Kept.ite
    | with_reducible apply OKept.ite
    | with_reducible refine Kept.ofSnd ?_ (by with_reducible assumption)
    | with_reducible refine Kept.ofSnd2 ?_ (by with_reducible assumption)
    | with_reducible refine Kept.ofFst ?_ (by with_reducible assumption)
    | split
    | dsimp only

theorem State.emptyRequest_kept (hp : Has pp 0x41) (s : State) (ch : Nat) (hk : zz.Kept pp s) :
    zz.Kept pp (State.emptyRequest s ch) := by
  unfold State.emptyRequest
  repeat' first
    | with_reducible assumption
    | ((with_reducible refine Has.mono hp ?_); exact rfl)
    | ((with_reducible refine Has.get hp _ ?_); exact rfl)
    | with_reducible intro _
    | with_reducible apply State.mapMail_kept
    | with_reducible apply State.setF_kept
    | with_reducible apply State.when_kept
    | with_reducible apply State.raise_kept
    | with_reducible apply Outcome.Kept.next
    | with_reducible apply Kept.ite
    | with_reducible apply OKept.ite
    | with_reducible refine Kept.ofSnd ?_ (by with_reducible assumption)
    | with_reducible refine Kept.ofSnd2 ?_ (by with_reducible assumption)
    | with_reducible refine Kept.ofFst ?_ (by with_reducible assumption)
    | split
    | dsimp only

theorem execMgpTakeMessage_kept (hp : Has pp 0x400061) (s : State) (hk : zz.Kept pp s) :
    Outcome.Kept pp zz (execMgpTakeMessage s) := by
  unfold execMgpTakeMessage
  repeat' first
    | with_reducible assumption
    | ((with_reducible refine Has.mono hp ?_); exact rfl)
    | ((with_reducible refine Has.get hp _ ?_); exact rfl)
    | with_reducible intro _
    | with_reducible apply State.trace_kept
    | with_reducible apply State.emptyRequest_kept
    | with_reducible apply State.reply_kept
    | with_reducible apply State.mapMail_kept
    | with_reducible apply Outcome.Kept.next
    | with_reducible apply Kept.ite
    | with_reducible apply OKept.ite
    | with_reducible refine Kept.ofSnd ?_ (by with_reducible assumption)
    | with_reducible refine Kept.ofSnd2 ?_ (by with_reducible assumption)
    | with_reducible refine Kept.ofFst ?_ (by with_reducible assumption)
    | split
    | dsimp only

theorem State.onOpcode_kept (hp : Has pp 0x40) (s : State) (op : Nat) (g : State → Request → State) (hf : ∀ (t : State) (x1 : Request), zz.Kept pp t → zz.Kept pp (g t x1)) (hk : zz.Kept pp s) :
    zz.Kept pp (State.onOpcode s op g) := by
  unfold State.onOpcode
  repeat' first
    | with_reducible assumption
    | ((with_reducible refine Has.mono hp ?_); exact rfl)
    | ((with_reducible refine Has.get hp _ ?_); exact rfl)
    | with_reducible intro _
    | with_reducible apply hf
    | with_reducible apply State.mapMail_kept
    | with_reducible apply Outcome.Kept.next
    | with_reducible apply Kept.ite
    | with_reducible apply OKept.ite
    | with_reducible refine Kept.ofSnd ?_ (by with_reducible assumption)
    | with_reducible refine Kept.ofSnd2 ?_ (by with_reducible assumption)
    | with_reducible refine Kept.ofFst ?_ (by with_reducible assumption)
    | split
    | dsimp only

theorem execOutboundQueueDrain_kept (hp : Has pp 0x41) (channel : Fin 32) (s : State) (hk : zz.Kept pp s) :
    Outcome.Kept pp zz (execOutboundQueueDrain channel s) := by
  unfold execOutboundQueueDrain
  repeat' first
    | with_reducible assumption
    | ((with_reducible refine Has.mono hp ?_); exact rfl)
    | ((with_reducible refine Has.get hp _ ?_); exact rfl)
    | with_reducible intro _
    | with_reducible apply State.mapMail_kept
    | with_reducible apply State.writeMsg_kept
    | with_reducible apply State.setF_kept
    | with_reducible apply Outcome.Kept.next
    | with_reducible apply Kept.ite
    | with_reducible apply OKept.ite
    | with_reducible refine Kept.ofSnd ?_ (by with_reducible assumption)
    | with_reducible refine Kept.ofSnd2 ?_ (by with_reducible assumption)
    | with_reducible refine Kept.ofFst ?_ (by with_reducible assumption)
    | split
    | dsimp only

theorem State.reloadHeartbeat_kept (hp : Has pp 0x41) (s : State) (hk : zz.Kept pp s) :
    zz.Kept pp (State.reloadHeartbeat s) := by
  unfold State.reloadHeartbeat
  repeat' first
    | with_reducible assumption
    | ((with_reducible refine Has.mono hp ?_); exact rfl)
    | ((with_reducible refine Has.get hp _ ?_); exact rfl)
    | with_reducible intro _
    | with_reducible apply State.mapMail_kept
    | with_reducible apply State.setF_kept
    | with_reducible apply Outcome.Kept.next
    | with_reducible apply Kept.ite
    | with_reducible apply OKept.ite
    | with_reducible refine Kept.ofSnd ?_ (by with_reducible assumption)
    | with_reducible refine Kept.ofSnd2 ?_ (by with_reducible assumption)
    | with_reducible refine Kept.ofFst ?_ (by with_reducible assumption)
    | split
    | dsimp only

theorem State.beginAbsence_kept (hp : Has pp 0xc00071) (s : State) (hk : zz.Kept pp s) :
    zz.Kept pp (State.beginAbsence s) := by
  unfold State.beginAbsence
  repeat' first
    | with_reducible assumption
    | ((with_reducible refine Has.mono hp ?_); exact rfl)
    | ((with_reducible refine Has.get hp _ ?_); exact rfl)
    | with_reducible intro _
    | with_reducible apply State.setF_kept
    | with_reducible apply State.mapMail_kept
    | with_reducible apply State.settleFleet_kept
    | with_reducible apply State.when_kept
    | with_reducible apply State.log_kept
    | with_reducible apply Outcome.Kept.next
    | with_reducible apply Kept.ite
    | with_reducible apply OKept.ite
    | with_reducible refine Kept.ofSnd ?_ (by with_reducible assumption)
    | with_reducible refine Kept.ofSnd2 ?_ (by with_reducible assumption)
    | with_reducible refine Kept.ofFst ?_ (by with_reducible assumption)
    | split
    | dsimp only

theorem State.endAbsence_kept (hp : Has pp 0xc00071) (s : State) (hk : zz.Kept pp s) :
    zz.Kept pp (State.endAbsence s) := by
  unfold State.endAbsence
  repeat' first
    | with_reducible assumption
    | ((with_reducible refine Has.mono hp ?_); exact rfl)
    | ((with_reducible refine Has.get hp _ ?_); exact rfl)
    | with_reducible intro _
    | with_reducible apply State.setF_kept
    | with_reducible apply State.mapMail_kept
    | with_reducible apply State.incF_kept
    | with_reducible apply State.settleFleet_kept
    | with_reducible apply State.log_kept
    | with_reducible apply Outcome.Kept.next
    | with_reducible apply Kept.ite
    | with_reducible apply OKept.ite
    | with_reducible refine Kept.ofSnd ?_ (by with_reducible assumption)
    | with_reducible refine Kept.ofSnd2 ?_ (by with_reducible assumption)
    | with_reducible refine Kept.ofFst ?_ (by with_reducible assumption)
    | split
    | dsimp only

theorem execHeartbeatExpiry_kept (hp : Has pp 0xc00071) (s : State) (hk : zz.Kept pp s) :
    Outcome.Kept pp zz (execHeartbeatExpiry s) := by
  unfold execHeartbeatExpiry
  repeat' first
    | with_reducible assumption
    | ((with_reducible refine Has.mono hp ?_); exact rfl)
    | ((with_reducible refine Has.get hp _ ?_); exact rfl)
    | with_reducible intro _
    | with_reducible apply State.beginAbsence_kept
    | with_reducible apply Outcome.Kept.next
    | with_reducible apply Kept.ite
    | with_reducible apply OKept.ite
    | with_reducible refine Kept.ofSnd ?_ (by with_reducible assumption)
    | with_reducible refine Kept.ofSnd2 ?_ (by with_reducible assumption)
    | with_reducible refine Kept.ofFst ?_ (by with_reducible assumption)
    | split
    | dsimp only

theorem execSessionOpen_kept (hp : Has pp 0xc00071) (s : State) (hk : zz.Kept pp s) :
    Outcome.Kept pp zz (execSessionOpen s) := by
  unfold execSessionOpen
  repeat' first
    | with_reducible assumption
    | ((with_reducible refine Has.mono hp ?_); exact rfl)
    | ((with_reducible refine Has.get hp _ ?_); exact rfl)
    | with_reducible intro _
    | with_reducible apply State.onOpcode_kept
    | with_reducible apply State.reply_kept
    | with_reducible apply State.setF_kept
    | with_reducible apply State.endAbsence_kept
    | with_reducible apply State.reloadHeartbeat_kept
    | with_reducible apply State.mapMail_kept
    | with_reducible apply Outcome.Kept.next
    | with_reducible apply Kept.ite
    | with_reducible apply OKept.ite
    | with_reducible refine Kept.ofSnd ?_ (by with_reducible assumption)
    | with_reducible refine Kept.ofSnd2 ?_ (by with_reducible assumption)
    | with_reducible refine Kept.ofFst ?_ (by with_reducible assumption)
    | split
    | dsimp only

theorem State.closeSession_kept (hp : Has pp 0x1) (s : State) (ch : Nat) (hk : zz.Kept pp s) :
    zz.Kept pp (State.closeSession s ch) := by
  unfold State.closeSession
  repeat' first
    | with_reducible assumption
    | ((with_reducible refine Has.mono hp ?_); exact rfl)
    | ((with_reducible refine Has.get hp _ ?_); exact rfl)
    | with_reducible intro _
    | with_reducible apply State.setF_kept
    | with_reducible apply Outcome.Kept.next
    | with_reducible apply Kept.ite
    | with_reducible apply OKept.ite
    | with_reducible refine Kept.ofSnd ?_ (by with_reducible assumption)
    | with_reducible refine Kept.ofSnd2 ?_ (by with_reducible assumption)
    | with_reducible refine Kept.ofFst ?_ (by with_reducible assumption)
    | split
    | dsimp only

theorem execSessionClose_kept (hp : Has pp 0xc00071) (s : State) (hk : zz.Kept pp s) :
    Outcome.Kept pp zz (execSessionClose s) := by
  unfold execSessionClose
  repeat' first
    | with_reducible assumption
    | ((with_reducible refine Has.mono hp ?_); exact rfl)
    | ((with_reducible refine Has.get hp _ ?_); exact rfl)
    | with_reducible intro _
    | with_reducible apply State.onOpcode_kept
    | with_reducible apply State.reply_kept
    | with_reducible apply State.closeSession_kept
    | with_reducible apply State.when_kept
    | with_reducible apply State.beginAbsence_kept
    | with_reducible apply State.setF_kept
    | with_reducible apply Outcome.Kept.next
    | with_reducible apply Kept.ite
    | with_reducible apply OKept.ite
    | with_reducible refine Kept.ofSnd ?_ (by with_reducible assumption)
    | with_reducible refine Kept.ofSnd2 ?_ (by with_reducible assumption)
    | with_reducible refine Kept.ofFst ?_ (by with_reducible assumption)
    | split
    | dsimp only

theorem execHeartbeat_kept (hp : Has pp 0xc00071) (s : State) (hk : zz.Kept pp s) :
    Outcome.Kept pp zz (execHeartbeat s) := by
  unfold execHeartbeat
  repeat' first
    | with_reducible assumption
    | ((with_reducible refine Has.mono hp ?_); exact rfl)
    | ((with_reducible refine Has.get hp _ ?_); exact rfl)
    | with_reducible intro _
    | with_reducible apply State.onOpcode_kept
    | with_reducible apply State.when_kept
    | with_reducible apply State.endAbsence_kept
    | with_reducible apply State.reloadHeartbeat_kept
    | with_reducible apply State.reply_kept
    | with_reducible apply Outcome.Kept.next
    | with_reducible apply Kept.ite
    | with_reducible apply OKept.ite
    | with_reducible refine Kept.ofSnd ?_ (by with_reducible assumption)
    | with_reducible refine Kept.ofSnd2 ?_ (by with_reducible assumption)
    | with_reducible refine Kept.ofFst ?_ (by with_reducible assumption)
    | split
    | dsimp only

end Sys2Proof.Machine
end

