-- ==== Sys2Proof/Laws/KeptThermal.lean ====
section
/-! SUPPORT. What the functions of Sys2Proof/Machine/Thermal.lean keep: one lemma for each, by the lemmas of what it calls. -/
namespace Sys2Proof.Machine

variable {pp : Part → Bool} {zz : State}

theorem State.setChan_kept (hp : Has pp 0x80000) (s : State) (ch : Nat) (f : Chan → Chan) (hk : zz.Kept pp s) :
    zz.Kept pp (State.setChan s ch f) := by
  unfold State.setChan
  repeat' first
    | with_reducible assumption
    | ((with_reducible refine Has.mono hp ?_); exact rfl)
    | ((with_reducible refine Has.get hp _ ?_); exact rfl)
    | with_reducible intro _
    | with_reducible apply Outcome.Kept.next
    | with_reducible apply Kept.ite
    | with_reducible apply OKept.ite
    | with_reducible refine Kept.ofSnd ?_ (by with_reducible assumption)
    | with_reducible refine Kept.ofSnd2 ?_ (by with_reducible assumption)
    | with_reducible refine Kept.ofFst ?_ (by with_reducible assumption)
    | split
    | dsimp only
    | with_reducible apply State.Kept.therm

theorem State.setPairRec_kept (hp : Has pp 0x80000) (s : State) (q : Nat) (f : PairRec → PairRec) (hk : zz.Kept pp s) :
    zz.Kept pp (State.setPairRec s q f) := by
  unfold State.setPairRec
  repeat' first
    | with_reducible assumption
    | ((with_reducible refine Has.mono hp ?_); exact rfl)
    | ((with_reducible refine Has.get hp _ ?_); exact rfl)
    | with_reducible intro _
    | with_reducible apply Outcome.Kept.next
    | with_reducible apply Kept.ite
    | with_reducible apply OKept.ite
    | with_reducible refine Kept.ofSnd ?_ (by with_reducible assumption)
    | with_reducible refine Kept.ofSnd2 ?_ (by with_reducible assumption)
    | with_reducible refine Kept.ofFst ?_ (by with_reducible assumption)
    | split
    | dsimp only
    | with_reducible apply State.Kept.therm

theorem State.thermEvent_kept (hp : Has pp 0xc00031) (s : State) (bit : Nat) (hk : zz.Kept pp s) :
    zz.Kept pp (State.thermEvent s bit) := by
  unfold State.thermEvent
  repeat' first
    | with_reducible assumption
    | ((with_reducible refine Has.mono hp ?_); exact rfl)
    | ((with_reducible refine Has.get hp _ ?_); exact rfl)
    | with_reducible intro _
    | with_reducible apply State.when_kept
    | with_reducible apply State.raise_kept
    | with_reducible apply State.latchPm_kept
    | with_reducible apply State.trace_kept
    | with_reducible apply Outcome.Kept.next
    | with_reducible apply Kept.ite
    | with_reducible apply OKept.ite
    | with_reducible refine Kept.ofSnd ?_ (by with_reducible assumption)
    | with_reducible refine Kept.ofSnd2 ?_ (by with_reducible assumption)
    | with_reducible refine Kept.ofFst ?_ (by with_reducible assumption)
    | split
    | dsimp only

theorem State.chanBroken_kept (hp : Has pp 0xc80031) (s : State) (ch : Nat) (hk : zz.Kept pp s) :
    zz.Kept pp (State.chanBroken s ch) := by
  unfold State.chanBroken
  repeat' first
    | with_reducible assumption
    | ((with_reducible refine Has.mono hp ?_); exact rfl)
    | ((with_reducible refine Has.get hp _ ?_); exact rfl)
    | with_reducible intro _
    | with_reducible apply State.setF_kept
    | with_reducible apply State.thermEvent_kept
    | with_reducible apply State.setChan_kept
    | with_reducible apply Outcome.Kept.next
    | with_reducible apply Kept.ite
    | with_reducible apply OKept.ite
    | with_reducible refine Kept.ofSnd ?_ (by with_reducible assumption)
    | with_reducible refine Kept.ofSnd2 ?_ (by with_reducible assumption)
    | with_reducible refine Kept.ofFst ?_ (by with_reducible assumption)
    | split
    | dsimp only

theorem State.chanUse_kept (hp : Has pp 0x80001) (s : State) (ch : Nat) (t : Int) (hk : zz.Kept pp s) :
    zz.Kept pp (State.chanUse s ch t) := by
  unfold State.chanUse
  repeat' first
    | with_reducible assumption
    | ((with_reducible refine Has.mono hp ?_); exact rfl)
    | ((with_reducible refine Has.get hp _ ?_); exact rfl)
    | with_reducible intro _
    | with_reducible apply State.setChan_kept
    | with_reducible apply State.setF_kept
    | with_reducible apply Outcome.Kept.next
    | with_reducible apply Kept.ite
    | with_reducible apply OKept.ite
    | with_reducible refine Kept.ofSnd ?_ (by with_reducible assumption)
    | with_reducible refine Kept.ofSnd2 ?_ (by with_reducible assumption)
    | with_reducible refine Kept.ofFst ?_ (by with_reducible assumption)
    | split
    | dsimp only

theorem State.convert_kept (hp : Has pp 0xc80031) (s : State) (ch : Nat) (whole : Bool) (t : Int) (rated : Bool) (hk : zz.Kept pp s) :
    zz.Kept pp (State.convert s ch whole t rated) := by
  unfold State.convert
  repeat' first
    | with_reducible assumption
    | ((with_reducible refine Has.mono hp ?_); exact rfl)
    | ((with_reducible refine Has.get hp _ ?_); exact rfl)
    | with_reducible intro _
    | with_reducible apply State.setChan_kept
    | with_reducible apply State.chanUse_kept
    | with_reducible apply State.setF_kept
    | with_reducible apply State.chanBroken_kept
    | with_reducible apply Outcome.Kept.next
    | with_reducible apply Kept.ite
    | with_reducible apply OKept.ite
    | with_reducible refine Kept.ofSnd ?_ (by with_reducible assumption)
    | with_reducible refine Kept.ofSnd2 ?_ (by with_reducible assumption)
    | with_reducible refine Kept.ofFst ?_ (by with_reducible assumption)
    | split
    | dsimp only

theorem State.spoilStep_kept (hp : Has pp 0x8000000) (s : State) (c : Nat) (hk : zz.Kept pp s) :
    zz.Kept pp (State.spoilStep s c) := by
  unfold State.spoilStep
  repeat' first
    | with_reducible assumption
    | ((with_reducible refine Has.mono hp ?_); exact rfl)
    | ((with_reducible refine Has.get hp _ ?_); exact rfl)
    | with_reducible intro _
    | with_reducible apply State.when_kept
    | with_reducible apply Outcome.Kept.next
    | with_reducible apply Kept.ite
    | with_reducible apply OKept.ite
    | with_reducible refine Kept.ofSnd ?_ (by with_reducible assumption)
    | with_reducible refine Kept.ofSnd2 ?_ (by with_reducible assumption)
    | with_reducible refine Kept.ofFst ?_ (by with_reducible assumption)
    | split
    | dsimp only
    | with_reducible apply State.Kept.health

theorem State.chooseDivision_kept (hp : Has pp 0x8002001) (s : State) (c : Nat) (hk : zz.Kept pp s) :
    zz.Kept pp (State.chooseDivision s c) := by
  unfold State.chooseDivision
  repeat' first
    | with_reducible assumption
    | ((with_reducible refine Has.mono hp ?_); exact rfl)
    | ((with_reducible refine Has.get hp _ ?_); exact rfl)
    | with_reducible intro _
    | with_reducible apply State.spoilStep_kept
    | with_reducible apply State.setClc_kept
    | with_reducible apply State.setF_kept
    | with_reducible apply Outcome.Kept.next
    | with_reducible apply Kept.ite
    | with_reducible apply OKept.ite
    | with_reducible refine Kept.ofSnd ?_ (by with_reducible assumption)
    | with_reducible refine Kept.ofSnd2 ?_ (by with_reducible assumption)
    | with_reducible refine Kept.ofFst ?_ (by with_reducible assumption)
    | split
    | dsimp only

theorem State.keepLimit_kept (hp : Has pp 0x200000000) (s : State) (c : Nat) (hk : zz.Kept pp s) :
    zz.Kept pp (State.keepLimit s c) := by
  unfold State.keepLimit
  repeat' first
    | with_reducible assumption
    | ((with_reducible refine Has.mono hp ?_); exact rfl)
    | ((with_reducible refine Has.get hp _ ?_); exact rfl)
    | with_reducible intro _
    | with_reducible apply State.keepLate_kept
    | with_reducible apply Outcome.Kept.next
    | with_reducible apply Kept.ite
    | with_reducible apply OKept.ite
    | with_reducible refine Kept.ofSnd ?_ (by with_reducible assumption)
    | with_reducible refine Kept.ofSnd2 ?_ (by with_reducible assumption)
    | with_reducible refine Kept.ofFst ?_ (by with_reducible assumption)
    | split
    | dsimp only

theorem State.setThrottle_kept (hp : Has pp 0x208002001) (s : State) (c : Nat) (active : Bool) (cause : Nat) (fHw : Nat) (hk : zz.Kept pp s) :
    zz.Kept pp (State.setThrottle s c active cause fHw) := by
  unfold State.setThrottle
  repeat' first
    | with_reducible assumption
    | ((with_reducible refine Has.mono hp ?_); exact rfl)
    | ((with_reducible refine Has.get hp _ ?_); exact rfl)
    | with_reducible intro _
    | with_reducible apply State.keepLimit_kept
    | with_reducible apply State.satF_kept
    | with_reducible apply State.setF_kept
    | with_reducible apply State.chooseDivision_kept
    | with_reducible apply Outcome.Kept.next
    | with_reducible apply Kept.ite
    | with_reducible apply OKept.ite
    | with_reducible refine Kept.ofSnd ?_ (by with_reducible assumption)
    | with_reducible refine Kept.ofSnd2 ?_ (by with_reducible assumption)
    | with_reducible refine Kept.ofFst ?_ (by with_reducible assumption)
    | split
    | dsimp only

theorem State.evaluateThrottle_kept (hp : Has pp 0x208c02031) (s : State) (c : Nat) (hk : zz.Kept pp s) :
    zz.Kept pp (State.evaluateThrottle s c) := by
  unfold State.evaluateThrottle
  repeat' first
    | with_reducible assumption
    | ((with_reducible refine Has.mono hp ?_); exact rfl)
    | ((with_reducible refine Has.get hp _ ?_); exact rfl)
    | with_reducible intro _
    | with_reducible apply State.setThrottle_kept
    | with_reducible apply State.when_kept
    | with_reducible apply State.thermEvent_kept
    | with_reducible apply Outcome.Kept.next
    | with_reducible apply Kept.ite
    | with_reducible apply OKept.ite
    | with_reducible refine Kept.ofSnd ?_ (by with_reducible assumption)
    | with_reducible refine Kept.ofSnd2 ?_ (by with_reducible assumption)
    | with_reducible refine Kept.ofFst ?_ (by with_reducible assumption)
    | split
    | dsimp only

theorem execThrottleDividerStep_kept (hp : Has pp 0x6000) (cluster : Fin 12) (s : State) (hk : zz.Kept pp s) :
    Outcome.Kept pp zz (execThrottleDividerStep cluster s) := by
  unfold execThrottleDividerStep
  repeat' first
    | with_reducible assumption
    | ((with_reducible refine Has.mono hp ?_); exact rfl)
    | ((with_reducible refine Has.get hp _ ?_); exact rfl)
    | with_reducible intro _
    | with_reducible apply State.reduceAcc_kept
    | with_reducible apply State.setClc_kept
    | with_reducible apply Outcome.Kept.next
    | with_reducible apply Kept.ite
    | with_reducible apply OKept.ite
    | with_reducible refine Kept.ofSnd ?_ (by with_reducible assumption)
    | with_reducible refine Kept.ofSnd2 ?_ (by with_reducible assumption)
    | with_reducible refine Kept.ofFst ?_ (by with_reducible assumption)
    | split
    | dsimp only

theorem State.tripRecordTake_kept (hp : Has pp 0x20000281) (s : State) (c : TripCause) (hk : zz.Kept pp s) :
    zz.Kept pp (State.tripRecordTake s c) := by
  unfold State.tripRecordTake
  repeat' first
    | with_reducible assumption
    | ((with_reducible refine Has.mono hp ?_); exact rfl)
    | ((with_reducible refine Has.get hp _ ?_); exact rfl)
    | with_reducible intro _
    | with_reducible apply State.tripTake_kept
    | with_reducible apply Outcome.Kept.next
    | with_reducible apply Kept.ite
    | with_reducible apply OKept.ite
    | with_reducible refine Kept.ofSnd ?_ (by with_reducible assumption)
    | with_reducible refine Kept.ofSnd2 ?_ (by with_reducible assumption)
    | with_reducible refine Kept.ofFst ?_ (by with_reducible assumption)
    | split
    | dsimp only
    | with_reducible apply State.Kept.trip

theorem State.thermalTrip_kept (hp : Has pp 0x228c022b1) (s : State) (ch : Nat) (t : Int) (hk : zz.Kept pp s) :
    zz.Kept pp (State.thermalTrip s ch t) := by
  unfold State.thermalTrip
  repeat' first
    | with_reducible assumption
    | ((with_reducible refine Has.mono hp ?_); exact rfl)
    | ((with_reducible refine Has.get hp _ ?_); exact rfl)
    | with_reducible exact (rfl : _ = _)
    | with_reducible exact id
    | (((with_reducible intro _); rfl))
    | with_reducible intro _
    | with_reducible apply State.setF_kept
    | with_reducible apply State.latchPm_kept
    | with_reducible apply State.thermEvent_kept
    | with_reducible apply State.forEach_kept
    | with_reducible apply State.setThrottle_kept
    | with_reducible apply State.tripRecordTake_kept
    | with_reducible apply Outcome.Kept.next
    | with_reducible apply Kept.ite
    | with_reducible apply OKept.ite
    | with_reducible refine Kept.ofSnd ?_ (by with_reducible assumption)
    | with_reducible refine Kept.ofSnd2 ?_ (by with_reducible assumption)
    | with_reducible refine Kept.ofFst ?_ (by with_reducible assumption)
    | split
    | dsimp only
    | with_reducible apply State.Kept.pins
    | with_reducible apply State.Kept.trip

theorem State.tripCheck_kept (hp : Has pp 0x228c822b1) (s : State) (ch : Nat) (t : Int) (hk : zz.Kept pp s) :
    zz.Kept pp (State.tripCheck s ch t) := by
  unfold State.tripCheck
  repeat' first
    | with_reducible assumption
    | ((with_reducible refine Has.mono hp ?_); exact rfl)
    | ((with_reducible refine Has.get hp _ ?_); exact rfl)
    | with_reducible intro _
    | with_reducible apply State.setChan_kept
    | with_reducible apply State.thermalTrip_kept
    | with_reducible apply Outcome.Kept.next
    | with_reducible apply Kept.ite
    | with_reducible apply OKept.ite
    | with_reducible refine Kept.ofSnd ?_ (by with_reducible assumption)
    | with_reducible refine Kept.ofSnd2 ?_ (by with_reducible assumption)
    | with_reducible refine Kept.ofFst ?_ (by with_reducible assumption)
    | split
    | dsimp only

theorem State.warnCheck_kept (hp : Has pp 0xc80031) (s : State) (ch : Nat) (t : Int) (hk : zz.Kept pp s) :
    zz.Kept pp (State.warnCheck s ch t) := by
  unfold State.warnCheck
  repeat' first
    | with_reducible assumption
    | ((with_reducible refine Has.mono hp ?_); exact rfl)
    | ((with_reducible refine Has.get hp _ ?_); exact rfl)
    | with_reducible intro _
    | with_reducible apply State.when_kept
    | with_reducible apply State.thermEvent_kept
    | with_reducible apply State.setChan_kept
    | with_reducible apply Outcome.Kept.next
    | with_reducible apply Kept.ite
    | with_reducible apply OKept.ite
    | with_reducible refine Kept.ofSnd ?_ (by with_reducible assumption)
    | with_reducible refine Kept.ofSnd2 ?_ (by with_reducible assumption)
    | with_reducible refine Kept.ofFst ?_ (by with_reducible assumption)
    | split
    | dsimp only

theorem State.pairState_kept (hp : Has pp 0xc80031) (s : State) (q : Nat) (both : Bool) (apart : Bool) (hk : zz.Kept pp s) :
    zz.Kept pp (State.pairState s q both apart) := by
  unfold State.pairState
  repeat' first
    | with_reducible assumption
    | ((with_reducible refine Has.mono hp ?_); exact rfl)
    | ((with_reducible refine Has.get hp _ ?_); exact rfl)
    | with_reducible intro _
    | with_reducible apply State.setPairRec_kept
    | with_reducible apply State.when_kept
    | with_reducible apply State.setF_kept
    | with_reducible apply State.incF_kept
    | with_reducible apply State.thermEvent_kept
    | with_reducible apply Outcome.Kept.next
    | with_reducible apply Kept.ite
    | with_reducible apply OKept.ite
    | with_reducible refine Kept.ofSnd ?_ (by with_reducible assumption)
    | with_reducible refine Kept.ofSnd2 ?_ (by with_reducible assumption)
    | with_reducible refine Kept.ofFst ?_ (by with_reducible assumption)
    | split
    | dsimp only

theorem State.pairBlind_kept (hp : Has pp 0xc80031) (s : State) (q : Nat) (b : Bool) (hk : zz.Kept pp s) :
    zz.Kept pp (State.pairBlind s q b) := by
  unfold State.pairBlind
  repeat' first
    | with_reducible assumption
    | ((with_reducible refine Has.mono hp ?_); exact rfl)
    | ((with_reducible refine Has.get hp _ ?_); exact rfl)
    | with_reducible intro _
    | with_reducible apply State.when_kept
    | with_reducible apply State.thermEvent_kept
    | with_reducible apply State.setPairRec_kept
    | with_reducible apply Outcome.Kept.next
    | with_reducible apply Kept.ite
    | with_reducible apply OKept.ite
    | with_reducible refine Kept.ofSnd ?_ (by with_reducible assumption)
    | with_reducible refine Kept.ofSnd2 ?_ (by with_reducible assumption)
    | with_reducible refine Kept.ofFst ?_ (by with_reducible assumption)
    | split
    | dsimp only

theorem State.pairUpdate_kept (hp : Has pp 0xc80031) (s : State) (q : Nat) (a : Nat) (b : Nat) (hk : zz.Kept pp s) :
    zz.Kept pp (State.pairUpdate s q a b) := by
  unfold State.pairUpdate
  repeat' first
    | with_reducible assumption
    | ((with_reducible refine Has.mono hp ?_); exact rfl)
    | ((with_reducible refine Has.get hp _ ?_); exact rfl)
    | with_reducible intro _
    | with_reducible apply State.pairState_kept
    | with_reducible apply State.setF_kept
    | with_reducible apply State.pairBlind_kept
    | with_reducible apply State.when_kept
    | with_reducible apply State.setPairRec_kept
    | with_reducible apply Outcome.Kept.next
    | with_reducible apply Kept.ite
    | with_reducible apply OKept.ite
    | with_reducible refine Kept.ofSnd ?_ (by with_reducible assumption)
    | with_reducible refine Kept.ofSnd2 ?_ (by with_reducible assumption)
    | with_reducible refine Kept.ofFst ?_ (by with_reducible assumption)
    | split
    | dsimp only
    | with_reducible apply State.Kept.therm

theorem State.stackUpdate_kept (hp : Has pp 0xc80031) (s : State) (k : Nat) (hk : zz.Kept pp s) :
    zz.Kept pp (State.stackUpdate s k) := by
  unfold State.stackUpdate
  repeat' first
    | with_reducible assumption
    | ((with_reducible refine Has.mono hp ?_); exact rfl)
    | ((with_reducible refine Has.get hp _ ?_); exact rfl)
    | with_reducible intro _
    | with_reducible apply State.when_kept
    | with_reducible apply State.thermEvent_kept
    | with_reducible apply State.setF_kept
    | with_reducible apply Outcome.Kept.next
    | with_reducible apply Kept.ite
    | with_reducible apply OKept.ite
    | with_reducible refine Kept.ofSnd ?_ (by with_reducible assumption)
    | with_reducible refine Kept.ofSnd2 ?_ (by with_reducible assumption)
    | with_reducible refine Kept.ofFst ?_ (by with_reducible assumption)
    | split
    | dsimp only
    | with_reducible apply State.Kept.therm

theorem State.slotEnd_kept (hp : Has pp 0x80000) (s : State) (u : Nat) (hk : zz.Kept pp s) :
    zz.Kept pp (State.slotEnd s u) := by
  unfold State.slotEnd
  repeat' first
    | with_reducible assumption
    | ((with_reducible refine Has.mono hp ?_); exact rfl)
    | ((with_reducible refine Has.get hp _ ?_); exact rfl)
    | with_reducible intro _
    | with_reducible apply Outcome.Kept.next
    | with_reducible apply Kept.ite
    | with_reducible apply OKept.ite
    | with_reducible refine Kept.ofSnd ?_ (by with_reducible assumption)
    | with_reducible refine Kept.ofSnd2 ?_ (by with_reducible assumption)
    | with_reducible refine Kept.ofFst ?_ (by with_reducible assumption)
    | split
    | dsimp only
    | with_reducible apply State.Kept.therm

theorem execDiodeConversionDone_kept (hp : Has pp 0x228c822b1) (unit_ : Fin 32) (even : Diode) (odd : Diode) (s : State) (hk : zz.Kept pp s) :
    Outcome.Kept pp zz (execDiodeConversionDone unit_ even odd s) := by
  unfold execDiodeConversionDone
  repeat' first
    | with_reducible assumption
    | ((with_reducible refine Has.mono hp ?_); exact rfl)
    | ((with_reducible refine Has.get hp _ ?_); exact rfl)
    | with_reducible intro _
    | with_reducible apply State.forEach_kept
    | with_reducible apply State.setChan_kept
    | with_reducible apply State.convert_kept
    | with_reducible apply State.pairUpdate_kept
    | with_reducible apply State.stackUpdate_kept
    | with_reducible apply State.slotEnd_kept
    | with_reducible apply State.tripCheck_kept
    | with_reducible apply State.warnCheck_kept
    | with_reducible apply Outcome.Kept.next
    | with_reducible apply Kept.ite
    | with_reducible apply OKept.ite
    | with_reducible refine Kept.ofSnd ?_ (by with_reducible assumption)
    | with_reducible refine Kept.ofSnd2 ?_ (by with_reducible assumption)
    | with_reducible refine Kept.ofFst ?_ (by with_reducible assumption)
    | split
    | dsimp only

theorem execThermistorConversionDone_kept (hp : Has pp 0x228c822b1) (ntc : Fin 8) (microvolts : Nat) (s : State) (hk : zz.Kept pp s) :
    Outcome.Kept pp zz (execThermistorConversionDone ntc microvolts s) := by
  unfold execThermistorConversionDone
  repeat' first
    | with_reducible assumption
    | ((with_reducible refine Has.mono hp ?_); exact rfl)
    | ((with_reducible refine Has.get hp _ ?_); exact rfl)
    | with_reducible intro _
    | with_reducible apply State.drawFree_kept
    | with_reducible apply State.convert_kept
    | with_reducible apply State.tripCheck_kept
    | with_reducible apply State.warnCheck_kept
    | with_reducible apply Outcome.Kept.next
    | with_reducible apply Kept.ite
    | with_reducible apply OKept.ite
    | with_reducible refine Kept.ofSnd ?_ (by with_reducible assumption)
    | with_reducible refine Kept.ofSnd2 ?_ (by with_reducible assumption)
    | with_reducible refine Kept.ofFst ?_ (by with_reducible assumption)
    | split
    | dsimp only

theorem execCalibrationApply_kept (hp : Has pp 0x80001) (s : State) (hk : zz.Kept pp s) :
    Outcome.Kept pp zz (execCalibrationApply s) := by
  unfold execCalibrationApply
  repeat' first
    | with_reducible assumption
    | ((with_reducible refine Has.mono hp ?_); exact rfl)
    | ((with_reducible refine Has.get hp _ ?_); exact rfl)
    | with_reducible intro _
    | with_reducible apply State.setF_kept
    | with_reducible apply Outcome.Kept.next
    | with_reducible apply Kept.ite
    | with_reducible apply OKept.ite
    | with_reducible refine Kept.ofSnd ?_ (by with_reducible assumption)
    | with_reducible refine Kept.ofSnd2 ?_ (by with_reducible assumption)
    | with_reducible refine Kept.ofFst ?_ (by with_reducible assumption)
    | split
    | dsimp only
    | with_reducible apply State.Kept.therm

theorem State.privSite_kept (hp : Has pp 0xc00031) (s : State) (x : Nat × Option Nat) (hk : zz.Kept pp s) :
    zz.Kept pp (State.privSite s x) := by
  unfold State.privSite
  repeat' first
    | with_reducible assumption
    | ((with_reducible refine Has.mono hp ?_); exact rfl)
    | ((with_reducible refine Has.get hp _ ?_); exact rfl)
    | with_reducible intro _
    | with_reducible apply State.when_kept
    | with_reducible apply State.thermEvent_kept
    | with_reducible apply State.forEach_kept
    | with_reducible apply State.setF_kept
    | with_reducible apply Outcome.Kept.next
    | with_reducible apply Kept.ite
    | with_reducible apply OKept.ite
    | with_reducible refine Kept.ofSnd ?_ (by with_reducible assumption)
    | with_reducible refine Kept.ofSnd2 ?_ (by with_reducible assumption)
    | with_reducible refine Kept.ofFst ?_ (by with_reducible assumption)
    | split
    | dsimp only

theorem State.bandUpdate_kept (hp : Has pp 0x80001) (s : State) (k : Nat) (hk : zz.Kept pp s) :
    zz.Kept pp (State.bandUpdate s k) := by
  unfold State.bandUpdate
  repeat' first
    | with_reducible assumption
    | ((with_reducible refine Has.mono hp ?_); exact rfl)
    | ((with_reducible refine Has.get hp _ ?_); exact rfl)
    | with_reducible intro _
    | with_reducible apply State.setF_kept
    | with_reducible apply State.when_kept
    | with_reducible apply State.incF_kept
    | with_reducible apply State.bandReturn_kept
    | with_reducible apply Outcome.Kept.next
    | with_reducible apply Kept.ite
    | with_reducible apply OKept.ite
    | with_reducible refine Kept.ofSnd ?_ (by with_reducible assumption)
    | with_reducible refine Kept.ofSnd2 ?_ (by with_reducible assumption)
    | with_reducible refine Kept.ofFst ?_ (by with_reducible assumption)
    | split
    | dsimp only

theorem execBandUpd_kept (hp : Has pp 0x80001) (stack : Fin 6) (s : State) (hk : zz.Kept pp s) :
    Outcome.Kept pp zz (execBandUpd stack s) := by
  unfold execBandUpd
  repeat' first
    | with_reducible assumption
    | ((with_reducible refine Has.mono hp ?_); exact rfl)
    | ((with_reducible refine Has.get hp _ ?_); exact rfl)
    | with_reducible intro _
    | with_reducible apply State.setF_kept
    | with_reducible apply Outcome.Kept.next
    | with_reducible apply Kept.ite
    | with_reducible apply OKept.ite
    | with_reducible refine Kept.ofSnd ?_ (by with_reducible assumption)
    | with_reducible refine Kept.ofSnd2 ?_ (by with_reducible assumption)
    | with_reducible refine Kept.ofFst ?_ (by with_reducible assumption)
    | split
    | dsimp only
    | with_reducible apply State.Kept.therm

theorem State.owedBands_kept (hp : Has pp 0x80001) (s : State) (hk : zz.Kept pp s) :
    zz.Kept pp (State.owedBands s) := by
  unfold State.owedBands
  repeat' first
    | with_reducible assumption
    | ((with_reducible refine Has.mono hp ?_); exact rfl)
    | ((with_reducible refine Has.get hp _ ?_); exact rfl)
    | with_reducible intro _
    | with_reducible apply State.forEach_kept
    | with_reducible apply State.act_kept
    | with_reducible apply execBandUpd_kept
    | with_reducible apply Outcome.Kept.next
    | with_reducible apply Kept.ite
    | with_reducible apply OKept.ite
    | with_reducible refine Kept.ofSnd ?_ (by with_reducible assumption)
    | with_reducible refine Kept.ofSnd2 ?_ (by with_reducible assumption)
    | with_reducible refine Kept.ofFst ?_ (by with_reducible assumption)
    | split
    | dsimp only

theorem execThermalFrame_kept (hp : Has pp 0x218c82031) (s : State) (hk : zz.Kept pp s) :
    Outcome.Kept pp zz (execThermalFrame s) := by
  unfold execThermalFrame
  repeat' first
    | with_reducible assumption
    | ((with_reducible refine Has.mono hp ?_); exact rfl)
    | ((with_reducible refine Has.get hp _ ?_); exact rfl)
    | with_reducible intro _
    | with_reducible apply State.begun_kept
    | with_reducible apply State.owedBands_kept
    | with_reducible apply State.forEach_kept
    | with_reducible apply State.evaluateThrottle_kept
    | with_reducible apply State.bandUpdate_kept
    | with_reducible apply State.privSite_kept
    | with_reducible apply Outcome.Kept.next
    | with_reducible apply Kept.ite
    | with_reducible apply OKept.ite
    | with_reducible refine Kept.ofSnd ?_ (by with_reducible assumption)
    | with_reducible refine Kept.ofSnd2 ?_ (by with_reducible assumption)
    | with_reducible refine Kept.ofFst ?_ (by with_reducible assumption)
    | split
    | dsimp only
    | with_reducible apply State.Kept.therm

theorem State.holdTripFloor_kept (hp : Has pp 0x200000001) (s : State) (c : Nat) (hk : zz.Kept pp s) :
    zz.Kept pp (State.holdTripFloor s c) := by
  unfold State.holdTripFloor
  repeat' first
    | with_reducible assumption
    | ((with_reducible refine Has.mono hp ?_); exact rfl)
    | ((with_reducible refine Has.get hp _ ?_); exact rfl)
    | with_reducible intro _
    | with_reducible apply State.when_kept
    | with_reducible apply State.satF_kept
    | with_reducible apply State.keepLate_kept
    | with_reducible apply Outcome.Kept.next
    | with_reducible apply Kept.ite
    | with_reducible apply OKept.ite
    | with_reducible refine Kept.ofSnd ?_ (by with_reducible assumption)
    | with_reducible refine Kept.ofSnd2 ?_ (by with_reducible assumption)
    | with_reducible refine Kept.ofFst ?_ (by with_reducible assumption)
    | split
    | dsimp only

theorem State.channelsEnable_kept (hp : Has pp 0x200c80031) (s : State) (hk : zz.Kept pp s) :
    zz.Kept pp (State.channelsEnable s) := by
  unfold State.channelsEnable
  repeat' first
    | with_reducible assumption
    | ((with_reducible refine Has.mono hp ?_); exact rfl)
    | ((with_reducible refine Has.get hp _ ?_); exact rfl)
    | with_reducible intro _
    | with_reducible apply State.forEach_kept
    | with_reducible apply State.setChan_kept
    | with_reducible apply State.setF_kept
    | with_reducible apply State.pairUpdate_kept
    | with_reducible apply State.when_kept
    | with_reducible apply State.stackUpdate_kept
    | with_reducible apply State.holdTripFloor_kept
    | with_reducible apply Outcome.Kept.next
    | with_reducible apply Kept.ite
    | with_reducible apply OKept.ite
    | with_reducible refine Kept.ofSnd ?_ (by with_reducible assumption)
    | with_reducible refine Kept.ofSnd2 ?_ (by with_reducible assumption)
    | with_reducible refine Kept.ofFst ?_ (by with_reducible assumption)
    | split
    | dsimp only

theorem execTripFlashAbortDone_kept (hp : Has pp 0x201) (s : State) (hk : zz.Kept pp s) :
    Outcome.Kept pp zz (execTripFlashAbortDone s) := by
  unfold execTripFlashAbortDone
  repeat' first
    | with_reducible assumption
    | ((with_reducible refine Has.mono hp ?_); exact rfl)
    | ((with_reducible refine Has.get hp _ ?_); exact rfl)
    | with_reducible intro _
    | with_reducible apply State.tripProgram_kept
    | with_reducible apply Outcome.Kept.next
    | with_reducible apply Kept.ite
    | with_reducible apply OKept.ite
    | with_reducible refine Kept.ofSnd ?_ (by with_reducible assumption)
    | with_reducible refine Kept.ofSnd2 ?_ (by with_reducible assumption)
    | with_reducible refine Kept.ofFst ?_ (by with_reducible assumption)
    | split
    | dsimp only

theorem execTripRecordProgramDone_kept (hp : Has pp 0x280) (s : State) (hk : zz.Kept pp s) :
    Outcome.Kept pp zz (execTripRecordProgramDone s) := by
  unfold execTripRecordProgramDone
  repeat' first
    | with_reducible assumption
    | ((with_reducible refine Has.mono hp ?_); exact rfl)
    | ((with_reducible refine Has.get hp _ ?_); exact rfl)
    | with_reducible intro _
    | with_reducible apply State.program_kept
    | with_reducible apply Outcome.Kept.next
    | with_reducible apply Kept.ite
    | with_reducible apply OKept.ite
    | with_reducible refine Kept.ofSnd ?_ (by with_reducible assumption)
    | with_reducible refine Kept.ofSnd2 ?_ (by with_reducible assumption)
    | with_reducible refine Kept.ofFst ?_ (by with_reducible assumption)
    | split
    | dsimp only
    | with_reducible apply State.Kept.trip

theorem execTripRecordReadbackDone_kept (hp : Has pp 0x201) (good : Bool) (elapsedUs : Nat) (s : State) (hk : zz.Kept pp s) :
    Outcome.Kept pp zz (execTripRecordReadbackDone good elapsedUs s) := by
  unfold execTripRecordReadbackDone
  repeat' first
    | with_reducible assumption
    | ((with_reducible refine Has.mono hp ?_); exact rfl)
    | ((with_reducible refine Has.get hp _ ?_); exact rfl)
    | with_reducible intro _
    | with_reducible apply State.satF_kept
    | with_reducible apply State.setF_kept
    | with_reducible apply State.when_kept
    | with_reducible apply State.tripProgram_kept
    | with_reducible apply Outcome.Kept.next
    | with_reducible apply Kept.ite
    | with_reducible apply OKept.ite
    | with_reducible refine Kept.ofSnd ?_ (by with_reducible assumption)
    | with_reducible refine Kept.ofSnd2 ?_ (by with_reducible assumption)
    | with_reducible refine Kept.ofFst ?_ (by with_reducible assumption)
    | split
    | dsimp only
    | with_reducible apply State.Kept.trip

theorem execTripPwrOffTimeout_kept (hp : Has pp 0xc08431) (s : State) (hk : zz.Kept pp s) :
    Outcome.Kept pp zz (execTripPwrOffTimeout s) := by
  unfold execTripPwrOffTimeout
  repeat' first
    | with_reducible assumption
    | ((with_reducible refine Has.mono hp ?_); exact rfl)
    | ((with_reducible refine Has.get hp _ ?_); exact rfl)
    | with_reducible intro _
    | with_reducible apply State.powerOff_kept
    | with_reducible apply State.setF_kept
    | with_reducible apply Outcome.Kept.next
    | with_reducible apply Kept.ite
    | with_reducible apply OKept.ite
    | with_reducible refine Kept.ofSnd ?_ (by with_reducible assumption)
    | with_reducible refine Kept.ofSnd2 ?_ (by with_reducible assumption)
    | with_reducible refine Kept.ofFst ?_ (by with_reducible assumption)
    | split
    | dsimp only

end Sys2Proof.Machine
end

