-- ==== Sys2Proof/Laws/KeptChecks.lean ====
section
/-! SUPPORT. What the functions of Sys2Proof/Machine/Checks.lean keep: one lemma for each, by the lemmas of what it calls. -/
namespace Sys2Proof.Machine

variable {pp : Part → Bool} {zz : State}

theorem State.stageWord_kept (hp : Has pp 0x1) (s : State) (bit : Nat) (off : Nat) (w : Nat) (hk : zz.Kept pp s) :
    zz.Kept pp (State.stageWord s bit off w) := by
  unfold State.stageWord
  repeat' first
    | with_reducible assumption
    | ((with_reducible refine Has.mono hp ?_); exact rfl)
    | ((with_reducible refine Has.get hp _ ?_); exact rfl)
    | with_reducible intro _
    | with_reducible apply State.forEach_kept
    | with_reducible apply State.setF_kept
    | with_reducible apply Outcome.Kept.next
    | with_reducible apply Kept.ite
    | with_reducible apply OKept.ite
    | with_reducible refine Kept.ofSnd ?_ (by with_reducible assumption)
    | with_reducible refine Kept.ofSnd2 ?_ (by with_reducible assumption)
    | with_reducible refine Kept.ofFst ?_ (by with_reducible assumption)
    | split
    | dsimp only

theorem State.stageWords_kept (hp : Has pp 0x1) (s : State) (bit : Nat) (sec : List Byte) (at_ : Nat) (offs : List Nat) (hk : zz.Kept pp s) :
    zz.Kept pp (State.stageWords s bit sec at_ offs) := by
  unfold State.stageWords
  repeat' first
    | with_reducible assumption
    | ((with_reducible refine Has.mono hp ?_); exact rfl)
    | ((with_reducible refine Has.get hp _ ?_); exact rfl)
    | with_reducible intro _
    | with_reducible apply State.forEach_kept
    | with_reducible apply State.stageWord_kept
    | with_reducible apply Outcome.Kept.next
    | with_reducible apply Kept.ite
    | with_reducible apply OKept.ite
    | with_reducible refine Kept.ofSnd ?_ (by with_reducible assumption)
    | with_reducible refine Kept.ofSnd2 ?_ (by with_reducible assumption)
    | with_reducible refine Kept.ofFst ?_ (by with_reducible assumption)
    | split
    | dsimp only

theorem State.stageSection_kept (hp : Has pp 0x1) (s : State) (bit : Nat) (sec : List Byte) (header : List Byte) (hk : zz.Kept pp s) :
    zz.Kept pp (State.stageSection s bit sec header) := by
  unfold State.stageSection
  repeat' first
    | with_reducible assumption
    | ((with_reducible refine Has.mono hp ?_); exact rfl)
    | ((with_reducible refine Has.get hp _ ?_); exact rfl)
    | with_reducible intro _
    | with_reducible apply State.forEach_kept
    | with_reducible apply State.setF_kept
    | with_reducible apply State.stageWords_kept
    | with_reducible apply State.when_kept
    | with_reducible apply Outcome.Kept.next
    | with_reducible apply Kept.ite
    | with_reducible apply OKept.ite
    | with_reducible refine Kept.ofSnd ?_ (by with_reducible assumption)
    | with_reducible refine Kept.ofSnd2 ?_ (by with_reducible assumption)
    | with_reducible refine Kept.ofFst ?_ (by with_reducible assumption)
    | split
    | dsimp only

theorem State.loadStartValues_kept (hp : Has pp 0x1) (s : State) (sec : List Byte) (hk : zz.Kept pp s) :
    zz.Kept pp (State.loadStartValues s sec) := by
  unfold State.loadStartValues
  repeat' first
    | with_reducible assumption
    | ((with_reducible refine Has.mono hp ?_); exact rfl)
    | ((with_reducible refine Has.get hp _ ?_); exact rfl)
    | with_reducible intro _
    | with_reducible apply State.forEach_kept
    | with_reducible apply State.setF_kept
    | with_reducible apply Outcome.Kept.next
    | with_reducible apply Kept.ite
    | with_reducible apply OKept.ite
    | with_reducible refine Kept.ofSnd ?_ (by with_reducible assumption)
    | with_reducible refine Kept.ofSnd2 ?_ (by with_reducible assumption)
    | with_reducible refine Kept.ofFst ?_ (by with_reducible assumption)
    | split
    | dsimp only

theorem State.stageAll_kept (hp : Has pp 0x1) (s : State) (bits : List Nat) (bank : List Byte) (profile : List Byte) (hk : zz.Kept pp s) :
    zz.Kept pp (State.stageAll s bits bank profile) := by
  unfold State.stageAll
  repeat' first
    | with_reducible assumption
    | ((with_reducible refine Has.mono hp ?_); exact rfl)
    | ((with_reducible refine Has.get hp _ ?_); exact rfl)
    | with_reducible intro _
    | with_reducible apply State.forEach_kept
    | with_reducible apply State.stageSection_kept
    | with_reducible apply Outcome.Kept.next
    | with_reducible apply Kept.ite
    | with_reducible apply OKept.ite
    | with_reducible refine Kept.ofSnd ?_ (by with_reducible assumption)
    | with_reducible refine Kept.ofSnd2 ?_ (by with_reducible assumption)
    | with_reducible refine Kept.ofFst ?_ (by with_reducible assumption)
    | split
    | dsimp only

theorem State.passCheck_kept (hp : Has pp 0x100) (s : State) (bit : Nat) (hk : zz.Kept pp s) :
    zz.Kept pp (State.passCheck s bit) := by
  unfold State.passCheck
  repeat' first
    | with_reducible assumption
    | ((with_reducible refine Has.mono hp ?_); exact rfl)
    | ((with_reducible refine Has.get hp _ ?_); exact rfl)
    | with_reducible intro _
    | with_reducible apply Outcome.Kept.next
    | with_reducible apply Kept.ite
    | with_reducible apply OKept.ite
    | with_reducible refine Kept.ofSnd ?_ (by with_reducible assumption)
    | with_reducible refine Kept.ofSnd2 ?_ (by with_reducible assumption)
    | with_reducible refine Kept.ofFst ?_ (by with_reducible assumption)
    | split
    | dsimp only
    | with_reducible apply State.Kept.boot

theorem State.settlePass_kept (hp : Has pp 0x100) (s : State) (hk : zz.Kept pp s) :
    zz.Kept pp (State.settlePass s) := by
  unfold State.settlePass
  repeat' first
    | with_reducible assumption
    | ((with_reducible refine Has.mono hp ?_); exact rfl)
    | ((with_reducible refine Has.get hp _ ?_); exact rfl)
    | with_reducible intro _
    | with_reducible apply Outcome.Kept.next
    | with_reducible apply Kept.ite
    | with_reducible apply OKept.ite
    | with_reducible refine Kept.ofSnd ?_ (by with_reducible assumption)
    | with_reducible refine Kept.ofSnd2 ?_ (by with_reducible assumption)
    | with_reducible refine Kept.ofFst ?_ (by with_reducible assumption)
    | split
    | dsimp only
    | with_reducible apply State.Kept.boot

theorem State.enableUnit_kept (hp : Has pp 0x200de0431) (s : State) (bit : Nat) (first : Bool) (hk : zz.Kept pp s) :
    zz.Kept pp (State.enableUnit s bit first) := by
  unfold State.enableUnit
  repeat' first
    | with_reducible assumption
    | ((with_reducible refine Has.mono hp ?_); exact rfl)
    | ((with_reducible refine Has.get hp _ ?_); exact rfl)
    | with_reducible intro _
    | with_reducible apply State.modelEnable_kept
    | with_reducible apply State.channelsEnable_kept
    | with_reducible apply State.when_kept
    | with_reducible apply State.railStartBegin_kept
    | with_reducible apply State.setF_kept
    | with_reducible apply State.loadLive_kept
    | with_reducible apply State.capInit_kept
    | with_reducible apply State.portEnable_kept
    | with_reducible apply State.linkStart_kept
    | with_reducible apply Outcome.Kept.next
    | with_reducible apply Kept.ite
    | with_reducible apply OKept.ite
    | with_reducible refine Kept.ofSnd ?_ (by with_reducible assumption)
    | with_reducible refine Kept.ofSnd2 ?_ (by with_reducible assumption)
    | with_reducible refine Kept.ofFst ?_ (by with_reducible assumption)
    | split
    | dsimp only

theorem State.showLimits_kept (hp : Has pp 0x80001) (s : State) (p : List Byte) (hk : zz.Kept pp s) :
    zz.Kept pp (State.showLimits s p) := by
  unfold State.showLimits
  repeat' first
    | with_reducible assumption
    | ((with_reducible refine Has.mono hp ?_); exact rfl)
    | ((with_reducible refine Has.get hp _ ?_); exact rfl)
    | with_reducible intro _
    | with_reducible apply State.setF_kept
    | with_reducible apply Outcome.Kept.next
    | with_reducible apply Kept.ite
    | with_reducible apply OKept.ite
    | with_reducible refine Kept.ofSnd ?_ (by with_reducible assumption)
    | with_reducible refine Kept.ofSnd2 ?_ (by with_reducible assumption)
    | with_reducible refine Kept.ofFst ?_ (by with_reducible assumption)
    | split
    | dsimp only
    | with_reducible apply State.Kept.therm

theorem State.enableBit_kept (hp : Has pp 0x1) (s : State) (bit : Nat) (hk : zz.Kept pp s) :
    zz.Kept pp (State.enableBit s bit) := by
  unfold State.enableBit
  repeat' first
    | with_reducible assumption
    | ((with_reducible refine Has.mono hp ?_); exact rfl)
    | ((with_reducible refine Has.get hp _ ?_); exact rfl)
    | with_reducible intro _
    | with_reducible apply State.setF_kept
    | with_reducible apply Outcome.Kept.next
    | with_reducible apply Kept.ite
    | with_reducible apply OKept.ite
    | with_reducible refine Kept.ofSnd ?_ (by with_reducible assumption)
    | with_reducible refine Kept.ofSnd2 ?_ (by with_reducible assumption)
    | with_reducible refine Kept.ofFst ?_ (by with_reducible assumption)
    | split
    | dsimp only

theorem State.setUpd_kept (hp : Has pp 0x400061) (s : State) (st : Nat) (hk : zz.Kept pp s) :
    zz.Kept pp (State.setUpd s st) := by
  unfold State.setUpd
  repeat' first
    | with_reducible assumption
    | ((with_reducible refine Has.mono hp ?_); exact rfl)
    | ((with_reducible refine Has.get hp _ ?_); exact rfl)
    | with_reducible intro _
    | with_reducible apply State.trace_kept
    | with_reducible apply State.setF_kept
    | with_reducible apply State.notify_kept
    | with_reducible apply Outcome.Kept.next
    | with_reducible apply Kept.ite
    | with_reducible apply OKept.ite
    | with_reducible refine Kept.ofSnd ?_ (by with_reducible assumption)
    | with_reducible refine Kept.ofSnd2 ?_ (by with_reducible assumption)
    | with_reducible refine Kept.ofFst ?_ (by with_reducible assumption)
    | split
    | dsimp only

theorem State.endUpd_kept (hp : Has pp 0x4400061) (s : State) (status : Nat) (reason : Nat) (hk : zz.Kept pp s) :
    zz.Kept pp (State.endUpd s status reason) := by
  unfold State.endUpd
  repeat' first
    | with_reducible assumption
    | ((with_reducible refine Has.mono hp ?_); exact rfl)
    | ((with_reducible refine Has.get hp _ ?_); exact rfl)
    | with_reducible intro _
    | with_reducible apply State.setF_kept
    | with_reducible apply State.when_kept
    | with_reducible apply State.trace_kept
    | with_reducible apply State.log_kept
    | with_reducible apply State.setUpd_kept
    | with_reducible apply Outcome.Kept.next
    | with_reducible apply Kept.ite
    | with_reducible apply OKept.ite
    | with_reducible refine Kept.ofSnd ?_ (by with_reducible assumption)
    | with_reducible refine Kept.ofSnd2 ?_ (by with_reducible assumption)
    | with_reducible refine Kept.ofFst ?_ (by with_reducible assumption)
    | split
    | dsimp only
    | with_reducible apply State.Kept.update

theorem State.answerUpd_kept (hp : Has pp 0x400061) (s : State) (status : Nat) (reason : Nat) (hk : zz.Kept pp s) :
    zz.Kept pp (State.answerUpd s status reason) := by
  unfold State.answerUpd
  repeat' first
    | with_reducible assumption
    | ((with_reducible refine Has.mono hp ?_); exact rfl)
    | ((with_reducible refine Has.get hp _ ?_); exact rfl)
    | with_reducible intro _
    | with_reducible apply State.reply_kept
    | with_reducible apply State.mapMail_kept
    | with_reducible apply Outcome.Kept.next
    | with_reducible apply Kept.ite
    | with_reducible apply OKept.ite
    | with_reducible refine Kept.ofSnd ?_ (by with_reducible assumption)
    | with_reducible refine Kept.ofSnd2 ?_ (by with_reducible assumption)
    | with_reducible refine Kept.ofFst ?_ (by with_reducible assumption)
    | split
    | dsimp only

theorem execGctlEnableWrite_kept (hp : Has pp 0x101) (value : Word) (s : State) (hk : zz.Kept pp s) :
    Outcome.Kept pp zz (execGctlEnableWrite value s) := by
  unfold execGctlEnableWrite
  repeat' first
    | with_reducible assumption
    | ((with_reducible refine Has.mono hp ?_); exact rfl)
    | ((with_reducible refine Has.get hp _ ?_); exact rfl)
    | with_reducible intro _
    | with_reducible apply State.setF_kept
    | with_reducible apply Outcome.Kept.next
    | with_reducible apply Kept.ite
    | with_reducible apply OKept.ite
    | with_reducible refine Kept.ofSnd ?_ (by with_reducible assumption)
    | with_reducible refine Kept.ofSnd2 ?_ (by with_reducible assumption)
    | with_reducible refine Kept.ofFst ?_ (by with_reducible assumption)
    | split
    | dsimp only
    | with_reducible apply State.Kept.boot

theorem State.restoreStaged_kept (hp : Has pp 0x101) (s : State) (bits : List Nat) (hk : zz.Kept pp s) :
    zz.Kept pp (State.restoreStaged s bits) := by
  unfold State.restoreStaged
  repeat' first
    | with_reducible assumption
    | ((with_reducible refine Has.mono hp ?_); exact rfl)
    | ((with_reducible refine Has.get hp _ ?_); exact rfl)
    | with_reducible apply Kept.foldl
    | with_reducible apply Kept.foldlFst
    | with_reducible apply Kept.foldlSnd
    | with_reducible intro _
    | with_reducible apply Store.write_wf
    | with_reducible apply Store.foldl_write_wf
    | with_reducible apply Store.filter_wf
    | with_reducible apply Outcome.Kept.next
    | with_reducible apply Kept.ite
    | with_reducible apply OKept.ite
    | with_reducible refine Kept.ofSnd ?_ (by with_reducible assumption)
    | with_reducible refine Kept.ofSnd2 ?_ (by with_reducible assumption)
    | with_reducible refine Kept.ofFst ?_ (by with_reducible assumption)
    | split
    | dsimp only
    | with_reducible apply State.Kept.fields_boot

theorem State.endTakeUp_kept (hp : Has pp 0x4400061) (s : State) (status : Nat) (reason : Nat) (hk : zz.Kept pp s) :
    zz.Kept pp (State.endTakeUp s status reason) := by
  unfold State.endTakeUp
  repeat' first
    | with_reducible assumption
    | ((with_reducible refine Has.mono hp ?_); exact rfl)
    | ((with_reducible refine Has.get hp _ ?_); exact rfl)
    | with_reducible intro _
    | with_reducible apply State.endUpd_kept
    | with_reducible apply State.answerUpd_kept
    | with_reducible apply Outcome.Kept.next
    | with_reducible apply Kept.ite
    | with_reducible apply OKept.ite
    | with_reducible refine Kept.ofSnd ?_ (by with_reducible assumption)
    | with_reducible refine Kept.ofSnd2 ?_ (by with_reducible assumption)
    | with_reducible refine Kept.ofFst ?_ (by with_reducible assumption)
    | split
    | dsimp only
    | with_reducible apply State.Kept.update

theorem State.endChecks_kept (hp : Has pp 0x4400161) (s : State) (reason : Nat) (hk : zz.Kept pp s) :
    zz.Kept pp (State.endChecks s reason) := by
  unfold State.endChecks
  repeat' first
    | with_reducible assumption
    | ((with_reducible refine Has.mono hp ?_); exact rfl)
    | ((with_reducible refine Has.get hp _ ?_); exact rfl)
    | with_reducible intro _
    | with_reducible apply State.setF_kept
    | with_reducible apply State.settlePass_kept
    | with_reducible apply State.restoreStaged_kept
    | with_reducible apply State.reply_kept
    | with_reducible apply State.mapMail_kept
    | with_reducible apply State.forEach_kept
    | with_reducible apply State.enableBit_kept
    | with_reducible apply State.endTakeUp_kept
    | with_reducible apply Outcome.Kept.next
    | with_reducible apply Kept.ite
    | with_reducible apply OKept.ite
    | with_reducible refine Kept.ofSnd ?_ (by with_reducible assumption)
    | with_reducible refine Kept.ofSnd2 ?_ (by with_reducible assumption)
    | with_reducible refine Kept.ofFst ?_ (by with_reducible assumption)
    | split
    | dsimp only
    | with_reducible apply State.Kept.boot

theorem State.showBankProfiles_kept (hp : Has pp 0x1) (s : State) (bank : List Byte) (hk : zz.Kept pp s) :
    zz.Kept pp (State.showBankProfiles s bank) := by
  unfold State.showBankProfiles
  repeat' first
    | with_reducible assumption
    | ((with_reducible refine Has.mono hp ?_); exact rfl)
    | ((with_reducible refine Has.get hp _ ?_); exact rfl)
    | with_reducible intro _
    | with_reducible apply State.setF_kept
    | with_reducible apply Outcome.Kept.next
    | with_reducible apply Kept.ite
    | with_reducible apply OKept.ite
    | with_reducible refine Kept.ofSnd ?_ (by with_reducible assumption)
    | with_reducible refine Kept.ofSnd2 ?_ (by with_reducible assumption)
    | with_reducible refine Kept.ofFst ?_ (by with_reducible assumption)
    | split
    | dsimp only

theorem State.takeUp_kept (hp : Has pp 0x4400161) (s : State) (hk : zz.Kept pp s) :
    zz.Kept pp (State.takeUp s) := by
  unfold State.takeUp
  repeat' first
    | with_reducible assumption
    | ((with_reducible refine Has.mono hp ?_); exact rfl)
    | ((with_reducible refine Has.get hp _ ?_); exact rfl)
    | with_reducible apply Kept.foldl
    | with_reducible apply Kept.foldlFst
    | with_reducible apply Kept.foldlSnd
    | with_reducible intro _
    | with_reducible apply State.stageAll_kept
    | with_reducible apply State.when_kept
    | with_reducible apply State.setF_kept
    | with_reducible apply State.endTakeUp_kept
    | with_reducible apply Outcome.Kept.next
    | with_reducible apply Kept.ite
    | with_reducible apply OKept.ite
    | with_reducible refine Kept.ofSnd ?_ (by with_reducible assumption)
    | with_reducible refine Kept.ofSnd2 ?_ (by with_reducible assumption)
    | with_reducible refine Kept.ofFst ?_ (by with_reducible assumption)
    | split
    | dsimp only
    | with_reducible apply State.Kept.update
    | with_reducible apply State.Kept.boot_update

theorem execConsistencyCheckDone_kept (hp : Has pp 0x4400161) (s : State) (hk : zz.Kept pp s) :
    Outcome.Kept pp zz (execConsistencyCheckDone s) := by
  unfold execConsistencyCheckDone
  repeat' first
    | with_reducible assumption
    | ((with_reducible refine Has.mono hp ?_); exact rfl)
    | ((with_reducible refine Has.get hp _ ?_); exact rfl)
    | with_reducible intro _
    | with_reducible apply State.setF_kept
    | with_reducible apply State.takeUp_kept
    | with_reducible apply State.endChecks_kept
    | with_reducible apply State.passCheck_kept
    | with_reducible apply Outcome.Kept.next
    | with_reducible apply Kept.ite
    | with_reducible apply OKept.ite
    | with_reducible refine Kept.ofSnd ?_ (by with_reducible assumption)
    | with_reducible refine Kept.ofSnd2 ?_ (by with_reducible assumption)
    | with_reducible refine Kept.ofFst ?_ (by with_reducible assumption)
    | split
    | dsimp only
    | with_reducible apply State.Kept.boot

theorem State.switchProfile_kept (hp : Has pp 0x101) (s : State) (i : Nat) (hk : zz.Kept pp s) :
    zz.Kept pp (State.switchProfile s i) := by
  unfold State.switchProfile
  repeat' first
    | with_reducible assumption
    | ((with_reducible refine Has.mono hp ?_); exact rfl)
    | ((with_reducible refine Has.get hp _ ?_); exact rfl)
    | with_reducible intro _
    | with_reducible apply State.setF_kept
    | with_reducible apply State.when_kept
    | with_reducible apply State.showOwnProfile_kept
    | with_reducible apply Outcome.Kept.next
    | with_reducible apply Kept.ite
    | with_reducible apply OKept.ite
    | with_reducible refine Kept.ofSnd ?_ (by with_reducible assumption)
    | with_reducible refine Kept.ofSnd2 ?_ (by with_reducible assumption)
    | with_reducible refine Kept.ofFst ?_ (by with_reducible assumption)
    | split
    | dsimp only
    | with_reducible apply State.Kept.boot

theorem State.takeMerged_kept (hp : Has pp 0x101) (s : State) (hk : zz.Kept pp s) :
    zz.Kept pp (State.takeMerged s) := by
  unfold State.takeMerged
  repeat' first
    | with_reducible assumption
    | ((with_reducible refine Has.mono hp ?_); exact rfl)
    | ((with_reducible refine Has.get hp _ ?_); exact rfl)
    | with_reducible intro _
    | with_reducible apply State.when_kept
    | with_reducible apply State.setF_kept
    | with_reducible apply State.showOwnProfile_kept
    | with_reducible apply Outcome.Kept.next
    | with_reducible apply Kept.ite
    | with_reducible apply OKept.ite
    | with_reducible refine Kept.ofSnd ?_ (by with_reducible assumption)
    | with_reducible refine Kept.ofSnd2 ?_ (by with_reducible assumption)
    | with_reducible refine Kept.ofFst ?_ (by with_reducible assumption)
    | split
    | dsimp only
    | with_reducible apply State.Kept.boot

theorem State.railApply_kept (hp : Has pp 0x200c00831) (s : State) (old : List (Nat × Nat)) (hk : zz.Kept pp s) :
    zz.Kept pp (State.railApply s old) := by
  unfold State.railApply
  repeat' first
    | with_reducible assumption
    | ((with_reducible refine Has.mono hp ?_); exact rfl)
    | ((with_reducible refine Has.get hp _ ?_); exact rfl)
    | with_reducible intro _
    | with_reducible apply State.forEach_kept
    | with_reducible apply State.when_kept
    | with_reducible apply State.followLimit_kept
    | with_reducible apply State.holdLoadLine_kept
    | with_reducible apply State.recomputePerm_kept
    | with_reducible apply Outcome.Kept.next
    | with_reducible apply Kept.ite
    | with_reducible apply OKept.ite
    | with_reducible refine Kept.ofSnd ?_ (by with_reducible assumption)
    | with_reducible refine Kept.ofSnd2 ?_ (by with_reducible assumption)
    | with_reducible refine Kept.ofFst ?_ (by with_reducible assumption)
    | split
    | dsimp only

theorem execStagedApply_kept (hp : Has pp 0x204de0d73) (s : State) (hk : zz.Kept pp s) :
    Outcome.Kept pp zz (execStagedApply s) := by
  unfold execStagedApply
  repeat' first
    | with_reducible assumption
    | ((with_reducible refine Has.mono hp ?_); exact rfl)
    | ((with_reducible refine Has.get hp _ ?_); exact rfl)
    | with_reducible apply Kept.foldl
    | with_reducible apply Kept.foldlFst
    | with_reducible apply Kept.foldlSnd
    | with_reducible intro _
    | with_reducible apply State.switchProfile_kept
    | with_reducible apply State.takeMerged_kept
    | with_reducible apply State.when_kept
    | with_reducible apply State.railApply_kept
    | with_reducible apply State.showLimits_kept
    | with_reducible apply State.forEach_kept
    | with_reducible apply State.enableBit_kept
    | with_reducible apply State.enableUnit_kept
    | with_reducible apply State.setF_kept
    | with_reducible apply State.endTakeUp_kept
    | with_reducible apply State.takeUp_kept
    | with_reducible apply State.log_kept
    | with_reducible apply State.reply_kept
    | with_reducible apply State.mapMail_kept
    | with_reducible apply Store.write_wf
    | with_reducible apply Store.foldl_write_wf
    | with_reducible apply Store.filter_wf
    | with_reducible apply Outcome.Kept.next
    | with_reducible apply Kept.ite
    | with_reducible apply OKept.ite
    | with_reducible refine Kept.ofSnd ?_ (by with_reducible assumption)
    | with_reducible refine Kept.ofSnd2 ?_ (by with_reducible assumption)
    | with_reducible refine Kept.ofFst ?_ (by with_reducible assumption)
    | split
    | dsimp only
    | with_reducible apply State.Kept.boot
    | with_reducible apply State.Kept.applied

end Sys2Proof.Machine
end

