-- ==== Sys2Proof/Laws/KeptBoot.lean ====
section
/-! SUPPORT. What the functions of Sys2Proof/Machine/Boot.lean keep: one lemma for each, by the lemmas of what it calls. -/
namespace Sys2Proof.Machine

variable {pp : Part → Bool} {zz : State}

theorem State.bootStep_kept (hp : Has pp 0x1) (s : State) (n : Nat) (f : State → State) (hf : ∀ (t : State), zz.Kept pp t → zz.Kept pp (f t)) (hk : zz.Kept pp s) :
    Outcome.Kept pp zz (State.bootStep s n f) := by
  unfold State.bootStep
  repeat' first
    | with_reducible assumption
    | ((with_reducible refine Has.mono hp ?_); exact rfl)
    | ((with_reducible refine Has.get hp _ ?_); exact rfl)
    | with_reducible intro _
    | with_reducible apply hf
    | with_reducible apply State.setF_kept
    | with_reducible apply Outcome.Kept.next
    | with_reducible apply Kept.ite
    | with_reducible apply OKept.ite
    | with_reducible refine Kept.ofSnd ?_ (by with_reducible assumption)
    | with_reducible refine Kept.ofSnd2 ?_ (by with_reducible assumption)
    | with_reducible refine Kept.ofFst ?_ (by with_reducible assumption)
    | split
    | dsimp only

theorem State.bootOn_kept (hp : Has pp 0x100) (s : State) (n : Nat) (hk : zz.Kept pp s) :
    zz.Kept pp (State.bootOn s n) := by
  unfold State.bootOn
  repeat' first
    | with_reducible assumption
    | ((with_reducible refine Has.mono hp ?_); exact rfl)
    | ((with_reducible refine Has.get hp _ ?_); exact rfl)
    | with_reducible intro _
    | with_reducible apply Outcome.Kept.next
    | with_reducible apply Kept.ite
    | with_reducible apply OKept.ite
    | with_reducible refine Kept.ofSnd ?_ (by with_reducible assumption)
    | with_reducible refine Kept.ofSnd2 ?_ (by with_reducible assumption)
    | with_reducible refine Kept.ofFst ?_ (by with_reducible assumption)
    | split
    | dsimp only
    | with_reducible apply State.Kept.boot

theorem State.reason_kept (hp : Has pp 0x1) (s : State) (code : Nat) (hk : zz.Kept pp s) :
    zz.Kept pp (State.reason s code) := by
  unfold State.reason
  repeat' first
    | with_reducible assumption
    | ((with_reducible refine Has.mono hp ?_); exact rfl)
    | ((with_reducible refine Has.get hp _ ?_); exact rfl)
    | with_reducible intro _
    | with_reducible apply State.setF_kept
    | with_reducible apply Outcome.Kept.next
    | with_reducible apply Kept.ite
    | with_reducible apply OKept.ite
    | with_reducible refine Kept.ofSnd ?_ (by with_reducible assumption)
    | with_reducible refine Kept.ofSnd2 ?_ (by with_reducible assumption)
    | with_reducible refine Kept.ofFst ?_ (by with_reducible assumption)
    | split
    | dsimp only

theorem State.bootHalt_kept (hp : Has pp 0x800151) (s : State) (code : Nat) (hk : zz.Kept pp s) :
    zz.Kept pp (State.bootHalt s code) := by
  unfold State.bootHalt
  repeat' first
    | with_reducible assumption
    | ((with_reducible refine Has.mono hp ?_); exact rfl)
    | ((with_reducible refine Has.get hp _ ?_); exact rfl)
    | with_reducible intro _
    | with_reducible apply State.settleFleet_kept
    | with_reducible apply State.bootOn_kept
    | with_reducible apply State.setF_kept
    | with_reducible apply State.reason_kept
    | with_reducible apply Outcome.Kept.next
    | with_reducible apply Kept.ite
    | with_reducible apply OKept.ite
    | with_reducible refine Kept.ofSnd ?_ (by with_reducible assumption)
    | with_reducible refine Kept.ofSnd2 ?_ (by with_reducible assumption)
    | with_reducible refine Kept.ofFst ?_ (by with_reducible assumption)
    | split
    | dsimp only

theorem State.selectFlash_kept (hp : Has pp 0x80) (s : State) (f : Sfdp) (hk : zz.Kept pp s) :
    zz.Kept pp (State.selectFlash s f) := by
  unfold State.selectFlash
  repeat' first
    | with_reducible assumption
    | ((with_reducible refine Has.mono hp ?_); exact rfl)
    | ((with_reducible refine Has.get hp _ ?_); exact rfl)
    | with_reducible intro _
    | with_reducible apply Outcome.Kept.next
    | with_reducible apply Kept.ite
    | with_reducible apply OKept.ite
    | with_reducible refine Kept.ofSnd ?_ (by with_reducible assumption)
    | with_reducible refine Kept.ofSnd2 ?_ (by with_reducible assumption)
    | with_reducible refine Kept.ofFst ?_ (by with_reducible assumption)
    | split
    | dsimp only
    | with_reducible apply State.Kept.flash

theorem execBootStep1_kept (hp : Has pp 0x8001d1) (sfdp : Sfdp) (s : State) (hk : zz.Kept pp s) :
    Outcome.Kept pp zz (execBootStep1 sfdp s) := by
  unfold execBootStep1
  repeat' first
    | with_reducible assumption
    | ((with_reducible refine Has.mono hp ?_); exact rfl)
    | ((with_reducible refine Has.get hp _ ?_); exact rfl)
    | with_reducible intro _
    | with_reducible apply State.bootStep_kept
    | with_reducible apply State.reason_kept
    | with_reducible apply State.bootHalt_kept
    | with_reducible apply State.selectFlash_kept
    | with_reducible apply State.bootOn_kept
    | with_reducible apply Outcome.Kept.next
    | with_reducible apply Kept.ite
    | with_reducible apply OKept.ite
    | with_reducible refine Kept.ofSnd ?_ (by with_reducible assumption)
    | with_reducible refine Kept.ofSnd2 ?_ (by with_reducible assumption)
    | with_reducible refine Kept.ofFst ?_ (by with_reducible assumption)
    | split
    | dsimp only

theorem State.quadRead_kept (hp : Has pp 0x81) (s : State) (hk : zz.Kept pp s) :
    zz.Kept pp (State.quadRead s) := by
  unfold State.quadRead
  repeat' first
    | with_reducible assumption
    | ((with_reducible refine Has.mono hp ?_); exact rfl)
    | ((with_reducible refine Has.get hp _ ?_); exact rfl)
    | with_reducible intro _
    | with_reducible apply State.when_kept
    | with_reducible apply State.setF_kept
    | with_reducible apply Outcome.Kept.next
    | with_reducible apply Kept.ite
    | with_reducible apply OKept.ite
    | with_reducible refine Kept.ofSnd ?_ (by with_reducible assumption)
    | with_reducible refine Kept.ofSnd2 ?_ (by with_reducible assumption)
    | with_reducible refine Kept.ofFst ?_ (by with_reducible assumption)
    | split
    | dsimp only
    | with_reducible apply State.Kept.flash

theorem execBootStep2_kept (hp : Has pp 0x8001d1) (s : State) (hk : zz.Kept pp s) :
    Outcome.Kept pp zz (execBootStep2 s) := by
  unfold execBootStep2
  repeat' first
    | with_reducible assumption
    | ((with_reducible refine Has.mono hp ?_); exact rfl)
    | ((with_reducible refine Has.get hp _ ?_); exact rfl)
    | with_reducible intro _
    | with_reducible apply State.bootStep_kept
    | with_reducible apply State.bootHalt_kept
    | with_reducible apply State.bootOn_kept
    | with_reducible apply State.quadRead_kept
    | with_reducible apply Outcome.Kept.next
    | with_reducible apply Kept.ite
    | with_reducible apply OKept.ite
    | with_reducible refine Kept.ofSnd ?_ (by with_reducible assumption)
    | with_reducible refine Kept.ofSnd2 ?_ (by with_reducible assumption)
    | with_reducible refine Kept.ofFst ?_ (by with_reducible assumption)
    | split
    | dsimp only
    | with_reducible apply State.Kept.boot

theorem State.useCal_kept (hp : Has pp 0x101) (s : State) (i : Nat) (hk : zz.Kept pp s) :
    zz.Kept pp (State.useCal s i) := by
  unfold State.useCal
  repeat' first
    | with_reducible assumption
    | ((with_reducible refine Has.mono hp ?_); exact rfl)
    | ((with_reducible refine Has.get hp _ ?_); exact rfl)
    | with_reducible intro _
    | with_reducible apply State.setF_kept
    | with_reducible apply Outcome.Kept.next
    | with_reducible apply Kept.ite
    | with_reducible apply OKept.ite
    | with_reducible refine Kept.ofSnd ?_ (by with_reducible assumption)
    | with_reducible refine Kept.ofSnd2 ?_ (by with_reducible assumption)
    | with_reducible refine Kept.ofFst ?_ (by with_reducible assumption)
    | split
    | dsimp only
    | with_reducible apply State.Kept.boot

theorem execBootStep3_kept (hp : Has pp 0x8c00171) (s : State) (hk : zz.Kept pp s) :
    Outcome.Kept pp zz (execBootStep3 s) := by
  unfold execBootStep3
  repeat' first
    | with_reducible assumption
    | ((with_reducible refine Has.mono hp ?_); exact rfl)
    | ((with_reducible refine Has.get hp _ ?_); exact rfl)
    | with_reducible intro _
    | with_reducible apply State.bootStep_kept
    | with_reducible apply State.bootHalt_kept
    | with_reducible apply State.useCal_kept
    | with_reducible apply State.when_kept
    | with_reducible apply State.forEach_kept
    | with_reducible apply State.setPhaseState_kept
    | with_reducible apply State.bootOn_kept
    | with_reducible apply Outcome.Kept.next
    | with_reducible apply Kept.ite
    | with_reducible apply OKept.ite
    | with_reducible refine Kept.ofSnd ?_ (by with_reducible assumption)
    | with_reducible refine Kept.ofSnd2 ?_ (by with_reducible assumption)
    | with_reducible refine Kept.ofFst ?_ (by with_reducible assumption)
    | split
    | dsimp only

theorem execBootStep4_kept (hp : Has pp 0x800151) (pllLocked : Bool) (s : State) (hk : zz.Kept pp s) :
    Outcome.Kept pp zz (execBootStep4 pllLocked s) := by
  unfold execBootStep4
  repeat' first
    | with_reducible assumption
    | ((with_reducible refine Has.mono hp ?_); exact rfl)
    | ((with_reducible refine Has.get hp _ ?_); exact rfl)
    | with_reducible intro _
    | with_reducible apply State.bootStep_kept
    | with_reducible apply State.bootHalt_kept
    | with_reducible apply State.setF_kept
    | with_reducible apply State.bootOn_kept
    | with_reducible apply Outcome.Kept.next
    | with_reducible apply Kept.ite
    | with_reducible apply OKept.ite
    | with_reducible refine Kept.ofSnd ?_ (by with_reducible assumption)
    | with_reducible refine Kept.ofSnd2 ?_ (by with_reducible assumption)
    | with_reducible refine Kept.ofFst ?_ (by with_reducible assumption)
    | split
    | dsimp only

theorem State.bankCodes_kept (hp : Has pp 0x1) (s : State) (revoked : Nat) (hk : zz.Kept pp s) :
    zz.Kept pp (State.bankCodes s revoked) := by
  unfold State.bankCodes
  repeat' first
    | with_reducible assumption
    | ((with_reducible refine Has.mono hp ?_); exact rfl)
    | ((with_reducible refine Has.get hp _ ?_); exact rfl)
    | with_reducible intro _
    | with_reducible apply State.forEach_kept
    | with_reducible apply State.reason_kept
    | with_reducible apply Outcome.Kept.next
    | with_reducible apply Kept.ite
    | with_reducible apply OKept.ite
    | with_reducible refine Kept.ofSnd ?_ (by with_reducible assumption)
    | with_reducible refine Kept.ofSnd2 ?_ (by with_reducible assumption)
    | with_reducible refine Kept.ofFst ?_ (by with_reducible assumption)
    | split
    | dsimp only

theorem State.tryBanks_kept (hp : Has pp 0x1) (s : State) (revoked : Nat) (l : List Nat) (hk : zz.Kept pp s) :
    zz.Kept pp (s.tryBanks revoked l).2 := by
  induction l generalizing s with
  | nil => exact hk
  | cons i l ih =>
    unfold State.tryBanks
    split
    · exact hk
    · exact ih _ (State.reason_kept (Has.mono hp rfl) s _ hk)

theorem execBootStep5_kept (hp : Has pp 0x800151) (s : State) (hk : zz.Kept pp s) :
    Outcome.Kept pp zz (execBootStep5 s) := by
  unfold execBootStep5
  repeat' first
    | with_reducible assumption
    | ((with_reducible refine Has.mono hp ?_); exact rfl)
    | ((with_reducible refine Has.get hp _ ?_); exact rfl)
    | with_reducible intro _
    | with_reducible apply State.bootStep_kept
    | with_reducible apply State.bankCodes_kept
    | with_reducible apply State.setF_kept
    | with_reducible apply State.tryBanks_kept
    | with_reducible apply State.bootHalt_kept
    | with_reducible apply State.bootOn_kept
    | with_reducible apply State.flagF_kept
    | with_reducible apply Outcome.Kept.next
    | with_reducible apply Kept.ite
    | with_reducible apply OKept.ite
    | with_reducible refine Kept.ofSnd ?_ (by with_reducible assumption)
    | with_reducible refine Kept.ofSnd2 ?_ (by with_reducible assumption)
    | with_reducible refine Kept.ofFst ?_ (by with_reducible assumption)
    | split
    | dsimp only
    | with_reducible apply State.Kept.boot

theorem State.bootImage_kept (hp : Has pp 0x4400101) (s : State) (i : Nat) (hk : zz.Kept pp s) :
    zz.Kept pp (State.bootImage s i) := by
  unfold State.bootImage
  repeat' first
    | with_reducible assumption
    | ((with_reducible refine Has.mono hp ?_); exact rfl)
    | ((with_reducible refine Has.get hp _ ?_); exact rfl)
    | with_reducible intro _
    | with_reducible apply State.useBank_kept
    | with_reducible apply State.showRelease_kept
    | with_reducible apply State.followDebug_kept
    | with_reducible apply State.bootOn_kept
    | with_reducible apply State.eccUse_kept
    | with_reducible apply State.forEach_kept
    | with_reducible apply State.showLoaded_kept
    | with_reducible apply Outcome.Kept.next
    | with_reducible apply Kept.ite
    | with_reducible apply OKept.ite
    | with_reducible refine Kept.ofSnd ?_ (by with_reducible assumption)
    | with_reducible refine Kept.ofSnd2 ?_ (by with_reducible assumption)
    | with_reducible refine Kept.ofFst ?_ (by with_reducible assumption)
    | split
    | dsimp only
    | with_reducible apply State.Kept.boot

theorem execBootStep6_kept (hp : Has pp 0x4c00151) (s : State) (hk : zz.Kept pp s) :
    Outcome.Kept pp zz (execBootStep6 s) := by
  unfold execBootStep6
  repeat' first
    | with_reducible assumption
    | ((with_reducible refine Has.mono hp ?_); exact rfl)
    | ((with_reducible refine Has.get hp _ ?_); exact rfl)
    | with_reducible intro _
    | with_reducible apply State.bootStep_kept
    | with_reducible apply State.bootImage_kept
    | with_reducible apply State.reason_kept
    | with_reducible apply State.bootHalt_kept
    | with_reducible apply State.tryBanks_kept
    | with_reducible apply State.setF_kept
    | with_reducible apply Outcome.Kept.next
    | with_reducible apply Kept.ite
    | with_reducible apply OKept.ite
    | with_reducible refine Kept.ofSnd ?_ (by with_reducible assumption)
    | with_reducible refine Kept.ofSnd2 ?_ (by with_reducible assumption)
    | with_reducible refine Kept.ofFst ?_ (by with_reducible assumption)
    | split
    | dsimp only

theorem State.showPending_kept (hp : Has pp 0x1) (s : State) (hk : zz.Kept pp s) :
    zz.Kept pp (State.showPending s) := by
  unfold State.showPending
  repeat' first
    | with_reducible assumption
    | ((with_reducible refine Has.mono hp ?_); exact rfl)
    | ((with_reducible refine Has.get hp _ ?_); exact rfl)
    | with_reducible intro _
    | with_reducible apply State.setF_kept
    | with_reducible apply Outcome.Kept.next
    | with_reducible apply Kept.ite
    | with_reducible apply OKept.ite
    | with_reducible refine Kept.ofSnd ?_ (by with_reducible assumption)
    | with_reducible refine Kept.ofSnd2 ?_ (by with_reducible assumption)
    | with_reducible refine Kept.ofFst ?_ (by with_reducible assumption)
    | split
    | dsimp only

theorem State.scanEvents_kept (hp : Has pp 0x21) (s : State) (hk : zz.Kept pp s) :
    zz.Kept pp (State.scanEvents s) := by
  unfold State.scanEvents
  repeat' first
    | with_reducible assumption
    | ((with_reducible refine Has.mono hp ?_); exact rfl)
    | ((with_reducible refine Has.get hp _ ?_); exact rfl)
    | with_reducible intro _
    | with_reducible apply State.flagF_kept
    | with_reducible apply State.setF_kept
    | with_reducible apply Outcome.Kept.next
    | with_reducible apply Kept.ite
    | with_reducible apply OKept.ite
    | with_reducible refine Kept.ofSnd ?_ (by with_reducible assumption)
    | with_reducible refine Kept.ofSnd2 ?_ (by with_reducible assumption)
    | with_reducible refine Kept.ofFst ?_ (by with_reducible assumption)
    | split
    | dsimp only
    | with_reducible apply State.Kept.logRam

theorem execBootStep7_kept (hp : Has pp 0x800171) (readable : Bool) (s : State) (hk : zz.Kept pp s) :
    Outcome.Kept pp zz (execBootStep7 readable s) := by
  unfold execBootStep7
  repeat' first
    | with_reducible assumption
    | ((with_reducible refine Has.mono hp ?_); exact rfl)
    | ((with_reducible refine Has.get hp _ ?_); exact rfl)
    | with_reducible intro _
    | with_reducible apply State.bootStep_kept
    | with_reducible apply State.scanEvents_kept
    | with_reducible apply State.showPending_kept
    | with_reducible apply State.setF_kept
    | with_reducible apply State.reason_kept
    | with_reducible apply State.bootOn_kept
    | with_reducible apply State.settleFleet_kept
    | with_reducible apply Outcome.Kept.next
    | with_reducible apply Kept.ite
    | with_reducible apply OKept.ite
    | with_reducible refine Kept.ofSnd ?_ (by with_reducible assumption)
    | with_reducible refine Kept.ofSnd2 ?_ (by with_reducible assumption)
    | with_reducible refine Kept.ofFst ?_ (by with_reducible assumption)
    | split
    | dsimp only

theorem execBootStep8_kept (hp : Has pp 0xc60171) (s : State) (hk : zz.Kept pp s) :
    Outcome.Kept pp zz (execBootStep8 s) := by
  unfold execBootStep8
  repeat' first
    | with_reducible assumption
    | ((with_reducible refine Has.mono hp ?_); exact rfl)
    | ((with_reducible refine Has.get hp _ ?_); exact rfl)
    | with_reducible intro _
    | with_reducible apply State.bootStep_kept
    | with_reducible apply State.when_kept
    | with_reducible apply State.strapFault_kept
    | with_reducible apply State.reason_kept
    | with_reducible apply State.setF_kept
    | with_reducible apply State.bootOn_kept
    | with_reducible apply Outcome.Kept.next
    | with_reducible apply Kept.ite
    | with_reducible apply OKept.ite
    | with_reducible refine Kept.ofSnd ?_ (by with_reducible assumption)
    | with_reducible refine Kept.ofSnd2 ?_ (by with_reducible assumption)
    | with_reducible refine Kept.ofFst ?_ (by with_reducible assumption)
    | split
    | dsimp only

theorem State.writeBusdiv_kept (hp : Has pp 0x101) (s : State) (bank : List Byte) (hk : zz.Kept pp s) :
    zz.Kept pp (State.writeBusdiv s bank) := by
  unfold State.writeBusdiv
  repeat' first
    | with_reducible assumption
    | ((with_reducible refine Has.mono hp ?_); exact rfl)
    | ((with_reducible refine Has.get hp _ ?_); exact rfl)
    | with_reducible intro _
    | with_reducible apply State.setF_kept
    | with_reducible apply Outcome.Kept.next
    | with_reducible apply Kept.ite
    | with_reducible apply OKept.ite
    | with_reducible refine Kept.ofSnd ?_ (by with_reducible assumption)
    | with_reducible refine Kept.ofSnd2 ?_ (by with_reducible assumption)
    | with_reducible refine Kept.ofFst ?_ (by with_reducible assumption)
    | split
    | dsimp only
    | with_reducible apply State.Kept.boot

theorem State.keepBase_kept (hp : Has pp 0x800) (s : State) (hk : zz.Kept pp s) :
    zz.Kept pp (State.keepBase s) := by
  unfold State.keepBase
  repeat' first
    | with_reducible assumption
    | ((with_reducible refine Has.mono hp ?_); exact rfl)
    | ((with_reducible refine Has.get hp _ ?_); exact rfl)
    | with_reducible intro _
    | with_reducible apply State.forEach_kept
    | with_reducible apply State.setRail_kept
    | with_reducible apply Outcome.Kept.next
    | with_reducible apply Kept.ite
    | with_reducible apply OKept.ite
    | with_reducible refine Kept.ofSnd ?_ (by with_reducible assumption)
    | with_reducible refine Kept.ofSnd2 ?_ (by with_reducible assumption)
    | with_reducible refine Kept.ofFst ?_ (by with_reducible assumption)
    | split
    | dsimp only

theorem State.bootStage_kept (hp : Has pp 0x901) (s : State) (bank : List Byte) (i : Nat) (hk : zz.Kept pp s) :
    zz.Kept pp (State.bootStage s bank i) := by
  unfold State.bootStage
  repeat' first
    | with_reducible assumption
    | ((with_reducible refine Has.mono hp ?_); exact rfl)
    | ((with_reducible refine Has.get hp _ ?_); exact rfl)
    | with_reducible intro _
    | with_reducible apply State.setF_kept
    | with_reducible apply State.stageAll_kept
    | with_reducible apply State.when_kept
    | with_reducible apply State.keepBase_kept
    | with_reducible apply State.loadStartValues_kept
    | with_reducible apply State.showOwnProfile_kept
    | with_reducible apply State.writeForce_kept
    | with_reducible apply Outcome.Kept.next
    | with_reducible apply Kept.ite
    | with_reducible apply OKept.ite
    | with_reducible refine Kept.ofSnd ?_ (by with_reducible assumption)
    | with_reducible refine Kept.ofSnd2 ?_ (by with_reducible assumption)
    | with_reducible refine Kept.ofFst ?_ (by with_reducible assumption)
    | split
    | dsimp only
    | with_reducible apply State.Kept.boot

theorem State.bootCheck_kept (hp : Has pp 0x1) (s : State) (bank : List Byte) (i : Nat) (hk : zz.Kept pp s) :
    zz.Kept pp (State.bootCheck s bank i).2 := by
  unfold State.bootCheck
  repeat' first
    | with_reducible assumption
    | ((with_reducible refine Has.mono hp ?_); exact rfl)
    | ((with_reducible refine Has.get hp _ ?_); exact rfl)
    | with_reducible intro _
    | with_reducible apply State.setF_kept
    | with_reducible apply Outcome.Kept.next
    | with_reducible apply Kept.ite
    | with_reducible apply OKept.ite
    | with_reducible refine Kept.ofSnd ?_ (by with_reducible assumption)
    | with_reducible refine Kept.ofSnd2 ?_ (by with_reducible assumption)
    | with_reducible refine Kept.ofFst ?_ (by with_reducible assumption)
    | split
    | dsimp only

theorem State.bootPass_kept (hp : Has pp 0x101) (s : State) (hk : zz.Kept pp s) :
    zz.Kept pp (State.bootPass s) := by
  unfold State.bootPass
  repeat' first
    | with_reducible assumption
    | ((with_reducible refine Has.mono hp ?_); exact rfl)
    | ((with_reducible refine Has.get hp _ ?_); exact rfl)
    | with_reducible intro _
    | with_reducible apply State.setF_kept
    | with_reducible apply State.settlePass_kept
    | with_reducible apply State.forEach_kept
    | with_reducible apply State.passCheck_kept
    | with_reducible apply State.bootOn_kept
    | with_reducible apply Outcome.Kept.next
    | with_reducible apply Kept.ite
    | with_reducible apply OKept.ite
    | with_reducible refine Kept.ofSnd ?_ (by with_reducible assumption)
    | with_reducible refine Kept.ofSnd2 ?_ (by with_reducible assumption)
    | with_reducible refine Kept.ofFst ?_ (by with_reducible assumption)
    | split
    | dsimp only
    | with_reducible apply State.Kept.boot

theorem execBootStep9_kept (hp : Has pp 0x800951) (s : State) (hk : zz.Kept pp s) :
    Outcome.Kept pp zz (execBootStep9 s) := by
  unfold execBootStep9
  repeat' first
    | with_reducible assumption
    | ((with_reducible refine Has.mono hp ?_); exact rfl)
    | ((with_reducible refine Has.get hp _ ?_); exact rfl)
    | with_reducible intro _
    | with_reducible apply State.bootStep_kept
    | with_reducible apply State.writeBusdiv_kept
    | with_reducible apply State.bootCheck_kept
    | with_reducible apply State.bootStage_kept
    | with_reducible apply State.bootPass_kept
    | with_reducible apply State.setF_kept
    | with_reducible apply State.reason_kept
    | with_reducible apply State.bootHalt_kept
    | with_reducible apply Outcome.Kept.next
    | with_reducible apply Kept.ite
    | with_reducible apply OKept.ite
    | with_reducible refine Kept.ofSnd ?_ (by with_reducible assumption)
    | with_reducible refine Kept.ofSnd2 ?_ (by with_reducible assumption)
    | with_reducible refine Kept.ofFst ?_ (by with_reducible assumption)
    | split
    | dsimp only

theorem State.putWord_kept (hp : Has pp 0x1) (s : State) (off : Nat) (w : Nat) (hk : zz.Kept pp s) :
    zz.Kept pp (State.putWord s off w) := by
  unfold State.putWord
  repeat' first
    | with_reducible assumption
    | ((with_reducible refine Has.mono hp ?_); exact rfl)
    | ((with_reducible refine Has.get hp _ ?_); exact rfl)
    | with_reducible intro _
    | with_reducible apply State.forEach_kept
    | with_reducible apply State.setF_kept
    | with_reducible apply Outcome.Kept.next
    | with_reducible apply Kept.ite
    | with_reducible apply OKept.ite
    | with_reducible refine Kept.ofSnd ?_ (by with_reducible assumption)
    | with_reducible refine Kept.ofSnd2 ?_ (by with_reducible assumption)
    | with_reducible refine Kept.ofFst ?_ (by with_reducible assumption)
    | split
    | dsimp only

theorem State.loadBinding_kept (hp : Has pp 0x1) (s : State) (hk : zz.Kept pp s) :
    zz.Kept pp (State.loadBinding s) := by
  unfold State.loadBinding
  repeat' first
    | with_reducible assumption
    | ((with_reducible refine Has.mono hp ?_); exact rfl)
    | ((with_reducible refine Has.get hp _ ?_); exact rfl)
    | with_reducible intro _
    | with_reducible apply State.setF_kept
    | with_reducible apply State.raise_kept
    | with_reducible apply State.forEach_kept
    | with_reducible apply State.putWord_kept
    | with_reducible apply Outcome.Kept.next
    | with_reducible apply Kept.ite
    | with_reducible apply OKept.ite
    | with_reducible refine Kept.ofSnd ?_ (by with_reducible assumption)
    | with_reducible refine Kept.ofSnd2 ?_ (by with_reducible assumption)
    | with_reducible refine Kept.ofFst ?_ (by with_reducible assumption)
    | split
    | dsimp only

theorem State.loadHealth_kept (hp : Has pp 0x8000001) (s : State) (hk : zz.Kept pp s) :
    zz.Kept pp (State.loadHealth s) := by
  unfold State.loadHealth
  repeat' first
    | with_reducible assumption
    | ((with_reducible refine Has.mono hp ?_); exact rfl)
    | ((with_reducible refine Has.get hp _ ?_); exact rfl)
    | with_reducible intro _
    | with_reducible apply State.forEach_kept
    | with_reducible apply State.setF_kept
    | with_reducible apply Outcome.Kept.next
    | with_reducible apply Kept.ite
    | with_reducible apply OKept.ite
    | with_reducible refine Kept.ofSnd ?_ (by with_reducible assumption)
    | with_reducible refine Kept.ofSnd2 ?_ (by with_reducible assumption)
    | with_reducible refine Kept.ofFst ?_ (by with_reducible assumption)
    | split
    | dsimp only
    | with_reducible apply State.Kept.health

theorem State.endInterrupted_kept (hp : Has pp 0x4400061) (s : State) (hk : zz.Kept pp s) :
    zz.Kept pp (State.endInterrupted s) := by
  unfold State.endInterrupted
  repeat' first
    | with_reducible assumption
    | ((with_reducible refine Has.mono hp ?_); exact rfl)
    | ((with_reducible refine Has.get hp _ ?_); exact rfl)
    | with_reducible intro _
    | with_reducible apply State.endUpd_kept
    | with_reducible apply State.setF_kept
    | with_reducible apply Outcome.Kept.next
    | with_reducible apply Kept.ite
    | with_reducible apply OKept.ite
    | with_reducible refine Kept.ofSnd ?_ (by with_reducible assumption)
    | with_reducible refine Kept.ofSnd2 ?_ (by with_reducible assumption)
    | with_reducible refine Kept.ofFst ?_ (by with_reducible assumption)
    | split
    | dsimp only

theorem execBootStep10_kept (hp : Has pp 0xed00971) (s : State) (hk : zz.Kept pp s) :
    Outcome.Kept pp zz (execBootStep10 s) := by
  unfold execBootStep10
  repeat' first
    | with_reducible assumption
    | ((with_reducible refine Has.mono hp ?_); exact rfl)
    | ((with_reducible refine Has.get hp _ ?_); exact rfl)
    | with_reducible intro _
    | with_reducible apply State.bootStep_kept
    | with_reducible apply State.log_kept
    | with_reducible apply State.setF_kept
    | with_reducible apply State.endInterrupted_kept
    | with_reducible apply State.forEach_kept
    | with_reducible apply State.release_kept
    | with_reducible apply State.incF_kept
    | with_reducible apply State.when_kept
    | with_reducible apply State.enterMode_kept
    | with_reducible apply State.orF_kept
    | with_reducible apply State.loadHealth_kept
    | with_reducible apply State.loadBinding_kept
    | with_reducible apply State.reloadHeartbeat_kept
    | with_reducible apply State.takeUp_kept
    | with_reducible apply State.settleFleet_kept
    | with_reducible apply State.settleBrake_kept
    | with_reducible apply Outcome.Kept.next
    | with_reducible apply Kept.ite
    | with_reducible apply OKept.ite
    | with_reducible refine Kept.ofSnd ?_ (by with_reducible assumption)
    | with_reducible refine Kept.ofSnd2 ?_ (by with_reducible assumption)
    | with_reducible refine Kept.ofFst ?_ (by with_reducible assumption)
    | split
    | dsimp only
    | with_reducible apply State.Kept.update
    | with_reducible apply State.Kept.boot

end Sys2Proof.Machine
end

