-- ==== Sys2Proof/Laws/KeptBrake.lean ====
section
/-! SUPPORT. What the functions of Sys2Proof/Machine/Brake.lean keep: one lemma for each, by the lemmas of what it calls. -/
namespace Sys2Proof.Machine

variable {pp : Part → Bool} {zz : State}

theorem execBrakeDoorbellSet_kept (hp : Has pp 0x400021) (value : Word) (s : State) (hk : zz.Kept pp s) :
    Outcome.Kept pp zz (execBrakeDoorbellSet value s) := by
  unfold execBrakeDoorbellSet
  repeat' first
    | with_reducible assumption
    | ((with_reducible refine Has.mono hp ?_); exact rfl)
    | ((with_reducible refine Has.get hp _ ?_); exact rfl)
    | with_reducible intro _
    | with_reducible apply State.settleBrake_kept
    | with_reducible apply State.setF_kept
    | with_reducible apply Outcome.Kept.next
    | with_reducible apply Kept.ite
    | with_reducible apply OKept.ite
    | with_reducible refine Kept.ofSnd ?_ (by with_reducible assumption)
    | with_reducible refine Kept.ofSnd2 ?_ (by with_reducible assumption)
    | with_reducible refine Kept.ofFst ?_ (by with_reducible assumption)
    | split
    | dsimp only

theorem execBrakeDoorbellClr_kept (hp : Has pp 0x400021) (value : Word) (s : State) (hk : zz.Kept pp s) :
    Outcome.Kept pp zz (execBrakeDoorbellClr value s) := by
  unfold execBrakeDoorbellClr
  repeat' first
    | with_reducible assumption
    | ((with_reducible refine Has.mono hp ?_); exact rfl)
    | ((with_reducible refine Has.get hp _ ?_); exact rfl)
    | with_reducible intro _
    | with_reducible apply State.settleBrake_kept
    | with_reducible apply State.setF_kept
    | with_reducible apply Outcome.Kept.next
    | with_reducible apply Kept.ite
    | with_reducible apply OKept.ite
    | with_reducible refine Kept.ofSnd ?_ (by with_reducible assumption)
    | with_reducible refine Kept.ofSnd2 ?_ (by with_reducible assumption)
    | with_reducible refine Kept.ofFst ?_ (by with_reducible assumption)
    | split
    | dsimp only

theorem State.setBrakePin_kept (hp : Has pp 0x400031) (s : State) (low : Bool) (hk : zz.Kept pp s) :
    zz.Kept pp (State.setBrakePin s low) := by
  unfold State.setBrakePin
  repeat' first
    | with_reducible assumption
    | ((with_reducible refine Has.mono hp ?_); exact rfl)
    | ((with_reducible refine Has.get hp _ ?_); exact rfl)
    | with_reducible exact (rfl : _ = _)
    | with_reducible exact id
    | (((with_reducible intro _); rfl))
    | with_reducible intro _
    | with_reducible apply State.settleBrake_kept
    | with_reducible apply Outcome.Kept.next
    | with_reducible apply Kept.ite
    | with_reducible apply OKept.ite
    | with_reducible refine Kept.ofSnd ?_ (by with_reducible assumption)
    | with_reducible refine Kept.ofSnd2 ?_ (by with_reducible assumption)
    | with_reducible refine Kept.ofFst ?_ (by with_reducible assumption)
    | split
    | dsimp only
    | with_reducible apply State.Kept.pins

theorem execBrakeNAssert_kept (hp : Has pp 0x20400031) (lowNs : Nat) (s : State) (hk : zz.Kept pp s) :
    Outcome.Kept pp zz (execBrakeNAssert lowNs s) := by
  unfold execBrakeNAssert
  repeat' first
    | with_reducible assumption
    | ((with_reducible refine Has.mono hp ?_); exact rfl)
    | ((with_reducible refine Has.get hp _ ?_); exact rfl)
    | with_reducible intro _
    | with_reducible apply State.setBrakePin_kept
    | with_reducible apply State.drawFree_kept
    | with_reducible apply Outcome.Kept.next
    | with_reducible apply Kept.ite
    | with_reducible apply OKept.ite
    | with_reducible refine Kept.ofSnd ?_ (by with_reducible assumption)
    | with_reducible refine Kept.ofSnd2 ?_ (by with_reducible assumption)
    | with_reducible refine Kept.ofFst ?_ (by with_reducible assumption)
    | split
    | dsimp only

theorem execBrakeNRelease_kept (hp : Has pp 0x400031) (highNs : Nat) (s : State) (hk : zz.Kept pp s) :
    Outcome.Kept pp zz (execBrakeNRelease highNs s) := by
  unfold execBrakeNRelease
  repeat' first
    | with_reducible assumption
    | ((with_reducible refine Has.mono hp ?_); exact rfl)
    | ((with_reducible refine Has.get hp _ ?_); exact rfl)
    | with_reducible intro _
    | with_reducible apply State.setBrakePin_kept
    | with_reducible apply Outcome.Kept.next
    | with_reducible apply Kept.ite
    | with_reducible apply OKept.ite
    | with_reducible refine Kept.ofSnd ?_ (by with_reducible assumption)
    | with_reducible refine Kept.ofSnd2 ?_ (by with_reducible assumption)
    | with_reducible refine Kept.ofFst ?_ (by with_reducible assumption)
    | split
    | dsimp only

end Sys2Proof.Machine
end

