-- ==== Sys2Proof/Laws/KeptEccRows.lean ====
section
/-! SUPPORT. What the functions of Sys2Proof/Machine/EccRows.lean keep: one lemma for each, by the lemmas of what it calls. -/
namespace Sys2Proof.Machine

variable {pp : Part → Bool} {zz : State}

theorem State.patchLog_kept (hp : Has pp 0x20) (s : State) (w : Nat) (d : Nat) (hk : zz.Kept pp s) :
    zz.Kept pp (State.patchLog s w d) := by
  unfold State.patchLog
  repeat' first
    | with_reducible assumption
    | ((with_reducible refine Has.mono hp ?_); exact rfl)
    | ((with_reducible refine Has.get hp _ ?_); exact rfl)
    | with_reducible intro _
    | with_reducible apply Outcome.Kept.next
    | with_reducible apply Kept.ite
    | with_reducible apply OKept.ite
    | with_reducible refine Kept.ofSnd ?_ (by with_reducible assumption)
    | with_reducible refine Kept.ofSnd2 ?_ (by with_reducible assumption)
    | with_reducible refine Kept.ofFst ?_ (by with_reducible assumption)
    | split
    | dsimp only
    | with_reducible apply State.Kept.logRam

theorem State.keepImage_kept (hp : Has pp 0x400000) (s : State) (m : Nat) (w : Nat) (d : Nat) (hk : zz.Kept pp s) :
    zz.Kept pp (State.keepImage s m w d) := by
  unfold State.keepImage
  repeat' first
    | with_reducible assumption
    | ((with_reducible refine Has.mono hp ?_); exact rfl)
    | ((with_reducible refine Has.get hp _ ?_); exact rfl)
    | with_reducible intro _
    | with_reducible apply Outcome.Kept.next
    | with_reducible apply Kept.ite
    | with_reducible apply OKept.ite
    | with_reducible refine Kept.ofSnd ?_ (by with_reducible assumption)
    | with_reducible refine Kept.ofSnd2 ?_ (by with_reducible assumption)
    | with_reducible refine Kept.ofFst ?_ (by with_reducible assumption)
    | split
    | dsimp only
    | with_reducible apply State.Kept.ecc

theorem State.dataOf_kept (hp : Has pp 0x20400000) (s : State) (m : Nat) (w : Nat) (hk : zz.Kept pp s) :
    zz.Kept pp (State.dataOf s m w).2 := by
  unfold State.dataOf
  repeat' first
    | with_reducible assumption
    | ((with_reducible refine Has.mono hp ?_); exact rfl)
    | ((with_reducible refine Has.get hp _ ?_); exact rfl)
    | with_reducible intro _
    | with_reducible apply State.drawFree_kept
    | with_reducible apply State.keepImage_kept
    | with_reducible apply Outcome.Kept.next
    | with_reducible apply Kept.ite
    | with_reducible apply OKept.ite
    | with_reducible refine Kept.ofSnd ?_ (by with_reducible assumption)
    | with_reducible refine Kept.ofSnd2 ?_ (by with_reducible assumption)
    | with_reducible refine Kept.ofFst ?_ (by with_reducible assumption)
    | split
    | dsimp only

theorem State.patchWord_kept (hp : Has pp 0x20700021) (s : State) (m : Nat) (w : Nat) (d : Nat) (hk : zz.Kept pp s) :
    zz.Kept pp (State.patchWord s m w d) := by
  unfold State.patchWord
  repeat' first
    | with_reducible assumption
    | ((with_reducible refine Has.mono hp ?_); exact rfl)
    | ((with_reducible refine Has.get hp _ ?_); exact rfl)
    | with_reducible intro _
    | with_reducible apply State.keepImage_kept
    | with_reducible apply State.scrambleObj_kept
    | with_reducible apply State.scrambleRecord_kept
    | with_reducible apply State.patchXlt_kept
    | with_reducible apply State.patchLog_kept
    | with_reducible apply State.patchModel_kept
    | with_reducible apply Outcome.Kept.next
    | with_reducible apply Kept.ite
    | with_reducible apply OKept.ite
    | with_reducible refine Kept.ofSnd ?_ (by with_reducible assumption)
    | with_reducible refine Kept.ofSnd2 ?_ (by with_reducible assumption)
    | with_reducible refine Kept.ofFst ?_ (by with_reducible assumption)
    | split
    | dsimp only

theorem State.discard_kept (hp : Has pp 0x400021) (s : State) (w : Nat) (hk : zz.Kept pp s) :
    zz.Kept pp (State.discard s w) := by
  unfold State.discard
  repeat' first
    | with_reducible assumption
    | ((with_reducible refine Has.mono hp ?_); exact rfl)
    | ((with_reducible refine Has.get hp _ ?_); exact rfl)
    | with_reducible intro _
    | with_reducible apply State.incF_kept
    | with_reducible apply State.writeLogWords_kept
    | with_reducible apply State.raise_kept
    | with_reducible apply Outcome.Kept.next
    | with_reducible apply Kept.ite
    | with_reducible apply OKept.ite
    | with_reducible refine Kept.ofSnd ?_ (by with_reducible assumption)
    | with_reducible refine Kept.ofSnd2 ?_ (by with_reducible assumption)
    | with_reducible refine Kept.ofFst ?_ (by with_reducible assumption)
    | split
    | dsimp only
    | with_reducible apply State.Kept.logRam

theorem State.react_kept (hp : Has pp 0x22e7000a1) (s : State) (m : Nat) (w : Nat) (hk : zz.Kept pp s) :
    zz.Kept pp (State.react s m w) := by
  unfold State.react
  repeat' first
    | with_reducible assumption
    | ((with_reducible refine Has.mono hp ?_); exact rfl)
    | ((with_reducible refine Has.get hp _ ?_); exact rfl)
    | with_reducible intro _
    | with_reducible apply State.objFault_kept
    | with_reducible apply State.recordFault_kept
    | with_reducible apply State.forEach_kept
    | with_reducible apply State.keepImage_kept
    | with_reducible apply State.eccWrite_kept
    | with_reducible apply State.xltFault_kept
    | with_reducible apply State.discard_kept
    | with_reducible apply State.modelReset_kept
    | with_reducible apply State.eccUse_kept
    | with_reducible apply State.eccClear_kept
    | with_reducible apply State.restart_kept
    | with_reducible apply Outcome.Kept.next
    | with_reducible apply Kept.ite
    | with_reducible apply OKept.ite
    | with_reducible refine Kept.ofSnd ?_ (by with_reducible assumption)
    | with_reducible refine Kept.ofSnd2 ?_ (by with_reducible assumption)
    | with_reducible refine Kept.ofFst ?_ (by with_reducible assumption)
    | split
    | dsimp only

theorem State.checkedRead_kept (hp : Has pp 0x22e7000a1) (s : State) (m : Nat) (w : Nat) (scrub : Bool) (hk : zz.Kept pp s) :
    zz.Kept pp (State.checkedRead s m w scrub).2 := by
  unfold State.checkedRead
  repeat' first
    | with_reducible assumption
    | ((with_reducible refine Has.mono hp ?_); exact rfl)
    | ((with_reducible refine Has.get hp _ ?_); exact rfl)
    | with_reducible intro _
    | with_reducible apply State.eccRead_kept
    | with_reducible apply State.react_kept
    | with_reducible apply State.drawFree_kept
    | with_reducible apply State.patchWord_kept
    | with_reducible apply Outcome.Kept.next
    | with_reducible apply Kept.ite
    | with_reducible apply OKept.ite
    | with_reducible refine Kept.ofSnd ?_ (by with_reducible assumption)
    | with_reducible refine Kept.ofSnd2 ?_ (by with_reducible assumption)
    | with_reducible refine Kept.ofFst ?_ (by with_reducible assumption)
    | split
    | dsimp only

theorem execScrubRead_kept (hp : Has pp 0x22e7000a1) (mem : Fin 8) (upset : BitVec 80) (s : State) (hk : zz.Kept pp s) :
    Outcome.Kept pp zz (execScrubRead mem upset s) := by
  unfold execScrubRead
  repeat' first
    | with_reducible assumption
    | ((with_reducible refine Has.mono hp ?_); exact rfl)
    | ((with_reducible refine Has.get hp _ ?_); exact rfl)
    | with_reducible intro _
    | with_reducible apply State.setError_kept
    | with_reducible apply State.checkedRead_kept
    | with_reducible apply State.setF_kept
    | with_reducible apply Outcome.Kept.next
    | with_reducible apply Kept.ite
    | with_reducible apply OKept.ite
    | with_reducible refine Kept.ofSnd ?_ (by with_reducible assumption)
    | with_reducible refine Kept.ofSnd2 ?_ (by with_reducible assumption)
    | with_reducible refine Kept.ofFst ?_ (by with_reducible assumption)
    | split
    | dsimp only

theorem execEccWriteBack_kept (hp : Has pp 0x400001) (mem : Fin 8) (s : State) (hk : zz.Kept pp s) :
    Outcome.Kept pp zz (execEccWriteBack mem s) := by
  unfold execEccWriteBack
  repeat' first
    | with_reducible assumption
    | ((with_reducible refine Has.mono hp ?_); exact rfl)
    | ((with_reducible refine Has.get hp _ ?_); exact rfl)
    | with_reducible intro _
    | with_reducible apply State.incF_kept
    | with_reducible apply State.setError_kept
    | with_reducible apply Outcome.Kept.next
    | with_reducible apply Kept.ite
    | with_reducible apply OKept.ite
    | with_reducible refine Kept.ofSnd ?_ (by with_reducible assumption)
    | with_reducible refine Kept.ofSnd2 ?_ (by with_reducible assumption)
    | with_reducible refine Kept.ofFst ?_ (by with_reducible assumption)
    | split
    | dsimp only
    | with_reducible apply State.Kept.ecc

theorem State.markDead_kept (hp : Has pp 0x1) (s : State) (m : Nat) (c : Nat) (hk : zz.Kept pp s) :
    zz.Kept pp (State.markDead s m c) := by
  unfold State.markDead
  repeat' first
    | with_reducible assumption
    | ((with_reducible refine Has.mono hp ?_); exact rfl)
    | ((with_reducible refine Has.get hp _ ?_); exact rfl)
    | with_reducible intro _
    | with_reducible apply State.when_kept
    | with_reducible apply State.setF_kept
    | with_reducible apply Outcome.Kept.next
    | with_reducible apply Kept.ite
    | with_reducible apply OKept.ite
    | with_reducible refine Kept.ofSnd ?_ (by with_reducible assumption)
    | with_reducible refine Kept.ofSnd2 ?_ (by with_reducible assumption)
    | with_reducible refine Kept.ofFst ?_ (by with_reducible assumption)
    | split
    | dsimp only

theorem State.remap_kept (hp : Has pp 0x400001) (s : State) (m : Nat) (w : Nat) (hk : zz.Kept pp s) :
    zz.Kept pp (State.remap s m w) := by
  unfold State.remap
  repeat' first
    | with_reducible assumption
    | ((with_reducible refine Has.mono hp ?_); exact rfl)
    | ((with_reducible refine Has.get hp _ ?_); exact rfl)
    | with_reducible intro _
    | with_reducible apply State.markDead_kept
    | with_reducible apply State.raise_kept
    | with_reducible apply State.setF_kept
    | with_reducible apply State.setError_kept
    | with_reducible apply State.keepImage_kept
    | with_reducible apply Outcome.Kept.next
    | with_reducible apply Kept.ite
    | with_reducible apply OKept.ite
    | with_reducible refine Kept.ofSnd ?_ (by with_reducible assumption)
    | with_reducible refine Kept.ofSnd2 ?_ (by with_reducible assumption)
    | with_reducible refine Kept.ofFst ?_ (by with_reducible assumption)
    | split
    | dsimp only
    | with_reducible apply State.Kept.ecc

theorem execEccVerifyRead_kept (hp : Has pp 0x22e7000a1) (mem : Fin 8) (stuck : BitVec 80) (s : State) (hk : zz.Kept pp s) :
    Outcome.Kept pp zz (execEccVerifyRead mem stuck s) := by
  unfold execEccVerifyRead
  repeat' first
    | with_reducible assumption
    | ((with_reducible refine Has.mono hp ?_); exact rfl)
    | ((with_reducible refine Has.get hp _ ?_); exact rfl)
    | with_reducible intro _
    | with_reducible apply State.checkedRead_kept
    | with_reducible apply State.setError_kept
    | with_reducible apply State.remap_kept
    | with_reducible apply State.markDead_kept
    | with_reducible apply Outcome.Kept.next
    | with_reducible apply Kept.ite
    | with_reducible apply OKept.ite
    | with_reducible refine Kept.ofSnd ?_ (by with_reducible assumption)
    | with_reducible refine Kept.ofSnd2 ?_ (by with_reducible assumption)
    | with_reducible refine Kept.ofFst ?_ (by with_reducible assumption)
    | split
    | dsimp only
    | with_reducible apply State.Kept.ecc

theorem State.rawAccess_kept (hp : Has pp 0x1) (s : State) (value : Nat) (write : Bool) (g : State → Nat → Nat → State) (hf : ∀ (t : State) (x1 : Nat) (x2 : Nat), zz.Kept pp t → zz.Kept pp (g t x1 x2)) (hk : zz.Kept pp s) :
    zz.Kept pp (State.rawAccess s value write g) := by
  unfold State.rawAccess
  repeat' first
    | with_reducible assumption
    | ((with_reducible refine Has.mono hp ?_); exact rfl)
    | ((with_reducible refine Has.get hp _ ?_); exact rfl)
    | with_reducible intro _
    | with_reducible apply hf
    | with_reducible apply State.setF_kept
    | with_reducible apply Outcome.Kept.next
    | with_reducible apply Kept.ite
    | with_reducible apply OKept.ite
    | with_reducible refine Kept.ofSnd ?_ (by with_reducible assumption)
    | with_reducible refine Kept.ofSnd2 ?_ (by with_reducible assumption)
    | with_reducible refine Kept.ofFst ?_ (by with_reducible assumption)
    | split
    | dsimp only

theorem State.keepOld_kept (hp : Has pp 0x400000) (s : State) (m : Nat) (w : Nat) (d : Nat × State) (hk : zz.Kept pp s) :
    zz.Kept pp (State.keepOld s m w d) := by
  unfold State.keepOld
  repeat' first
    | with_reducible assumption
    | ((with_reducible refine Has.mono hp ?_); exact rfl)
    | ((with_reducible refine Has.get hp _ ?_); exact rfl)
    | with_reducible intro _
    | with_reducible apply State.keepImage_kept
    | with_reducible apply Outcome.Kept.next
    | with_reducible apply Kept.ite
    | with_reducible apply OKept.ite
    | with_reducible refine Kept.ofSnd ?_ (by with_reducible assumption)
    | with_reducible refine Kept.ofSnd2 ?_ (by with_reducible assumption)
    | with_reducible refine Kept.ofFst ?_ (by with_reducible assumption)
    | split
    | dsimp only

theorem State.rawWrite_kept (hp : Has pp 0x20700021) (s : State) (m : Nat) (w : Nat) (hk : zz.Kept pp s) :
    zz.Kept pp (State.rawWrite s m w) := by
  unfold State.rawWrite
  repeat' first
    | with_reducible assumption
    | ((with_reducible refine Has.mono hp ?_); exact rfl)
    | ((with_reducible refine Has.get hp _ ?_); exact rfl)
    | with_reducible intro _
    | with_reducible apply State.dataOf_kept
    | with_reducible apply State.eccWrite_kept
    | with_reducible apply State.keepOld_kept
    | with_reducible apply State.patchWord_kept
    | with_reducible apply State.setError_kept
    | with_reducible apply Outcome.Kept.next
    | with_reducible apply Kept.ite
    | with_reducible apply OKept.ite
    | with_reducible refine Kept.ofSnd ?_ (by with_reducible assumption)
    | with_reducible refine Kept.ofSnd2 ?_ (by with_reducible assumption)
    | with_reducible refine Kept.ofFst ?_ (by with_reducible assumption)
    | split
    | dsimp only

theorem execTestRawWrite_kept (hp : Has pp 0x20700021) (value : Word) (s : State) (hk : zz.Kept pp s) :
    Outcome.Kept pp zz (execTestRawWrite value s) := by
  unfold execTestRawWrite
  repeat' first
    | with_reducible assumption
    | ((with_reducible refine Has.mono hp ?_); exact rfl)
    | ((with_reducible refine Has.get hp _ ?_); exact rfl)
    | with_reducible intro _
    | with_reducible apply State.rawAccess_kept
    | with_reducible apply State.rawWrite_kept
    | with_reducible apply Outcome.Kept.next
    | with_reducible apply Kept.ite
    | with_reducible apply OKept.ite
    | with_reducible refine Kept.ofSnd ?_ (by with_reducible assumption)
    | with_reducible refine Kept.ofSnd2 ?_ (by with_reducible assumption)
    | with_reducible refine Kept.ofFst ?_ (by with_reducible assumption)
    | split
    | dsimp only

theorem execTestRawRead_kept (hp : Has pp 0x20400001) (value : Word) (s : State) (hk : zz.Kept pp s) :
    Outcome.Kept pp zz (execTestRawRead value s) := by
  unfold execTestRawRead
  repeat' first
    | with_reducible assumption
    | ((with_reducible refine Has.mono hp ?_); exact rfl)
    | ((with_reducible refine Has.get hp _ ?_); exact rfl)
    | with_reducible intro _
    | with_reducible apply State.rawAccess_kept
    | with_reducible apply State.dataOf_kept
    | with_reducible apply State.setF_kept
    | with_reducible apply Outcome.Kept.next
    | with_reducible apply Kept.ite
    | with_reducible apply OKept.ite
    | with_reducible refine Kept.ofSnd ?_ (by with_reducible assumption)
    | with_reducible refine Kept.ofSnd2 ?_ (by with_reducible assumption)
    | with_reducible refine Kept.ofFst ?_ (by with_reducible assumption)
    | split
    | dsimp only

end Sys2Proof.Machine
end

