-- ==== Sys2Proof/Laws/KeptEventResponse.lean ====
section
/-! SUPPORT. What the functions of Sys2Proof/Machine/EventResponse.lean keep: one lemma for each, by the lemmas of what it calls. -/
namespace Sys2Proof.Machine

variable {pp : Part → Bool} {zz : State}

theorem State.notifyEvent_kept (hp : Has pp 0x20000041) (s : State) (cls : Option Nat) (off : Nat) (bit : Nat) (value : Nat) (hk : zz.Kept pp s) :
    zz.Kept pp (State.notifyEvent s cls off bit value) := by
  unfold State.notifyEvent
  repeat' first
    | with_reducible assumption
    | ((with_reducible refine Has.mono hp ?_); exact rfl)
    | ((with_reducible refine Has.get hp _ ?_); exact rfl)
    | with_reducible intro _
    | with_reducible apply State.drawFree_kept
    | with_reducible apply State.notify_kept
    | with_reducible apply Outcome.Kept.next
    | with_reducible apply Kept.ite
    | with_reducible apply OKept.ite
    | with_reducible refine Kept.ofSnd ?_ (by with_reducible assumption)
    | with_reducible refine Kept.ofSnd2 ?_ (by with_reducible assumption)
    | with_reducible refine Kept.ofFst ?_ (by with_reducible assumption)
    | split
    | dsimp only

theorem execFlpEventResponse_kept (hp : Has pp 0x230400861) (off : Offset) (bit : Fin 32) (s : State) (hk : zz.Kept pp s) :
    Outcome.Kept pp zz (execFlpEventResponse off bit s) := by
  unfold execFlpEventResponse
  repeat' first
    | with_reducible assumption
    | ((with_reducible refine Has.mono hp ?_); exact rfl)
    | ((with_reducible refine Has.get hp _ ?_); exact rfl)
    | with_reducible intro _
    | with_reducible apply State.log_kept
    | with_reducible apply State.when_kept
    | with_reducible apply State.notifyEvent_kept
    | with_reducible apply State.derate_kept
    | with_reducible apply Outcome.Kept.next
    | with_reducible apply Kept.ite
    | with_reducible apply OKept.ite
    | with_reducible refine Kept.ofSnd ?_ (by with_reducible assumption)
    | with_reducible refine Kept.ofSnd2 ?_ (by with_reducible assumption)
    | with_reducible refine Kept.ofFst ?_ (by with_reducible assumption)
    | split
    | dsimp only

end Sys2Proof.Machine
end

