-- ==== Sys2Proof/Laws/KeptFmax.lean ====
section
/-! SUPPORT. What the functions of Sys2Proof/Machine/Fmax.lean keep: one lemma for each, by the lemmas of what it calls. -/
namespace Sys2Proof.Machine

variable {pp : Part → Bool} {zz : State}

theorem State.mapFmax_kept (hp : Has pp 0x8000000) (s : State) (g : Fmax → Fmax) (hk : zz.Kept pp s) :
    zz.Kept pp (State.mapFmax s g) := by
  unfold State.mapFmax
  repeat' first
    | with_reducible assumption
    | ((with_reducible refine Has.mono hp ?_); exact rfl)
    | ((with_reducible refine Has.get hp _ ?_); exact rfl)
    | with_reducible intro _
    | with_reducible apply Outcome.Kept.next
    | with_reducible apply Kept.ite
    | with_reducible apply OKept.ite
    | with_reducible refine Kept.ofSnd ?_ (by with_reducible assumption)
    | with_reducible refine Kept.ofSnd2 ?_ (by with_reducible assumption)
    | with_reducible refine Kept.ofFst ?_ (by with_reducible assumption)
    | split
    | dsimp only
    | with_reducible apply State.Kept.health

theorem State.setFmax_kept (hp : Has pp 0x41) (s : State) (st : Nat) (hk : zz.Kept pp s) :
    zz.Kept pp (State.setFmax s st) := by
  unfold State.setFmax
  repeat' first
    | with_reducible assumption
    | ((with_reducible refine Has.mono hp ?_); exact rfl)
    | ((with_reducible refine Has.get hp _ ?_); exact rfl)
    | with_reducible intro _
    | with_reducible apply State.notify_kept
    | with_reducible apply State.setF_kept
    | with_reducible apply Outcome.Kept.next
    | with_reducible apply Kept.ite
    | with_reducible apply OKept.ite
    | with_reducible refine Kept.ofSnd ?_ (by with_reducible assumption)
    | with_reducible refine Kept.ofSnd2 ?_ (by with_reducible assumption)
    | with_reducible refine Kept.ofFst ?_ (by with_reducible assumption)
    | split
    | dsimp only

theorem State.fmaxStop_kept (hp : Has pp 0x41) (s : State) (status : Nat) (hk : zz.Kept pp s) :
    zz.Kept pp (State.fmaxStop s status) := by
  unfold State.fmaxStop
  repeat' first
    | with_reducible assumption
    | ((with_reducible refine Has.mono hp ?_); exact rfl)
    | ((with_reducible refine Has.get hp _ ?_); exact rfl)
    | with_reducible intro _
    | with_reducible apply State.setFmax_kept
    | with_reducible apply State.setF_kept
    | with_reducible apply Outcome.Kept.next
    | with_reducible apply Kept.ite
    | with_reducible apply OKept.ite
    | with_reducible refine Kept.ofSnd ?_ (by with_reducible assumption)
    | with_reducible refine Kept.ofSnd2 ?_ (by with_reducible assumption)
    | with_reducible refine Kept.ofFst ?_ (by with_reducible assumption)
    | split
    | dsimp only

theorem State.beginRecord_kept (hp : Has pp 0x4000a1) (s : State) (hk : zz.Kept pp s) :
    zz.Kept pp (State.beginRecord s) := by
  unfold State.beginRecord
  repeat' first
    | with_reducible assumption
    | ((with_reducible refine Has.mono hp ?_); exact rfl)
    | ((with_reducible refine Has.get hp _ ?_); exact rfl)
    | with_reducible intro _
    | with_reducible apply State.evtAdvance_kept
    | with_reducible apply State.beginWork_kept
    | with_reducible apply State.traceCmd_kept
    | with_reducible apply Outcome.Kept.next
    | with_reducible apply Kept.ite
    | with_reducible apply OKept.ite
    | with_reducible refine Kept.ofSnd ?_ (by with_reducible assumption)
    | with_reducible refine Kept.ofSnd2 ?_ (by with_reducible assumption)
    | with_reducible refine Kept.ofFst ?_ (by with_reducible assumption)
    | split
    | dsimp only

theorem execFmaxStart_kept (hp : Has pp 0x84000e1) (s : State) (hk : zz.Kept pp s) :
    Outcome.Kept pp zz (execFmaxStart s) := by
  unfold execFmaxStart
  repeat' first
    | with_reducible assumption
    | ((with_reducible refine Has.mono hp ?_); exact rfl)
    | ((with_reducible refine Has.get hp _ ?_); exact rfl)
    | with_reducible intro _
    | with_reducible apply State.onOpcode_kept
    | with_reducible apply State.reply_kept
    | with_reducible apply State.mapMail_kept
    | with_reducible apply State.mapFmax_kept
    | with_reducible apply State.setF_kept
    | with_reducible apply State.setFmax_kept
    | with_reducible apply State.beginRecord_kept
    | with_reducible apply State.log_kept
    | with_reducible apply Outcome.Kept.next
    | with_reducible apply Kept.ite
    | with_reducible apply OKept.ite
    | with_reducible refine Kept.ofSnd ?_ (by with_reducible assumption)
    | with_reducible refine Kept.ofSnd2 ?_ (by with_reducible assumption)
    | with_reducible refine Kept.ofFst ?_ (by with_reducible assumption)
    | split
    | dsimp only

theorem execFmaxBeginRecordDone_kept (hp : Has pp 0x80000c1) (s : State) (hk : zz.Kept pp s) :
    Outcome.Kept pp zz (execFmaxBeginRecordDone s) := by
  unfold execFmaxBeginRecordDone
  repeat' first
    | with_reducible assumption
    | ((with_reducible refine Has.mono hp ?_); exact rfl)
    | ((with_reducible refine Has.get hp _ ?_); exact rfl)
    | with_reducible intro _
    | with_reducible apply State.fmaxStop_kept
    | with_reducible apply State.mapFmax_kept
    | with_reducible apply State.endJob_kept
    | with_reducible apply Outcome.Kept.next
    | with_reducible apply Kept.ite
    | with_reducible apply OKept.ite
    | with_reducible refine Kept.ofSnd ?_ (by with_reducible assumption)
    | with_reducible refine Kept.ofSnd2 ?_ (by with_reducible assumption)
    | with_reducible refine Kept.ofFst ?_ (by with_reducible assumption)
    | split
    | dsimp only

theorem execClusterOffline_kept (hp : Has pp 0x8000041) (s : State) (hk : zz.Kept pp s) :
    Outcome.Kept pp zz (execClusterOffline s) := by
  unfold execClusterOffline
  repeat' first
    | with_reducible assumption
    | ((with_reducible refine Has.mono hp ?_); exact rfl)
    | ((with_reducible refine Has.get hp _ ?_); exact rfl)
    | with_reducible intro _
    | with_reducible apply State.setF_kept
    | with_reducible apply State.mapFmax_kept
    | with_reducible apply State.setFmax_kept
    | with_reducible apply Outcome.Kept.next
    | with_reducible apply Kept.ite
    | with_reducible apply OKept.ite
    | with_reducible refine Kept.ofSnd ?_ (by with_reducible assumption)
    | with_reducible refine Kept.ofSnd2 ?_ (by with_reducible assumption)
    | with_reducible refine Kept.ofFst ?_ (by with_reducible assumption)
    | split
    | dsimp only

theorem execFmaxQuietTimeout_kept (hp : Has pp 0x41) (s : State) (hk : zz.Kept pp s) :
    Outcome.Kept pp zz (execFmaxQuietTimeout s) := by
  unfold execFmaxQuietTimeout
  repeat' first
    | with_reducible assumption
    | ((with_reducible refine Has.mono hp ?_); exact rfl)
    | ((with_reducible refine Has.get hp _ ?_); exact rfl)
    | with_reducible intro _
    | with_reducible apply State.fmaxStop_kept
    | with_reducible apply Outcome.Kept.next
    | with_reducible apply Kept.ite
    | with_reducible apply OKept.ite
    | with_reducible refine Kept.ofSnd ?_ (by with_reducible assumption)
    | with_reducible refine Kept.ofSnd2 ?_ (by with_reducible assumption)
    | with_reducible refine Kept.ofFst ?_ (by with_reducible assumption)
    | split
    | dsimp only

theorem execFmaxStepBegin_kept (hp : Has pp 0x8000000) (s : State) (hk : zz.Kept pp s) :
    Outcome.Kept pp zz (execFmaxStepBegin s) := by
  unfold execFmaxStepBegin
  repeat' first
    | with_reducible assumption
    | ((with_reducible refine Has.mono hp ?_); exact rfl)
    | ((with_reducible refine Has.get hp _ ?_); exact rfl)
    | with_reducible intro _
    | with_reducible apply State.spoilStep_kept
    | with_reducible apply State.mapFmax_kept
    | with_reducible apply Outcome.Kept.next
    | with_reducible apply Kept.ite
    | with_reducible apply OKept.ite
    | with_reducible refine Kept.ofSnd ?_ (by with_reducible assumption)
    | with_reducible refine Kept.ofSnd2 ?_ (by with_reducible assumption)
    | with_reducible refine Kept.ofFst ?_ (by with_reducible assumption)
    | split
    | dsimp only

theorem State.recordResults_kept (hp : Has pp 0x8000000) (s : State) (c : Nat) (hk : zz.Kept pp s) :
    zz.Kept pp (State.recordResults s c) := by
  unfold State.recordResults
  repeat' first
    | with_reducible assumption
    | ((with_reducible refine Has.mono hp ?_); exact rfl)
    | ((with_reducible refine Has.get hp _ ?_); exact rfl)
    | with_reducible apply Kept.foldl
    | with_reducible apply Kept.foldlFst
    | with_reducible apply Kept.foldlSnd
    | with_reducible intro _
    | with_reducible apply State.mapFmax_kept
    | with_reducible apply Outcome.Kept.next
    | with_reducible apply Kept.ite
    | with_reducible apply OKept.ite
    | with_reducible refine Kept.ofSnd ?_ (by with_reducible assumption)
    | with_reducible refine Kept.ofSnd2 ?_ (by with_reducible assumption)
    | with_reducible refine Kept.ofFst ?_ (by with_reducible assumption)
    | split
    | dsimp only

theorem State.clusterDone_kept (hp : Has pp 0x84000e1) (s : State) (c : Nat) (hk : zz.Kept pp s) :
    zz.Kept pp (State.clusterDone s c) := by
  unfold State.clusterDone
  repeat' first
    | with_reducible assumption
    | ((with_reducible refine Has.mono hp ?_); exact rfl)
    | ((with_reducible refine Has.get hp _ ?_); exact rfl)
    | with_reducible intro _
    | with_reducible apply State.setF_kept
    | with_reducible apply State.recordResults_kept
    | with_reducible apply State.setFmax_kept
    | with_reducible apply State.mapFmax_kept
    | with_reducible apply State.dueCopy_kept
    | with_reducible apply Outcome.Kept.next
    | with_reducible apply Kept.ite
    | with_reducible apply OKept.ite
    | with_reducible refine Kept.ofSnd ?_ (by with_reducible assumption)
    | with_reducible refine Kept.ofSnd2 ?_ (by with_reducible assumption)
    | with_reducible refine Kept.ofFst ?_ (by with_reducible assumption)
    | split
    | dsimp only

theorem execFmaxStepDone_kept (hp : Has pp 0x84000e1) (passed : BitVec 24) (s : State) (hk : zz.Kept pp s) :
    Outcome.Kept pp zz (execFmaxStepDone passed s) := by
  unfold execFmaxStepDone
  repeat' first
    | with_reducible assumption
    | ((with_reducible refine Has.mono hp ?_); exact rfl)
    | ((with_reducible refine Has.get hp _ ?_); exact rfl)
    | with_reducible apply Kept.foldl
    | with_reducible apply Kept.foldlFst
    | with_reducible apply Kept.foldlSnd
    | with_reducible intro _
    | with_reducible apply State.incF_kept
    | with_reducible apply State.setF_kept
    | with_reducible apply State.mapFmax_kept
    | with_reducible apply State.clusterDone_kept
    | with_reducible apply Outcome.Kept.next
    | with_reducible apply Kept.ite
    | with_reducible apply OKept.ite
    | with_reducible refine Kept.ofSnd ?_ (by with_reducible assumption)
    | with_reducible refine Kept.ofSnd2 ?_ (by with_reducible assumption)
    | with_reducible refine Kept.ofFst ?_ (by with_reducible assumption)
    | split
    | dsimp only

theorem execFmaxStepInvalidTimeout_kept (hp : Has pp 0x41) (s : State) (hk : zz.Kept pp s) :
    Outcome.Kept pp zz (execFmaxStepInvalidTimeout s) := by
  unfold execFmaxStepInvalidTimeout
  repeat' first
    | with_reducible assumption
    | ((with_reducible refine Has.mono hp ?_); exact rfl)
    | ((with_reducible refine Has.get hp _ ?_); exact rfl)
    | with_reducible intro _
    | with_reducible apply State.fmaxStop_kept
    | with_reducible apply Outcome.Kept.next
    | with_reducible apply Kept.ite
    | with_reducible apply OKept.ite
    | with_reducible refine Kept.ofSnd ?_ (by with_reducible assumption)
    | with_reducible refine Kept.ofSnd2 ?_ (by with_reducible assumption)
    | with_reducible refine Kept.ofFst ?_ (by with_reducible assumption)
    | split
    | dsimp only

theorem execFmaxCommit_kept (hp : Has pp 0x284001e1) (ok : Bool) (s : State) (hk : zz.Kept pp s) :
    Outcome.Kept pp zz (execFmaxCommit ok s) := by
  unfold execFmaxCommit
  repeat' first
    | with_reducible assumption
    | ((with_reducible refine Has.mono hp ?_); exact rfl)
    | ((with_reducible refine Has.get hp _ ?_); exact rfl)
    | with_reducible intro _
    | with_reducible apply State.startCopy_kept
    | with_reducible apply State.fmaxStop_kept
    | with_reducible apply State.commitCopy_kept
    | with_reducible apply State.raise_kept
    | with_reducible apply State.failCopy_kept
    | with_reducible apply Outcome.Kept.next
    | with_reducible apply Kept.ite
    | with_reducible apply OKept.ite
    | with_reducible refine Kept.ofSnd ?_ (by with_reducible assumption)
    | with_reducible refine Kept.ofSnd2 ?_ (by with_reducible assumption)
    | with_reducible refine Kept.ofFst ?_ (by with_reducible assumption)
    | split
    | dsimp only

theorem execFmaxEnd_kept (hp : Has pp 0x8400061) (s : State) (hk : zz.Kept pp s) :
    Outcome.Kept pp zz (execFmaxEnd s) := by
  unfold execFmaxEnd
  repeat' first
    | with_reducible assumption
    | ((with_reducible refine Has.mono hp ?_); exact rfl)
    | ((with_reducible refine Has.get hp _ ?_); exact rfl)
    | with_reducible intro _
    | with_reducible apply State.setF_kept
    | with_reducible apply State.log_kept
    | with_reducible apply State.reply_kept
    | with_reducible apply State.mapMail_kept
    | with_reducible apply State.setFmax_kept
    | with_reducible apply State.mapFmax_kept
    | with_reducible apply State.raise_kept
    | with_reducible apply Outcome.Kept.next
    | with_reducible apply Kept.ite
    | with_reducible apply OKept.ite
    | with_reducible refine Kept.ofSnd ?_ (by with_reducible assumption)
    | with_reducible refine Kept.ofSnd2 ?_ (by with_reducible assumption)
    | with_reducible refine Kept.ofFst ?_ (by with_reducible assumption)
    | split
    | dsimp only

theorem execFmaxAbort_kept (hp : Has pp 0x284000e1) (s : State) (hk : zz.Kept pp s) :
    Outcome.Kept pp zz (execFmaxAbort s) := by
  unfold execFmaxAbort
  repeat' first
    | with_reducible assumption
    | ((with_reducible refine Has.mono hp ?_); exact rfl)
    | ((with_reducible refine Has.get hp _ ?_); exact rfl)
    | with_reducible intro _
    | with_reducible apply State.onOpcode_kept
    | with_reducible apply State.when_kept
    | with_reducible apply State.dropCopy_kept
    | with_reducible apply State.startCopy_kept
    | with_reducible apply State.fmaxStop_kept
    | with_reducible apply State.reply_kept
    | with_reducible apply Outcome.Kept.next
    | with_reducible apply Kept.ite
    | with_reducible apply OKept.ite
    | with_reducible refine Kept.ofSnd ?_ (by with_reducible assumption)
    | with_reducible refine Kept.ofSnd2 ?_ (by with_reducible assumption)
    | with_reducible refine Kept.ofFst ?_ (by with_reducible assumption)
    | split
    | dsimp only
    | with_reducible apply State.Kept.health

theorem execFmaxStatus_kept (hp : Has pp 0x400061) (s : State) (hk : zz.Kept pp s) :
    Outcome.Kept pp zz (execFmaxStatus s) := by
  unfold execFmaxStatus
  repeat' first
    | with_reducible assumption
    | ((with_reducible refine Has.mono hp ?_); exact rfl)
    | ((with_reducible refine Has.get hp _ ?_); exact rfl)
    | with_reducible intro _
    | with_reducible apply State.onOpcode_kept
    | with_reducible apply State.reply_kept
    | with_reducible apply Outcome.Kept.next
    | with_reducible apply Kept.ite
    | with_reducible apply OKept.ite
    | with_reducible refine Kept.ofSnd ?_ (by with_reducible assumption)
    | with_reducible refine Kept.ofSnd2 ?_ (by with_reducible assumption)
    | with_reducible refine Kept.ofFst ?_ (by with_reducible assumption)
    | split
    | dsimp only

end Sys2Proof.Machine
end

