-- ==== Sys2Proof/Laws/KeptPmbus.lean ====
section
/-! SUPPORT. What the functions of Sys2Proof/Machine/Pmbus.lean keep: one lemma for each, by the lemmas of what it calls. -/
namespace Sys2Proof.Machine

variable {pp : Part → Bool} {zz : State}

theorem State.mapPm_kept (hp : Has pp 0x800000) (s : State) (g : Pmbus → Pmbus) (hk : zz.Kept pp s) :
    zz.Kept pp (State.mapPm s g) := by
  unfold State.mapPm
  repeat' first
    | with_reducible assumption
    | ((with_reducible refine Has.mono hp ?_); exact rfl)
    | ((with_reducible refine Has.get hp _ ?_); exact rfl)
    | with_reducible intro _
    | with_reducible apply Outcome.Kept.next
    | with_reducible apply Kept.ite
    | with_reducible apply OKept.ite
    | with_reducible refine Kept.ofSnd ?_ (by with_reducible assumption)
    | with_reducible refine Kept.ofSnd2 ?_ (by with_reducible assumption)
    | with_reducible refine Kept.ofFst ?_ (by with_reducible assumption)
    | split
    | dsimp only
    | with_reducible apply State.Kept.pmbus

theorem State.pmAccept_kept (hp : Has pp 0x800000) (s : State) (hk : zz.Kept pp s) :
    zz.Kept pp (State.pmAccept s) := by
  unfold State.pmAccept
  repeat' first
    | with_reducible assumption
    | ((with_reducible refine Has.mono hp ?_); exact rfl)
    | ((with_reducible refine Has.get hp _ ?_); exact rfl)
    | with_reducible intro _
    | with_reducible apply State.mapPm_kept
    | with_reducible apply Outcome.Kept.next
    | with_reducible apply Kept.ite
    | with_reducible apply OKept.ite
    | with_reducible refine Kept.ofSnd ?_ (by with_reducible assumption)
    | with_reducible refine Kept.ofSnd2 ?_ (by with_reducible assumption)
    | with_reducible refine Kept.ofFst ?_ (by with_reducible assumption)
    | split
    | dsimp only

theorem State.pmAnswer_kept (hp : Has pp 0x800000) (s : State) (code : Nat) (bytes : List Nat) (hk : zz.Kept pp s) :
    zz.Kept pp (State.pmAnswer s code bytes) := by
  unfold State.pmAnswer
  repeat' first
    | with_reducible assumption
    | ((with_reducible refine Has.mono hp ?_); exact rfl)
    | ((with_reducible refine Has.get hp _ ?_); exact rfl)
    | with_reducible intro _
    | with_reducible apply State.mapPm_kept
    | with_reducible apply Outcome.Kept.next
    | with_reducible apply Kept.ite
    | with_reducible apply OKept.ite
    | with_reducible refine Kept.ofSnd ?_ (by with_reducible assumption)
    | with_reducible refine Kept.ofSnd2 ?_ (by with_reducible assumption)
    | with_reducible refine Kept.ofFst ?_ (by with_reducible assumption)
    | split
    | dsimp only

theorem State.pmBlock_kept (hp : Has pp 0x800000) (s : State) (code : Nat) (bytes : List Nat) (hk : zz.Kept pp s) :
    zz.Kept pp (State.pmBlock s code bytes) := by
  unfold State.pmBlock
  repeat' first
    | with_reducible assumption
    | ((with_reducible refine Has.mono hp ?_); exact rfl)
    | ((with_reducible refine Has.get hp _ ?_); exact rfl)
    | with_reducible intro _
    | with_reducible apply State.pmAnswer_kept
    | with_reducible apply Outcome.Kept.next
    | with_reducible apply Kept.ite
    | with_reducible apply OKept.ite
    | with_reducible refine Kept.ofSnd ?_ (by with_reducible assumption)
    | with_reducible refine Kept.ofSnd2 ?_ (by with_reducible assumption)
    | with_reducible refine Kept.ofFst ?_ (by with_reducible assumption)
    | split
    | dsimp only

theorem State.pmNack_kept (hp : Has pp 0x800000) (s : State) (hk : zz.Kept pp s) :
    zz.Kept pp (State.pmNack s) := by
  unfold State.pmNack
  repeat' first
    | with_reducible assumption
    | ((with_reducible refine Has.mono hp ?_); exact rfl)
    | ((with_reducible refine Has.get hp _ ?_); exact rfl)
    | with_reducible intro _
    | with_reducible apply State.mapPm_kept
    | with_reducible apply Outcome.Kept.next
    | with_reducible apply Kept.ite
    | with_reducible apply OKept.ite
    | with_reducible refine Kept.ofSnd ?_ (by with_reducible assumption)
    | with_reducible refine Kept.ofSnd2 ?_ (by with_reducible assumption)
    | with_reducible refine Kept.ofFst ?_ (by with_reducible assumption)
    | split
    | dsimp only

theorem State.onTarget_kept (hp : Has pp 0x800000) (s : State) (g : State → State) (hf : ∀ (t : State), zz.Kept pp t → zz.Kept pp (g t)) (hk : zz.Kept pp s) :
    zz.Kept pp (State.onTarget s g) := by
  unfold State.onTarget
  repeat' first
    | with_reducible assumption
    | ((with_reducible refine Has.mono hp ?_); exact rfl)
    | ((with_reducible refine Has.get hp _ ?_); exact rfl)
    | with_reducible intro _
    | with_reducible apply hf
    | with_reducible apply State.pmNack_kept
    | with_reducible apply Outcome.Kept.next
    | with_reducible apply Kept.ite
    | with_reducible apply OKept.ite
    | with_reducible refine Kept.ofSnd ?_ (by with_reducible assumption)
    | with_reducible refine Kept.ofSnd2 ?_ (by with_reducible assumption)
    | with_reducible refine Kept.ofFst ?_ (by with_reducible assumption)
    | split
    | dsimp only

theorem State.cmlSet_kept (hp : Has pp 0x800010) (s : State) (bit : Nat) (hk : zz.Kept pp s) :
    zz.Kept pp (State.cmlSet s bit) := by
  unfold State.cmlSet
  repeat' first
    | with_reducible assumption
    | ((with_reducible refine Has.mono hp ?_); exact rfl)
    | ((with_reducible refine Has.get hp _ ?_); exact rfl)
    | with_reducible intro _
    | with_reducible apply State.alertOn_kept
    | with_reducible apply State.mapPm_kept
    | with_reducible apply Outcome.Kept.next
    | with_reducible apply Kept.ite
    | with_reducible apply OKept.ite
    | with_reducible refine Kept.ofSnd ?_ (by with_reducible assumption)
    | with_reducible refine Kept.ofSnd2 ?_ (by with_reducible assumption)
    | with_reducible refine Kept.ofFst ?_ (by with_reducible assumption)
    | split
    | dsimp only

theorem State.pmUnsupported_kept (hp : Has pp 0x800010) (s : State) (code : Nat) (n : Nat) (hk : zz.Kept pp s) :
    zz.Kept pp (State.pmUnsupported s code n) := by
  unfold State.pmUnsupported
  repeat' first
    | with_reducible assumption
    | ((with_reducible refine Has.mono hp ?_); exact rfl)
    | ((with_reducible refine Has.get hp _ ?_); exact rfl)
    | with_reducible intro _
    | with_reducible apply State.cmlSet_kept
    | with_reducible apply State.pmAnswer_kept
    | with_reducible apply Outcome.Kept.next
    | with_reducible apply Kept.ite
    | with_reducible apply OKept.ite
    | with_reducible refine Kept.ofSnd ?_ (by with_reducible assumption)
    | with_reducible refine Kept.ofSnd2 ?_ (by with_reducible assumption)
    | with_reducible refine Kept.ofFst ?_ (by with_reducible assumption)
    | split
    | dsimp only

theorem State.pmReading_kept (hp : Has pp 0x800000) (s : State) (code : Nat) (num : Int) (den : Nat) (hk : zz.Kept pp s) :
    zz.Kept pp (State.pmReading s code num den) := by
  unfold State.pmReading
  repeat' first
    | with_reducible assumption
    | ((with_reducible refine Has.mono hp ?_); exact rfl)
    | ((with_reducible refine Has.get hp _ ?_); exact rfl)
    | with_reducible intro _
    | with_reducible apply State.pmAnswer_kept
    | with_reducible apply Outcome.Kept.next
    | with_reducible apply Kept.ite
    | with_reducible apply OKept.ite
    | with_reducible refine Kept.ofSnd ?_ (by with_reducible assumption)
    | with_reducible refine Kept.ofSnd2 ?_ (by with_reducible assumption)
    | with_reducible refine Kept.ofFst ?_ (by with_reducible assumption)
    | split
    | dsimp only

theorem State.pmTemp_kept (hp : Has pp 0x800010) (s : State) (code : Nat) (v : Nat) (hk : zz.Kept pp s) :
    zz.Kept pp (State.pmTemp s code v) := by
  unfold State.pmTemp
  repeat' first
    | with_reducible assumption
    | ((with_reducible refine Has.mono hp ?_); exact rfl)
    | ((with_reducible refine Has.get hp _ ?_); exact rfl)
    | with_reducible intro _
    | with_reducible apply State.pmUnsupported_kept
    | with_reducible apply State.pmReading_kept
    | with_reducible apply Outcome.Kept.next
    | with_reducible apply Kept.ite
    | with_reducible apply OKept.ite
    | with_reducible refine Kept.ofSnd ?_ (by with_reducible assumption)
    | with_reducible refine Kept.ofSnd2 ?_ (by with_reducible assumption)
    | with_reducible refine Kept.ofFst ?_ (by with_reducible assumption)
    | split
    | dsimp only

theorem execPmPage_kept (hp : Has pp 0x800010) (page : Option Byte) (pec : Option Byte) (s : State) (hk : zz.Kept pp s) :
    Outcome.Kept pp zz (execPmPage page pec s) := by
  unfold execPmPage
  repeat' first
    | with_reducible assumption
    | ((with_reducible refine Has.mono hp ?_); exact rfl)
    | ((with_reducible refine Has.get hp _ ?_); exact rfl)
    | with_reducible intro _
    | with_reducible apply State.onTarget_kept
    | with_reducible apply State.pmAnswer_kept
    | with_reducible apply State.pmAccept_kept
    | with_reducible apply State.cmlSet_kept
    | with_reducible apply State.mapPm_kept
    | with_reducible apply Outcome.Kept.next
    | with_reducible apply Kept.ite
    | with_reducible apply OKept.ite
    | with_reducible refine Kept.ofSnd ?_ (by with_reducible assumption)
    | with_reducible refine Kept.ofSnd2 ?_ (by with_reducible assumption)
    | with_reducible refine Kept.ofFst ?_ (by with_reducible assumption)
    | split
    | dsimp only

theorem execPmClearFaults_kept (hp : Has pp 0x800010) (pec : Option Byte) (s : State) (hk : zz.Kept pp s) :
    Outcome.Kept pp zz (execPmClearFaults pec s) := by
  unfold execPmClearFaults
  repeat' first
    | with_reducible assumption
    | ((with_reducible refine Has.mono hp ?_); exact rfl)
    | ((with_reducible refine Has.get hp _ ?_); exact rfl)
    | with_reducible exact (rfl : _ = _)
    | with_reducible exact id
    | (((with_reducible intro _); rfl))
    | with_reducible intro _
    | with_reducible apply State.onTarget_kept
    | with_reducible apply State.pmAccept_kept
    | with_reducible apply State.cmlSet_kept
    | with_reducible apply State.mapPm_kept
    | with_reducible apply Outcome.Kept.next
    | with_reducible apply Kept.ite
    | with_reducible apply OKept.ite
    | with_reducible refine Kept.ofSnd ?_ (by with_reducible assumption)
    | with_reducible refine Kept.ofSnd2 ?_ (by with_reducible assumption)
    | with_reducible refine Kept.ofFst ?_ (by with_reducible assumption)
    | split
    | dsimp only
    | with_reducible apply State.Kept.pins

theorem execPmCapability_kept (hp : Has pp 0x800000) (s : State) (hk : zz.Kept pp s) :
    Outcome.Kept pp zz (execPmCapability s) := by
  unfold execPmCapability
  repeat' first
    | with_reducible assumption
    | ((with_reducible refine Has.mono hp ?_); exact rfl)
    | ((with_reducible refine Has.get hp _ ?_); exact rfl)
    | with_reducible intro _
    | with_reducible apply State.onTarget_kept
    | with_reducible apply State.pmAnswer_kept
    | with_reducible apply Outcome.Kept.next
    | with_reducible apply Kept.ite
    | with_reducible apply OKept.ite
    | with_reducible refine Kept.ofSnd ?_ (by with_reducible assumption)
    | with_reducible refine Kept.ofSnd2 ?_ (by with_reducible assumption)
    | with_reducible refine Kept.ofFst ?_ (by with_reducible assumption)
    | split
    | dsimp only

theorem execPmVoutMode_kept (hp : Has pp 0x800010) (s : State) (hk : zz.Kept pp s) :
    Outcome.Kept pp zz (execPmVoutMode s) := by
  unfold execPmVoutMode
  repeat' first
    | with_reducible assumption
    | ((with_reducible refine Has.mono hp ?_); exact rfl)
    | ((with_reducible refine Has.get hp _ ?_); exact rfl)
    | with_reducible intro _
    | with_reducible apply State.onTarget_kept
    | with_reducible apply State.pmUnsupported_kept
    | with_reducible apply State.pmAnswer_kept
    | with_reducible apply Outcome.Kept.next
    | with_reducible apply Kept.ite
    | with_reducible apply OKept.ite
    | with_reducible refine Kept.ofSnd ?_ (by with_reducible assumption)
    | with_reducible refine Kept.ofSnd2 ?_ (by with_reducible assumption)
    | with_reducible refine Kept.ofFst ?_ (by with_reducible assumption)
    | split
    | dsimp only

theorem execPmStatusByte_kept (hp : Has pp 0x800000) (s : State) (hk : zz.Kept pp s) :
    Outcome.Kept pp zz (execPmStatusByte s) := by
  unfold execPmStatusByte
  repeat' first
    | with_reducible assumption
    | ((with_reducible refine Has.mono hp ?_); exact rfl)
    | ((with_reducible refine Has.get hp _ ?_); exact rfl)
    | with_reducible intro _
    | with_reducible apply State.onTarget_kept
    | with_reducible apply State.pmAnswer_kept
    | with_reducible apply Outcome.Kept.next
    | with_reducible apply Kept.ite
    | with_reducible apply OKept.ite
    | with_reducible refine Kept.ofSnd ?_ (by with_reducible assumption)
    | with_reducible refine Kept.ofSnd2 ?_ (by with_reducible assumption)
    | with_reducible refine Kept.ofFst ?_ (by with_reducible assumption)
    | split
    | dsimp only

theorem execPmStatusWord_kept (hp : Has pp 0x800000) (s : State) (hk : zz.Kept pp s) :
    Outcome.Kept pp zz (execPmStatusWord s) := by
  unfold execPmStatusWord
  repeat' first
    | with_reducible assumption
    | ((with_reducible refine Has.mono hp ?_); exact rfl)
    | ((with_reducible refine Has.get hp _ ?_); exact rfl)
    | with_reducible intro _
    | with_reducible apply State.onTarget_kept
    | with_reducible apply State.pmAnswer_kept
    | with_reducible apply Outcome.Kept.next
    | with_reducible apply Kept.ite
    | with_reducible apply OKept.ite
    | with_reducible refine Kept.ofSnd ?_ (by with_reducible assumption)
    | with_reducible refine Kept.ofSnd2 ?_ (by with_reducible assumption)
    | with_reducible refine Kept.ofFst ?_ (by with_reducible assumption)
    | split
    | dsimp only

theorem execPmStatusVout_kept (hp : Has pp 0x800000) (s : State) (hk : zz.Kept pp s) :
    Outcome.Kept pp zz (execPmStatusVout s) := by
  unfold execPmStatusVout
  repeat' first
    | with_reducible assumption
    | ((with_reducible refine Has.mono hp ?_); exact rfl)
    | ((with_reducible refine Has.get hp _ ?_); exact rfl)
    | with_reducible intro _
    | with_reducible apply State.onTarget_kept
    | with_reducible apply State.pmAnswer_kept
    | with_reducible apply Outcome.Kept.next
    | with_reducible apply Kept.ite
    | with_reducible apply OKept.ite
    | with_reducible refine Kept.ofSnd ?_ (by with_reducible assumption)
    | with_reducible refine Kept.ofSnd2 ?_ (by with_reducible assumption)
    | with_reducible refine Kept.ofFst ?_ (by with_reducible assumption)
    | split
    | dsimp only

theorem execPmStatusIout_kept (hp : Has pp 0x800000) (s : State) (hk : zz.Kept pp s) :
    Outcome.Kept pp zz (execPmStatusIout s) := by
  unfold execPmStatusIout
  repeat' first
    | with_reducible assumption
    | ((with_reducible refine Has.mono hp ?_); exact rfl)
    | ((with_reducible refine Has.get hp _ ?_); exact rfl)
    | with_reducible intro _
    | with_reducible apply State.onTarget_kept
    | with_reducible apply State.pmAnswer_kept
    | with_reducible apply Outcome.Kept.next
    | with_reducible apply Kept.ite
    | with_reducible apply OKept.ite
    | with_reducible refine Kept.ofSnd ?_ (by with_reducible assumption)
    | with_reducible refine Kept.ofSnd2 ?_ (by with_reducible assumption)
    | with_reducible refine Kept.ofFst ?_ (by with_reducible assumption)
    | split
    | dsimp only

theorem execPmStatusTemperature_kept (hp : Has pp 0x800000) (s : State) (hk : zz.Kept pp s) :
    Outcome.Kept pp zz (execPmStatusTemperature s) := by
  unfold execPmStatusTemperature
  repeat' first
    | with_reducible assumption
    | ((with_reducible refine Has.mono hp ?_); exact rfl)
    | ((with_reducible refine Has.get hp _ ?_); exact rfl)
    | with_reducible intro _
    | with_reducible apply State.onTarget_kept
    | with_reducible apply State.pmAnswer_kept
    | with_reducible apply Outcome.Kept.next
    | with_reducible apply Kept.ite
    | with_reducible apply OKept.ite
    | with_reducible refine Kept.ofSnd ?_ (by with_reducible assumption)
    | with_reducible refine Kept.ofSnd2 ?_ (by with_reducible assumption)
    | with_reducible refine Kept.ofFst ?_ (by with_reducible assumption)
    | split
    | dsimp only

theorem execPmStatusCml_kept (hp : Has pp 0x800000) (s : State) (hk : zz.Kept pp s) :
    Outcome.Kept pp zz (execPmStatusCml s) := by
  unfold execPmStatusCml
  repeat' first
    | with_reducible assumption
    | ((with_reducible refine Has.mono hp ?_); exact rfl)
    | ((with_reducible refine Has.get hp _ ?_); exact rfl)
    | with_reducible intro _
    | with_reducible apply State.onTarget_kept
    | with_reducible apply State.pmAnswer_kept
    | with_reducible apply Outcome.Kept.next
    | with_reducible apply Kept.ite
    | with_reducible apply OKept.ite
    | with_reducible refine Kept.ofSnd ?_ (by with_reducible assumption)
    | with_reducible refine Kept.ofSnd2 ?_ (by with_reducible assumption)
    | with_reducible refine Kept.ofFst ?_ (by with_reducible assumption)
    | split
    | dsimp only

theorem execPmStatusMfrSpecific_kept (hp : Has pp 0x800000) (s : State) (hk : zz.Kept pp s) :
    Outcome.Kept pp zz (execPmStatusMfrSpecific s) := by
  unfold execPmStatusMfrSpecific
  repeat' first
    | with_reducible assumption
    | ((with_reducible refine Has.mono hp ?_); exact rfl)
    | ((with_reducible refine Has.get hp _ ?_); exact rfl)
    | with_reducible intro _
    | with_reducible apply State.onTarget_kept
    | with_reducible apply State.pmAnswer_kept
    | with_reducible apply Outcome.Kept.next
    | with_reducible apply Kept.ite
    | with_reducible apply OKept.ite
    | with_reducible refine Kept.ofSnd ?_ (by with_reducible assumption)
    | with_reducible refine Kept.ofSnd2 ?_ (by with_reducible assumption)
    | with_reducible refine Kept.ofFst ?_ (by with_reducible assumption)
    | split
    | dsimp only

theorem execPmReadVin_kept (hp : Has pp 0x20800000) (s : State) (hk : zz.Kept pp s) :
    Outcome.Kept pp zz (execPmReadVin s) := by
  unfold execPmReadVin
  repeat' first
    | with_reducible assumption
    | ((with_reducible refine Has.mono hp ?_); exact rfl)
    | ((with_reducible refine Has.get hp _ ?_); exact rfl)
    | with_reducible intro _
    | with_reducible apply State.onTarget_kept
    | with_reducible apply State.pmReading_kept
    | with_reducible apply State.drawFree_kept
    | with_reducible apply State.pmAnswer_kept
    | with_reducible apply Outcome.Kept.next
    | with_reducible apply Kept.ite
    | with_reducible apply OKept.ite
    | with_reducible refine Kept.ofSnd ?_ (by with_reducible assumption)
    | with_reducible refine Kept.ofSnd2 ?_ (by with_reducible assumption)
    | with_reducible refine Kept.ofFst ?_ (by with_reducible assumption)
    | split
    | dsimp only

theorem execPmReadVout_kept (hp : Has pp 0x800010) (s : State) (hk : zz.Kept pp s) :
    Outcome.Kept pp zz (execPmReadVout s) := by
  unfold execPmReadVout
  repeat' first
    | with_reducible assumption
    | ((with_reducible refine Has.mono hp ?_); exact rfl)
    | ((with_reducible refine Has.get hp _ ?_); exact rfl)
    | with_reducible intro _
    | with_reducible apply State.onTarget_kept
    | with_reducible apply State.pmUnsupported_kept
    | with_reducible apply State.pmAnswer_kept
    | with_reducible apply Outcome.Kept.next
    | with_reducible apply Kept.ite
    | with_reducible apply OKept.ite
    | with_reducible refine Kept.ofSnd ?_ (by with_reducible assumption)
    | with_reducible refine Kept.ofSnd2 ?_ (by with_reducible assumption)
    | with_reducible refine Kept.ofFst ?_ (by with_reducible assumption)
    | split
    | dsimp only

theorem execPmReadIout_kept (hp : Has pp 0x800010) (s : State) (hk : zz.Kept pp s) :
    Outcome.Kept pp zz (execPmReadIout s) := by
  unfold execPmReadIout
  repeat' first
    | with_reducible assumption
    | ((with_reducible refine Has.mono hp ?_); exact rfl)
    | ((with_reducible refine Has.get hp _ ?_); exact rfl)
    | with_reducible intro _
    | with_reducible apply State.onTarget_kept
    | with_reducible apply State.pmUnsupported_kept
    | with_reducible apply State.pmReading_kept
    | with_reducible apply Outcome.Kept.next
    | with_reducible apply Kept.ite
    | with_reducible apply OKept.ite
    | with_reducible refine Kept.ofSnd ?_ (by with_reducible assumption)
    | with_reducible refine Kept.ofSnd2 ?_ (by with_reducible assumption)
    | with_reducible refine Kept.ofFst ?_ (by with_reducible assumption)
    | split
    | dsimp only

theorem execPmReadTemperature1_kept (hp : Has pp 0x800010) (s : State) (hk : zz.Kept pp s) :
    Outcome.Kept pp zz (execPmReadTemperature1 s) := by
  unfold execPmReadTemperature1
  repeat' first
    | with_reducible assumption
    | ((with_reducible refine Has.mono hp ?_); exact rfl)
    | ((with_reducible refine Has.get hp _ ?_); exact rfl)
    | with_reducible intro _
    | with_reducible apply State.onTarget_kept
    | with_reducible apply State.pmTemp_kept
    | with_reducible apply Outcome.Kept.next
    | with_reducible apply Kept.ite
    | with_reducible apply OKept.ite
    | with_reducible refine Kept.ofSnd ?_ (by with_reducible assumption)
    | with_reducible refine Kept.ofSnd2 ?_ (by with_reducible assumption)
    | with_reducible refine Kept.ofFst ?_ (by with_reducible assumption)
    | split
    | dsimp only

theorem execPmReadTemperature2_kept (hp : Has pp 0x800010) (s : State) (hk : zz.Kept pp s) :
    Outcome.Kept pp zz (execPmReadTemperature2 s) := by
  unfold execPmReadTemperature2
  repeat' first
    | with_reducible assumption
    | ((with_reducible refine Has.mono hp ?_); exact rfl)
    | ((with_reducible refine Has.get hp _ ?_); exact rfl)
    | with_reducible intro _
    | with_reducible apply State.onTarget_kept
    | with_reducible apply State.pmTemp_kept
    | with_reducible apply State.pmUnsupported_kept
    | with_reducible apply Outcome.Kept.next
    | with_reducible apply Kept.ite
    | with_reducible apply OKept.ite
    | with_reducible refine Kept.ofSnd ?_ (by with_reducible assumption)
    | with_reducible refine Kept.ofSnd2 ?_ (by with_reducible assumption)
    | with_reducible refine Kept.ofFst ?_ (by with_reducible assumption)
    | split
    | dsimp only

theorem execPmReadTemperature3_kept (hp : Has pp 0x800010) (s : State) (hk : zz.Kept pp s) :
    Outcome.Kept pp zz (execPmReadTemperature3 s) := by
  unfold execPmReadTemperature3
  repeat' first
    | with_reducible assumption
    | ((with_reducible refine Has.mono hp ?_); exact rfl)
    | ((with_reducible refine Has.get hp _ ?_); exact rfl)
    | with_reducible intro _
    | with_reducible apply State.onTarget_kept
    | with_reducible apply State.pmTemp_kept
    | with_reducible apply State.pmUnsupported_kept
    | with_reducible apply Outcome.Kept.next
    | with_reducible apply Kept.ite
    | with_reducible apply OKept.ite
    | with_reducible refine Kept.ofSnd ?_ (by with_reducible assumption)
    | with_reducible refine Kept.ofSnd2 ?_ (by with_reducible assumption)
    | with_reducible refine Kept.ofFst ?_ (by with_reducible assumption)
    | split
    | dsimp only

theorem execPmReadPout_kept (hp : Has pp 0x800000) (s : State) (hk : zz.Kept pp s) :
    Outcome.Kept pp zz (execPmReadPout s) := by
  unfold execPmReadPout
  repeat' first
    | with_reducible assumption
    | ((with_reducible refine Has.mono hp ?_); exact rfl)
    | ((with_reducible refine Has.get hp _ ?_); exact rfl)
    | with_reducible intro _
    | with_reducible apply State.onTarget_kept
    | with_reducible apply State.pmReading_kept
    | with_reducible apply Outcome.Kept.next
    | with_reducible apply Kept.ite
    | with_reducible apply OKept.ite
    | with_reducible refine Kept.ofSnd ?_ (by with_reducible assumption)
    | with_reducible refine Kept.ofSnd2 ?_ (by with_reducible assumption)
    | with_reducible refine Kept.ofFst ?_ (by with_reducible assumption)
    | split
    | dsimp only

theorem execPmRevision_kept (hp : Has pp 0x800000) (s : State) (hk : zz.Kept pp s) :
    Outcome.Kept pp zz (execPmRevision s) := by
  unfold execPmRevision
  repeat' first
    | with_reducible assumption
    | ((with_reducible refine Has.mono hp ?_); exact rfl)
    | ((with_reducible refine Has.get hp _ ?_); exact rfl)
    | with_reducible intro _
    | with_reducible apply State.onTarget_kept
    | with_reducible apply State.pmAnswer_kept
    | with_reducible apply Outcome.Kept.next
    | with_reducible apply Kept.ite
    | with_reducible apply OKept.ite
    | with_reducible refine Kept.ofSnd ?_ (by with_reducible assumption)
    | with_reducible refine Kept.ofSnd2 ?_ (by with_reducible assumption)
    | with_reducible refine Kept.ofFst ?_ (by with_reducible assumption)
    | split
    | dsimp only

theorem execPmMfrId_kept (hp : Has pp 0x800000) (s : State) (hk : zz.Kept pp s) :
    Outcome.Kept pp zz (execPmMfrId s) := by
  unfold execPmMfrId
  repeat' first
    | with_reducible assumption
    | ((with_reducible refine Has.mono hp ?_); exact rfl)
    | ((with_reducible refine Has.get hp _ ?_); exact rfl)
    | with_reducible intro _
    | with_reducible apply State.onTarget_kept
    | with_reducible apply State.pmBlock_kept
    | with_reducible apply Outcome.Kept.next
    | with_reducible apply Kept.ite
    | with_reducible apply OKept.ite
    | with_reducible refine Kept.ofSnd ?_ (by with_reducible assumption)
    | with_reducible refine Kept.ofSnd2 ?_ (by with_reducible assumption)
    | with_reducible refine Kept.ofFst ?_ (by with_reducible assumption)
    | split
    | dsimp only

theorem execPmMfrModel_kept (hp : Has pp 0x800000) (s : State) (hk : zz.Kept pp s) :
    Outcome.Kept pp zz (execPmMfrModel s) := by
  unfold execPmMfrModel
  repeat' first
    | with_reducible assumption
    | ((with_reducible refine Has.mono hp ?_); exact rfl)
    | ((with_reducible refine Has.get hp _ ?_); exact rfl)
    | with_reducible intro _
    | with_reducible apply State.onTarget_kept
    | with_reducible apply State.pmBlock_kept
    | with_reducible apply Outcome.Kept.next
    | with_reducible apply Kept.ite
    | with_reducible apply OKept.ite
    | with_reducible refine Kept.ofSnd ?_ (by with_reducible assumption)
    | with_reducible refine Kept.ofSnd2 ?_ (by with_reducible assumption)
    | with_reducible refine Kept.ofFst ?_ (by with_reducible assumption)
    | split
    | dsimp only

theorem execPmMfrRevision_kept (hp : Has pp 0x800000) (s : State) (hk : zz.Kept pp s) :
    Outcome.Kept pp zz (execPmMfrRevision s) := by
  unfold execPmMfrRevision
  repeat' first
    | with_reducible assumption
    | ((with_reducible refine Has.mono hp ?_); exact rfl)
    | ((with_reducible refine Has.get hp _ ?_); exact rfl)
    | with_reducible intro _
    | with_reducible apply State.onTarget_kept
    | with_reducible apply State.pmBlock_kept
    | with_reducible apply Outcome.Kept.next
    | with_reducible apply Kept.ite
    | with_reducible apply OKept.ite
    | with_reducible refine Kept.ofSnd ?_ (by with_reducible assumption)
    | with_reducible refine Kept.ofSnd2 ?_ (by with_reducible assumption)
    | with_reducible refine Kept.ofFst ?_ (by with_reducible assumption)
    | split
    | dsimp only

theorem execNvFleet_kept (hp : Has pp 0x800000) (s : State) (hk : zz.Kept pp s) :
    Outcome.Kept pp zz (execNvFleet s) := by
  unfold execNvFleet
  repeat' first
    | with_reducible assumption
    | ((with_reducible refine Has.mono hp ?_); exact rfl)
    | ((with_reducible refine Has.get hp _ ?_); exact rfl)
    | with_reducible intro _
    | with_reducible apply State.onTarget_kept
    | with_reducible apply State.pmBlock_kept
    | with_reducible apply Outcome.Kept.next
    | with_reducible apply Kept.ite
    | with_reducible apply OKept.ite
    | with_reducible refine Kept.ofSnd ?_ (by with_reducible assumption)
    | with_reducible refine Kept.ofSnd2 ?_ (by with_reducible assumption)
    | with_reducible refine Kept.ofFst ?_ (by with_reducible assumption)
    | split
    | dsimp only

theorem execNvBrakeWrite_kept (hp : Has pp 0xc00031) (word : BitVec 16) (pec : Option Byte) (s : State) (hk : zz.Kept pp s) :
    Outcome.Kept pp zz (execNvBrakeWrite word pec s) := by
  unfold execNvBrakeWrite
  repeat' first
    | with_reducible assumption
    | ((with_reducible refine Has.mono hp ?_); exact rfl)
    | ((with_reducible refine Has.get hp _ ?_); exact rfl)
    | with_reducible intro _
    | with_reducible apply State.onTarget_kept
    | with_reducible apply State.pmAccept_kept
    | with_reducible apply State.cmlSet_kept
    | with_reducible apply State.settleBrake_kept
    | with_reducible apply State.setF_kept
    | with_reducible apply Outcome.Kept.next
    | with_reducible apply Kept.ite
    | with_reducible apply OKept.ite
    | with_reducible refine Kept.ofSnd ?_ (by with_reducible assumption)
    | with_reducible refine Kept.ofSnd2 ?_ (by with_reducible assumption)
    | with_reducible refine Kept.ofFst ?_ (by with_reducible assumption)
    | split
    | dsimp only

theorem execNvBrakeRead_kept (hp : Has pp 0x800000) (s : State) (hk : zz.Kept pp s) :
    Outcome.Kept pp zz (execNvBrakeRead s) := by
  unfold execNvBrakeRead
  repeat' first
    | with_reducible assumption
    | ((with_reducible refine Has.mono hp ?_); exact rfl)
    | ((with_reducible refine Has.get hp _ ?_); exact rfl)
    | with_reducible intro _
    | with_reducible apply State.onTarget_kept
    | with_reducible apply State.pmAnswer_kept
    | with_reducible apply Outcome.Kept.next
    | with_reducible apply Kept.ite
    | with_reducible apply OKept.ite
    | with_reducible refine Kept.ofSnd ?_ (by with_reducible assumption)
    | with_reducible refine Kept.ofSnd2 ?_ (by with_reducible assumption)
    | with_reducible refine Kept.ofFst ?_ (by with_reducible assumption)
    | split
    | dsimp only

theorem execNvBridgeTx_kept (hp : Has pp 0x800011) (bytes : List Byte) (pec : Option Byte) (s : State) (hk : zz.Kept pp s) :
    Outcome.Kept pp zz (execNvBridgeTx bytes pec s) := by
  unfold execNvBridgeTx
  repeat' first
    | with_reducible assumption
    | ((with_reducible refine Has.mono hp ?_); exact rfl)
    | ((with_reducible refine Has.get hp _ ?_); exact rfl)
    | with_reducible intro _
    | with_reducible apply State.onTarget_kept
    | with_reducible apply State.cmlSet_kept
    | with_reducible apply State.pmNack_kept
    | with_reducible apply State.pmAccept_kept
    | with_reducible apply State.forEach_kept
    | with_reducible apply State.setF_kept
    | with_reducible apply Outcome.Kept.next
    | with_reducible apply Kept.ite
    | with_reducible apply OKept.ite
    | with_reducible refine Kept.ofSnd ?_ (by with_reducible assumption)
    | with_reducible refine Kept.ofSnd2 ?_ (by with_reducible assumption)
    | with_reducible refine Kept.ofFst ?_ (by with_reducible assumption)
    | split
    | dsimp only

theorem execNvBridgeRx_kept (hp : Has pp 0x800001) (complete : Bool) (s : State) (hk : zz.Kept pp s) :
    Outcome.Kept pp zz (execNvBridgeRx complete s) := by
  unfold execNvBridgeRx
  repeat' first
    | with_reducible assumption
    | ((with_reducible refine Has.mono hp ?_); exact rfl)
    | ((with_reducible refine Has.get hp _ ?_); exact rfl)
    | with_reducible intro _
    | with_reducible apply State.onTarget_kept
    | with_reducible apply State.pmBlock_kept
    | with_reducible apply State.when_kept
    | with_reducible apply State.setF_kept
    | with_reducible apply Outcome.Kept.next
    | with_reducible apply Kept.ite
    | with_reducible apply OKept.ite
    | with_reducible refine Kept.ofSnd ?_ (by with_reducible assumption)
    | with_reducible refine Kept.ofSnd2 ?_ (by with_reducible assumption)
    | with_reducible refine Kept.ofFst ?_ (by with_reducible assumption)
    | split
    | dsimp only

theorem execNvIdentity_kept (hp : Has pp 0x800000) (s : State) (hk : zz.Kept pp s) :
    Outcome.Kept pp zz (execNvIdentity s) := by
  unfold execNvIdentity
  repeat' first
    | with_reducible assumption
    | ((with_reducible refine Has.mono hp ?_); exact rfl)
    | ((with_reducible refine Has.get hp _ ?_); exact rfl)
    | with_reducible intro _
    | with_reducible apply State.onTarget_kept
    | with_reducible apply State.pmBlock_kept
    | with_reducible apply Outcome.Kept.next
    | with_reducible apply Kept.ite
    | with_reducible apply OKept.ite
    | with_reducible refine Kept.ofSnd ?_ (by with_reducible assumption)
    | with_reducible refine Kept.ofSnd2 ?_ (by with_reducible assumption)
    | with_reducible refine Kept.ofFst ?_ (by with_reducible assumption)
    | split
    | dsimp only

theorem execAlertResponse_kept (hp : Has pp 0x800010) (s : State) (hk : zz.Kept pp s) :
    Outcome.Kept pp zz (execAlertResponse s) := by
  unfold execAlertResponse
  repeat' first
    | with_reducible assumption
    | ((with_reducible refine Has.mono hp ?_); exact rfl)
    | ((with_reducible refine Has.get hp _ ?_); exact rfl)
    | with_reducible exact (rfl : _ = _)
    | with_reducible exact id
    | (((with_reducible intro _); rfl))
    | with_reducible intro _
    | with_reducible apply State.onTarget_kept
    | with_reducible apply State.pmNack_kept
    | with_reducible apply State.mapPm_kept
    | with_reducible apply Outcome.Kept.next
    | with_reducible apply Kept.ite
    | with_reducible apply OKept.ite
    | with_reducible refine Kept.ofSnd ?_ (by with_reducible assumption)
    | with_reducible refine Kept.ofSnd2 ?_ (by with_reducible assumption)
    | with_reducible refine Kept.ofFst ?_ (by with_reducible assumption)
    | split
    | dsimp only
    | with_reducible apply State.Kept.pins

theorem execPmUnsupported_kept (hp : Has pp 0x800010) (code : Byte) (s : State) (hk : zz.Kept pp s) :
    Outcome.Kept pp zz (execPmUnsupported code s) := by
  unfold execPmUnsupported
  repeat' first
    | with_reducible assumption
    | ((with_reducible refine Has.mono hp ?_); exact rfl)
    | ((with_reducible refine Has.get hp _ ?_); exact rfl)
    | with_reducible intro _
    | with_reducible apply State.onTarget_kept
    | with_reducible apply State.cmlSet_kept
    | with_reducible apply State.pmNack_kept
    | with_reducible apply Outcome.Kept.next
    | with_reducible apply Kept.ite
    | with_reducible apply OKept.ite
    | with_reducible refine Kept.ofSnd ?_ (by with_reducible assumption)
    | with_reducible refine Kept.ofSnd2 ?_ (by with_reducible assumption)
    | with_reducible refine Kept.ofFst ?_ (by with_reducible assumption)
    | split
    | dsimp only

theorem execSmbusSclTimeout_kept (hp : Has pp 0x800000) (lowUs : Nat) (s : State) (hk : zz.Kept pp s) :
    Outcome.Kept pp zz (execSmbusSclTimeout lowUs s) := by
  unfold execSmbusSclTimeout
  repeat' first
    | with_reducible assumption
    | ((with_reducible refine Has.mono hp ?_); exact rfl)
    | ((with_reducible refine Has.get hp _ ?_); exact rfl)
    | with_reducible intro _
    | with_reducible apply State.resetTarget_kept
    | with_reducible apply Outcome.Kept.next
    | with_reducible apply Kept.ite
    | with_reducible apply OKept.ite
    | with_reducible refine Kept.ofSnd ?_ (by with_reducible assumption)
    | with_reducible refine Kept.ofSnd2 ?_ (by with_reducible assumption)
    | with_reducible refine Kept.ofFst ?_ (by with_reducible assumption)
    | split
    | dsimp only

end Sys2Proof.Machine
end

