-- ==== Sys2Proof/Laws/KeptResets.lean ====
section
/-! SUPPORT. What the functions of Sys2Proof/Machine/Resets.lean keep: one lemma for each, by the lemmas of what it calls. -/
namespace Sys2Proof.Machine

variable {pp : Part → Bool} {zz : State}

theorem State.coldStart_kept (hp : Has pp 0x3ffffffff) (s : State) (straps : Straps) (hk : zz.Kept pp s) :
    zz.Kept pp (s.coldStart straps) :=
  State.setF_kept (Has.mono hp rfl) _ _ _ (State.flagF_kept (Has.mono hp rfl) _ _ _ (State.setF_kept (Has.mono hp rfl) _ _ _
    ⟨hk.1, fun _ => ⟨⟨List.Pairwise.nil, fun _ h => absurd h List.not_mem_nil⟩, List.Pairwise.nil,
      fun _ h => absurd h List.not_mem_nil⟩, fun x hx => absurd (hp x (by cases x <;> rfl)) (by simp [hx])⟩))

theorem State.coldReset_kept (hp : Has pp 0x3ffffffff) (s : State) (straps : Straps) (hk : zz.Kept pp s) :
    zz.Kept pp (State.coldReset s straps) := by
  unfold State.coldReset
  repeat' first
    | with_reducible assumption
    | ((with_reducible refine Has.mono hp ?_); exact rfl)
    | ((with_reducible refine Has.get hp _ ?_); exact rfl)
    | with_reducible intro _
    | with_reducible apply State.coldStart_kept
    | with_reducible apply State.abortWork_kept
    | with_reducible apply State.workNow_kept
    | with_reducible apply Outcome.Kept.next
    | with_reducible apply Kept.ite
    | with_reducible apply OKept.ite
    | with_reducible refine Kept.ofSnd ?_ (by with_reducible assumption)
    | with_reducible refine Kept.ofSnd2 ?_ (by with_reducible assumption)
    | with_reducible refine Kept.ofFst ?_ (by with_reducible assumption)
    | split
    | dsimp only

theorem execColdReset_kept (hp : Has pp 0x3ffffffff) (lowNs : Nat) (straps : Straps) (s : State) (hk : zz.Kept pp s) :
    Outcome.Kept pp zz (execColdReset lowNs straps s) := by
  unfold execColdReset
  repeat' first
    | with_reducible assumption
    | ((with_reducible refine Has.mono hp ?_); exact rfl)
    | ((with_reducible refine Has.get hp _ ?_); exact rfl)
    | with_reducible intro _
    | with_reducible apply State.coldReset_kept
    | with_reducible apply Outcome.Kept.next
    | with_reducible apply Kept.ite
    | with_reducible apply OKept.ite
    | with_reducible refine Kept.ofSnd ?_ (by with_reducible assumption)
    | with_reducible refine Kept.ofSnd2 ?_ (by with_reducible assumption)
    | with_reducible refine Kept.ofFst ?_ (by with_reducible assumption)
    | split
    | dsimp only

theorem execSupplyMonitorReset_kept (hp : Has pp 0x3ffffffff) (millivolts : Nat) (straps : Straps) (s : State) (hk : zz.Kept pp s) :
    Outcome.Kept pp zz (execSupplyMonitorReset millivolts straps s) := by
  unfold execSupplyMonitorReset
  repeat' first
    | with_reducible assumption
    | ((with_reducible refine Has.mono hp ?_); exact rfl)
    | ((with_reducible refine Has.get hp _ ?_); exact rfl)
    | with_reducible intro _
    | with_reducible apply State.coldReset_kept
    | with_reducible apply Outcome.Kept.next
    | with_reducible apply Kept.ite
    | with_reducible apply OKept.ite
    | with_reducible refine Kept.ofSnd ?_ (by with_reducible assumption)
    | with_reducible refine Kept.ofSnd2 ?_ (by with_reducible assumption)
    | with_reducible refine Kept.ofFst ?_ (by with_reducible assumption)
    | split
    | dsimp only

theorem State.faultWaits_kept (hp : Has pp 0x220204001) (s : State) (hk : zz.Kept pp s) :
    zz.Kept pp (State.faultWaits s) := by
  unfold State.faultWaits
  repeat' first
    | with_reducible assumption
    | ((with_reducible refine Has.mono hp ?_); exact rfl)
    | ((with_reducible refine Has.get hp _ ?_); exact rfl)
    | with_reducible intro _
    | with_reducible apply State.when_kept
    | with_reducible apply State.forEach_kept
    | with_reducible apply State.sendRelease_kept
    | with_reducible apply State.finish_kept
    | with_reducible apply State.endRecord_kept
    | with_reducible apply State.tryCollect_kept
    | with_reducible apply State.deliverOpen_kept
    | with_reducible apply State.sendDie_kept
    | with_reducible apply Outcome.Kept.next
    | with_reducible apply Kept.ite
    | with_reducible apply OKept.ite
    | with_reducible refine Kept.ofSnd ?_ (by with_reducible assumption)
    | with_reducible refine Kept.ofSnd2 ?_ (by with_reducible assumption)
    | with_reducible refine Kept.ofFst ?_ (by with_reducible assumption)
    | split
    | dsimp only
    | with_reducible apply State.Kept.sync

theorem State.clearSync_kept (hp : Has pp 0x600001) (s : State) (hk : zz.Kept pp s) :
    zz.Kept pp (State.clearSync s) := by
  unfold State.clearSync
  repeat' first
    | with_reducible assumption
    | ((with_reducible refine Has.mono hp ?_); exact rfl)
    | ((with_reducible refine Has.get hp _ ?_); exact rfl)
    | with_reducible intro _
    | with_reducible apply State.setF_kept
    | with_reducible apply State.clearRange_kept
    | with_reducible apply State.eccClear_kept
    | with_reducible apply Outcome.Kept.next
    | with_reducible apply Kept.ite
    | with_reducible apply OKept.ite
    | with_reducible refine Kept.ofSnd ?_ (by with_reducible assumption)
    | with_reducible refine Kept.ofSnd2 ?_ (by with_reducible assumption)
    | with_reducible refine Kept.ofFst ?_ (by with_reducible assumption)
    | split
    | dsimp only
    | with_reducible apply State.Kept.sync

theorem State.reboot_kept (hp : Has pp 0x2e7001e1) (s : State) (kind : BootKind) (cleared : List Nat) (hk : zz.Kept pp s) :
    zz.Kept pp (State.reboot s kind cleared) := by
  unfold State.reboot
  repeat' first
    | with_reducible assumption
    | ((with_reducible refine Has.mono hp ?_); exact rfl)
    | ((with_reducible refine Has.get hp _ ?_); exact rfl)
    | with_reducible apply Kept.foldl
    | with_reducible apply Kept.foldlFst
    | with_reducible apply Kept.foldlSnd
    | with_reducible intro _
    | with_reducible apply State.forEach_kept
    | with_reducible apply State.stopProc_kept
    | with_reducible apply State.setF_kept
    | with_reducible apply State.reason_kept
    | with_reducible apply State.clearTestEn_kept
    | with_reducible apply State.clearSync_kept
    | with_reducible apply State.clearChannels_kept
    | with_reducible apply State.eccClear_kept
    | with_reducible apply State.mapMail_kept
    | with_reducible apply State.dropLearning_kept
    | with_reducible apply Outcome.Kept.next
    | with_reducible apply Kept.ite
    | with_reducible apply OKept.ite
    | with_reducible refine Kept.ofSnd ?_ (by with_reducible assumption)
    | with_reducible refine Kept.ofSnd2 ?_ (by with_reducible assumption)
    | with_reducible refine Kept.ofFst ?_ (by with_reducible assumption)
    | split
    | dsimp only
    | with_reducible apply State.Kept.boot_procs_update_health

theorem State.warmReset_kept (hp : Has pp 0x22e7041e1) (s : State) (kind : Nat) (hk : zz.Kept pp s) :
    zz.Kept pp (State.warmReset s kind) := by
  unfold State.warmReset
  repeat' first
    | with_reducible assumption
    | ((with_reducible refine Has.mono hp ?_); exact rfl)
    | ((with_reducible refine Has.get hp _ ?_); exact rfl)
    | with_reducible intro _
    | with_reducible apply State.reboot_kept
    | with_reducible apply State.faultWaits_kept
    | with_reducible apply State.setF_kept
    | with_reducible apply State.incF_kept
    | with_reducible apply Outcome.Kept.next
    | with_reducible apply Kept.ite
    | with_reducible apply OKept.ite
    | with_reducible refine Kept.ofSnd ?_ (by with_reducible assumption)
    | with_reducible refine Kept.ofSnd2 ?_ (by with_reducible assumption)
    | with_reducible refine Kept.ofFst ?_ (by with_reducible assumption)
    | split
    | dsimp only

theorem execWarmReset_kept (hp : Has pp 0x22e7041e1) (value : Word) (s : State) (hk : zz.Kept pp s) :
    Outcome.Kept pp zz (execWarmReset value s) := by
  unfold execWarmReset
  repeat' first
    | with_reducible assumption
    | ((with_reducible refine Has.mono hp ?_); exact rfl)
    | ((with_reducible refine Has.get hp _ ?_); exact rfl)
    | with_reducible intro _
    | with_reducible apply State.warmReset_kept
    | with_reducible apply Outcome.Kept.next
    | with_reducible apply Kept.ite
    | with_reducible apply OKept.ite
    | with_reducible refine Kept.ofSnd ?_ (by with_reducible assumption)
    | with_reducible refine Kept.ofSnd2 ?_ (by with_reducible assumption)
    | with_reducible refine Kept.ofFst ?_ (by with_reducible assumption)
    | split
    | dsimp only

theorem execFabricWarmReset_kept (hp : Has pp 0x22e7041e1) (s : State) (hk : zz.Kept pp s) :
    Outcome.Kept pp zz (execFabricWarmReset s) := by
  unfold execFabricWarmReset
  repeat' first
    | with_reducible assumption
    | ((with_reducible refine Has.mono hp ?_); exact rfl)
    | ((with_reducible refine Has.get hp _ ?_); exact rfl)
    | with_reducible intro _
    | with_reducible apply State.warmReset_kept
    | with_reducible apply Outcome.Kept.next
    | with_reducible apply Kept.ite
    | with_reducible apply OKept.ite
    | with_reducible refine Kept.ofSnd ?_ (by with_reducible assumption)
    | with_reducible refine Kept.ofSnd2 ?_ (by with_reducible assumption)
    | with_reducible refine Kept.ofFst ?_ (by with_reducible assumption)
    | split
    | dsimp only

theorem execPark_kept (hp : Has pp 0x2e5101f1) (s : State) (hk : zz.Kept pp s) :
    Outcome.Kept pp zz (execPark s) := by
  unfold execPark
  repeat' first
    | with_reducible assumption
    | ((with_reducible refine Has.mono hp ?_); exact rfl)
    | ((with_reducible refine Has.get hp _ ?_); exact rfl)
    | with_reducible intro _
    | with_reducible apply State.setF_kept
    | with_reducible apply State.enterMode_kept
    | with_reducible apply State.forEach_kept
    | with_reducible apply State.stopProc_kept
    | with_reducible apply State.mapMail_kept
    | with_reducible apply State.settleBrake_kept
    | with_reducible apply Outcome.Kept.next
    | with_reducible apply Kept.ite
    | with_reducible apply OKept.ite
    | with_reducible refine Kept.ofSnd ?_ (by with_reducible assumption)
    | with_reducible refine Kept.ofSnd2 ?_ (by with_reducible assumption)
    | with_reducible refine Kept.ofFst ?_ (by with_reducible assumption)
    | split
    | dsimp only
    | with_reducible apply State.Kept.pins_boot_away_ecc_procs

theorem State.clearLogRam_kept (hp : Has pp 0x400021) (s : State) (hk : zz.Kept pp s) :
    zz.Kept pp (State.clearLogRam s) := by
  unfold State.clearLogRam
  repeat' first
    | with_reducible assumption
    | ((with_reducible refine Has.mono hp ?_); exact rfl)
    | ((with_reducible refine Has.get hp _ ?_); exact rfl)
    | with_reducible intro _
    | with_reducible apply State.setF_kept
    | with_reducible apply State.eccClear_kept
    | with_reducible apply Outcome.Kept.next
    | with_reducible apply Kept.ite
    | with_reducible apply OKept.ite
    | with_reducible refine Kept.ofSnd ?_ (by with_reducible assumption)
    | with_reducible refine Kept.ofSnd2 ?_ (by with_reducible assumption)
    | with_reducible refine Kept.ofFst ?_ (by with_reducible assumption)
    | split
    | dsimp only
    | with_reducible apply State.Kept.logRam

theorem State.wakeUp_kept (hp : Has pp 0x3ef601f1) (s : State) (hk : zz.Kept pp s) :
    zz.Kept pp (State.wakeUp s) := by
  unfold State.wakeUp
  repeat' first
    | with_reducible assumption
    | ((with_reducible refine Has.mono hp ?_); exact rfl)
    | ((with_reducible refine Has.get hp _ ?_); exact rfl)
    | with_reducible exact (rfl : _ = _)
    | with_reducible exact id
    | (((with_reducible intro _); rfl))
    | with_reducible intro _
    | with_reducible apply State.setF_kept
    | with_reducible apply State.forEach_kept
    | with_reducible apply State.andNotF_kept
    | with_reducible apply State.resetTarget_kept
    | with_reducible apply State.eccClear_kept
    | with_reducible apply State.clearLogRam_kept
    | with_reducible apply State.reboot_kept
    | with_reducible apply State.reload_kept
    | with_reducible apply State.flagF_kept
    | with_reducible apply State.incF_kept
    | with_reducible apply Outcome.Kept.next
    | with_reducible apply Kept.ite
    | with_reducible apply OKept.ite
    | with_reducible refine Kept.ofSnd ?_ (by with_reducible assumption)
    | with_reducible refine Kept.ofSnd2 ?_ (by with_reducible assumption)
    | with_reducible refine Kept.ofFst ?_ (by with_reducible assumption)
    | split
    | dsimp only
    | with_reducible apply State.Kept.pins
    | with_reducible apply State.Kept.cap_links_model_health

theorem execWakeReset_kept (hp : Has pp 0x3ef601f1) (sense : Nat) (ntc : Nat) (s : State) (hk : zz.Kept pp s) :
    Outcome.Kept pp zz (execWakeReset sense ntc s) := by
  unfold execWakeReset
  repeat' first
    | with_reducible assumption
    | ((with_reducible refine Has.mono hp ?_); exact rfl)
    | ((with_reducible refine Has.get hp _ ?_); exact rfl)
    | with_reducible exact (rfl : _ = _)
    | with_reducible exact id
    | (((with_reducible intro _); rfl))
    | with_reducible intro _
    | with_reducible apply State.wakeUp_kept
    | with_reducible apply Outcome.Kept.next
    | with_reducible apply Kept.ite
    | with_reducible apply OKept.ite
    | with_reducible refine Kept.ofSnd ?_ (by with_reducible assumption)
    | with_reducible refine Kept.ofSnd2 ?_ (by with_reducible assumption)
    | with_reducible refine Kept.ofFst ?_ (by with_reducible assumption)
    | split
    | dsimp only
    | with_reducible apply State.Kept.pins

end Sys2Proof.Machine
end

