-- ==== Sys2Proof/Laws/KeptUpdate.lean ====
section
/-! SUPPORT. What the functions of Sys2Proof/Machine/Update.lean keep: one lemma for each, by the lemmas of what it calls. -/
namespace Sys2Proof.Machine

variable {pp : Part → Bool} {zz : State}

theorem State.mapUpd_kept (hp : Has pp 0x4000000) (s : State) (g : Update → Update) (hk : zz.Kept pp s) :
    zz.Kept pp (State.mapUpd s g) := by
  unfold State.mapUpd
  repeat' first
    | with_reducible assumption
    | ((with_reducible refine Has.mono hp ?_); exact rfl)
    | ((with_reducible refine Has.get hp _ ?_); exact rfl)
    | with_reducible intro _
    | with_reducible apply Outcome.Kept.next
    | with_reducible apply Kept.ite
    | with_reducible apply OKept.ite
    | with_reducible refine Kept.ofSnd ?_ (by with_reducible assumption)
    | with_reducible refine Kept.ofSnd2 ?_ (by with_reducible assumption)
    | with_reducible refine Kept.ofFst ?_ (by with_reducible assumption)
    | split
    | dsimp only
    | with_reducible apply State.Kept.update

theorem State.flashError_kept (hp : Has pp 0x400021) (s : State) (kind : Nat) (off : Nat) (hk : zz.Kept pp s) :
    zz.Kept pp (State.flashError s kind off) := by
  unfold State.flashError
  repeat' first
    | with_reducible assumption
    | ((with_reducible refine Has.mono hp ?_); exact rfl)
    | ((with_reducible refine Has.get hp _ ?_); exact rfl)
    | with_reducible intro _
    | with_reducible apply State.log_kept
    | with_reducible apply Outcome.Kept.next
    | with_reducible apply Kept.ite
    | with_reducible apply OKept.ite
    | with_reducible refine Kept.ofSnd ?_ (by with_reducible assumption)
    | with_reducible refine Kept.ofSnd2 ?_ (by with_reducible assumption)
    | with_reducible refine Kept.ofFst ?_ (by with_reducible assumption)
    | split
    | dsimp only

theorem State.portError_kept (hp : Has pp 0x400021) (s : State) (l : List DeviceCmd) (hk : zz.Kept pp s) :
    zz.Kept pp (State.portError s l) := by
  unfold State.portError
  repeat' first
    | with_reducible assumption
    | ((with_reducible refine Has.mono hp ?_); exact rfl)
    | ((with_reducible refine Has.get hp _ ?_); exact rfl)
    | with_reducible intro _
    | with_reducible apply State.flashError_kept
    | with_reducible apply Outcome.Kept.next
    | with_reducible apply Kept.ite
    | with_reducible apply OKept.ite
    | with_reducible refine Kept.ofSnd ?_ (by with_reducible assumption)
    | with_reducible refine Kept.ofSnd2 ?_ (by with_reducible assumption)
    | with_reducible refine Kept.ofFst ?_ (by with_reducible assumption)
    | split
    | dsimp only

theorem State.onUpdate_kept (hp : Has pp 0x400061) (s : State) (op : Nat) (g : State → Request → State) (hf : ∀ (t : State) (x1 : Request), zz.Kept pp t → zz.Kept pp (g t x1)) (hk : zz.Kept pp s) :
    zz.Kept pp (State.onUpdate s op g) := by
  unfold State.onUpdate
  repeat' first
    | with_reducible assumption
    | ((with_reducible refine Has.mono hp ?_); exact rfl)
    | ((with_reducible refine Has.get hp _ ?_); exact rfl)
    | with_reducible intro _
    | with_reducible apply hf
    | with_reducible apply State.onOpcode_kept
    | with_reducible apply State.reply_kept
    | with_reducible apply Outcome.Kept.next
    | with_reducible apply Kept.ite
    | with_reducible apply OKept.ite
    | with_reducible refine Kept.ofSnd ?_ (by with_reducible assumption)
    | with_reducible refine Kept.ofSnd2 ?_ (by with_reducible assumption)
    | with_reducible refine Kept.ofFst ?_ (by with_reducible assumption)
    | split
    | dsimp only

theorem State.setTarget_kept (hp : Has pp 0x4000000) (s : State) (i : Nat) (t : Target) (hk : zz.Kept pp s) :
    zz.Kept pp (State.setTarget s i t) := by
  unfold State.setTarget
  repeat' first
    | with_reducible assumption
    | ((with_reducible refine Has.mono hp ?_); exact rfl)
    | ((with_reducible refine Has.get hp _ ?_); exact rfl)
    | with_reducible intro _
    | with_reducible apply State.mapUpd_kept
    | with_reducible apply Outcome.Kept.next
    | with_reducible apply Kept.ite
    | with_reducible apply OKept.ite
    | with_reducible refine Kept.ofSnd ?_ (by with_reducible assumption)
    | with_reducible refine Kept.ofSnd2 ?_ (by with_reducible assumption)
    | with_reducible refine Kept.ofFst ?_ (by with_reducible assumption)
    | split
    | dsimp only

theorem execUpdateOpen_kept (hp : Has pp 0x44000e1) (s : State) (hk : zz.Kept pp s) :
    Outcome.Kept pp zz (execUpdateOpen s) := by
  unfold execUpdateOpen
  repeat' first
    | with_reducible assumption
    | ((with_reducible refine Has.mono hp ?_); exact rfl)
    | ((with_reducible refine Has.get hp _ ?_); exact rfl)
    | with_reducible intro _
    | with_reducible apply State.onUpdate_kept
    | with_reducible apply State.reply_kept
    | with_reducible apply State.when_kept
    | with_reducible apply State.forEach_kept
    | with_reducible apply State.traceCmd_kept
    | with_reducible apply State.beginWork_kept
    | with_reducible apply State.mapUpd_kept
    | with_reducible apply State.mapMail_kept
    | with_reducible apply State.setF_kept
    | with_reducible apply Outcome.Kept.next
    | with_reducible apply Kept.ite
    | with_reducible apply OKept.ite
    | with_reducible refine Kept.ofSnd ?_ (by with_reducible assumption)
    | with_reducible refine Kept.ofSnd2 ?_ (by with_reducible assumption)
    | with_reducible refine Kept.ofFst ?_ (by with_reducible assumption)
    | split
    | dsimp only

theorem execUpdateEraseDone_kept (hp : Has pp 0x244000e1) (ok : Bool) (s : State) (hk : zz.Kept pp s) :
    Outcome.Kept pp zz (execUpdateEraseDone ok s) := by
  unfold execUpdateEraseDone
  repeat' first
    | with_reducible assumption
    | ((with_reducible refine Has.mono hp ?_); exact rfl)
    | ((with_reducible refine Has.get hp _ ?_); exact rfl)
    | with_reducible intro _
    | with_reducible apply State.mapUpd_kept
    | with_reducible apply State.endUpd_kept
    | with_reducible apply State.answerUpd_kept
    | with_reducible apply State.flashError_kept
    | with_reducible apply State.cutJob_kept
    | with_reducible apply State.endJob_kept
    | with_reducible apply State.setUpd_kept
    | with_reducible apply State.setF_kept
    | with_reducible apply Outcome.Kept.next
    | with_reducible apply Kept.ite
    | with_reducible apply OKept.ite
    | with_reducible refine Kept.ofSnd ?_ (by with_reducible assumption)
    | with_reducible refine Kept.ofSnd2 ?_ (by with_reducible assumption)
    | with_reducible refine Kept.ofFst ?_ (by with_reducible assumption)
    | split
    | dsimp only

theorem execUpdateWrite_kept (hp : Has pp 0x244000e1) (ok : Bool) (s : State) (hk : zz.Kept pp s) :
    Outcome.Kept pp zz (execUpdateWrite ok s) := by
  unfold execUpdateWrite
  repeat' first
    | with_reducible assumption
    | ((with_reducible refine Has.mono hp ?_); exact rfl)
    | ((with_reducible refine Has.get hp _ ?_); exact rfl)
    | with_reducible intro _
    | with_reducible apply State.onUpdate_kept
    | with_reducible apply State.reply_kept
    | with_reducible apply State.portError_kept
    | with_reducible apply State.tryCmds_kept
    | with_reducible apply State.setTarget_kept
    | with_reducible apply State.addF_kept
    | with_reducible apply Outcome.Kept.next
    | with_reducible apply Kept.ite
    | with_reducible apply OKept.ite
    | with_reducible refine Kept.ofSnd ?_ (by with_reducible assumption)
    | with_reducible refine Kept.ofSnd2 ?_ (by with_reducible assumption)
    | with_reducible refine Kept.ofFst ?_ (by with_reducible assumption)
    | split
    | dsimp only

theorem State.writeTrailer_kept (hp : Has pp 0x4000a1) (s : State) (i : Nat) (seq : Nat) (hk : zz.Kept pp s) :
    zz.Kept pp (State.writeTrailer s i seq) := by
  unfold State.writeTrailer
  repeat' first
    | with_reducible assumption
    | ((with_reducible refine Has.mono hp ?_); exact rfl)
    | ((with_reducible refine Has.get hp _ ?_); exact rfl)
    | with_reducible intro _
    | with_reducible apply State.runCmd_kept
    | with_reducible apply State.traceCmd_kept
    | with_reducible apply Outcome.Kept.next
    | with_reducible apply Kept.ite
    | with_reducible apply OKept.ite
    | with_reducible refine Kept.ofSnd ?_ (by with_reducible assumption)
    | with_reducible refine Kept.ofSnd2 ?_ (by with_reducible assumption)
    | with_reducible refine Kept.ofFst ?_ (by with_reducible assumption)
    | split
    | dsimp only

theorem State.readBodies_kept (hp : Has pp 0x400021) (s : State) (hk : zz.Kept pp s) :
    zz.Kept pp (State.readBodies s) := by
  unfold State.readBodies
  repeat' first
    | with_reducible assumption
    | ((with_reducible refine Has.mono hp ?_); exact rfl)
    | ((with_reducible refine Has.get hp _ ?_); exact rfl)
    | with_reducible intro _
    | with_reducible apply State.when_kept
    | with_reducible apply State.flashTrace_kept
    | with_reducible apply Outcome.Kept.next
    | with_reducible apply Kept.ite
    | with_reducible apply OKept.ite
    | with_reducible refine Kept.ofSnd ?_ (by with_reducible assumption)
    | with_reducible refine Kept.ofSnd2 ?_ (by with_reducible assumption)
    | with_reducible refine Kept.ofFst ?_ (by with_reducible assumption)
    | split
    | dsimp only

theorem execUpdateVerify_kept (hp : Has pp 0x244000e1) (ok : Bool) (s : State) (hk : zz.Kept pp s) :
    Outcome.Kept pp zz (execUpdateVerify ok s) := by
  unfold execUpdateVerify
  repeat' first
    | with_reducible assumption
    | ((with_reducible refine Has.mono hp ?_); exact rfl)
    | ((with_reducible refine Has.get hp _ ?_); exact rfl)
    | with_reducible intro _
    | with_reducible apply State.onUpdate_kept
    | with_reducible apply State.reply_kept
    | with_reducible apply State.setUpd_kept
    | with_reducible apply State.mapMail_kept
    | with_reducible apply State.when_kept
    | with_reducible apply State.readBodies_kept
    | with_reducible apply State.endUpd_kept
    | with_reducible apply State.answerUpd_kept
    | with_reducible apply State.flashError_kept
    | with_reducible apply State.drawFree_kept
    | with_reducible apply State.flashTrace_kept
    | with_reducible apply State.writeTrailer_kept
    | with_reducible apply Outcome.Kept.next
    | with_reducible apply Kept.ite
    | with_reducible apply OKept.ite
    | with_reducible refine Kept.ofSnd ?_ (by with_reducible assumption)
    | with_reducible refine Kept.ofSnd2 ?_ (by with_reducible assumption)
    | with_reducible refine Kept.ofFst ?_ (by with_reducible assumption)
    | split
    | dsimp only

theorem execUpdateCommit_kept (hp : Has pp 0x244000e1) (ok : Bool) (s : State) (hk : zz.Kept pp s) :
    Outcome.Kept pp zz (execUpdateCommit ok s) := by
  unfold execUpdateCommit
  repeat' first
    | with_reducible assumption
    | ((with_reducible refine Has.mono hp ?_); exact rfl)
    | ((with_reducible refine Has.get hp _ ?_); exact rfl)
    | with_reducible intro _
    | with_reducible apply State.endUpd_kept
    | with_reducible apply State.answerUpd_kept
    | with_reducible apply State.flashError_kept
    | with_reducible apply State.abortCmd_kept
    | with_reducible apply State.traceCmd_kept
    | with_reducible apply State.mapUpd_kept
    | with_reducible apply State.flashTrace_kept
    | with_reducible apply State.writeTrailer_kept
    | with_reducible apply State.setUpd_kept
    | with_reducible apply Outcome.Kept.next
    | with_reducible apply Kept.ite
    | with_reducible apply OKept.ite
    | with_reducible refine Kept.ofSnd ?_ (by with_reducible assumption)
    | with_reducible refine Kept.ofSnd2 ?_ (by with_reducible assumption)
    | with_reducible refine Kept.ofFst ?_ (by with_reducible assumption)
    | split
    | dsimp only

theorem execUpdateSwitch_kept (hp : Has pp 0x2e5000e1) (s : State) (hk : zz.Kept pp s) :
    Outcome.Kept pp zz (execUpdateSwitch s) := by
  unfold execUpdateSwitch
  repeat' first
    | with_reducible assumption
    | ((with_reducible refine Has.mono hp ?_); exact rfl)
    | ((with_reducible refine Has.get hp _ ?_); exact rfl)
    | with_reducible intro _
    | with_reducible apply State.onUpdate_kept
    | with_reducible apply State.reply_kept
    | with_reducible apply State.setUpd_kept
    | with_reducible apply State.mapMail_kept
    | with_reducible apply State.mapUpd_kept
    | with_reducible apply State.restart_kept
    | with_reducible apply State.useBank_kept
    | with_reducible apply Outcome.Kept.next
    | with_reducible apply Kept.ite
    | with_reducible apply OKept.ite
    | with_reducible refine Kept.ofSnd ?_ (by with_reducible assumption)
    | with_reducible refine Kept.ofSnd2 ?_ (by with_reducible assumption)
    | with_reducible refine Kept.ofFst ?_ (by with_reducible assumption)
    | split
    | dsimp only

theorem execUpdateAbort_kept (hp : Has pp 0x4400061) (s : State) (hk : zz.Kept pp s) :
    Outcome.Kept pp zz (execUpdateAbort s) := by
  unfold execUpdateAbort
  repeat' first
    | with_reducible assumption
    | ((with_reducible refine Has.mono hp ?_); exact rfl)
    | ((with_reducible refine Has.get hp _ ?_); exact rfl)
    | with_reducible intro _
    | with_reducible apply State.onUpdate_kept
    | with_reducible apply State.endUpd_kept
    | with_reducible apply State.reply_kept
    | with_reducible apply State.answerUpd_kept
    | with_reducible apply Outcome.Kept.next
    | with_reducible apply Kept.ite
    | with_reducible apply OKept.ite
    | with_reducible refine Kept.ofSnd ?_ (by with_reducible assumption)
    | with_reducible refine Kept.ofSnd2 ?_ (by with_reducible assumption)
    | with_reducible refine Kept.ofFst ?_ (by with_reducible assumption)
    | split
    | dsimp only

theorem execUpdateStatus_kept (hp : Has pp 0x400061) (s : State) (hk : zz.Kept pp s) :
    Outcome.Kept pp zz (execUpdateStatus s) := by
  unfold execUpdateStatus
  repeat' first
    | with_reducible assumption
    | ((with_reducible refine Has.mono hp ?_); exact rfl)
    | ((with_reducible refine Has.get hp _ ?_); exact rfl)
    | with_reducible intro _
    | with_reducible apply State.onOpcode_kept
    | with_reducible apply State.reply_kept
    | with_reducible apply Outcome.Kept.next
    | with_reducible apply Kept.ite
    | with_reducible apply OKept.ite
    | with_reducible refine Kept.ofSnd ?_ (by with_reducible assumption)
    | with_reducible refine Kept.ofSnd2 ?_ (by with_reducible assumption)
    | with_reducible refine Kept.ofFst ?_ (by with_reducible assumption)
    | split
    | dsimp only

end Sys2Proof.Machine
end

