-- ==== Sys2Proof/Laws/KeptHostPort.lean ====
section
/-! SUPPORT. What the functions of Sys2Proof/Machine/HostPort.lean keep: one lemma for each, by the lemmas of what it calls. -/
namespace Sys2Proof.Machine

variable {pp : Part → Bool} {zz : State}

theorem State.writeField_kept (hp : Has pp 0x1) (s : State) (off : Nat) (w : Nat) (r : Row) (hk : zz.Kept pp s) :
    zz.Kept pp (State.writeField s off w r) := by
  unfold State.writeField
  repeat' first
    | with_reducible assumption
    | ((with_reducible refine Has.mono hp ?_); exact rfl)
    | ((with_reducible refine Has.get hp _ ?_); exact rfl)
    | with_reducible intro _
    | with_reducible apply State.andNotF_kept
    | with_reducible apply State.setF_kept
    | with_reducible apply Outcome.Kept.next
    | with_reducible apply Kept.ite
    | with_reducible apply OKept.ite
    | with_reducible refine Kept.ofSnd ?_ (by with_reducible assumption)
    | with_reducible refine Kept.ofSnd2 ?_ (by with_reducible assumption)
    | with_reducible refine Kept.ofFst ?_ (by with_reducible assumption)
    | split
    | dsimp only

theorem State.plainWrite_kept (hp : Has pp 0x1) (s : State) (off : Nat) (w : Nat) (hk : zz.Kept pp s) :
    zz.Kept pp (State.plainWrite s off w) := by
  unfold State.plainWrite
  repeat' first
    | with_reducible assumption
    | ((with_reducible refine Has.mono hp ?_); exact rfl)
    | ((with_reducible refine Has.get hp _ ?_); exact rfl)
    | with_reducible intro _
    | with_reducible apply State.forEach_kept
    | with_reducible apply State.writeField_kept
    | with_reducible apply Outcome.Kept.next
    | with_reducible apply Kept.ite
    | with_reducible apply OKept.ite
    | with_reducible refine Kept.ofSnd ?_ (by with_reducible assumption)
    | with_reducible refine Kept.ofSnd2 ?_ (by with_reducible assumption)
    | with_reducible refine Kept.ofFst ?_ (by with_reducible assumption)
    | split
    | dsimp only

theorem State.setShadow_kept (hp : Has pp 0x8) (s : State) (off : Nat) (v : Option (Nat × Nat)) (hk : zz.Kept pp s) :
    zz.Kept pp (State.setShadow s off v) := by
  unfold State.setShadow
  repeat' first
    | with_reducible assumption
    | ((with_reducible refine Has.mono hp ?_); exact rfl)
    | ((with_reducible refine Has.get hp _ ?_); exact rfl)
    | with_reducible intro _
    | with_reducible apply Outcome.Kept.next
    | with_reducible apply Kept.ite
    | with_reducible apply OKept.ite
    | with_reducible refine Kept.ofSnd ?_ (by with_reducible assumption)
    | with_reducible refine Kept.ofSnd2 ?_ (by with_reducible assumption)
    | with_reducible refine Kept.ofFst ?_ (by with_reducible assumption)
    | split
    | dsimp only
    | with_reducible apply State.Kept.port

theorem State.setHold_kept (hp : Has pp 0x8) (s : State) (off : Nat) (v : Option (Nat × Nat)) (hk : zz.Kept pp s) :
    zz.Kept pp (State.setHold s off v) := by
  unfold State.setHold
  repeat' first
    | with_reducible assumption
    | ((with_reducible refine Has.mono hp ?_); exact rfl)
    | ((with_reducible refine Has.get hp _ ?_); exact rfl)
    | with_reducible intro _
    | with_reducible apply Outcome.Kept.next
    | with_reducible apply Kept.ite
    | with_reducible apply OKept.ite
    | with_reducible refine Kept.ofSnd ?_ (by with_reducible assumption)
    | with_reducible refine Kept.ofSnd2 ?_ (by with_reducible assumption)
    | with_reducible refine Kept.ofFst ?_ (by with_reducible assumption)
    | split
    | dsimp only
    | with_reducible apply State.Kept.port

theorem State.holdLow_kept (hp : Has pp 0x8) (s : State) (tag : Nat) (off : Nat) (w : Nat) (hk : zz.Kept pp s) :
    zz.Kept pp (State.holdLow s tag off w) := by
  unfold State.holdLow
  repeat' first
    | with_reducible assumption
    | ((with_reducible refine Has.mono hp ?_); exact rfl)
    | ((with_reducible refine Has.get hp _ ?_); exact rfl)
    | with_reducible intro _
    | with_reducible apply State.setHold_kept
    | with_reducible apply Outcome.Kept.next
    | with_reducible apply Kept.ite
    | with_reducible apply OKept.ite
    | with_reducible refine Kept.ofSnd ?_ (by with_reducible assumption)
    | with_reducible refine Kept.ofSnd2 ?_ (by with_reducible assumption)
    | with_reducible refine Kept.ofFst ?_ (by with_reducible assumption)
    | split
    | dsimp only

theorem State.writeHigh_kept (hp : Has pp 0x9) (s : State) (tag : Nat) (low : Nat) (w : Nat) (hk : zz.Kept pp s) :
    zz.Kept pp (State.writeHigh s tag low w) := by
  unfold State.writeHigh
  repeat' first
    | with_reducible assumption
    | ((with_reducible refine Has.mono hp ?_); exact rfl)
    | ((with_reducible refine Has.get hp _ ?_); exact rfl)
    | with_reducible intro _
    | with_reducible apply State.setHold_kept
    | with_reducible apply State.plainWrite_kept
    | with_reducible apply Outcome.Kept.next
    | with_reducible apply Kept.ite
    | with_reducible apply OKept.ite
    | with_reducible refine Kept.ofSnd ?_ (by with_reducible assumption)
    | with_reducible refine Kept.ofSnd2 ?_ (by with_reducible assumption)
    | with_reducible refine Kept.ofFst ?_ (by with_reducible assumption)
    | split
    | dsimp only

theorem State.readShadowed_kept (hp : Has pp 0x8) (s : State) (tag : Nat) (off : Nat) (r : Option Nat × State) (hk2 : zz.Kept pp r.2) :
    zz.Kept pp (State.readShadowed s tag off r).2 := by
  unfold State.readShadowed
  repeat' first
    | with_reducible assumption
    | ((with_reducible refine Has.mono hp ?_); exact rfl)
    | ((with_reducible refine Has.get hp _ ?_); exact rfl)
    | with_reducible intro _
    | with_reducible apply State.setShadow_kept
    | with_reducible apply Outcome.Kept.next
    | with_reducible apply Kept.ite
    | with_reducible apply OKept.ite
    | with_reducible refine Kept.ofSnd ?_ (by with_reducible assumption)
    | with_reducible refine Kept.ofSnd2 ?_ (by with_reducible assumption)
    | with_reducible refine Kept.ofFst ?_ (by with_reducible assumption)
    | split
    | dsimp only

theorem State.writeHvote_kept (hp : Has pp 0x8001) (s : State) (p : Party) (d : Nat) (w : Nat) (hk : zz.Kept pp s) :
    zz.Kept pp (State.writeHvote s p d w) := by
  unfold State.writeHvote
  repeat' first
    | with_reducible assumption
    | ((with_reducible refine Has.mono hp ?_); exact rfl)
    | ((with_reducible refine Has.get hp _ ?_); exact rfl)
    | with_reducible intro _
    | with_reducible apply State.act_kept
    | with_reducible apply execDomainVoteSet_kept
    | with_reducible apply execDomainVoteClear_kept
    | with_reducible apply State.setF_kept
    | with_reducible apply State.raise_kept
    | with_reducible apply State.when_kept
    | with_reducible apply execDomainRetry_kept
    | with_reducible apply Outcome.Kept.next
    | with_reducible apply Kept.ite
    | with_reducible apply OKept.ite
    | with_reducible refine Kept.ofSnd ?_ (by with_reducible assumption)
    | with_reducible refine Kept.ofSnd2 ?_ (by with_reducible assumption)
    | with_reducible refine Kept.ofFst ?_ (by with_reducible assumption)
    | split
    | dsimp only

theorem State.writeMpCfg_kept (hp : Has pp 0x1) (s : State) (m : Nat) (w : Nat) (hk : zz.Kept pp s) :
    zz.Kept pp (State.writeMpCfg s m w) := by
  unfold State.writeMpCfg
  repeat' first
    | with_reducible assumption
    | ((with_reducible refine Has.mono hp ?_); exact rfl)
    | ((with_reducible refine Has.get hp _ ?_); exact rfl)
    | with_reducible intro _
    | with_reducible apply State.setF_kept
    | with_reducible apply State.when_kept
    | with_reducible apply Outcome.Kept.next
    | with_reducible apply Kept.ite
    | with_reducible apply OKept.ite
    | with_reducible refine Kept.ofSnd ?_ (by with_reducible assumption)
    | with_reducible refine Kept.ofSnd2 ?_ (by with_reducible assumption)
    | with_reducible refine Kept.ofFst ?_ (by with_reducible assumption)
    | split
    | dsimp only

theorem State.writeClkmon_kept (hp : Has pp 0x1) (s : State) (w : Nat) (hk : zz.Kept pp s) :
    zz.Kept pp (State.writeClkmon s w) := by
  unfold State.writeClkmon
  repeat' first
    | with_reducible assumption
    | ((with_reducible refine Has.mono hp ?_); exact rfl)
    | ((with_reducible refine Has.get hp _ ?_); exact rfl)
    | with_reducible intro _
    | with_reducible apply State.plainWrite_kept
    | with_reducible apply Outcome.Kept.next
    | with_reducible apply Kept.ite
    | with_reducible apply OKept.ite
    | with_reducible refine Kept.ofSnd ?_ (by with_reducible assumption)
    | with_reducible refine Kept.ofSnd2 ?_ (by with_reducible assumption)
    | with_reducible refine Kept.ofFst ?_ (by with_reducible assumption)
    | split
    | dsimp only

theorem State.writeBusdivReg_kept (hp : Has pp 0x1) (s : State) (w : Nat) (hk : zz.Kept pp s) :
    zz.Kept pp (State.writeBusdivReg s w) := by
  unfold State.writeBusdivReg
  repeat' first
    | with_reducible assumption
    | ((with_reducible refine Has.mono hp ?_); exact rfl)
    | ((with_reducible refine Has.get hp _ ?_); exact rfl)
    | with_reducible intro _
    | with_reducible apply State.plainWrite_kept
    | with_reducible apply Outcome.Kept.next
    | with_reducible apply Kept.ite
    | with_reducible apply OKept.ite
    | with_reducible refine Kept.ofSnd ?_ (by with_reducible assumption)
    | with_reducible refine Kept.ofSnd2 ?_ (by with_reducible assumption)
    | with_reducible refine Kept.ofFst ?_ (by with_reducible assumption)
    | split
    | dsimp only

theorem State.writeChannel_kept (hp : Has pp 0x149) (s : State) (p : Party) (ch : Nat) (off : Nat) (w : Nat) (hk : zz.Kept pp s) :
    zz.Kept pp (State.writeChannel s p ch off w) := by
  unfold State.writeChannel
  repeat' first
    | with_reducible assumption
    | ((with_reducible refine Has.mono hp ?_); exact rfl)
    | ((with_reducible refine Has.get hp _ ?_); exact rfl)
    | with_reducible intro _
    | with_reducible apply State.act_kept
    | with_reducible apply execMailboxWordWrite_kept
    | with_reducible apply State.channelWrite_kept
    | with_reducible apply State.when_kept
    | with_reducible apply execMailboxGo_kept
    | with_reducible apply execMailboxDone_kept
    | with_reducible apply Outcome.Kept.next
    | with_reducible apply Kept.ite
    | with_reducible apply OKept.ite
    | with_reducible refine Kept.ofSnd ?_ (by with_reducible assumption)
    | with_reducible refine Kept.ofSnd2 ?_ (by with_reducible assumption)
    | with_reducible refine Kept.ofFst ?_ (by with_reducible assumption)
    | split
    | dsimp only

theorem State.actionWrite_kept (hp : Has pp 0x22e7041e9) (s : State) (p : Party) (off : Nat) (w : Nat) (hk : zz.Kept pp s) :
    OptKept pp zz (State.actionWrite s p off w) := by
  unfold State.actionWrite
  repeat' first
    | with_reducible assumption
    | ((with_reducible refine Has.mono hp ?_); exact rfl)
    | ((with_reducible refine Has.get hp _ ?_); exact rfl)
    | with_reducible intro _
    | with_reducible apply State.act_kept
    | with_reducible apply execWarmReset_kept
    | with_reducible apply execGctlEnableWrite_kept
    | with_reducible apply State.writeClkmon_kept
    | with_reducible apply State.writeBusdivReg_kept
    | with_reducible apply execCapOverrideWrite_kept
    | with_reducible apply State.hopWrite_kept
    | with_reducible apply State.ctxWrite_kept
    | with_reducible apply execWdqPop_kept
    | with_reducible apply execDebugSelect_kept
    | with_reducible apply execBrakeDoorbellSet_kept
    | with_reducible apply execBrakeDoorbellClr_kept
    | with_reducible apply execLogRecordSelect_kept
    | with_reducible apply execWdtKick_kept
    | with_reducible apply execTestRawWrite_kept
    | with_reducible apply execTestRawRead_kept
    | with_reducible apply State.holdLow_kept
    | with_reducible apply State.writeHigh_kept
    | with_reducible apply Outcome.Kept.next
    | with_reducible apply Kept.ite
    | with_reducible apply OKept.ite
    | with_reducible refine Kept.ofSnd ?_ (by with_reducible assumption)
    | with_reducible refine Kept.ofSnd2 ?_ (by with_reducible assumption)
    | with_reducible refine Kept.ofFst ?_ (by with_reducible assumption)
    | with_reducible apply OptKept.some
    | with_reducible apply OptKept.none
    | with_reducible apply OptKept.map
    | with_reducible apply OptKept.ite
    | split
    | dsimp only

theorem State.unitWrite_kept (hp : Has pp 0x22e7088a1) (s : State) (p : Party) (off : Nat) (w : Nat) (hk : zz.Kept pp s) :
    OptKept pp zz (State.unitWrite s p off w) := by
  unfold State.unitWrite
  repeat' first
    | with_reducible assumption
    | ((with_reducible refine Has.mono hp ?_); exact rfl)
    | ((with_reducible refine Has.get hp _ ?_); exact rfl)
    | with_reducible intro _
    | with_reducible apply State.writeHvote_kept
    | with_reducible apply State.act_kept
    | with_reducible apply execRailVsetWrite_kept
    | with_reducible apply execCpaCounterClear_kept
    | with_reducible apply execDragOverrideWrite_kept
    | with_reducible apply execCorectxWrite_kept
    | with_reducible apply State.writeMpCfg_kept
    | with_reducible apply execTelClearPeak_kept
    | with_reducible apply State.writeTmask_kept
    | with_reducible apply execProcessorRestart_kept
    | with_reducible apply execTranslationEntryWrite_kept
    | with_reducible apply Outcome.Kept.next
    | with_reducible apply Kept.ite
    | with_reducible apply OKept.ite
    | with_reducible refine Kept.ofSnd ?_ (by with_reducible assumption)
    | with_reducible refine Kept.ofSnd2 ?_ (by with_reducible assumption)
    | with_reducible refine Kept.ofFst ?_ (by with_reducible assumption)
    | with_reducible apply OptKept.some
    | with_reducible apply OptKept.none
    | with_reducible apply OptKept.map
    | with_reducible apply OptKept.ite
    | split
    | dsimp only

theorem State.writeReg_kept (hp : Has pp 0x22e70c9e9) (s : State) (p : Party) (off : Nat) (w : Nat) (hk : zz.Kept pp s) :
    zz.Kept pp (State.writeReg s p off w) := by
  unfold State.writeReg
  repeat' first
    | with_reducible assumption
    | ((with_reducible refine Has.mono hp ?_); exact rfl)
    | ((with_reducible refine Has.get hp _ ?_); exact rfl)
    | with_reducible intro _
    | with_reducible apply State.actionWrite_kept
    | with_reducible apply State.unitWrite_kept
    | with_reducible apply State.plainWrite_kept
    | with_reducible apply Outcome.Kept.next
    | with_reducible apply Kept.ite
    | with_reducible apply OKept.ite
    | with_reducible refine Kept.ofSnd ?_ (by with_reducible assumption)
    | with_reducible refine Kept.ofSnd2 ?_ (by with_reducible assumption)
    | with_reducible refine Kept.ofFst ?_ (by with_reducible assumption)
    | with_reducible refine OptKept.get ?_ (by with_reducible assumption)
    | split
    | dsimp only

theorem State.hostWrite_kept (hp : Has pp 0x22e70c9e9) (s : State) (p : Party) (off : Nat) (w : Nat) (hk : zz.Kept pp s) :
    zz.Kept pp (State.hostWrite s p off w) := by
  unfold State.hostWrite
  repeat' first
    | with_reducible assumption
    | ((with_reducible refine Has.mono hp ?_); exact rfl)
    | ((with_reducible refine Has.get hp _ ?_); exact rfl)
    | with_reducible intro _
    | with_reducible apply State.writeChannel_kept
    | with_reducible apply State.complete_kept
    | with_reducible apply State.writeReg_kept
    | with_reducible apply Outcome.Kept.next
    | with_reducible apply Kept.ite
    | with_reducible apply OKept.ite
    | with_reducible refine Kept.ofSnd ?_ (by with_reducible assumption)
    | with_reducible refine Kept.ofSnd2 ?_ (by with_reducible assumption)
    | with_reducible refine Kept.ofFst ?_ (by with_reducible assumption)
    | split
    | dsimp only

theorem execRegisterWrite_kept (hp : Has pp 0x22e70c9e9) (master : Master) (off : Offset) (value : Word) (s : State) (hk : zz.Kept pp s) :
    Outcome.Kept pp zz (execRegisterWrite master off value s) := by
  unfold execRegisterWrite
  repeat' first
    | with_reducible assumption
    | ((with_reducible refine Has.mono hp ?_); exact rfl)
    | ((with_reducible refine Has.get hp _ ?_); exact rfl)
    | with_reducible intro _
    | with_reducible apply State.complete_kept
    | with_reducible apply State.hostWrite_kept
    | with_reducible apply Outcome.Kept.next
    | with_reducible apply Kept.ite
    | with_reducible apply OKept.ite
    | with_reducible refine Kept.ofSnd ?_ (by with_reducible assumption)
    | with_reducible refine Kept.ofSnd2 ?_ (by with_reducible assumption)
    | with_reducible refine Kept.ofFst ?_ (by with_reducible assumption)
    | split
    | dsimp only

theorem execMisalignedAccess_kept (hp : Has pp 0x8) (off : Offset) (bytes : Nat) (s : State) (hk : zz.Kept pp s) :
    Outcome.Kept pp zz (execMisalignedAccess off bytes s) := by
  unfold execMisalignedAccess
  repeat' first
    | with_reducible assumption
    | ((with_reducible refine Has.mono hp ?_); exact rfl)
    | ((with_reducible refine Has.get hp _ ?_); exact rfl)
    | with_reducible intro _
    | with_reducible apply State.complete_kept
    | with_reducible apply Outcome.Kept.next
    | with_reducible apply Kept.ite
    | with_reducible apply OKept.ite
    | with_reducible refine Kept.ofSnd ?_ (by with_reducible assumption)
    | with_reducible refine Kept.ofSnd2 ?_ (by with_reducible assumption)
    | with_reducible refine Kept.ofFst ?_ (by with_reducible assumption)
    | split
    | dsimp only

theorem State.hostRead_kept (hp : Has pp 0x22e7001a9) (s : State) (master : Nat) (off : Nat) (hk : zz.Kept pp s) :
    zz.Kept pp (State.hostRead s master off) := by
  unfold State.hostRead
  repeat' first
    | with_reducible assumption
    | ((with_reducible refine Has.mono hp ?_); exact rfl)
    | ((with_reducible refine Has.get hp _ ?_); exact rfl)
    | with_reducible intro _
    | with_reducible apply State.readShadowed_kept
    | with_reducible apply State.readReg_kept
    | with_reducible apply State.complete_kept
    | with_reducible apply Outcome.Kept.next
    | with_reducible apply Kept.ite
    | with_reducible apply OKept.ite
    | with_reducible refine Kept.ofSnd ?_ (by with_reducible assumption)
    | with_reducible refine Kept.ofSnd2 ?_ (by with_reducible assumption)
    | with_reducible refine Kept.ofFst ?_ (by with_reducible assumption)
    | split
    | dsimp only

theorem execRead64LowWord_kept (hp : Has pp 0x22e7001a9) (master : Master) (off : Offset) (s : State) (hk : zz.Kept pp s) :
    Outcome.Kept pp zz (execRead64LowWord master off s) := by
  unfold execRead64LowWord
  repeat' first
    | with_reducible assumption
    | ((with_reducible refine Has.mono hp ?_); exact rfl)
    | ((with_reducible refine Has.get hp _ ?_); exact rfl)
    | with_reducible intro _
    | with_reducible apply State.complete_kept
    | with_reducible apply State.hostRead_kept
    | with_reducible apply Outcome.Kept.next
    | with_reducible apply Kept.ite
    | with_reducible apply OKept.ite
    | with_reducible refine Kept.ofSnd ?_ (by with_reducible assumption)
    | with_reducible refine Kept.ofSnd2 ?_ (by with_reducible assumption)
    | with_reducible refine Kept.ofFst ?_ (by with_reducible assumption)
    | split
    | dsimp only

theorem execRead64HighWord_kept (hp : Has pp 0x22e7001a9) (master : Master) (off : Offset) (s : State) (hk : zz.Kept pp s) :
    Outcome.Kept pp zz (execRead64HighWord master off s) := by
  unfold execRead64HighWord
  repeat' first
    | with_reducible assumption
    | ((with_reducible refine Has.mono hp ?_); exact rfl)
    | ((with_reducible refine Has.get hp _ ?_); exact rfl)
    | with_reducible intro _
    | with_reducible apply State.complete_kept
    | with_reducible apply State.hostRead_kept
    | with_reducible apply Outcome.Kept.next
    | with_reducible apply Kept.ite
    | with_reducible apply OKept.ite
    | with_reducible refine Kept.ofSnd ?_ (by with_reducible assumption)
    | with_reducible refine Kept.ofSnd2 ?_ (by with_reducible assumption)
    | with_reducible refine Kept.ofFst ?_ (by with_reducible assumption)
    | split
    | dsimp only

theorem execWrite64LowWord_kept (hp : Has pp 0x22e70c9e9) (master : Master) (off : Offset) (value : Word) (s : State) (hk : zz.Kept pp s) :
    Outcome.Kept pp zz (execWrite64LowWord master off value s) := by
  unfold execWrite64LowWord
  repeat' first
    | with_reducible assumption
    | ((with_reducible refine Has.mono hp ?_); exact rfl)
    | ((with_reducible refine Has.get hp _ ?_); exact rfl)
    | with_reducible intro _
    | with_reducible apply State.complete_kept
    | with_reducible apply State.hostWrite_kept
    | with_reducible apply Outcome.Kept.next
    | with_reducible apply Kept.ite
    | with_reducible apply OKept.ite
    | with_reducible refine Kept.ofSnd ?_ (by with_reducible assumption)
    | with_reducible refine Kept.ofSnd2 ?_ (by with_reducible assumption)
    | with_reducible refine Kept.ofFst ?_ (by with_reducible assumption)
    | split
    | dsimp only

theorem execWrite64HighWord_kept (hp : Has pp 0x22e70c9e9) (master : Master) (off : Offset) (value : Word) (s : State) (hk : zz.Kept pp s) :
    Outcome.Kept pp zz (execWrite64HighWord master off value s) := by
  unfold execWrite64HighWord
  repeat' first
    | with_reducible assumption
    | ((with_reducible refine Has.mono hp ?_); exact rfl)
    | ((with_reducible refine Has.get hp _ ?_); exact rfl)
    | with_reducible intro _
    | with_reducible apply State.complete_kept
    | with_reducible apply State.hostWrite_kept
    | with_reducible apply Outcome.Kept.next
    | with_reducible apply Kept.ite
    | with_reducible apply OKept.ite
    | with_reducible refine Kept.ofSnd ?_ (by with_reducible assumption)
    | with_reducible refine Kept.ofSnd2 ?_ (by with_reducible assumption)
    | with_reducible refine Kept.ofFst ?_ (by with_reducible assumption)
    | split
    | dsimp only

theorem execClkmonWrite_kept (hp : Has pp 0x1) (value : Word) (s : State) (hk : zz.Kept pp s) :
    Outcome.Kept pp zz (execClkmonWrite value s) := by
  unfold execClkmonWrite
  repeat' first
    | with_reducible assumption
    | ((with_reducible refine Has.mono hp ?_); exact rfl)
    | ((with_reducible refine Has.get hp _ ?_); exact rfl)
    | with_reducible intro _
    | with_reducible apply State.writeClkmon_kept
    | with_reducible apply Outcome.Kept.next
    | with_reducible apply Kept.ite
    | with_reducible apply OKept.ite
    | with_reducible refine Kept.ofSnd ?_ (by with_reducible assumption)
    | with_reducible refine Kept.ofSnd2 ?_ (by with_reducible assumption)
    | with_reducible refine Kept.ofFst ?_ (by with_reducible assumption)
    | split
    | dsimp only

end Sys2Proof.Machine
end

