-- ==== Sys2Proof/Laws/KeptTimeBase.lean ====
section
/-! SUPPORT. What the functions of Sys2Proof/Machine/TimeBase.lean keep: one lemma for each, by the lemmas of what it calls. -/
namespace Sys2Proof.Machine

variable {pp : Part → Bool} {zz : State}

theorem State.mapTime_kept (hp : Has pp 0x4) (s : State) (f : TimeBase → TimeBase) (hf : pp .beat = true ∨ ∀ v, (f v).beat = v.beat)
    (hk : zz.Kept pp s) : zz.Kept pp (s.mapTime f) :=
  State.Kept.time (Has.get hp _ rfl) hk (hf.imp_right fun h => h _)

theorem execXtalDelayEnd_kept (hp : Has pp 0x4) (s : State) (hk : zz.Kept pp s) :
    Outcome.Kept pp zz (execXtalDelayEnd s) := by
  unfold execXtalDelayEnd
  repeat' first
    | with_reducible assumption
    | ((with_reducible refine Has.mono hp ?_); exact rfl)
    | ((with_reducible refine Has.get hp _ ?_); exact rfl)
    | ((with_reducible refine Or.inr fun _ => ?_); exact rfl)
    | with_reducible intro _
    | ((with_reducible refine Or.inl (Has.get hp _ ?_)); exact rfl)
    | with_reducible apply State.mapTime_kept
    | with_reducible apply Outcome.Kept.next
    | with_reducible apply Kept.ite
    | with_reducible apply OKept.ite
    | with_reducible refine Kept.ofSnd ?_ (by with_reducible assumption)
    | with_reducible refine Kept.ofSnd2 ?_ (by with_reducible assumption)
    | with_reducible refine Kept.ofFst ?_ (by with_reducible assumption)
    | split
    | dsimp only

theorem execXtalMeasurementDone_kept (hp : Has pp 0x1) (count : Nat) (s : State) (hk : zz.Kept pp s) :
    Outcome.Kept pp zz (execXtalMeasurementDone count s) := by
  unfold execXtalMeasurementDone
  repeat' first
    | with_reducible assumption
    | ((with_reducible refine Has.mono hp ?_); exact rfl)
    | ((with_reducible refine Has.get hp _ ?_); exact rfl)
    | with_reducible intro _
    | with_reducible apply State.satF_kept
    | with_reducible apply State.setF_kept
    | with_reducible apply Outcome.Kept.next
    | with_reducible apply Kept.ite
    | with_reducible apply OKept.ite
    | with_reducible refine Kept.ofSnd ?_ (by with_reducible assumption)
    | with_reducible refine Kept.ofSnd2 ?_ (by with_reducible assumption)
    | with_reducible refine Kept.ofFst ?_ (by with_reducible assumption)
    | split
    | dsimp only

theorem execCrystalMonitorWindow_kept (hp : Has pp 0x1) (count : Nat) (s : State) (hk : zz.Kept pp s) :
    Outcome.Kept pp zz (execCrystalMonitorWindow count s) := by
  unfold execCrystalMonitorWindow
  repeat' first
    | with_reducible assumption
    | ((with_reducible refine Has.mono hp ?_); exact rfl)
    | ((with_reducible refine Has.get hp _ ?_); exact rfl)
    | with_reducible intro _
    | with_reducible apply State.setF_kept
    | with_reducible apply Outcome.Kept.next
    | with_reducible apply Kept.ite
    | with_reducible apply OKept.ite
    | with_reducible refine Kept.ofSnd ?_ (by with_reducible assumption)
    | with_reducible refine Kept.ofSnd2 ?_ (by with_reducible assumption)
    | with_reducible refine Kept.ofFst ?_ (by with_reducible assumption)
    | split
    | dsimp only

theorem State.epochRecord_kept (hp : Has pp 0x400021) (s : State) (hk : zz.Kept pp s) :
    zz.Kept pp (State.epochRecord s) := by
  unfold State.epochRecord
  repeat' first
    | with_reducible assumption
    | ((with_reducible refine Has.mono hp ?_); exact rfl)
    | ((with_reducible refine Has.get hp _ ?_); exact rfl)
    | with_reducible intro _
    | with_reducible apply State.when_kept
    | with_reducible apply State.trace_kept
    | with_reducible apply Outcome.Kept.next
    | with_reducible apply Kept.ite
    | with_reducible apply OKept.ite
    | with_reducible refine Kept.ofSnd ?_ (by with_reducible assumption)
    | with_reducible refine Kept.ofSnd2 ?_ (by with_reducible assumption)
    | with_reducible refine Kept.ofFst ?_ (by with_reducible assumption)
    | split
    | dsimp only

theorem State.actionsAt0_kept (hp : Has pp 0x23effadf3) (s : State) (hk : zz.Kept pp s) :
    zz.Kept pp (State.actionsAt0 s) := by
  unfold State.actionsAt0
  repeat' first
    | with_reducible assumption
    | ((with_reducible refine Has.mono hp ?_); exact rfl)
    | ((with_reducible refine Has.get hp _ ?_); exact rfl)
    | with_reducible intro _
    | with_reducible apply State.act_kept
    | with_reducible apply State.owedBands_kept
    | with_reducible apply State.epochRecord_kept
    | with_reducible apply execStagedApply_kept
    | with_reducible apply execModeChange_kept
    | with_reducible apply execHeartbeatExpiry_kept
    | with_reducible apply execMgpWatchdogExpiry_kept
    | with_reducible apply execLeaderIdentityTimeout_kept
    | with_reducible apply State.forEach_kept
    | with_reducible apply execPllLockTimeout_kept
    | with_reducible apply execDomainAckTimeout_kept
    | with_reducible apply State.wakeUp_kept
    | with_reducible apply execPark_kept
    | with_reducible apply execWatchdogSweep_kept
    | with_reducible apply execThermalFrame_kept
    | with_reducible apply Outcome.Kept.next
    | with_reducible apply Kept.ite
    | with_reducible apply OKept.ite
    | with_reducible refine Kept.ofSnd ?_ (by with_reducible assumption)
    | with_reducible refine Kept.ofSnd2 ?_ (by with_reducible assumption)
    | with_reducible refine Kept.ofFst ?_ (by with_reducible assumption)
    | split
    | dsimp only

theorem State.actionsAt16_kept (hp : Has pp 0x230564021) (s : State) (hk : zz.Kept pp s) :
    zz.Kept pp (State.actionsAt16 s) := by
  unfold State.actionsAt16
  repeat' first
    | with_reducible assumption
    | ((with_reducible refine Has.mono hp ?_); exact rfl)
    | ((with_reducible refine Has.get hp _ ?_); exact rfl)
    | with_reducible intro _
    | with_reducible apply State.forEach_kept
    | with_reducible apply State.owedFrames_kept
    | with_reducible apply State.act_kept
    | with_reducible apply execDieLost_kept
    | with_reducible apply execLeaderLost_kept
    | with_reducible apply execPbpSilent_kept
    | with_reducible apply Outcome.Kept.next
    | with_reducible apply Kept.ite
    | with_reducible apply OKept.ite
    | with_reducible refine Kept.ofSnd ?_ (by with_reducible assumption)
    | with_reducible refine Kept.ofSnd2 ?_ (by with_reducible assumption)
    | with_reducible refine Kept.ofFst ?_ (by with_reducible assumption)
    | split
    | dsimp only

theorem State.releaseDue_kept (hp : Has pp 0x220604021) (s : State) (f : Nat) (hk : zz.Kept pp s) :
    zz.Kept pp (State.releaseDue s f) := by
  unfold State.releaseDue
  repeat' first
    | with_reducible assumption
    | ((with_reducible refine Has.mono hp ?_); exact rfl)
    | ((with_reducible refine Has.get hp _ ?_); exact rfl)
    | with_reducible intro _
    | with_reducible apply State.act_kept
    | with_reducible apply execBarrierRelease_kept
    | with_reducible apply Outcome.Kept.next
    | with_reducible apply Kept.ite
    | with_reducible apply OKept.ite
    | with_reducible refine Kept.ofSnd ?_ (by with_reducible assumption)
    | with_reducible refine Kept.ofSnd2 ?_ (by with_reducible assumption)
    | with_reducible refine Kept.ofFst ?_ (by with_reducible assumption)
    | split
    | dsimp only

theorem State.tickActions_kept (hp : Has pp 0x23effedf3) (s : State) (hk : zz.Kept pp s) :
    zz.Kept pp (State.tickActions s) := by
  unfold State.tickActions
  repeat' first
    | with_reducible assumption
    | ((with_reducible refine Has.mono hp ?_); exact rfl)
    | ((with_reducible refine Has.get hp _ ?_); exact rfl)
    | with_reducible intro _
    | with_reducible apply State.actionsAt0_kept
    | with_reducible apply State.actionsAt16_kept
    | with_reducible apply State.forEach_kept
    | with_reducible apply State.releaseDue_kept
    | with_reducible apply State.act_kept
    | with_reducible apply execModelStep_kept
    | with_reducible apply Outcome.Kept.next
    | with_reducible apply Kept.ite
    | with_reducible apply OKept.ite
    | with_reducible refine Kept.ofSnd ?_ (by with_reducible assumption)
    | with_reducible refine Kept.ofSnd2 ?_ (by with_reducible assumption)
    | with_reducible refine Kept.ofFst ?_ (by with_reducible assumption)
    | split
    | dsimp only

theorem State.namedActions_kept (hp : Has pp 0x23effedf3) (s : State) (hk : zz.Kept pp s) :
    zz.Kept pp (State.namedActions s) := by
  unfold State.namedActions
  repeat' first
    | with_reducible assumption
    | ((with_reducible refine Has.mono hp ?_); exact rfl)
    | ((with_reducible refine Has.get hp _ ?_); exact rfl)
    | with_reducible intro _
    | with_reducible apply State.logRest_kept
    | with_reducible apply State.contextRest_kept
    | with_reducible apply State.fabricRest_kept
    | with_reducible apply State.tickActions_kept
    | with_reducible apply Outcome.Kept.next
    | with_reducible apply Kept.ite
    | with_reducible apply OKept.ite
    | with_reducible refine Kept.ofSnd ?_ (by with_reducible assumption)
    | with_reducible refine Kept.ofSnd2 ?_ (by with_reducible assumption)
    | with_reducible refine Kept.ofFst ?_ (by with_reducible assumption)
    | split
    | dsimp only

theorem State.sample_kept (hp : Has pp 0x810) (s : State) (hk : zz.Kept pp s) :
    zz.Kept pp (State.sample s) := by
  unfold State.sample
  repeat' first
    | with_reducible assumption
    | ((with_reducible refine Has.mono hp ?_); exact rfl)
    | ((with_reducible refine Has.get hp _ ?_); exact rfl)
    | with_reducible exact (rfl : _ = _)
    | with_reducible exact id
    | (((with_reducible intro _); rfl))
    | with_reducible intro _
    | with_reducible apply State.forEach_kept
    | with_reducible apply State.setRail_kept
    | with_reducible apply Outcome.Kept.next
    | with_reducible apply Kept.ite
    | with_reducible apply OKept.ite
    | with_reducible refine Kept.ofSnd ?_ (by with_reducible assumption)
    | with_reducible refine Kept.ofSnd2 ?_ (by with_reducible assumption)
    | with_reducible refine Kept.ofFst ?_ (by with_reducible assumption)
    | split
    | dsimp only
    | with_reducible apply State.Kept.pins

theorem State.issueTick_kept (hp : Has pp 0x23efffff7) (s : State) (catchUp : Bool) (hk : zz.Kept pp s) :
    zz.Kept pp (State.issueTick s catchUp) := by
  unfold State.issueTick
  repeat' first
    | with_reducible assumption
    | ((with_reducible refine Has.mono hp ?_); exact rfl)
    | ((with_reducible refine Has.get hp _ ?_); exact rfl)
    | ((with_reducible refine Or.inr fun _ => ?_); exact rfl)
    | with_reducible intro _
    | ((with_reducible refine Or.inl (Has.get hp _ ?_)); exact rfl)
    | with_reducible apply State.sample_kept
    | with_reducible apply State.mapTime_kept
    | with_reducible apply State.namedActions_kept
    | with_reducible apply State.fabricBegin_kept
    | with_reducible apply State.tickWork_kept
    | with_reducible apply Outcome.Kept.next
    | with_reducible apply Kept.ite
    | with_reducible apply OKept.ite
    | with_reducible refine Kept.ofSnd ?_ (by with_reducible assumption)
    | with_reducible refine Kept.ofSnd2 ?_ (by with_reducible assumption)
    | with_reducible refine Kept.ofFst ?_ (by with_reducible assumption)
    | split
    | dsimp only

theorem State.issueRest_kept (hp : Has pp 0x23efffff7) (s : State) (catchUp : Bool) (hk : zz.Kept pp s) :
    zz.Kept pp (State.issueRest s catchUp) := by
  unfold State.issueRest
  repeat' first
    | with_reducible assumption
    | ((with_reducible refine Has.mono hp ?_); exact rfl)
    | ((with_reducible refine Has.get hp _ ?_); exact rfl)
    | with_reducible intro _
    | with_reducible apply State.forEach_kept
    | with_reducible apply State.issueTick_kept
    | with_reducible apply Outcome.Kept.next
    | with_reducible apply Kept.ite
    | with_reducible apply OKept.ite
    | with_reducible refine Kept.ofSnd ?_ (by with_reducible assumption)
    | with_reducible refine Kept.ofSnd2 ?_ (by with_reducible assumption)
    | with_reducible refine Kept.ofFst ?_ (by with_reducible assumption)
    | split
    | dsimp only

theorem State.endBeat_kept (hp : Has pp 0x23efffff7) (s : State) (len : Nat) (catchUp : Bool) (hk : zz.Kept pp s) :
    zz.Kept pp (State.endBeat s len catchUp) := by
  unfold State.endBeat
  repeat' first
    | with_reducible assumption
    | ((with_reducible refine Has.mono hp ?_); exact rfl)
    | ((with_reducible refine Has.get hp _ ?_); exact rfl)
    | ((with_reducible refine Or.inr fun _ => ?_); exact rfl)
    | with_reducible intro _
    | ((with_reducible refine Or.inl (Has.get hp _ ?_)); exact rfl)
    | with_reducible apply State.mapTime_kept
    | with_reducible apply State.sample_kept
    | with_reducible apply State.rollIntervals_kept
    | with_reducible apply State.namedActions_kept
    | with_reducible apply State.issueRest_kept
    | with_reducible apply Outcome.Kept.next
    | with_reducible apply Kept.ite
    | with_reducible apply OKept.ite
    | with_reducible refine Kept.ofSnd ?_ (by with_reducible assumption)
    | with_reducible refine Kept.ofSnd2 ?_ (by with_reducible assumption)
    | with_reducible refine Kept.ofFst ?_ (by with_reducible assumption)
    | split
    | dsimp only

theorem execTick_kept (hp : Has pp 0x23efffff7) (sense : List Nat) (s : State) (hk : zz.Kept pp s) :
    Outcome.Kept pp zz (execTick sense s) := by
  unfold execTick
  repeat' first
    | with_reducible assumption
    | ((with_reducible refine Has.mono hp ?_); exact rfl)
    | ((with_reducible refine Has.get hp _ ?_); exact rfl)
    | with_reducible exact (rfl : _ = _)
    | with_reducible exact id
    | (((with_reducible intro _); rfl))
    | with_reducible intro _
    | with_reducible apply State.issueTick_kept
    | with_reducible apply Outcome.Kept.next
    | with_reducible apply Kept.ite
    | with_reducible apply OKept.ite
    | with_reducible refine Kept.ofSnd ?_ (by with_reducible assumption)
    | with_reducible refine Kept.ofSnd2 ?_ (by with_reducible assumption)
    | with_reducible refine Kept.ofFst ?_ (by with_reducible assumption)
    | split
    | dsimp only
    | with_reducible apply State.Kept.pins

theorem State.stepBeat_kept (hp : Has pp 0x40000005) (s : State) (hk : zz.Kept pp s) :
    zz.Kept pp (State.stepBeat s) := by
  unfold State.stepBeat
  repeat' first
    | with_reducible assumption
    | ((with_reducible refine Has.mono hp ?_); exact rfl)
    | ((with_reducible refine Has.get hp _ ?_); exact rfl)
    | ((with_reducible refine Or.inr fun _ => ?_); exact rfl)
    | with_reducible intro _
    | ((with_reducible refine Or.inl (Has.get hp _ ?_)); exact rfl)
    | with_reducible apply State.mapTime_kept
    | with_reducible apply State.when_kept
    | with_reducible apply State.setF_kept
    | with_reducible apply Outcome.Kept.next
    | with_reducible apply Kept.ite
    | with_reducible apply OKept.ite
    | with_reducible refine Kept.ofSnd ?_ (by with_reducible assumption)
    | with_reducible refine Kept.ofSnd2 ?_ (by with_reducible assumption)
    | with_reducible refine Kept.ofFst ?_ (by with_reducible assumption)
    | split
    | dsimp only

theorem State.fireDue_kept (hp : Has pp 0x4) (s : State) (hk : zz.Kept pp s) :
    zz.Kept pp (State.fireDue s) := by
  unfold State.fireDue
  repeat' first
    | with_reducible assumption
    | ((with_reducible refine Has.mono hp ?_); exact rfl)
    | ((with_reducible refine Has.get hp _ ?_); exact rfl)
    | ((with_reducible refine Or.inr fun _ => ?_); exact rfl)
    | with_reducible intro _
    | ((with_reducible refine Or.inl (Has.get hp _ ?_)); exact rfl)
    | with_reducible apply State.mapTime_kept
    | with_reducible apply Outcome.Kept.next
    | with_reducible apply Kept.ite
    | with_reducible apply OKept.ite
    | with_reducible refine Kept.ofSnd ?_ (by with_reducible assumption)
    | with_reducible refine Kept.ofSnd2 ?_ (by with_reducible assumption)
    | with_reducible refine Kept.ofFst ?_ (by with_reducible assumption)
    | split
    | dsimp only

theorem State.countBeat_kept (hp : Has pp 0x12000401) (s : State) (hk : zz.Kept pp s) :
    zz.Kept pp (State.countBeat s) := by
  unfold State.countBeat
  repeat' first
    | with_reducible assumption
    | ((with_reducible refine Has.mono hp ?_); exact rfl)
    | ((with_reducible refine Has.get hp _ ?_); exact rfl)
    | with_reducible intro _
    | with_reducible apply State.countIntervals_kept
    | with_reducible apply State.when_kept
    | with_reducible apply State.setF_kept
    | with_reducible apply Outcome.Kept.next
    | with_reducible apply Kept.ite
    | with_reducible apply OKept.ite
    | with_reducible refine Kept.ofSnd ?_ (by with_reducible assumption)
    | with_reducible refine Kept.ofSnd2 ?_ (by with_reducible assumption)
    | with_reducible refine Kept.ofFst ?_ (by with_reducible assumption)
    | split
    | dsimp only
    | with_reducible apply State.Kept.procs
    | with_reducible apply State.Kept.supply

theorem State.markDue_kept (hp : Has pp 0x140) (s : State) (hk : zz.Kept pp s) :
    zz.Kept pp (State.markDue s) := by
  unfold State.markDue
  repeat' first
    | with_reducible assumption
    | ((with_reducible refine Has.mono hp ?_); exact rfl)
    | ((with_reducible refine Has.get hp _ ?_); exact rfl)
    | with_reducible intro _
    | with_reducible apply Outcome.Kept.next
    | with_reducible apply Kept.ite
    | with_reducible apply OKept.ite
    | with_reducible refine Kept.ofSnd ?_ (by with_reducible assumption)
    | with_reducible refine Kept.ofSnd2 ?_ (by with_reducible assumption)
    | with_reducible refine Kept.ofFst ?_ (by with_reducible assumption)
    | split
    | dsimp only
    | with_reducible apply State.Kept.mailbox_boot

theorem State.takeCal_kept (hp : Has pp 0x8000100) (s : State) (hk : zz.Kept pp s) :
    zz.Kept pp (State.takeCal s) := by
  unfold State.takeCal
  repeat' first
    | with_reducible assumption
    | ((with_reducible refine Has.mono hp ?_); exact rfl)
    | ((with_reducible refine Has.get hp _ ?_); exact rfl)
    | with_reducible intro _
    | with_reducible apply Outcome.Kept.next
    | with_reducible apply Kept.ite
    | with_reducible apply OKept.ite
    | with_reducible refine Kept.ofSnd ?_ (by with_reducible assumption)
    | with_reducible refine Kept.ofSnd2 ?_ (by with_reducible assumption)
    | with_reducible refine Kept.ofFst ?_ (by with_reducible assumption)
    | split
    | dsimp only
    | with_reducible apply State.Kept.boot_health

theorem State.takeHeld_kept (hp : Has pp 0xc0a0141) (s : State) (hk : zz.Kept pp s) :
    zz.Kept pp (State.takeHeld s) := by
  unfold State.takeHeld
  repeat' first
    | with_reducible assumption
    | ((with_reducible refine Has.mono hp ?_); exact rfl)
    | ((with_reducible refine Has.get hp _ ?_); exact rfl)
    | with_reducible intro _
    | with_reducible apply State.takeCal_kept
    | with_reducible apply State.markDue_kept
    | with_reducible apply State.liveTick0_kept
    | with_reducible apply State.when_kept
    | with_reducible apply State.followDebug_kept
    | with_reducible apply State.setF_kept
    | with_reducible apply Outcome.Kept.next
    | with_reducible apply Kept.ite
    | with_reducible apply OKept.ite
    | with_reducible refine Kept.ofSnd ?_ (by with_reducible assumption)
    | with_reducible refine Kept.ofSnd2 ?_ (by with_reducible assumption)
    | with_reducible refine Kept.ofFst ?_ (by with_reducible assumption)
    | split
    | dsimp only
    | with_reducible apply State.Kept.therm

theorem State.railsTick0_kept (hp : Has pp 0x208d2be31) (s : State) (hk : zz.Kept pp s) :
    zz.Kept pp (State.railsTick0 s) := by
  unfold State.railsTick0
  repeat' first
    | with_reducible assumption
    | ((with_reducible refine Has.mono hp ?_); exact rfl)
    | ((with_reducible refine Has.get hp _ ?_); exact rfl)
    | with_reducible intro _
    | with_reducible apply State.forEach_kept
    | with_reducible apply State.raiseTick0_kept
    | with_reducible apply State.railTick0_kept
    | with_reducible apply State.when_kept
    | with_reducible apply State.retarget_kept
    | with_reducible apply State.startRail_kept
    | with_reducible apply State.setF_kept
    | with_reducible apply State.tickWork_kept
    | with_reducible apply Outcome.Kept.next
    | with_reducible apply Kept.ite
    | with_reducible apply OKept.ite
    | with_reducible refine Kept.ofSnd ?_ (by with_reducible assumption)
    | with_reducible refine Kept.ofSnd2 ?_ (by with_reducible assumption)
    | with_reducible refine Kept.ofFst ?_ (by with_reducible assumption)
    | split
    | dsimp only
    | with_reducible apply State.Kept.supply

theorem State.wakeTick0_kept (hp : Has pp 0x10) (s : State) (hk : zz.Kept pp s) :
    zz.Kept pp (State.wakeTick0 s) := by
  unfold State.wakeTick0
  repeat' first
    | with_reducible assumption
    | ((with_reducible refine Has.mono hp ?_); exact rfl)
    | ((with_reducible refine Has.get hp _ ?_); exact rfl)
    | with_reducible exact (rfl : _ = _)
    | with_reducible exact id
    | (((with_reducible intro _); rfl))
    | with_reducible intro _
    | with_reducible apply Outcome.Kept.next
    | with_reducible apply Kept.ite
    | with_reducible apply OKept.ite
    | with_reducible refine Kept.ofSnd ?_ (by with_reducible assumption)
    | with_reducible refine Kept.ofSnd2 ?_ (by with_reducible assumption)
    | with_reducible refine Kept.ofFst ?_ (by with_reducible assumption)
    | split
    | dsimp only
    | with_reducible apply State.Kept.pins

theorem State.tick0_kept (hp : Has pp 0x27efbff75) (s : State) (hk : zz.Kept pp s) :
    zz.Kept pp (State.tick0 s) := by
  unfold State.tick0
  repeat' first
    | with_reducible assumption
    | ((with_reducible refine Has.mono hp ?_); exact rfl)
    | ((with_reducible refine Has.get hp _ ?_); exact rfl)
    | with_reducible intro _
    | with_reducible apply State.stepBeat_kept
    | with_reducible apply State.wakeTick0_kept
    | with_reducible apply State.shiftEdges_kept
    | with_reducible apply State.takeHeld_kept
    | with_reducible apply State.countBeat_kept
    | with_reducible apply State.fireDue_kept
    | with_reducible apply State.fabricBegin_kept
    | with_reducible apply State.domainTick0_kept
    | with_reducible apply State.railsTick0_kept
    | with_reducible apply Outcome.Kept.next
    | with_reducible apply Kept.ite
    | with_reducible apply OKept.ite
    | with_reducible refine Kept.ofSnd ?_ (by with_reducible assumption)
    | with_reducible refine Kept.ofSnd2 ?_ (by with_reducible assumption)
    | with_reducible refine Kept.ofFst ?_ (by with_reducible assumption)
    | split
    | dsimp only

theorem State.traceSubst_kept (hp : Has pp 0x400021) (s : State) (hk : zz.Kept pp s) :
    zz.Kept pp (State.traceSubst s) := by
  unfold State.traceSubst
  repeat' first
    | with_reducible assumption
    | ((with_reducible refine Has.mono hp ?_); exact rfl)
    | ((with_reducible refine Has.get hp _ ?_); exact rfl)
    | with_reducible intro _
    | with_reducible apply State.trace_kept
    | with_reducible apply Outcome.Kept.next
    | with_reducible apply Kept.ite
    | with_reducible apply OKept.ite
    | with_reducible refine Kept.ofSnd ?_ (by with_reducible assumption)
    | with_reducible refine Kept.ofSnd2 ?_ (by with_reducible assumption)
    | with_reducible refine Kept.ofFst ?_ (by with_reducible assumption)
    | split
    | dsimp only

theorem State.syncBeat_kept (hp : Has pp 0x27efbff75) (s : State) (flywheel : Bool) (hk : zz.Kept pp s) :
    zz.Kept pp (State.syncBeat s flywheel) := by
  unfold State.syncBeat
  repeat' first
    | with_reducible assumption
    | ((with_reducible refine Has.mono hp ?_); exact rfl)
    | ((with_reducible refine Has.get hp _ ?_); exact rfl)
    | with_reducible intro _
    | with_reducible apply State.setF_kept
    | with_reducible apply State.flagF_kept
    | with_reducible apply State.tick0_kept
    | with_reducible apply State.when_kept
    | with_reducible apply Outcome.Kept.next
    | with_reducible apply Kept.ite
    | with_reducible apply OKept.ite
    | with_reducible refine Kept.ofSnd ?_ (by with_reducible assumption)
    | with_reducible refine Kept.ofSnd2 ?_ (by with_reducible assumption)
    | with_reducible refine Kept.ofFst ?_ (by with_reducible assumption)
    | split
    | dsimp only

theorem State.substitute_kept (hp : Has pp 0x27efbff75) (s : State) (hk : zz.Kept pp s) :
    zz.Kept pp (State.substitute s) := by
  unfold State.substitute
  repeat' first
    | with_reducible assumption
    | ((with_reducible refine Has.mono hp ?_); exact rfl)
    | ((with_reducible refine Has.get hp _ ?_); exact rfl)
    | ((with_reducible refine Or.inr fun _ => ?_); exact rfl)
    | with_reducible intro _
    | ((with_reducible refine Or.inl (Has.get hp _ ?_)); exact rfl)
    | with_reducible apply State.setF_kept
    | with_reducible apply State.incF_kept
    | with_reducible apply State.mapTime_kept
    | with_reducible apply State.traceSubst_kept
    | with_reducible apply State.tick0_kept
    | with_reducible apply Outcome.Kept.next
    | with_reducible apply Kept.ite
    | with_reducible apply OKept.ite
    | with_reducible refine Kept.ofSnd ?_ (by with_reducible assumption)
    | with_reducible refine Kept.ofSnd2 ?_ (by with_reducible assumption)
    | with_reducible refine Kept.ofFst ?_ (by with_reducible assumption)
    | split
    | dsimp only

theorem State.acceptEdge_kept (hp : Has pp 0x27efffff7) (s : State) (at_ : Nat) (hk : zz.Kept pp s) :
    zz.Kept pp (State.acceptEdge s at_) := by
  unfold State.acceptEdge
  repeat' first
    | with_reducible assumption
    | ((with_reducible refine Has.mono hp ?_); exact rfl)
    | ((with_reducible refine Has.get hp _ ?_); exact rfl)
    | ((with_reducible refine Or.inr fun _ => ?_); exact rfl)
    | with_reducible intro _
    | ((with_reducible refine Or.inl (Has.get hp _ ?_)); exact rfl)
    | with_reducible apply State.endBeat_kept
    | with_reducible apply State.mapTime_kept
    | with_reducible apply State.substitute_kept
    | with_reducible apply State.syncBeat_kept
    | with_reducible apply Outcome.Kept.next
    | with_reducible apply Kept.ite
    | with_reducible apply OKept.ite
    | with_reducible refine Kept.ofSnd ?_ (by with_reducible assumption)
    | with_reducible refine Kept.ofSnd2 ?_ (by with_reducible assumption)
    | with_reducible refine Kept.ofFst ?_ (by with_reducible assumption)
    | split
    | dsimp only

theorem State.endSubstitute_kept (hp : Has pp 0x27efffff7) (s : State) (at_ : Nat) (l : List Nat) (hk : zz.Kept pp s) :
    zz.Kept pp (State.endSubstitute s at_ l) := by
  unfold State.endSubstitute
  repeat' first
    | with_reducible assumption
    | ((with_reducible refine Has.mono hp ?_); exact rfl)
    | ((with_reducible refine Has.get hp _ ?_); exact rfl)
    | ((with_reducible refine Or.inr fun _ => ?_); exact rfl)
    | with_reducible intro _
    | ((with_reducible refine Or.inl (Has.get hp _ ?_)); exact rfl)
    | with_reducible apply State.endBeat_kept
    | with_reducible apply State.mapTime_kept
    | with_reducible apply State.setF_kept
    | with_reducible apply State.traceSubst_kept
    | with_reducible apply State.syncBeat_kept
    | with_reducible apply Outcome.Kept.next
    | with_reducible apply Kept.ite
    | with_reducible apply OKept.ite
    | with_reducible refine Kept.ofSnd ?_ (by with_reducible assumption)
    | with_reducible refine Kept.ofSnd2 ?_ (by with_reducible assumption)
    | with_reducible refine Kept.ofFst ?_ (by with_reducible assumption)
    | split
    | dsimp only

theorem execSyncInEdge_kept (hp : Has pp 0x27efffff7) (at_ : Nat) (s : State) (hk : zz.Kept pp s) :
    Outcome.Kept pp zz (execSyncInEdge at_ s) := by
  unfold execSyncInEdge
  repeat' first
    | with_reducible assumption
    | ((with_reducible refine Has.mono hp ?_); exact rfl)
    | ((with_reducible refine Has.get hp _ ?_); exact rfl)
    | ((with_reducible refine Or.inr fun _ => ?_); exact rfl)
    | with_reducible intro _
    | ((with_reducible refine Or.inl (Has.get hp _ ?_)); exact rfl)
    | with_reducible apply State.endSubstitute_kept
    | with_reducible apply State.mapTime_kept
    | with_reducible apply State.acceptEdge_kept
    | with_reducible apply State.incF_kept
    | with_reducible apply Outcome.Kept.next
    | with_reducible apply Kept.ite
    | with_reducible apply OKept.ite
    | with_reducible refine Kept.ofSnd ?_ (by with_reducible assumption)
    | with_reducible refine Kept.ofSnd2 ?_ (by with_reducible assumption)
    | with_reducible refine Kept.ofFst ?_ (by with_reducible assumption)
    | split
    | dsimp only

theorem execSyncWindowClose_kept (hp : Has pp 0x27efffff7) (s : State) (hk : zz.Kept pp s) :
    Outcome.Kept pp zz (execSyncWindowClose s) := by
  unfold execSyncWindowClose
  repeat' first
    | with_reducible assumption
    | ((with_reducible refine Has.mono hp ?_); exact rfl)
    | ((with_reducible refine Has.get hp _ ?_); exact rfl)
    | ((with_reducible refine Or.inr fun _ => ?_); exact rfl)
    | with_reducible intro _
    | ((with_reducible refine Or.inl (Has.get hp _ ?_)); exact rfl)
    | with_reducible apply State.endBeat_kept
    | with_reducible apply State.mapTime_kept
    | with_reducible apply State.syncBeat_kept
    | with_reducible apply State.substitute_kept
    | with_reducible apply Outcome.Kept.next
    | with_reducible apply Kept.ite
    | with_reducible apply OKept.ite
    | with_reducible refine Kept.ofSnd ?_ (by with_reducible assumption)
    | with_reducible refine Kept.ofSnd2 ?_ (by with_reducible assumption)
    | with_reducible refine Kept.ofFst ?_ (by with_reducible assumption)
    | split
    | dsimp only

theorem execSubstituteBeatStart_kept (hp : Has pp 0x27efffff7) (s : State) (hk : zz.Kept pp s) :
    Outcome.Kept pp zz (execSubstituteBeatStart s) := by
  unfold execSubstituteBeatStart
  repeat' first
    | with_reducible assumption
    | ((with_reducible refine Has.mono hp ?_); exact rfl)
    | ((with_reducible refine Has.get hp _ ?_); exact rfl)
    | ((with_reducible refine Or.inr fun _ => ?_); exact rfl)
    | with_reducible intro _
    | ((with_reducible refine Or.inl (Has.get hp _ ?_)); exact rfl)
    | with_reducible apply State.tick0_kept
    | with_reducible apply State.mapTime_kept
    | with_reducible apply State.endBeat_kept
    | with_reducible apply Outcome.Kept.next
    | with_reducible apply Kept.ite
    | with_reducible apply OKept.ite
    | with_reducible refine Kept.ofSnd ?_ (by with_reducible assumption)
    | with_reducible refine Kept.ofSnd2 ?_ (by with_reducible assumption)
    | with_reducible refine Kept.ofFst ?_ (by with_reducible assumption)
    | split
    | dsimp only

theorem execScheduledAction_kept (hp : Has pp 0x4) (beat : BitVec 48) (s : State) (hk : zz.Kept pp s) :
    Outcome.Kept pp zz (execScheduledAction beat s) := by
  unfold execScheduledAction
  repeat' first
    | with_reducible assumption
    | ((with_reducible refine Has.mono hp ?_); exact rfl)
    | ((with_reducible refine Has.get hp _ ?_); exact rfl)
    | ((with_reducible refine Or.inr fun _ => ?_); exact rfl)
    | with_reducible intro _
    | ((with_reducible refine Or.inl (Has.get hp _ ?_)); exact rfl)
    | with_reducible apply State.mapTime_kept
    | with_reducible apply Outcome.Kept.next
    | with_reducible apply Kept.ite
    | with_reducible apply OKept.ite
    | with_reducible refine Kept.ofSnd ?_ (by with_reducible assumption)
    | with_reducible refine Kept.ofSnd2 ?_ (by with_reducible assumption)
    | with_reducible refine Kept.ofFst ?_ (by with_reducible assumption)
    | split
    | dsimp only

end Sys2Proof.Machine
end

