-- ==== Sys2Proof/Laws/State.lean ====
section
/-! SUPPORT. Reading after writing: a store at the key written and at any other key, a register field after a write of it
or of another, and each part of the state under each basic update of another part. -/
namespace Sys2Proof.Machine

theorem Store.read_erase {α : Type} (d : Nat → α) (m : Store α) (k j : Nat) :
    Store.read d (Store.erase m k) j = if j = k then d k else Store.read d m j := by
  induction m with
  | nil => simp only [Store.erase, Store.read]; split <;> simp_all
  | cons a m ih =>
    obtain ⟨i, v⟩ := a
    simp only [Store.erase]
    split
    · rw [ih]; simp only [Store.read]; split <;> simp_all
    · simp only [Store.read, ih]; split <;> split <;> simp_all

theorem Store.read_insert {α : Type} (d : Nat → α) (m : Store α) (k j : Nat) (w : α) :
    Store.read d (Store.insert m k w) j = if j = k then w else Store.read d m j := by
  induction m with
  | nil => rfl
  | cons a m ih =>
    obtain ⟨i, v⟩ := a
    simp only [Store.insert]
    split
    · rfl
    · split
      · simp only [Store.read]; split <;> simp_all
      · simp only [Store.read, ih]; split <;> split <;> simp_all

/-- What a store reads after a write: the value at its key, what it held at every other. -/
theorem Store.read_write {α : Type} [DecidableEq α] (d : Nat → α) (m : Store α) (k j : Nat) (w : α) :
    Store.read d (Store.write d m k w) j = if j = k then w else Store.read d m j := by
  unfold Store.write
  split
  · rw [Store.read_erase]; split <;> simp_all
  · exact Store.read_insert d m k j w

@[simp] theorem Store.read_write_self {α : Type} [DecidableEq α] (d : Nat → α) (m : Store α) (k : Nat) (w : α) :
    Store.read d (Store.write d m k w) k = w := by simp [Store.read_write]

theorem Store.read_write_ne {α : Type} [DecidableEq α] (d : Nat → α) (m : Store α) {k j : Nat} (w : α) (h : j ≠ k) :
    Store.read d (Store.write d m k w) j = Store.read d m j := by simp [Store.read_write, h]

@[simp] theorem Store.read_update_self {α : Type} [DecidableEq α] (d : Nat → α) (m : Store α) (k : Nat) (f : α → α) :
    Store.read d (Store.update d m k f) k = f (Store.read d m k) := by simp [Store.update]

theorem Store.read_update_ne {α : Type} [DecidableEq α] (d : Nat → α) (m : Store α) {k j : Nat} (f : α → α) (h : j ≠ k) :
    Store.read d (Store.update d m k f) j = Store.read d m j := by simp [Store.update, Store.read_write_ne _ _ _ h]

/-- What a register field reads after a write of a field: the value cut to its width, or as before. -/
theorem State.getF_setF (s : State) (f g : Field) (v : Nat) :
    (s.setF f v).getF g = if g.key = f.key then v % 2 ^ f.width else s.getF g := by
  simp [State.getF, State.setF, Store.read_write]

@[simp] theorem State.getF_setF_self (s : State) (f : Field) (v : Nat) : (s.setF f v).getF f = v % 2 ^ f.width := by
  simp [State.getF_setF]

theorem State.getF_setF_ne (s : State) {f g : Field} (v : Nat) (h : g.key ≠ f.key) : (s.setF f v).getF g = s.getF g := by
  simp [State.getF_setF, h]

@[simp] theorem State.setF_applied (s : State) (f : Field) (v : Nat) : (s.setF f v).applied = s.applied := rfl
@[simp] theorem State.setF_time (s : State) (f : Field) (v : Nat) : (s.setF f v).time = s.time := rfl
@[simp] theorem State.setF_port (s : State) (f : Field) (v : Nat) : (s.setF f v).port = s.port := rfl
@[simp] theorem State.setF_pins (s : State) (f : Field) (v : Nat) : (s.setF f v).pins = s.pins := rfl
@[simp] theorem State.setF_logRam (s : State) (f : Field) (v : Nat) : (s.setF f v).logRam = s.logRam := rfl
@[simp] theorem State.setF_mailbox (s : State) (f : Field) (v : Nat) : (s.setF f v).mailbox = s.mailbox := rfl
@[simp] theorem State.setF_flash (s : State) (f : Field) (v : Nat) : (s.setF f v).flash = s.flash := rfl
@[simp] theorem State.setF_boot (s : State) (f : Field) (v : Nat) : (s.setF f v).boot = s.boot := rfl
@[simp] theorem State.setF_trip (s : State) (f : Field) (v : Nat) : (s.setF f v).trip = s.trip := rfl
@[simp] theorem State.setF_supply (s : State) (f : Field) (v : Nat) : (s.setF f v).supply = s.supply := rfl
@[simp] theorem State.setF_rails (s : State) (f : Field) (v : Nat) : (s.setF f v).rails = s.rails := rfl
@[simp] theorem State.setF_phases (s : State) (f : Field) (v : Nat) : (s.setF f v).phases = s.phases := rfl
@[simp] theorem State.setF_clcs (s : State) (f : Field) (v : Nat) : (s.setF f v).clcs = s.clcs := rfl
@[simp] theorem State.setF_cpas (s : State) (f : Field) (v : Nat) : (s.setF f v).cpas = s.cpas := rfl
@[simp] theorem State.setF_doms (s : State) (f : Field) (v : Nat) : (s.setF f v).doms = s.doms := rfl
@[simp] theorem State.setF_away (s : State) (f : Field) (v : Nat) : (s.setF f v).away = s.away := rfl
@[simp] theorem State.setF_cap (s : State) (f : Field) (v : Nat) : (s.setF f v).cap = s.cap := rfl
@[simp] theorem State.setF_links (s : State) (f : Field) (v : Nat) : (s.setF f v).links = s.links := rfl
@[simp] theorem State.setF_therm (s : State) (f : Field) (v : Nat) : (s.setF f v).therm = s.therm := rfl
@[simp] theorem State.setF_model (s : State) (f : Field) (v : Nat) : (s.setF f v).model = s.model := rfl
@[simp] theorem State.setF_sync (s : State) (f : Field) (v : Nat) : (s.setF f v).sync = s.sync := rfl
@[simp] theorem State.setF_ecc (s : State) (f : Field) (v : Nat) : (s.setF f v).ecc = s.ecc := rfl
@[simp] theorem State.setF_pmbus (s : State) (f : Field) (v : Nat) : (s.setF f v).pmbus = s.pmbus := rfl
@[simp] theorem State.setF_jtag (s : State) (f : Field) (v : Nat) : (s.setF f v).jtag = s.jtag := rfl
@[simp] theorem State.setF_procs (s : State) (f : Field) (v : Nat) : (s.setF f v).procs = s.procs := rfl
@[simp] theorem State.setF_update (s : State) (f : Field) (v : Nat) : (s.setF f v).update = s.update := rfl
@[simp] theorem State.setF_health (s : State) (f : Field) (v : Nat) : (s.setF f v).health = s.health := rfl
@[simp] theorem State.setF_intervals (s : State) (f : Field) (v : Nat) : (s.setF f v).intervals = s.intervals := rfl
@[simp] theorem State.setF_held (s : State) (f : Field) (v : Nat) : (s.setF f v).held = s.held := rfl
@[simp] theorem State.setF_free (s : State) (f : Field) (v : Nat) : (s.setF f v).free = s.free := rfl
@[simp] theorem State.setF_pending (s : State) (f : Field) (v : Nat) : (s.setF f v).pending = s.pending := rfl

@[simp] theorem State.applyKey_fields (s : State) (k : Nat) : (s.applyKey k).fields = s.fields := rfl
@[simp] theorem State.applyKey_time (s : State) (k : Nat) : (s.applyKey k).time = s.time := rfl
@[simp] theorem State.applyKey_port (s : State) (k : Nat) : (s.applyKey k).port = s.port := rfl
@[simp] theorem State.applyKey_pins (s : State) (k : Nat) : (s.applyKey k).pins = s.pins := rfl
@[simp] theorem State.applyKey_logRam (s : State) (k : Nat) : (s.applyKey k).logRam = s.logRam := rfl
@[simp] theorem State.applyKey_mailbox (s : State) (k : Nat) : (s.applyKey k).mailbox = s.mailbox := rfl
@[simp] theorem State.applyKey_flash (s : State) (k : Nat) : (s.applyKey k).flash = s.flash := rfl
@[simp] theorem State.applyKey_boot (s : State) (k : Nat) : (s.applyKey k).boot = s.boot := rfl
@[simp] theorem State.applyKey_trip (s : State) (k : Nat) : (s.applyKey k).trip = s.trip := rfl
@[simp] theorem State.applyKey_supply (s : State) (k : Nat) : (s.applyKey k).supply = s.supply := rfl
@[simp] theorem State.applyKey_rails (s : State) (k : Nat) : (s.applyKey k).rails = s.rails := rfl
@[simp] theorem State.applyKey_phases (s : State) (k : Nat) : (s.applyKey k).phases = s.phases := rfl
@[simp] theorem State.applyKey_clcs (s : State) (k : Nat) : (s.applyKey k).clcs = s.clcs := rfl
@[simp] theorem State.applyKey_cpas (s : State) (k : Nat) : (s.applyKey k).cpas = s.cpas := rfl
@[simp] theorem State.applyKey_doms (s : State) (k : Nat) : (s.applyKey k).doms = s.doms := rfl
@[simp] theorem State.applyKey_away (s : State) (k : Nat) : (s.applyKey k).away = s.away := rfl
@[simp] theorem State.applyKey_cap (s : State) (k : Nat) : (s.applyKey k).cap = s.cap := rfl
@[simp] theorem State.applyKey_links (s : State) (k : Nat) : (s.applyKey k).links = s.links := rfl
@[simp] theorem State.applyKey_therm (s : State) (k : Nat) : (s.applyKey k).therm = s.therm := rfl
@[simp] theorem State.applyKey_model (s : State) (k : Nat) : (s.applyKey k).model = s.model := rfl
@[simp] theorem State.applyKey_sync (s : State) (k : Nat) : (s.applyKey k).sync = s.sync := rfl
@[simp] theorem State.applyKey_ecc (s : State) (k : Nat) : (s.applyKey k).ecc = s.ecc := rfl
@[simp] theorem State.applyKey_pmbus (s : State) (k : Nat) : (s.applyKey k).pmbus = s.pmbus := rfl
@[simp] theorem State.applyKey_jtag (s : State) (k : Nat) : (s.applyKey k).jtag = s.jtag := rfl
@[simp] theorem State.applyKey_procs (s : State) (k : Nat) : (s.applyKey k).procs = s.procs := rfl
@[simp] theorem State.applyKey_update (s : State) (k : Nat) : (s.applyKey k).update = s.update := rfl
@[simp] theorem State.applyKey_health (s : State) (k : Nat) : (s.applyKey k).health = s.health := rfl
@[simp] theorem State.applyKey_intervals (s : State) (k : Nat) : (s.applyKey k).intervals = s.intervals := rfl
@[simp] theorem State.applyKey_held (s : State) (k : Nat) : (s.applyKey k).held = s.held := rfl
@[simp] theorem State.applyKey_free (s : State) (k : Nat) : (s.applyKey k).free = s.free := rfl
@[simp] theorem State.applyKey_pending (s : State) (k : Nat) : (s.applyKey k).pending = s.pending := rfl
@[simp] theorem State.applyKey_getF (s : State) (k : Nat) (g : Field) : (s.applyKey k).getF g = s.getF g := rfl

@[simp] theorem State.setRail_fields (s : State) (k : Nat) (f : Rail → Rail) : (s.setRail k f).fields = s.fields := rfl
@[simp] theorem State.setRail_applied (s : State) (k : Nat) (f : Rail → Rail) : (s.setRail k f).applied = s.applied := rfl
@[simp] theorem State.setRail_time (s : State) (k : Nat) (f : Rail → Rail) : (s.setRail k f).time = s.time := rfl
@[simp] theorem State.setRail_port (s : State) (k : Nat) (f : Rail → Rail) : (s.setRail k f).port = s.port := rfl
@[simp] theorem State.setRail_pins (s : State) (k : Nat) (f : Rail → Rail) : (s.setRail k f).pins = s.pins := rfl
@[simp] theorem State.setRail_logRam (s : State) (k : Nat) (f : Rail → Rail) : (s.setRail k f).logRam = s.logRam := rfl
@[simp] theorem State.setRail_mailbox (s : State) (k : Nat) (f : Rail → Rail) : (s.setRail k f).mailbox = s.mailbox := rfl
@[simp] theorem State.setRail_flash (s : State) (k : Nat) (f : Rail → Rail) : (s.setRail k f).flash = s.flash := rfl
@[simp] theorem State.setRail_boot (s : State) (k : Nat) (f : Rail → Rail) : (s.setRail k f).boot = s.boot := rfl
@[simp] theorem State.setRail_trip (s : State) (k : Nat) (f : Rail → Rail) : (s.setRail k f).trip = s.trip := rfl
@[simp] theorem State.setRail_supply (s : State) (k : Nat) (f : Rail → Rail) : (s.setRail k f).supply = s.supply := rfl
@[simp] theorem State.setRail_phases (s : State) (k : Nat) (f : Rail → Rail) : (s.setRail k f).phases = s.phases := rfl
@[simp] theorem State.setRail_clcs (s : State) (k : Nat) (f : Rail → Rail) : (s.setRail k f).clcs = s.clcs := rfl
@[simp] theorem State.setRail_cpas (s : State) (k : Nat) (f : Rail → Rail) : (s.setRail k f).cpas = s.cpas := rfl
@[simp] theorem State.setRail_doms (s : State) (k : Nat) (f : Rail → Rail) : (s.setRail k f).doms = s.doms := rfl
@[simp] theorem State.setRail_away (s : State) (k : Nat) (f : Rail → Rail) : (s.setRail k f).away = s.away := rfl
@[simp] theorem State.setRail_cap (s : State) (k : Nat) (f : Rail → Rail) : (s.setRail k f).cap = s.cap := rfl
@[simp] theorem State.setRail_links (s : State) (k : Nat) (f : Rail → Rail) : (s.setRail k f).links = s.links := rfl
@[simp] theorem State.setRail_therm (s : State) (k : Nat) (f : Rail → Rail) : (s.setRail k f).therm = s.therm := rfl
@[simp] theorem State.setRail_model (s : State) (k : Nat) (f : Rail → Rail) : (s.setRail k f).model = s.model := rfl
@[simp] theorem State.setRail_sync (s : State) (k : Nat) (f : Rail → Rail) : (s.setRail k f).sync = s.sync := rfl
@[simp] theorem State.setRail_ecc (s : State) (k : Nat) (f : Rail → Rail) : (s.setRail k f).ecc = s.ecc := rfl
@[simp] theorem State.setRail_pmbus (s : State) (k : Nat) (f : Rail → Rail) : (s.setRail k f).pmbus = s.pmbus := rfl
@[simp] theorem State.setRail_jtag (s : State) (k : Nat) (f : Rail → Rail) : (s.setRail k f).jtag = s.jtag := rfl
@[simp] theorem State.setRail_procs (s : State) (k : Nat) (f : Rail → Rail) : (s.setRail k f).procs = s.procs := rfl
@[simp] theorem State.setRail_update (s : State) (k : Nat) (f : Rail → Rail) : (s.setRail k f).update = s.update := rfl
@[simp] theorem State.setRail_health (s : State) (k : Nat) (f : Rail → Rail) : (s.setRail k f).health = s.health := rfl
@[simp] theorem State.setRail_intervals (s : State) (k : Nat) (f : Rail → Rail) : (s.setRail k f).intervals = s.intervals := rfl
@[simp] theorem State.setRail_held (s : State) (k : Nat) (f : Rail → Rail) : (s.setRail k f).held = s.held := rfl
@[simp] theorem State.setRail_free (s : State) (k : Nat) (f : Rail → Rail) : (s.setRail k f).free = s.free := rfl
@[simp] theorem State.setRail_pending (s : State) (k : Nat) (f : Rail → Rail) : (s.setRail k f).pending = s.pending := rfl
@[simp] theorem State.setRail_getF (s : State) (k : Nat) (f : Rail → Rail) (g : Field) : (s.setRail k f).getF g = s.getF g := rfl

@[simp] theorem State.setPhase_fields (s : State) (p : Nat) (f : Phase → Phase) : (s.setPhase p f).fields = s.fields := rfl
@[simp] theorem State.setPhase_applied (s : State) (p : Nat) (f : Phase → Phase) : (s.setPhase p f).applied = s.applied := rfl
@[simp] theorem State.setPhase_time (s : State) (p : Nat) (f : Phase → Phase) : (s.setPhase p f).time = s.time := rfl
@[simp] theorem State.setPhase_port (s : State) (p : Nat) (f : Phase → Phase) : (s.setPhase p f).port = s.port := rfl
@[simp] theorem State.setPhase_pins (s : State) (p : Nat) (f : Phase → Phase) : (s.setPhase p f).pins = s.pins := rfl
@[simp] theorem State.setPhase_logRam (s : State) (p : Nat) (f : Phase → Phase) : (s.setPhase p f).logRam = s.logRam := rfl
@[simp] theorem State.setPhase_mailbox (s : State) (p : Nat) (f : Phase → Phase) : (s.setPhase p f).mailbox = s.mailbox := rfl
@[simp] theorem State.setPhase_flash (s : State) (p : Nat) (f : Phase → Phase) : (s.setPhase p f).flash = s.flash := rfl
@[simp] theorem State.setPhase_boot (s : State) (p : Nat) (f : Phase → Phase) : (s.setPhase p f).boot = s.boot := rfl
@[simp] theorem State.setPhase_trip (s : State) (p : Nat) (f : Phase → Phase) : (s.setPhase p f).trip = s.trip := rfl
@[simp] theorem State.setPhase_supply (s : State) (p : Nat) (f : Phase → Phase) : (s.setPhase p f).supply = s.supply := rfl
@[simp] theorem State.setPhase_rails (s : State) (p : Nat) (f : Phase → Phase) : (s.setPhase p f).rails = s.rails := rfl
@[simp] theorem State.setPhase_clcs (s : State) (p : Nat) (f : Phase → Phase) : (s.setPhase p f).clcs = s.clcs := rfl
@[simp] theorem State.setPhase_cpas (s : State) (p : Nat) (f : Phase → Phase) : (s.setPhase p f).cpas = s.cpas := rfl
@[simp] theorem State.setPhase_doms (s : State) (p : Nat) (f : Phase → Phase) : (s.setPhase p f).doms = s.doms := rfl
@[simp] theorem State.setPhase_away (s : State) (p : Nat) (f : Phase → Phase) : (s.setPhase p f).away = s.away := rfl
@[simp] theorem State.setPhase_cap (s : State) (p : Nat) (f : Phase → Phase) : (s.setPhase p f).cap = s.cap := rfl
@[simp] theorem State.setPhase_links (s : State) (p : Nat) (f : Phase → Phase) : (s.setPhase p f).links = s.links := rfl
@[simp] theorem State.setPhase_therm (s : State) (p : Nat) (f : Phase → Phase) : (s.setPhase p f).therm = s.therm := rfl
@[simp] theorem State.setPhase_model (s : State) (p : Nat) (f : Phase → Phase) : (s.setPhase p f).model = s.model := rfl
@[simp] theorem State.setPhase_sync (s : State) (p : Nat) (f : Phase → Phase) : (s.setPhase p f).sync = s.sync := rfl
@[simp] theorem State.setPhase_ecc (s : State) (p : Nat) (f : Phase → Phase) : (s.setPhase p f).ecc = s.ecc := rfl
@[simp] theorem State.setPhase_pmbus (s : State) (p : Nat) (f : Phase → Phase) : (s.setPhase p f).pmbus = s.pmbus := rfl
@[simp] theorem State.setPhase_jtag (s : State) (p : Nat) (f : Phase → Phase) : (s.setPhase p f).jtag = s.jtag := rfl
@[simp] theorem State.setPhase_procs (s : State) (p : Nat) (f : Phase → Phase) : (s.setPhase p f).procs = s.procs := rfl
@[simp] theorem State.setPhase_update (s : State) (p : Nat) (f : Phase → Phase) : (s.setPhase p f).update = s.update := rfl
@[simp] theorem State.setPhase_health (s : State) (p : Nat) (f : Phase → Phase) : (s.setPhase p f).health = s.health := rfl
@[simp] theorem State.setPhase_intervals (s : State) (p : Nat) (f : Phase → Phase) : (s.setPhase p f).intervals = s.intervals := rfl
@[simp] theorem State.setPhase_held (s : State) (p : Nat) (f : Phase → Phase) : (s.setPhase p f).held = s.held := rfl
@[simp] theorem State.setPhase_free (s : State) (p : Nat) (f : Phase → Phase) : (s.setPhase p f).free = s.free := rfl
@[simp] theorem State.setPhase_pending (s : State) (p : Nat) (f : Phase → Phase) : (s.setPhase p f).pending = s.pending := rfl
@[simp] theorem State.setPhase_getF (s : State) (p : Nat) (f : Phase → Phase) (g : Field) : (s.setPhase p f).getF g = s.getF g := rfl

@[simp] theorem State.setClc_fields (s : State) (c : Nat) (f : Clc → Clc) : (s.setClc c f).fields = s.fields := rfl
@[simp] theorem State.setClc_applied (s : State) (c : Nat) (f : Clc → Clc) : (s.setClc c f).applied = s.applied := rfl
@[simp] theorem State.setClc_time (s : State) (c : Nat) (f : Clc → Clc) : (s.setClc c f).time = s.time := rfl
@[simp] theorem State.setClc_port (s : State) (c : Nat) (f : Clc → Clc) : (s.setClc c f).port = s.port := rfl
@[simp] theorem State.setClc_pins (s : State) (c : Nat) (f : Clc → Clc) : (s.setClc c f).pins = s.pins := rfl
@[simp] theorem State.setClc_logRam (s : State) (c : Nat) (f : Clc → Clc) : (s.setClc c f).logRam = s.logRam := rfl
@[simp] theorem State.setClc_mailbox (s : State) (c : Nat) (f : Clc → Clc) : (s.setClc c f).mailbox = s.mailbox := rfl
@[simp] theorem State.setClc_flash (s : State) (c : Nat) (f : Clc → Clc) : (s.setClc c f).flash = s.flash := rfl
@[simp] theorem State.setClc_boot (s : State) (c : Nat) (f : Clc → Clc) : (s.setClc c f).boot = s.boot := rfl
@[simp] theorem State.setClc_trip (s : State) (c : Nat) (f : Clc → Clc) : (s.setClc c f).trip = s.trip := rfl
@[simp] theorem State.setClc_supply (s : State) (c : Nat) (f : Clc → Clc) : (s.setClc c f).supply = s.supply := rfl
@[simp] theorem State.setClc_rails (s : State) (c : Nat) (f : Clc → Clc) : (s.setClc c f).rails = s.rails := rfl
@[simp] theorem State.setClc_phases (s : State) (c : Nat) (f : Clc → Clc) : (s.setClc c f).phases = s.phases := rfl
@[simp] theorem State.setClc_cpas (s : State) (c : Nat) (f : Clc → Clc) : (s.setClc c f).cpas = s.cpas := rfl
@[simp] theorem State.setClc_doms (s : State) (c : Nat) (f : Clc → Clc) : (s.setClc c f).doms = s.doms := rfl
@[simp] theorem State.setClc_away (s : State) (c : Nat) (f : Clc → Clc) : (s.setClc c f).away = s.away := rfl
@[simp] theorem State.setClc_cap (s : State) (c : Nat) (f : Clc → Clc) : (s.setClc c f).cap = s.cap := rfl
@[simp] theorem State.setClc_links (s : State) (c : Nat) (f : Clc → Clc) : (s.setClc c f).links = s.links := rfl
@[simp] theorem State.setClc_therm (s : State) (c : Nat) (f : Clc → Clc) : (s.setClc c f).therm = s.therm := rfl
@[simp] theorem State.setClc_model (s : State) (c : Nat) (f : Clc → Clc) : (s.setClc c f).model = s.model := rfl
@[simp] theorem State.setClc_sync (s : State) (c : Nat) (f : Clc → Clc) : (s.setClc c f).sync = s.sync := rfl
@[simp] theorem State.setClc_ecc (s : State) (c : Nat) (f : Clc → Clc) : (s.setClc c f).ecc = s.ecc := rfl
@[simp] theorem State.setClc_pmbus (s : State) (c : Nat) (f : Clc → Clc) : (s.setClc c f).pmbus = s.pmbus := rfl
@[simp] theorem State.setClc_jtag (s : State) (c : Nat) (f : Clc → Clc) : (s.setClc c f).jtag = s.jtag := rfl
@[simp] theorem State.setClc_procs (s : State) (c : Nat) (f : Clc → Clc) : (s.setClc c f).procs = s.procs := rfl
@[simp] theorem State.setClc_update (s : State) (c : Nat) (f : Clc → Clc) : (s.setClc c f).update = s.update := rfl
@[simp] theorem State.setClc_health (s : State) (c : Nat) (f : Clc → Clc) : (s.setClc c f).health = s.health := rfl
@[simp] theorem State.setClc_intervals (s : State) (c : Nat) (f : Clc → Clc) : (s.setClc c f).intervals = s.intervals := rfl
@[simp] theorem State.setClc_held (s : State) (c : Nat) (f : Clc → Clc) : (s.setClc c f).held = s.held := rfl
@[simp] theorem State.setClc_free (s : State) (c : Nat) (f : Clc → Clc) : (s.setClc c f).free = s.free := rfl
@[simp] theorem State.setClc_pending (s : State) (c : Nat) (f : Clc → Clc) : (s.setClc c f).pending = s.pending := rfl
@[simp] theorem State.setClc_getF (s : State) (c : Nat) (f : Clc → Clc) (g : Field) : (s.setClc c f).getF g = s.getF g := rfl

@[simp] theorem State.setCpa_fields (s : State) (n : Nat) (f : Cpa → Cpa) : (s.setCpa n f).fields = s.fields := rfl
@[simp] theorem State.setCpa_applied (s : State) (n : Nat) (f : Cpa → Cpa) : (s.setCpa n f).applied = s.applied := rfl
@[simp] theorem State.setCpa_time (s : State) (n : Nat) (f : Cpa → Cpa) : (s.setCpa n f).time = s.time := rfl
@[simp] theorem State.setCpa_port (s : State) (n : Nat) (f : Cpa → Cpa) : (s.setCpa n f).port = s.port := rfl
@[simp] theorem State.setCpa_pins (s : State) (n : Nat) (f : Cpa → Cpa) : (s.setCpa n f).pins = s.pins := rfl
@[simp] theorem State.setCpa_logRam (s : State) (n : Nat) (f : Cpa → Cpa) : (s.setCpa n f).logRam = s.logRam := rfl
@[simp] theorem State.setCpa_mailbox (s : State) (n : Nat) (f : Cpa → Cpa) : (s.setCpa n f).mailbox = s.mailbox := rfl
@[simp] theorem State.setCpa_flash (s : State) (n : Nat) (f : Cpa → Cpa) : (s.setCpa n f).flash = s.flash := rfl
@[simp] theorem State.setCpa_boot (s : State) (n : Nat) (f : Cpa → Cpa) : (s.setCpa n f).boot = s.boot := rfl
@[simp] theorem State.setCpa_trip (s : State) (n : Nat) (f : Cpa → Cpa) : (s.setCpa n f).trip = s.trip := rfl
@[simp] theorem State.setCpa_supply (s : State) (n : Nat) (f : Cpa → Cpa) : (s.setCpa n f).supply = s.supply := rfl
@[simp] theorem State.setCpa_rails (s : State) (n : Nat) (f : Cpa → Cpa) : (s.setCpa n f).rails = s.rails := rfl
@[simp] theorem State.setCpa_phases (s : State) (n : Nat) (f : Cpa → Cpa) : (s.setCpa n f).phases = s.phases := rfl
@[simp] theorem State.setCpa_clcs (s : State) (n : Nat) (f : Cpa → Cpa) : (s.setCpa n f).clcs = s.clcs := rfl
@[simp] theorem State.setCpa_doms (s : State) (n : Nat) (f : Cpa → Cpa) : (s.setCpa n f).doms = s.doms := rfl
@[simp] theorem State.setCpa_away (s : State) (n : Nat) (f : Cpa → Cpa) : (s.setCpa n f).away = s.away := rfl
@[simp] theorem State.setCpa_cap (s : State) (n : Nat) (f : Cpa → Cpa) : (s.setCpa n f).cap = s.cap := rfl
@[simp] theorem State.setCpa_links (s : State) (n : Nat) (f : Cpa → Cpa) : (s.setCpa n f).links = s.links := rfl
@[simp] theorem State.setCpa_therm (s : State) (n : Nat) (f : Cpa → Cpa) : (s.setCpa n f).therm = s.therm := rfl
@[simp] theorem State.setCpa_model (s : State) (n : Nat) (f : Cpa → Cpa) : (s.setCpa n f).model = s.model := rfl
@[simp] theorem State.setCpa_sync (s : State) (n : Nat) (f : Cpa → Cpa) : (s.setCpa n f).sync = s.sync := rfl
@[simp] theorem State.setCpa_ecc (s : State) (n : Nat) (f : Cpa → Cpa) : (s.setCpa n f).ecc = s.ecc := rfl
@[simp] theorem State.setCpa_pmbus (s : State) (n : Nat) (f : Cpa → Cpa) : (s.setCpa n f).pmbus = s.pmbus := rfl
@[simp] theorem State.setCpa_jtag (s : State) (n : Nat) (f : Cpa → Cpa) : (s.setCpa n f).jtag = s.jtag := rfl
@[simp] theorem State.setCpa_procs (s : State) (n : Nat) (f : Cpa → Cpa) : (s.setCpa n f).procs = s.procs := rfl
@[simp] theorem State.setCpa_update (s : State) (n : Nat) (f : Cpa → Cpa) : (s.setCpa n f).update = s.update := rfl
@[simp] theorem State.setCpa_health (s : State) (n : Nat) (f : Cpa → Cpa) : (s.setCpa n f).health = s.health := rfl
@[simp] theorem State.setCpa_intervals (s : State) (n : Nat) (f : Cpa → Cpa) : (s.setCpa n f).intervals = s.intervals := rfl
@[simp] theorem State.setCpa_held (s : State) (n : Nat) (f : Cpa → Cpa) : (s.setCpa n f).held = s.held := rfl
@[simp] theorem State.setCpa_free (s : State) (n : Nat) (f : Cpa → Cpa) : (s.setCpa n f).free = s.free := rfl
@[simp] theorem State.setCpa_pending (s : State) (n : Nat) (f : Cpa → Cpa) : (s.setCpa n f).pending = s.pending := rfl
@[simp] theorem State.setCpa_getF (s : State) (n : Nat) (f : Cpa → Cpa) (g : Field) : (s.setCpa n f).getF g = s.getF g := rfl

@[simp] theorem State.setDom_fields (s : State) (d : Nat) (f : Dom → Dom) : (s.setDom d f).fields = s.fields := rfl
@[simp] theorem State.setDom_applied (s : State) (d : Nat) (f : Dom → Dom) : (s.setDom d f).applied = s.applied := rfl
@[simp] theorem State.setDom_time (s : State) (d : Nat) (f : Dom → Dom) : (s.setDom d f).time = s.time := rfl
@[simp] theorem State.setDom_port (s : State) (d : Nat) (f : Dom → Dom) : (s.setDom d f).port = s.port := rfl
@[simp] theorem State.setDom_pins (s : State) (d : Nat) (f : Dom → Dom) : (s.setDom d f).pins = s.pins := rfl
@[simp] theorem State.setDom_logRam (s : State) (d : Nat) (f : Dom → Dom) : (s.setDom d f).logRam = s.logRam := rfl
@[simp] theorem State.setDom_mailbox (s : State) (d : Nat) (f : Dom → Dom) : (s.setDom d f).mailbox = s.mailbox := rfl
@[simp] theorem State.setDom_flash (s : State) (d : Nat) (f : Dom → Dom) : (s.setDom d f).flash = s.flash := rfl
@[simp] theorem State.setDom_boot (s : State) (d : Nat) (f : Dom → Dom) : (s.setDom d f).boot = s.boot := rfl
@[simp] theorem State.setDom_trip (s : State) (d : Nat) (f : Dom → Dom) : (s.setDom d f).trip = s.trip := rfl
@[simp] theorem State.setDom_supply (s : State) (d : Nat) (f : Dom → Dom) : (s.setDom d f).supply = s.supply := rfl
@[simp] theorem State.setDom_rails (s : State) (d : Nat) (f : Dom → Dom) : (s.setDom d f).rails = s.rails := rfl
@[simp] theorem State.setDom_phases (s : State) (d : Nat) (f : Dom → Dom) : (s.setDom d f).phases = s.phases := rfl
@[simp] theorem State.setDom_clcs (s : State) (d : Nat) (f : Dom → Dom) : (s.setDom d f).clcs = s.clcs := rfl
@[simp] theorem State.setDom_cpas (s : State) (d : Nat) (f : Dom → Dom) : (s.setDom d f).cpas = s.cpas := rfl
@[simp] theorem State.setDom_away (s : State) (d : Nat) (f : Dom → Dom) : (s.setDom d f).away = s.away := rfl
@[simp] theorem State.setDom_cap (s : State) (d : Nat) (f : Dom → Dom) : (s.setDom d f).cap = s.cap := rfl
@[simp] theorem State.setDom_links (s : State) (d : Nat) (f : Dom → Dom) : (s.setDom d f).links = s.links := rfl
@[simp] theorem State.setDom_therm (s : State) (d : Nat) (f : Dom → Dom) : (s.setDom d f).therm = s.therm := rfl
@[simp] theorem State.setDom_model (s : State) (d : Nat) (f : Dom → Dom) : (s.setDom d f).model = s.model := rfl
@[simp] theorem State.setDom_sync (s : State) (d : Nat) (f : Dom → Dom) : (s.setDom d f).sync = s.sync := rfl
@[simp] theorem State.setDom_ecc (s : State) (d : Nat) (f : Dom → Dom) : (s.setDom d f).ecc = s.ecc := rfl
@[simp] theorem State.setDom_pmbus (s : State) (d : Nat) (f : Dom → Dom) : (s.setDom d f).pmbus = s.pmbus := rfl
@[simp] theorem State.setDom_jtag (s : State) (d : Nat) (f : Dom → Dom) : (s.setDom d f).jtag = s.jtag := rfl
@[simp] theorem State.setDom_procs (s : State) (d : Nat) (f : Dom → Dom) : (s.setDom d f).procs = s.procs := rfl
@[simp] theorem State.setDom_update (s : State) (d : Nat) (f : Dom → Dom) : (s.setDom d f).update = s.update := rfl
@[simp] theorem State.setDom_health (s : State) (d : Nat) (f : Dom → Dom) : (s.setDom d f).health = s.health := rfl
@[simp] theorem State.setDom_intervals (s : State) (d : Nat) (f : Dom → Dom) : (s.setDom d f).intervals = s.intervals := rfl
@[simp] theorem State.setDom_held (s : State) (d : Nat) (f : Dom → Dom) : (s.setDom d f).held = s.held := rfl
@[simp] theorem State.setDom_free (s : State) (d : Nat) (f : Dom → Dom) : (s.setDom d f).free = s.free := rfl
@[simp] theorem State.setDom_pending (s : State) (d : Nat) (f : Dom → Dom) : (s.setDom d f).pending = s.pending := rfl
@[simp] theorem State.setDom_getF (s : State) (d : Nat) (f : Dom → Dom) (g : Field) : (s.setDom d f).getF g = s.getF g := rfl

@[simp] theorem State.mapSync_fields (s : State) (f : Sync → Sync) : (s.mapSync f).fields = s.fields := rfl
@[simp] theorem State.mapSync_applied (s : State) (f : Sync → Sync) : (s.mapSync f).applied = s.applied := rfl
@[simp] theorem State.mapSync_time (s : State) (f : Sync → Sync) : (s.mapSync f).time = s.time := rfl
@[simp] theorem State.mapSync_port (s : State) (f : Sync → Sync) : (s.mapSync f).port = s.port := rfl
@[simp] theorem State.mapSync_pins (s : State) (f : Sync → Sync) : (s.mapSync f).pins = s.pins := rfl
@[simp] theorem State.mapSync_logRam (s : State) (f : Sync → Sync) : (s.mapSync f).logRam = s.logRam := rfl
@[simp] theorem State.mapSync_mailbox (s : State) (f : Sync → Sync) : (s.mapSync f).mailbox = s.mailbox := rfl
@[simp] theorem State.mapSync_flash (s : State) (f : Sync → Sync) : (s.mapSync f).flash = s.flash := rfl
@[simp] theorem State.mapSync_boot (s : State) (f : Sync → Sync) : (s.mapSync f).boot = s.boot := rfl
@[simp] theorem State.mapSync_trip (s : State) (f : Sync → Sync) : (s.mapSync f).trip = s.trip := rfl
@[simp] theorem State.mapSync_supply (s : State) (f : Sync → Sync) : (s.mapSync f).supply = s.supply := rfl
@[simp] theorem State.mapSync_rails (s : State) (f : Sync → Sync) : (s.mapSync f).rails = s.rails := rfl
@[simp] theorem State.mapSync_phases (s : State) (f : Sync → Sync) : (s.mapSync f).phases = s.phases := rfl
@[simp] theorem State.mapSync_clcs (s : State) (f : Sync → Sync) : (s.mapSync f).clcs = s.clcs := rfl
@[simp] theorem State.mapSync_cpas (s : State) (f : Sync → Sync) : (s.mapSync f).cpas = s.cpas := rfl
@[simp] theorem State.mapSync_doms (s : State) (f : Sync → Sync) : (s.mapSync f).doms = s.doms := rfl
@[simp] theorem State.mapSync_away (s : State) (f : Sync → Sync) : (s.mapSync f).away = s.away := rfl
@[simp] theorem State.mapSync_cap (s : State) (f : Sync → Sync) : (s.mapSync f).cap = s.cap := rfl
@[simp] theorem State.mapSync_links (s : State) (f : Sync → Sync) : (s.mapSync f).links = s.links := rfl
@[simp] theorem State.mapSync_therm (s : State) (f : Sync → Sync) : (s.mapSync f).therm = s.therm := rfl
@[simp] theorem State.mapSync_model (s : State) (f : Sync → Sync) : (s.mapSync f).model = s.model := rfl
@[simp] theorem State.mapSync_ecc (s : State) (f : Sync → Sync) : (s.mapSync f).ecc = s.ecc := rfl
@[simp] theorem State.mapSync_pmbus (s : State) (f : Sync → Sync) : (s.mapSync f).pmbus = s.pmbus := rfl
@[simp] theorem State.mapSync_jtag (s : State) (f : Sync → Sync) : (s.mapSync f).jtag = s.jtag := rfl
@[simp] theorem State.mapSync_procs (s : State) (f : Sync → Sync) : (s.mapSync f).procs = s.procs := rfl
@[simp] theorem State.mapSync_update (s : State) (f : Sync → Sync) : (s.mapSync f).update = s.update := rfl
@[simp] theorem State.mapSync_health (s : State) (f : Sync → Sync) : (s.mapSync f).health = s.health := rfl
@[simp] theorem State.mapSync_intervals (s : State) (f : Sync → Sync) : (s.mapSync f).intervals = s.intervals := rfl
@[simp] theorem State.mapSync_held (s : State) (f : Sync → Sync) : (s.mapSync f).held = s.held := rfl
@[simp] theorem State.mapSync_free (s : State) (f : Sync → Sync) : (s.mapSync f).free = s.free := rfl
@[simp] theorem State.mapSync_pending (s : State) (f : Sync → Sync) : (s.mapSync f).pending = s.pending := rfl
@[simp] theorem State.mapSync_getF (s : State) (f : Sync → Sync) (g : Field) : (s.mapSync f).getF g = s.getF g := rfl

@[simp] theorem State.mapTime_fields (s : State) (f : TimeBase → TimeBase) : (s.mapTime f).fields = s.fields := rfl
@[simp] theorem State.mapTime_applied (s : State) (f : TimeBase → TimeBase) : (s.mapTime f).applied = s.applied := rfl
@[simp] theorem State.mapTime_port (s : State) (f : TimeBase → TimeBase) : (s.mapTime f).port = s.port := rfl
@[simp] theorem State.mapTime_pins (s : State) (f : TimeBase → TimeBase) : (s.mapTime f).pins = s.pins := rfl
@[simp] theorem State.mapTime_logRam (s : State) (f : TimeBase → TimeBase) : (s.mapTime f).logRam = s.logRam := rfl
@[simp] theorem State.mapTime_mailbox (s : State) (f : TimeBase → TimeBase) : (s.mapTime f).mailbox = s.mailbox := rfl
@[simp] theorem State.mapTime_flash (s : State) (f : TimeBase → TimeBase) : (s.mapTime f).flash = s.flash := rfl
@[simp] theorem State.mapTime_boot (s : State) (f : TimeBase → TimeBase) : (s.mapTime f).boot = s.boot := rfl
@[simp] theorem State.mapTime_trip (s : State) (f : TimeBase → TimeBase) : (s.mapTime f).trip = s.trip := rfl
@[simp] theorem State.mapTime_supply (s : State) (f : TimeBase → TimeBase) : (s.mapTime f).supply = s.supply := rfl
@[simp] theorem State.mapTime_rails (s : State) (f : TimeBase → TimeBase) : (s.mapTime f).rails = s.rails := rfl
@[simp] theorem State.mapTime_phases (s : State) (f : TimeBase → TimeBase) : (s.mapTime f).phases = s.phases := rfl
@[simp] theorem State.mapTime_clcs (s : State) (f : TimeBase → TimeBase) : (s.mapTime f).clcs = s.clcs := rfl
@[simp] theorem State.mapTime_cpas (s : State) (f : TimeBase → TimeBase) : (s.mapTime f).cpas = s.cpas := rfl
@[simp] theorem State.mapTime_doms (s : State) (f : TimeBase → TimeBase) : (s.mapTime f).doms = s.doms := rfl
@[simp] theorem State.mapTime_away (s : State) (f : TimeBase → TimeBase) : (s.mapTime f).away = s.away := rfl
@[simp] theorem State.mapTime_cap (s : State) (f : TimeBase → TimeBase) : (s.mapTime f).cap = s.cap := rfl
@[simp] theorem State.mapTime_links (s : State) (f : TimeBase → TimeBase) : (s.mapTime f).links = s.links := rfl
@[simp] theorem State.mapTime_therm (s : State) (f : TimeBase → TimeBase) : (s.mapTime f).therm = s.therm := rfl
@[simp] theorem State.mapTime_model (s : State) (f : TimeBase → TimeBase) : (s.mapTime f).model = s.model := rfl
@[simp] theorem State.mapTime_sync (s : State) (f : TimeBase → TimeBase) : (s.mapTime f).sync = s.sync := rfl
@[simp] theorem State.mapTime_ecc (s : State) (f : TimeBase → TimeBase) : (s.mapTime f).ecc = s.ecc := rfl
@[simp] theorem State.mapTime_pmbus (s : State) (f : TimeBase → TimeBase) : (s.mapTime f).pmbus = s.pmbus := rfl
@[simp] theorem State.mapTime_jtag (s : State) (f : TimeBase → TimeBase) : (s.mapTime f).jtag = s.jtag := rfl
@[simp] theorem State.mapTime_procs (s : State) (f : TimeBase → TimeBase) : (s.mapTime f).procs = s.procs := rfl
@[simp] theorem State.mapTime_update (s : State) (f : TimeBase → TimeBase) : (s.mapTime f).update = s.update := rfl
@[simp] theorem State.mapTime_health (s : State) (f : TimeBase → TimeBase) : (s.mapTime f).health = s.health := rfl
@[simp] theorem State.mapTime_intervals (s : State) (f : TimeBase → TimeBase) : (s.mapTime f).intervals = s.intervals := rfl
@[simp] theorem State.mapTime_held (s : State) (f : TimeBase → TimeBase) : (s.mapTime f).held = s.held := rfl
@[simp] theorem State.mapTime_free (s : State) (f : TimeBase → TimeBase) : (s.mapTime f).free = s.free := rfl
@[simp] theorem State.mapTime_pending (s : State) (f : TimeBase → TimeBase) : (s.mapTime f).pending = s.pending := rfl
@[simp] theorem State.mapTime_getF (s : State) (f : TimeBase → TimeBase) (g : Field) : (s.mapTime f).getF g = s.getF g := rfl

@[simp] theorem State.rail_setRail (s : State) (k : Nat) (f : Rail → Rail) : (s.setRail k f).rail k = f (s.rail k) := by
  simp [State.rail, State.setRail]

theorem State.rail_setRail_ne (s : State) {k j : Nat} (f : Rail → Rail) (h : j ≠ k) : (s.setRail k f).rail j = s.rail j := by
  simp [State.rail, State.setRail, Store.read_update_ne _ _ _ h]

@[simp] theorem State.phase_setPhase (s : State) (k : Nat) (f : Phase → Phase) : (s.setPhase k f).phase k = f (s.phase k) := by
  simp [State.phase, State.setPhase]

theorem State.phase_setPhase_ne (s : State) {k j : Nat} (f : Phase → Phase) (h : j ≠ k) : (s.setPhase k f).phase j = s.phase j := by
  simp [State.phase, State.setPhase, Store.read_update_ne _ _ _ h]

@[simp] theorem State.clc_setClc (s : State) (k : Nat) (f : Clc → Clc) : (s.setClc k f).clc k = f (s.clc k) := by
  simp [State.clc, State.setClc]

theorem State.clc_setClc_ne (s : State) {k j : Nat} (f : Clc → Clc) (h : j ≠ k) : (s.setClc k f).clc j = s.clc j := by
  simp [State.clc, State.setClc, Store.read_update_ne _ _ _ h]

@[simp] theorem State.cpa_setCpa (s : State) (k : Nat) (f : Cpa → Cpa) : (s.setCpa k f).cpa k = f (s.cpa k) := by
  simp [State.cpa, State.setCpa]

theorem State.cpa_setCpa_ne (s : State) {k j : Nat} (f : Cpa → Cpa) (h : j ≠ k) : (s.setCpa k f).cpa j = s.cpa j := by
  simp [State.cpa, State.setCpa, Store.read_update_ne _ _ _ h]

@[simp] theorem State.dom_setDom (s : State) (k : Nat) (f : Dom → Dom) : (s.setDom k f).dom k = f (s.dom k) := by
  simp [State.dom, State.setDom]

theorem State.dom_setDom_ne (s : State) {k j : Nat} (f : Dom → Dom) (h : j ≠ k) : (s.setDom k f).dom j = s.dom j := by
  simp [State.dom, State.setDom, Store.read_update_ne _ _ _ h]

end Sys2Proof.Machine
end

