-- ==== Sys2Proof/WellFormed.lean ====
section
/-! DEFINITION. The commands that can arise: operands of the shape the spec gives them. No meaning relies on it. -/
namespace Sys2Proof

/-- The phases of rails 0 to 7, Table 0.2. -/
def phasesOfRail : List Nat := [8, 8, 8, 8, 4, 4, 2, 2]

/-- A boundary register has at most one data and one enable cell for each of the 44 PWM outputs, and no more cells than the
other outputs and inputs of Table 2.5, R75. -/
def Boundary.wf (b : Boundary) : Bool :=
  decide (b.pwmData.length ≤ 44 ∧ b.pwmEnable.length ≤ 44 ∧ b.outputs.length ≤ 24 ∧ b.inputs.length ≤ 29)

/-- Whether a command is well-formed: MISALIGNED_ACCESS is not an aligned word access (R9); TICK carries eight sense
voltages (R84), and so do the rows that start a beat, for each tick they issue; IMON_CONVERSION one value for each phase of its
rail (R144); ISSUE_WINDOW_START four issue counts of a
32-cycle window (R190); METER_INTERVAL sixteen counter sums (Table 2.1); AGEING_MEASUREMENT two counts for each core (R450);
NV_BRIDGE_TX at most one SMBus block (R407); EXTEST and SAMPLE_PRELOAD a boundary register (R75); BYPASS no code that
selects another instruction (Table 2.8). -/
def Instr.wf : Instr → Bool
  | .coldReset _ _ => true
  | .supplyMonitorReset _ _ => true
  | .warmReset _ => true
  | .fabricWarmReset => true
  | .registerWrite _ _ _ => true
  | .misalignedAccess off bytes => !(off.toNat % 4 == 0 && bytes == 4)
  | .read64LowWord _ _ => true
  | .read64HighWord _ _ => true
  | .write64LowWord _ _ _ => true
  | .write64HighWord _ _ _ => true
  | .xtalDelayEnd => true
  | .xtalMeasurementDone _ => true
  | .crystalMonitorWindow _ => true
  | .clkmonWrite _ => true
  | .syncInEdge _ => true
  | .tick sense => sense.length % 8 == 0 && decide (8 ≤ sense.length ∧ sense.length ≤ 520)
  | .syncWindowClose => true
  | .substituteBeatStart => true
  | .scheduledAction _ => true
  | .pllLock _ => true
  | .pllLockTimeout _ => true
  | .dividerRampStep _ => true
  | .clusterFreqRetarget _ => true
  | .bootStep1 _ => true
  | .bootStep2 => true
  | .bootStep3 => true
  | .calibrationApply => true
  | .bootStep4 _ => true
  | .bootStep5 => true
  | .bootStep6 => true
  | .bootStep7 _ => true
  | .bootStep8 => true
  | .bootStep9 => true
  | .bootStep10 => true
  | .gctlEnableWrite _ => true
  | .consistencyCheckDone => true
  | .stagedApply => true
  | .leaderIdentityTimeout => true
  | .identityFrame _ _ => true
  | .bcEnNext => true
  | .bcPgRise => true
  | .converterReadDone _ _ _ => true
  | .bcStartTimeout => true
  | .pgoodSet _ => true
  | .railStartTimeout _ => true
  | .railShutdownStep => true
  | .converterPoll => true
  | .bcPgFall => true
  | .imonConversion rail uv => uv.length == phasesOfRail.getD rail.val 0
  | .tmonConversion _ _ => true
  | .settled _ => true
  | .seqTimeout _ => true
  | .railVsetWrite _ _ _ => true
  | .overshootDetect _ => true
  | .truncationRelease _ => true
  | .overvoltageDetect _ => true
  | .undervoltageDetect _ => true
  | .railOverLimit _ => true
  | .stageHot _ => true
  | .railFault _ => true
  | .pldragRelease _ => true
  | .flpEventResponse _ _ => true
  | .derateEvaluation _ => true
  | .telemetryShortWindow _ => true
  | .telemetryLongWindow _ => true
  | .telClearPeak _ _ => true
  | .noticeCrossing _ _ => true
  | .shoeCrossing _ _ => true
  | .hardCrossing _ _ => true
  | .shoeHoldExpiry _ => true
  | .shoeRampStep _ => true
  | .hardHoldExpiry _ => true
  | .hardRampStep _ => true
  | .cpaCounterClear _ _ => true
  | .dragOverrideWrite _ _ _ => true
  | .loadNotice _ _ _ _ _ => true
  | .clcNoticeTake _ => true
  | .couplingRaiseEnd _ => true
  | .issueWindowStart _ issued => issued.length == 4 && issued.all (fun n => decide (n ≤ 32))
  | .didtPeriod _ => true
  | .fillerDecay _ => true
  | .meterInterval _ counts _ => counts.length == 16
  | .recalibrationPeriod _ => true
  | .coreGrantFrame _ => true
  | .dieBudgetFrame => true
  | .flpCapUpdate => true
  | .capOverrideWrite _ _ => true
  | .flpDieBudgetWrite => true
  | .reportFrame _ _ => true
  | .grantFrame _ _ => true
  | .dieLost _ => true
  | .leaderLost => true
  | .packageFrame => true
  | .flpPbpTxWrite => true
  | .pFrame _ => true
  | .pbpSilent => true
  | .thermalFrame => true
  | .bandUpd _ => true
  | .throttleDividerStep _ => true
  | .diodeConversionDone _ _ _ => true
  | .thermistorConversionDone _ _ => true
  | .tripFlashAbortDone => true
  | .tripRecordProgramDone => true
  | .tripRecordReadbackDone _ _ => true
  | .tripPwrOffTimeout => true
  | .modelStep => true
  | .modelStepDone _ => true
  | .mdpStepResponse => true
  | .modelLoadDone => true
  | .flowCoeffRewrite _ => true
  | .flowLost _ => true
  | .rthSample => true
  | .rthBaselineCopy => true
  | .domainAck _ _ _ => true
  | .domainAckTimeout _ => true
  | .domainVoteSet _ _ => true
  | .domainVoteClear _ _ => true
  | .domainRetry _ => true
  | .park => true
  | .wakeReset _ _ => true
  | .syncRequestTaken _ _ _ _ => true
  | .syncRead => true
  | .syncInit => true
  | .syncSignal => true
  | .syncWait => true
  | .syncTry => true
  | .syncArrive => true
  | .syncArriveNw => true
  | .syncEvSet => true
  | .syncEvClear => true
  | .syncEvWait => true
  | .syncEvTake => true
  | .syncProduce => true
  | .syncConsume => true
  | .syncWaitData => true
  | .syncWaitSpace => true
  | .syncRealign => true
  | .syncCollect => true
  | .couplingNotice _ => true
  | .barrierRelease _ => true
  | .clusterRelease _ => true
  | .syncPollReissue _ _ => true
  | .opreq _ _ _ _ => true
  | .oprsp _ _ _ _ => true
  | .pkgRelease _ _ _ _ => true
  | .pkgWithdraw _ _ _ _ => true
  | .pkgReturn _ _ _ _ => true
  | .ctxCreate _ => true
  | .ctxDestroy _ => true
  | .ctxAbort _ => true
  | .abortWalkEnd _ => true
  | .ctxResume _ => true
  | .ctxMap _ => true
  | .ctxUnmap _ => true
  | .ctxSetWd _ => true
  | .corectxWrite _ _ => true
  | .translationEntryWrite _ _ => true
  | .watchdogSweep => true
  | .wdqPop _ => true
  | .mgpWdqReport => true
  | .debugSelect _ => true
  | .debugSnapshot => true
  | .mailboxWordWrite _ _ _ _ => true
  | .mailboxGo _ _ => true
  | .mailboxDone _ _ => true
  | .mgpTakeMessage => true
  | .outboundQueueDrain _ => true
  | .heartbeatExpiry => true
  | .sessionOpen => true
  | .sessionClose => true
  | .heartbeat => true
  | .setCap => true
  | .getCap => true
  | .selectProfile => true
  | .getProfiles => true
  | .ackTripRecord => true
  | .setMode => true
  | .modeChange => true
  | .getMode => true
  | .ctxCommand => true
  | .getSummary => true
  | .readRegs => true
  | .getAbsence => true
  | .updateOpen => true
  | .updateEraseDone _ => true
  | .updateWrite _ => true
  | .updateVerify _ => true
  | .updateCommit _ => true
  | .updateSwitch => true
  | .updateAbort => true
  | .updateStatus => true
  | .fmaxStart => true
  | .fmaxBeginRecordDone => true
  | .clusterOffline => true
  | .fmaxQuietTimeout => true
  | .fmaxStepBegin => true
  | .fmaxStepDone _ => true
  | .fmaxStepInvalidTimeout => true
  | .fmaxCommit _ => true
  | .fmaxEnd => true
  | .fmaxAbort => true
  | .fmaxStatus => true
  | .rthRelearn => true
  | .healthRead => true
  | .logRead => true
  | .logStatus => true
  | .traceMask => true
  | .eventRead => true
  | .voteClear => true
  | .voteSet => true
  | .brakeDoorbellSet _ => true
  | .brakeDoorbellClr _ => true
  | .brakeNAssert _ => true
  | .brakeNRelease _ => true
  | .pmPage _ _ => true
  | .pmClearFaults _ => true
  | .pmCapability => true
  | .pmVoutMode => true
  | .pmStatusByte => true
  | .pmStatusWord => true
  | .pmStatusVout => true
  | .pmStatusIout => true
  | .pmStatusTemperature => true
  | .pmStatusCml => true
  | .pmStatusMfrSpecific => true
  | .pmReadVin => true
  | .pmReadVout => true
  | .pmReadIout => true
  | .pmReadTemperature1 => true
  | .pmReadTemperature2 => true
  | .pmReadTemperature3 => true
  | .pmReadPout => true
  | .pmRevision => true
  | .pmMfrId => true
  | .pmMfrModel => true
  | .pmMfrRevision => true
  | .nvFleet => true
  | .nvBrakeWrite _ _ => true
  | .nvBrakeRead => true
  | .nvBridgeTx bytes _ => decide (bytes.length ≤ 255)
  | .nvBridgeRx _ => true
  | .nvIdentity => true
  | .alertResponse => true
  | .pmUnsupported _ => true
  | .smbusSclTimeout _ => true
  | .jtagExtest scan => scan.all Boundary.wf
  | .jtagIdcode => true
  | .jtagSamplePreload pins load => pins.wf && load.wf
  | .jtagClamp => true
  | .jtagHighz => true
  | .jtagDbgacc _ => true
  | .jtagBypass code => !([0, 1, 2, 4, 5, 16].contains code.toNat)
  | .processorRestart _ _ _ => true
  | .processorReloadDone _ => true
  | .aliveTimeout _ => true
  | .wdtKick _ _ => true
  | .mgpWatchdogExpiry => true
  | .logRecordWrite _ _ _ _ _ _ _ => true
  | .logRecordSelect _ => true
  | .mirrorRecord _ => true
  | .scrubRead _ _ => true
  | .eccWriteBack _ => true
  | .eccVerifyRead _ _ => true
  | .modelCoeffRewrite => true
  | .testRawWrite _ => true
  | .testRawRead _ => true
  | .ageingMeasurement counts => counts.length == 288
  | .emUsageUpdate => true
  | .lifePrediction => true
  | .calibrationPersist => true
  | .calibrationCopyCommit _ => true
  | .aliveIncrement _ => true
  | .testLogicReset => true

end Sys2Proof
end

