-- ==== Sys2Proof/Tests/Slice0.lean ====
section
/-! SUPPORT. Tests: ill-formed operands that WellFormed refuses; for each statement, states and operands that meet the
hypotheses of its clauses, with what a command then leaves; values worked by hand from the spec's tables. -/
namespace Sys2Proof.Tests
open Machine

-- One kernel evaluation at a time: each takes a thread with a large stack.
set_option Elab.async false

/-- A state with some register fields at some values. -/
def withF (s : State) (l : List (Field × Nat)) : State := l.foldl (fun s x => s.setF x.1 x.2) s

/-- What a command leaves. -/
def after (c : Instr) (s : State) : State := Outcome.after (exec c s) s

/-- After reset, with some register fields at some values. -/
abbrev at_ (l : List (Field × Nat)) : State := withF State.reset l

/-- At a tick, one interval in its last beat; with a length of 1 at tick 0, also at its begin. -/
def ending (s : State) (key tick : Nat) : State :=
  { s with time := { s.time with tick := tick }, intervals := [(key, { len := 1, count := 1 })] }

/-! ### The PMBus target -/

/-- Page 8, the die. -/
def pageDie : State := { State.reset with pmbus := { page := 8 } }

theorem wit_PmbusConstantsAndBlocks : State.reset.mailboxDown = false ∧ State.reset.pmbus.page < 8 ∧ pageDie.mailboxDown = false
    ∧ (after .pmCapability State.reset).pmbus.answer = [0xD0] ∧ (after .pmVoutMode State.reset).pmbus.answer = [0x14]
    ∧ (after .pmVoutMode pageDie).pmbus.cml = 2
    ∧ (after .pmMfrRevision (at_ [(F.gctlFwVerMajor, 2), (F.gctlFwVerMinor, 1), (F.gctlFwVerPatch, 9)])).pmbus.answer
      = [5, 0x32, 0x2E, 0x31, 0x2E, 0x39] := by decide +kernel

/-- Powered down: parked, in mode PARKED. -/
def parked : State := at_ [(F.domStatusParked, 1)]

theorem wit_PmbusTransfers : parked.mailboxDown = true ∧ (after .pmCapability parked).pmbus.ack = false
    ∧ (after (.pmPage (some 8) (some 210)) State.reset).pmbus.page = 8 ∧ (after (.pmPage (some 9) none) State.reset).pmbus.cml = 64
    ∧ (after (.pmPage (some 8) (some 211)) State.reset).pmbus.cml = 32 ∧ (0xD9#8).toNat ∉ pmCodes
    ∧ (after (.pmUnsupported 0xD9) State.reset).pmbus.cml = 128
    ∧ (after .alertResponse { State.reset with pins := { alert := true } }).pmbus.answer = [0x58]
    ∧ (after (.smbusSclTimeout 25001) pageDie).pmbus.page = 0 := by decide +kernel

/-- The check value of the CRC-8 with polynomial 0x07 over the digits 1 to 9. -/
theorem test_crc8 : crc8 [0x31, 0x32, 0x33, 0x34, 0x35, 0x36, 0x37, 0x38, 0x39] = 0xF4 := by decide +kernel

theorem wit_PmbusStatus : (after .pmStatusWord State.reset).pmbus.answer = [64, 8]
    ∧ (at_ [(F.railStatusOn 0, 1), (F.railStatusPgood 0, 1)]).pmWord = 0
    ∧ (withF pageDie [(F.thmStatusPwrOff, 1)]).pmByte = 64 := by decide +kernel

theorem wit_PmbusReadings : readingOf (State.reset.getF (F.telTempNow 0)) = none
    ∧ (after .pmReadTemperature1 State.reset).pmbus.answer = [0, 0] ∧ (after .pmReadTemperature1 State.reset).pmbus.cml = 2
    ∧ (after .pmReadTemperature1 (at_ [(F.telTempNow 0, 25 * 64)])).pmbus.answer = wordBytes (linear11Of 1600 64)
    ∧ (after .pmReadVout (at_ [(F.telVShort 0, 3000)])).pmbus.answer = [0, 0x0C]
    ∧ readingOf (withF pageDie [(F.thmPairPProt 3, 1600)]).highestLogic = some 1600
    ∧ readingOf (withF pageDie [(F.thmStkProt 1, 1600)]).highestStack = some 1600
    ∧ readingOf ((withF pageDie [(F.thmNtcRReading 0, 1600)]).getF (F.thmNtcRReading 0)) = some 1600 := by decide +kernel

theorem wit_PmbusBridge : State.reset.channelFull 30 = false
    ∧ (after (.nvBridgeTx (List.replicate 31 1) none) State.reset).pmbus.cml = 2
    ∧ (after (.nvBridgeTx (List.replicate 32 1) (some 225)) State.reset).channelFull 30 = true
    ∧ (after (.nvBridgeTx (List.replicate 32 1) (some 224)) State.reset).pmbus.cml = 32
    ∧ (after (.nvBridgeTx (List.replicate 64 1) none) State.reset).getF (F.mbxMsgWord 30 15) = 0x01010101
    ∧ (after (.nvBridgeTx (List.replicate 32 1) none) (at_ [(F.mbxChCtlState 30, 1)])).pmbus.cml = 2
    ∧ (after (.nvBridgeRx true) (at_ [(F.mbxChCtlState 31, 1)])).channelFull 31 = false
    ∧ (after (.nvBridgeRx false) (at_ [(F.mbxChCtlState 31, 1)])).channelFull 31 = true := by decide +kernel

theorem wit_BrakeSources : State.reset.getF F.mbxBrakeStatDoorbell < 2 ∧ State.reset.getF F.mbxBrakeStatPmbus < 2
    ∧ (after (.brakeNAssert 100) State.reset).pins.brakeLow = true ∧ after (.brakeNAssert 39) State.reset = State.reset
    ∧ (after (.nvBrakeWrite 0x4252#16 none) State.reset).getF F.mbxBrakeStatPmbus = 1
    ∧ (after (.nvBrakeWrite 0x4252#16 (some 0)) State.reset).pmbus.cml = 32
    ∧ (after (.nvBrakeWrite 1#16 none) State.reset).pmbus.cml = 64
    ∧ (after (.brakeDoorbellSet 0x42520001#32) State.reset).getF F.mbxBrakeStatDoorbell = 1
    ∧ after (.brakeDoorbellSet 0x42520003#32) State.reset = State.reset := by decide +kernel

/-! ### Debug port, mailboxes and messages -/

theorem wit_DebugPort : (at_ [(F.gctlStatusDebugEn, 1)]).isSet F.gctlStatusDebugEn = true
    ∧ State.reset.isSet F.gctlStatusDebugEn = false ∧ jtagDefined 0x3E = false ∧ (after (.jtagDbgacc .none) State.reset).jtag.instr = 63
    ∧ (after (.jtagDbgacc .none) (at_ [(F.gctlStatusDebugEn, 1)])).jtag.instr = 16 ∧ (after (.jtagExtest none) State.reset).jtag.instr = 0
    ∧ (after .jtagIdcode State.reset).jtag.data = 0x0C4A2E3B := by decide +kernel

theorem wit_MailboxChannels : State.reset.hostGate 5 0 = .pass ∧ State.reset.hostGate 5 27 = .pass
    ∧ State.reset.hostGate 5 28 = .error ∧ parked.hostGate 5 0 = .error ∧ State.reset.channelFull 15 = false
    ∧ (after (.mailboxWordWrite (.host 5) 15 0 7) State.reset).getF (F.mbxMsgWord 15 0) = 7
    ∧ (after (.mailboxGo (.host 5) 15) State.reset).channelFull 15 = true
    ∧ (after (.mailboxDone (.host 5) 16) (at_ [(F.mbxChCtlState 16, 1)])).channelFull 16 = false
    ∧ (after (.mailboxGo (.host 5) 0) (at_ [(F.mbxChCtlState 0, 1)])).getF (F.mbxChCtlRejects 0) = 1 := by decide +kernel

/-- A host access that the binding table of an X4 does not name. -/
def unbound : State := { at_ [(F.mbxBindCtlLock, 1)] with boot := { cal := [(1, [1, 0, 0, 0, 1, 4])] } }

theorem wit_MailboxUnbound : unbound.isX4 = true ∧ unbound.hostGate 5 0 = .unbound
    ∧ (after (.mailboxGo (.host 5) 0) unbound).port.error = true
    ∧ bitOf ((after (.mailboxGo (.host 5) 0) unbound).getF F.mbxMevt) 0 = true := by decide +kernel

/-- The MGP running, with a message in a channel that is FULL. -/
def posted (ch : Nat) (w0 : Nat) (l : List (Field × Nat)) : State :=
  at_ ([(F.fwPStatusState 2, 2), (F.mbxChCtlState ch, 1), (F.mbxMsgWord ch 0, w0)] ++ l)

/-- An open session of channel 0, of master 5, with replies on channel 16. -/
def session : List (Field × Nat) := [(F.mbxSesAOpen 0, 1), (F.mbxSesBMaster 0, 5), (F.mbxSesAReply 0, 16), (F.mbxChCtlStamp 0, 5)]

theorem wit_RequestsTaken : (posted 0 0x20110000 session).nextRequest = some 0
    ∧ (after .mgpTakeMessage (posted 0 0x20110000 session)).mailbox.request.isSome = true
    ∧ (after .mgpTakeMessage (posted 0 0x20110000 session)).channelFull 0 = false
    ∧ (posted 0 0x10110000 session).checkRequest ((posted 0 0x10110000 session).requestIn 0) = some (3, [4])
    ∧ (posted 0 0x20110000 []).checkRequest ((posted 0 0x20110000 []).requestIn 0) = some (8, [])
    ∧ (posted 0 0x20990000 session).checkRequest ((posted 0 0x20990000 session).requestIn 0) = some (4, [])
    ∧ (posted 0 0x2F110000 session).checkRequest ((posted 0 0x2F110000 session).requestIn 0) = some (3, [])
    ∧ (posted 0 0x20110000 session).checkRequest ((posted 0 0x20110000 session).requestIn 0) = none
    ∧ (posted 0 0x20110000 [(F.mbxChCtlMixed 0, 1)]).checkRequest ((posted 0 0x20110000 [(F.mbxChCtlMixed 0, 1)]).requestIn 0)
      = some (8, []) := by decide +kernel

/-- A request of an opcode in hand, the MGP running. -/
def request (op : Nat) (ws : List Nat) : Request := { channel := 0, stamp := 5, words := (0x20000000 + op * 65536) :: 0 :: ws }
def ask (op : Nat) (ws : List Nat) (l : List (Field × Nat)) : State :=
  { at_ ((F.fwPStatusState 2, 2) :: l) with mailbox := { request := some (request op ws) } }
abbrev servesB (s : State) (op : Nat) : Bool := (s.mailbox.request.any fun r => r.opcode == op) && s.running 2

/-- The status in the reply on channel 16. -/
def status (s : State) : Nat := s.getF (F.mbxMsgWord 16 1) / 2 ^ 24

def oneQueued (reply : Bool) : OutMsg := { channel := 16, isReply := reply, words := List.replicate 8 3 }
def fullQueue (reply : Bool) : State :=
  { at_ [(F.mbxChCtlState 16, 1)] with mailbox := { queue := List.replicate 64 (oneQueued reply) } }

theorem wit_RepliesAndQueue : State.reset.channelFull 16 = false
    ∧ (State.reset.reply (request 0x11 []) 0 0 [7]).getF (F.mbxMsgWord 16 2) = 7
    ∧ (State.reset.reply (request 0x11 []) 4 0 []).getF (F.mbxMsgWord 16 1) = 0x04000000
    ∧ (State.reset.reply (request 0x11 []) 0 0 []).getF (F.mbxMsgWord 16 0) = 0x20110000
    ∧ ((fullQueue true).send (oneQueued false)).mailbox.queue.length = 64
    ∧ bitOf (((fullQueue true).send (oneQueued false)).getF F.mbxMevt) 3 = true
    ∧ ((at_ [(F.mbxChCtlState 16, 1)]).send (oneQueued true)).mailbox.queue.length = 1
    ∧ nextFor 16 [oneQueued false, oneQueued true] = some (oneQueued true)
    ∧ (after (.outboundQueueDrain 16) { at_ [(F.fwPStatusState 2, 2)] with
        mailbox := { queue := [oneQueued false, oneQueued true] } }).mailbox.queue = [oneQueued false] := by decide +kernel

theorem wit_SessionsAndAbsence :
    (after .heartbeatExpiry { State.reset with mailbox := { hbLen := 1 } }).isSet F.mbxHostAbsent = true
    ∧ servesB (ask 1 [16 * 2 ^ 24] []) 1 = true ∧ servesB (ask 1 [27 * 2 ^ 24] []) 1 = true
    ∧ (after .sessionOpen (ask 1 [16 * 2 ^ 24] [])).sessionOn 0 = true
    ∧ servesB (ask 2 [] session) 2 = true ∧ (ask 2 [] session).sessions = 1 ∧ (ask 2 [] session).isSet F.mbxHostAbsent = false
    ∧ (after .sessionClose (ask 2 [] session)).isSet F.mbxHostByClose = true
    ∧ servesB (ask 3 [] session) 3 = true
    ∧ (after .heartbeat (ask 3 [] ((F.mbxHostAbsent, 1) :: session))).isSet F.mbxHostAbsent = false := by decide +kernel

theorem wit_RequestsThatRead : servesB (ask 0x11 [] []) 0x11 = true ∧ status (after .getCap (ask 0x11 [] [])) = 0
    ∧ servesB (ask 0x13 [] []) 0x13 = true ∧ servesB (ask 0x21 [] []) 0x21 = true ∧ servesB (ask 0x42 [] []) 0x42 = true
    ∧ servesB (ask 0x40 [] []) 0x40 = true ∧ servesB (ask 0x41 [2 ^ 28 + 4] []) 0x41 = true
    ∧ (ask 0x41 [2 ^ 28 + 4] []).gateAt 5 4 = .pass
    ∧ (after .readRegs (ask 0x41 [2 ^ 28 + 4] [])).getF (F.mbxMsgWord 16 2) = State.reset.word 4
    ∧ status (after .readRegs (ask 0x41 [15 * 2 ^ 28] [])) = 4 ∧ status (after .readRegs (ask 0x41 [2 ^ 28 + 2] [])) = 4
    ∧ status (after .readRegs (ask 0x41 [0] [])) = 4 := by decide +kernel

def leads (l : List (Field × Nat)) : List (Field × Nat) :=
  [(F.idConfigLeader, 1), (F.pwrProfACapMin, 100), (F.pwrProfACapMax, 200)] ++ l

/-- A flash whose active bank has some erased bytes: with 108 of them every profile reads as present. -/
def banked (len : Byte) (s : State) : State :=
  { s with flash := { bytes := [(0x2F00C, len), (0x2F00D, 0), (0x2F00E, 0), (0x2F00F, 0)] } }

theorem wit_CapProfileTripRequests : (ask 0x10 [100] []).isLeader = false ∧ (ask 0x10 [100] (leads [])).isLeader = true
    ∧ status (after .setCap (ask 0x10 [100] [])) = 8 ∧ status (after .setCap (ask 0x10 [99] (leads []))) = 4
    ∧ status (after .setCap (ask 0x10 [201] (leads []))) = 4
    ∧ (after .setCap (ask 0x10 [200] (leads []))).getF F.pwrCapnowHost = 200
    ∧ servesB (ask 0x12 [3] []) 0x12 = true ∧ (ask 0x12 [3] []).boot.passed = []
    ∧ hasProfile ((banked 16 State.reset).bankBody (banked 16 State.reset).activeBank) 3 = false
    ∧ status (after .selectProfile (banked 16 (ask 0x12 [3] []))) = 4
    ∧ hasProfile ((banked 108 State.reset).bankBody (banked 108 State.reset).activeBank) 7 = true
    ∧ status (after .selectProfile (banked 108 (ask 0x12 [3] [(F.gctlStatusTripPending, 1)]))) = 8
    ∧ (after .selectProfile (banked 108 (ask 0x12 [3] []))).boot.switchTo = some 3
    ∧ servesB (ask 0x14 [] []) 0x14 = true ∧ (ask 0x14 [] []).pendingSlots = [] ∧ (ask 0x14 [] []).flash.tripOwned = false
    := by decide +kernel

theorem wit_ModeAndVoteRequests : status (after .setMode (ask 0x20 [1] [])) = 4 ∧ status (after .setMode (ask 0x20 [5] [])) = 4
    ∧ status (after .setMode (ask 0x20 [2] [(F.gctlStatusTripPending, 1)])) = 8
    ∧ (after .setMode (ask 0x20 [4] [])).mailbox.modeNext = some 4
    ∧ (after .modeChange { State.reset with mailbox := { modeNext := some 4, modeDue := true } }).getF F.gctlModeCurrent = 4
    ∧ after .modeChange { State.reset with mailbox := { modeNext := some 4 } } = { State.reset with mailbox := { modeNext := some 4 } }
    ∧ bitOf ((after .voteSet (ask 0x81 [0, 0, 2 ^ 31] [])).getF (F.domDVoteMask 95)) 0 = true
    ∧ bitOf ((after .voteClear (ask 0x80 [1] [(F.domDVoteMask 0, 3)])).getF (F.domDVoteMask 0)) 0 = false
    ∧ (ask 0x30 [0, 2 ^ 28 + 1] []).isSet F.syncCtxResBusy = false
    ∧ status (after .ctxCommand (ask 0x30 [0, 2 ^ 28 + 1] [])) = 2 := by decide +kernel

/-! ### Log, processors, update, memory protection -/

/-- All three processors running, after a boot. -/
def up (l : List (Field × Nat)) : State :=
  { at_ ([(F.fwPStatusState 0, 2), (F.fwPStatusState 1, 2), (F.fwPStatusState 2, 2), (F.gctlModeCurrent, 3)] ++ l) with
    boot := { rom := false } }

theorem wit_LogRecords : State.reset.boot.rom = true ∧ logCode 0 2 = true ∧ logCode 1 1 = true ∧ (up []).running 0 = true
    ∧ (after (.logRecordWrite 1 2 1 7 0 0 0) (up [])).getF F.logHeadSeq = 1
    ∧ (after (.logRecordWrite 1 5 1 7 0 0 0) (up [])).logRecord 0 = ⟨0, 0, 0, 0x12000001, [7, 0, 0, 0]⟩
    ∧ ((after (.logRecordWrite 3 5 0x150 7 0 0 0) (up [])).logRecord 0).origin = 0x35000150
    ∧ (after (.logRecordWrite 1 2 1 7 0 0 0) (up [(F.logHeadSeq, 1280)])).getF F.logStatOverwritten = 1
    ∧ bitOf ((after (.logRecordWrite 3 5 0x150 7 0 0 0) (up [])).getF F.logEvt) 0 = true
    ∧ (after (.logRecordWrite 1 2 1 7 0 0 0) (up [(F.logHeadSeq, 1280)])).getF F.logTailSeq = 1
    ∧ (up []).logPresent 0 = false ∧ (after (.logRecordSelect 0) (up [])).logRest.getF F.logRdStatusGone = 1
    ∧ (after (.logRecordWrite 1 2 1 7 0 0 0) (up [])).logPresent 0 = true
    ∧ (after (.logRecordSelect 0) (after (.logRecordWrite 1 2 1 7 0 0 0) (up []))).logRest.getF F.logRdStatusValid = 1
    ∧ (after (.logRecordSelect 0) (after (.logRecordWrite 1 2 1 7 0 0 0) (up []))).logRest.getF (F.logRdWWord 3) = 0x12000001
    ∧ servesB (ask 0x70 [0] []) 0x70 = true ∧ (ask 0x70 [0] []).logPresent 0 = false
    ∧ (after .traceMask (ask 0x72 [31, 5] [])).getF (F.logTmaskMMask 31) = 5
    ∧ (after .traceMask (ask 0x72 [0, 4] [])).getF (F.logTmaskMMask 0) = 5
    ∧ servesB (ask 0x73 [2 ^ 31] []) 0x73 = true ∧ servesB (ask 0x71 [] []) 0x71 = true
    ∧ (up []).nextMirror (min 1280 (up []).logCount) (up []).mirrorFrom = none := by decide +kernel

/-- With a record of a severity. -/
def logged (sev : Fin 6) : State := Outcome.after (execLogRecordWrite 3 sev 0x150 7 0 0 0 (up [])) (up [])

theorem wit_MirrorRecord : ((logged 5).nextMirror (min 1280 (logged 5).logCount) (logged 5).mirrorFrom).map (·.seq) = some 0
    ∧ (logged 5).running 2 = true ∧ (logged 5).logRam.overwrote = false ∧ (logged 5).inSecond < 16
    ∧ (∀ i < 4, (logged 5).errorAt 6 (4 * (logged 5).logSlot 0 + i) = 0)
    ∧ (logged 5).mirrorSlot = none
    ∧ (after (.mirrorRecord true) (logged 5)).getF F.logMirrorSkipped = 1
    ∧ (after (.mirrorRecord true) (logged 5)).logRam.mirrored = 1 := by decide +kernel

theorem wit_ProcessorsStop : (up []).boot.rom = false ∧ (up []).isSet F.domStatusParked = false ∧ (up []).running 1 = true
    ∧ (after (.processorRestart .host 1 0x52530001#32) (up [])).running 1 = false
    ∧ (after (.processorRestart .host 1 0x52530001#32) (up [(F.gctlModeCurrent, 2)])).running 1 = true
    ∧ (after (.aliveTimeout 1) (up [])).getF (F.fwPStatusCause 1) = 4 := by decide +kernel

theorem wit_ProcessorsRun : (up [(F.fwPStatusState 1, 1)]).getF (F.fwPStatusState 1) = 1 ∧ (up []).getF F.fwUpdState = 0
    ∧ (after (.aliveIncrement 1) (up [(F.fwPAliveCount 1, 0xFFFFFFFF)])).getF (F.fwPAliveCount 1) = 0
    ∧ (after (.wdtKick .mgp 0x4B430000#32) { up [] with procs := { wdt := some 0 } }).procs.wdt = some 500000
    ∧ after (.wdtKick .host 0x4B430000#32) (up []) = up [] := by decide +kernel

/-- An update of session 0 in a state. -/
def updating (st op : Nat) (ws : List Nat) (l : List (Field × Nat)) : State :=
  ask op ws ([(F.fwUpdState, st), (F.fwUpdSession, 0)] ++ l)

theorem wit_UpdateReceives : (ask 0x50 [256, 0] []).getF F.fwUpdState = 0 ∧ servesB (ask 0x50 [256, 0] []) 0x50 = true
    ∧ (ask 0x50 [256, 0] []).lengthsOk 256 0 = true ∧ (ask 0x50 [252, 0] []).lengthsOk 252 0 = false
    ∧ (after .updateOpen (ask 0x50 [256, 0] [])).update.erasing = true
    ∧ status (after .updateOpen (updating 1 0x50 [256, 0] [])) = 2
    ∧ (after (.updateEraseDone true) { up [] with
        update := { erasing := true }, mailbox := { awaitUpdate := some (request 0x50 []) } }).getF F.fwUpdState = 1
    ∧ (after (.updateEraseDone true) { up [] with
        update := { erasing := true }, mailbox := { awaitUpdate := some (request 0x50 []) }
        flash := { bytes := [(4095, 0)], work := [(.update, .erase 0 4096)] } }).flashByte 4095 = 0xFF
    ∧ status (after (.updateWrite true) (updating 1 0x51 [4, 0, 0, 0, 0, 0] [])) = 4
    ∧ status (after (.updateWrite true) (updating 1 0x51 [4, 0, 0, 0, 0, 0] [(F.fwUpdSession, 3)])) = 8
    ∧ (writeData (request 0x51 [0, 1, 2, 3, 4, 5]) 256).length = 20
    ∧ ((after (.updateWrite true) { updating 1 0x51 [0, 1, 2, 3, 4, 5] [] with
        update := { targets := [{ len := 256 }] } }).target 0).got = 20 := by decide +kernel

theorem wit_UpdateCompletes : servesB (updating 1 0x52 [] []) 0x52 = true
    ∧ ({ updating 1 0x52 [] [] with update := { targets := [{ len := 4 }] } } : State).complete4 = false
    ∧ ({ updating 1 0x52 [] [] with update := { targets := [{ len := 4, got := 4 }] } } : State).complete4 = true
    ∧ status (after (.updateVerify true) { updating 1 0x52 [] [] with update := { targets := [{ len := 4 }] } }) = 2
    ∧ (after (.updateCommit true) (up [(F.fwUpdState, 2)])).getF F.fwUpdState = 3
    ∧ (after .updateAbort (updating 2 0x54 [] [])).getF F.fwUpdLastStatus = 5
    ∧ status (after .updateAbort (updating 3 0x54 [] [])) = 2
    ∧ servesB (updating 0 0x55 [] []) 0x55 = true := by decide +kernel

/-- A word of memory 1 with one wrong symbol, its write-back owed, or its verify read. -/
def oneWrong : State := { State.reset with ecc := { errors := [(2 ^ 18 + 4, 0x30)] } }
def owed (verify : Bool) : State := { oneWrong with ecc := { oneWrong.ecc with
  backs := [{ mem := 1, word := 4, symbol := 1, verify := verify }] } }

theorem wit_ScrubAndRemap : badSymbols (oneWrong.errorAt 1 4) = [1] ∧ badSymbols 0 = [] ∧ memWords 1 = 131072
    ∧ (at_ [(F.mpMCfgScrubEn 1, 1)]).isSet (F.mpMCfgScrubEn 1) = true
    ∧ (after (.scrubRead 1 0#80) (withF oneWrong [(F.mpMCfgScrubEn 1, 1), (F.mpMScrubPosWord 1, 4)])).getF (F.mpMLastCeSymbol 1) = 1
    ∧ (after (.scrubRead 1 0#80) (at_ [(F.mpMCfgScrubEn 1, 1), (F.mpMScrubPosWord 1, 131078)])).getF (F.mpMScrubPosWord 1) = 131079
    ∧ (after (.eccWriteBack 1) (owed false)).errorAt 1 4 = 0 ∧ (owed true).servedBy 1 4 = some 4
    ∧ (after (.eccVerifyRead 1 0x10#80) { owed true with ecc := { (owed true).ecc with errors := [] } }).getF (F.mpMRemapStUsed 1) = 1
    ∧ (after (.eccVerifyRead 1 0#80) { owed true with ecc := { (owed true).ecc with errors := [] } }).getF (F.mpMRemapStUsed 1) = 0
    := by decide +kernel

theorem wit_RawAccess : State.reset.rawRefused 0 0 = true
    ∧ (at_ [(F.gctlModeCurrent, 3), (F.mpMCfgTestEn 7, 1)]).rawRefused 7 16383 = false
    ∧ (at_ [(F.gctlModeCurrent, 3), (F.mpMCfgTestEn 7, 1)]).rawRefused 7 16384 = true
    ∧ (after (.testRawRead 0x80000000#32) State.reset).getF F.mpTestChkRefused = 1
    := by decide +kernel

/-! ### Resets, boot, checks, the register window -/

/-- The straps of die 3, the leader, profile 5. -/
def straps : Straps := { dieId := 3, leader := true, profileSel := 5 }

theorem wit_ColdResets : (after (.coldReset 1000 straps) (up [])).getF F.idConfigDieId = 3
    ∧ (after (.coldReset 1000 straps) (up [])).getF F.gctlModeCurrent = State.reset.getF F.gctlModeCurrent
    ∧ after (.coldReset 999 straps) State.reset = State.reset
    ∧ (after (.supplyMonitorReset 2899 straps) (up [])).getF F.gctlProfileStrap = 5
    ∧ after (.supplyMonitorReset 2900 straps) State.reset = State.reset := by decide +kernel

theorem wit_WarmResets : (up []).isSet F.gctlStatusHalt = false ∧ (up []).isSet F.domStatusParked = false
    ∧ (after (.warmReset 0x57520001#32) (up [])).getF F.rstLastKind = 2
    ∧ (at_ [(F.gctlStatusHalt, 1)]).isSet F.gctlStatusHalt = true ∧ parked.isSet F.domStatusParked = true
    ∧ after (.warmReset 0x57520000#32) (up []) = up [] ∧ after (.warmReset 0x57530001#32) (up []) = up [] := by decide +kernel

/-- On, then all domains OFF again. -/
def drained : State := { up [] with away := true }
/-- Parked, the wake comparator active at some tick 0s. -/
def asleep (n : Nat) : State := { parked with pins := { wsCount := n } }

theorem wit_ParkAndWake : drained.allOff = true ∧ drained.isSet F.domStatusParked = false
    ∧ (after .park drained).isSet F.domStatusParked = true ∧ (after .park drained).getF F.gctlModeCurrent = 0
    ∧ State.reset.away = false ∧ after .park State.reset = State.reset
    ∧ (after .park (up [(F.gctlStatusBootDone, 1)])).isSet F.domStatusParked = true
    ∧ (asleep 1).isSet F.domStatusParked = true ∧ max 1 ((asleep 1).appliedF F.domWakeCfgDebounce) ≤ 255
    ∧ (after (.wakeReset 0 0) (asleep 255)).boot.kind = .wake ∧ (after (.wakeReset 0 7) (asleep 0)).pins.inlet = 7
    ∧ comparator true true 424999 64 = false ∧ comparator true true 425000 64 = true ∧ comparator false true 450000 64 = false
    := by decide +kernel

/-- Bytes of flash from an offset on. -/
def stored (off : Nat) (b : List Byte) : Store Byte :=
  ((List.range b.length).map fun i => (off + i, b.getD i 0)).filter fun p => p.2 != 0xFF

/-- Words, and the CRC of their bytes after them. -/
def crcEnd (b : List Byte) : List Byte := b ++ toLeBytes 4 (crc32 b)

/-- A boot header for a density in MiB, with a size of the regions of the record. -/
def header (density evt : Nat) : List Byte :=
  crcEnd ([0x48425A43, 0x02000040, density, 0x10000, 0x10000, 0x30000, 0x40000, 0x10000, 0x100000, 0x200000, 0x100000,
    0x300000, evt, 0, 0].flatMap (toLeBytes 4))

/-- The ROM at a step, with some bytes of flash, the layout in use. -/
def romAt (n : Nat) (b : Store Byte) (l : List (Field × Nat)) : State :=
  { at_ l with boot := { next := n, layout := layoutOf (header 32 0x40000) }, flash := { bytes := b, densityMiB := 32 } }

/-- An SFDP table with one quad read. -/
def sfdp (four : Bool) (density : Nat) : Sfdp := { fourByte := four, densityMiB := density, quadReads := [⟨.m144, 50000, 6⟩] }

theorem wit_BootStepsToBank : (romAt 1 [] []).boot.rom = true
    ∧ (after (.bootStep1 (sfdp false 32)) State.reset).getF F.gctlStatusReason = 0xC0
    ∧ (after (.bootStep1 (sfdp true 31)) State.reset).getF F.gctlStatusReason = 0xC1
    ∧ (after (.bootStep1 { sfdp true 32 with revision := .missing }) State.reset).getF F.gctlStatusReason = 0xC0
    ∧ (after (.bootStep1 (sfdp true 32)) State.reset).boot.next = 2 ∧ (after (.bootStep1 (sfdp true 32)) State.reset).flash.maxKHz = 50000
    ∧ (after .bootStep2 (romAt 2 [] [])).getF F.gctlStatusReason = 0xC2
    ∧ (after .bootStep2 (romAt 2 (stored 0 (header 33 0x40000)) [])).getF F.gctlStatusReason = 0xC1
    ∧ (after .bootStep2 (romAt 2 (stored 0 (header 32 0x30000)) [])).getF F.gctlStatusReason = 0xC3
    ∧ (after .bootStep2 (romAt 2 (stored 4096 (header 32 0x40000)) [])).boot.next = 3
    ∧ (after .bootStep3 (romAt 3 [] [])).getF F.gctlStatusReason = 0xC4
    ∧ (after .calibrationApply { State.reset with boot := { calChosen := true } }).isSet F.thmStatusCalApplied = true
    := by decide +kernel

/-- Step 4 of a crystal recorded at a frequency and measured at another. -/
def xtal (khz ok meas : Nat) : State :=
  { romAt 4 [] [(F.clkStatusXtalOk, 1), (F.clkXtalMeasFreq, meas)] with
    boot := { next := ok, cal := [(1, List.replicate 8 0 ++ toLeBytes 4 khz)] } }

theorem wit_BootStep4 : (romAt 4 [] []).isSet F.clkStatusXtalFail = false ∧ (romAt 4 [] []).isSet F.clkStatusXtalOk = false
    ∧ (after (.bootStep4 true) (romAt 4 [] [(F.clkStatusXtalFail, 1)])).getF F.gctlStatusReason = 0xA0
    ∧ (after (.bootStep4 true) (romAt 4 [] [(F.clkStatusXtalOk, 1)])).getF F.gctlStatusReason = 0xA1
    ∧ (xtal 25000 4 24500).xtalKHz = 25000 ∧ (after (.bootStep4 true) (xtal 25000 4 24499)).getF F.gctlStatusReason = 0xA1
    ∧ (after (.bootStep4 true) (xtal 25000 4 24500)).boot.next = 5 ∧ (after (.bootStep4 true) (xtal 25000 4 25500)).boot.next = 5
    ∧ (after (.bootStep4 false) (xtal 25000 4 25000)).getF F.gctlStatusReason = 0xA2
    ∧ (after .bootStep5 (romAt 5 [] [])).getF F.gctlStatusReason = 0xCB := by decide +kernel

/-- A flash whose active bank, in the layout of reset, has some erased bytes: with 16 of them no profile is present. -/
def bootWith (n : Nat) (len : Byte) (l : List (Field × Nat)) : State := banked len { at_ l with boot := { next := n } }

/-- A trip record that nothing has acknowledged. -/
def pendingRecord : List Byte := crcEnd (toLeBytes 4 0x50455A43 ++ List.replicate 52 0)

theorem wit_BootStepsToRelease : (romAt 6 [] []).activeBank = 0 ∧ (after .bootStep6 (romAt 6 [] [])).getF F.gctlStatusReason = 0xCB
    ∧ (romAt 7 [] []).pendingSlots = [] ∧ (after (.bootStep7 false) (romAt 7 [] [])).boot.next = 8
    ∧ (bootWith 8 108 []).strapsBad = true
    ∧ (bootWith 8 16 [(F.gctlStatusTripPending, 1)]).isSet F.gctlStatusTripPending = true
    ∧ hasProfile ((bootWith 8 108 []).bankBody (bootWith 8 108 []).activeBank) 0 = true
    ∧ hasProfile ((bootWith 8 16 []).bankBody (bootWith 8 16 []).activeBank) 0 = false
    ∧ (after .bootStep8 (bootWith 8 16 [])).getF F.gctlStatusReason = 0xCC
    ∧ (romAt 9 [] []).boot.busLocked = false ∧ State.reset.boot.passed = []
    ∧ (after .bootStep10 (romAt 10 [] [])).getF F.gctlModeCurrent = 1
    ∧ (after .bootStep10 (romAt 10 [] [(F.gctlStatusTripPending, 1)])).getF F.gctlModeCurrent = 4
    ∧ (after .bootStep10 (romAt 10 [] [])).running 2 = true := by decide +kernel

theorem wit_PendingRecord :
    ∃ k, (romAt 7 (stored (0x300000 + 64 * 4095) pendingRecord) []).pendingSlots.getLast? = some k := by
  have h : 4095 ∈ (romAt 7 (stored (0x300000 + 64 * 4095) pendingRecord) []).pendingSlots := by
    refine List.mem_filter.mpr ⟨List.mem_map.mpr ⟨4095 - 63 * 64, List.mem_range.mpr (by decide), by decide +kernel⟩, by decide +kernel⟩
  exact ⟨_, List.getLast?_eq_some_getLast (List.ne_nil_of_mem h)⟩

/-- After the boot, some checks asked for or passed. -/
def checking (l passed : List Nat) : State := { up [] with boot := { rom := false, toCheck := l, passed := passed } }

theorem wit_ChecksAndStaging : (up []).isSet F.gctlStatusCheckBusy = false ∧ (up []).isSet F.gctlStatusHalt = false
    ∧ (after (.gctlEnableWrite 0x49#32) (up [(F.gctlEnable, 3)])).getF F.gctlEnable = 1
    ∧ (after (.gctlEnableWrite 0x49#32) (up [(F.gctlEnable, 3)])).boot.toCheck = [3, 6]
    ∧ after (.gctlEnableWrite 0x49#32) State.reset = State.reset
    ∧ ((checking [0] []).setF F.gctlStatusLastCheck 0).check [0] [] 0 = some 0xA4
    ∧ (after .consistencyCheckDone (checking [0] [])).getF F.gctlStatusReason = 0xA4
    ∧ ((checking [3] []).setF F.gctlStatusLastCheck 3).check [3] [] 3 = none
    ∧ (after .consistencyCheckDone (checking [3] [])).getF F.gctlEnable = 8
    ∧ ((checking [3, 6] []).setF F.gctlStatusLastCheck 3).check [3] [] 3 = none
    ∧ (after .consistencyCheckDone (checking [3, 6] [])).boot.passing = [3]
    ∧ (after .consistencyCheckDone (checking [3, 6] [])).getF F.gctlEnable = 0
    ∧ after .stagedApply (checking [] [3]) = checking [] [3] ∧ (checking [] [0]).boot.byRom = false
    ∧ (after .stagedApply { State.reset with boot := { rom := false, passed := [3], checked := [(5, 6)], applyDue := true } }).boot.active = [3]
    ∧ (after .stagedApply { State.reset with boot := { rom := false, passed := [0, 3, 6], switchTo := some 7, applyDue := true } }).getF
      F.gctlProfileActive = 7 := by decide +kernel

theorem wit_RegisterWindow : (0x00006#20).toNat % 4 ≠ 0 ∧ (after (.registerWrite 5 0x00006#20 1) State.reset).port.error = true
    ∧ channelOf 0x70010 = none ∧ State.reset.windowOff 0x70010 = false ∧ fieldsAt 0x70010 ≠ []
    ∧ State.reset.actionWrite (.host 5) 0x70010 1 = none ∧ State.reset.unitWrite (.host 5) 0x70010 1 = none
    ∧ (fieldsAt 0x70010).Pairwise (fun a b => a.1.lo ≠ b.1.lo)
    ∧ State.reset.windowOff 0x10004 = true ∧ fieldsAt 0x00FFC = [] ∧ channelOf 0x00FFC = none ∧ isPair 0x00FFC = false
    ∧ isPair 0x00FF8 = false ∧ isPair 0x0C030 = true
    ∧ heldFor (after (.read64LowWord 5 0x0C030#20) State.reset).port.shadows 0x0C030 5 = some (State.reset.shown 0x0C034)
    ∧ heldFor State.reset.port.shadows 0x0C030 5 = none ∧ (up []).pairOpen 0x0C030 = true ∧ (up []).pairOpen 0x0C038 = true
    ∧ (up []).pairOpen 0x6000C = true
    ∧ heldFor (after (.write64LowWord 5 0x0C030#20 9) (up [])).port.holds 0x0C030 5 = some 9
    ∧ (after (.write64HighWord 5 0x0C034#20 8) (after (.write64LowWord 5 0x0C030#20 9) (up []))).getF F.thmPrivEligLoMask = 9
    := by decide +kernel

/-! ### Time base, clocks, rails -/

/-- After the delay of the crystal; on the crystal, which calibration records as 24 MHz. -/
def delayed : State := { State.reset with time := { delayDone := true } }
def onXtal : State :=
  { at_ [(F.clkStatusOnXtal, 1)] with boot := { cal := [(1, List.replicate 6 0 ++ [15, 0] ++ toLeBytes 4 24000)] } }

theorem wit_CrystalAndMonitor : delayed.isSet F.clkStatusXtalOk = false ∧ delayed.isSet F.clkStatusXtalFail = false
    ∧ crystalFailed 1459 24000 = true ∧ crystalFailed 1460 24000 = false ∧ onXtal.isSet F.clkStatusOnXtal = true
    ∧ (after (.crystalMonitorWindow 1459) onXtal).isSet F.gctlErrXtalFail = true
    ∧ (after (.clkmonWrite 0x85C7C005#32) State.reset).getF F.clkClkmonCore = 287
    ∧ bitsOf 0x06000000 23 4 = 12 ∧ bitsOf 288 0 9 * 2 ^ 14 = 0x480000 ∧ after (.clkmonWrite 0x00480000#32) State.reset = State.reset
    := by decide +kernel

/-- Locked to SYNC_IN with a period of 1 µs. -/
def locked (missed period : Nat) : State :=
  { at_ [(F.tbStatusSubst, 0)] with time := { period := period, expected := 50 * period, missed := missed, scheduled := [1, 2] } }

theorem wit_Beats : (locked 0 1000000).isSet F.tbStatusSubst = false ∧ periodOut 1000000 = false ∧ periodOut 489999 = true
    ∧ (locked 0 1000000).time.expected = 50 * 1020000 - 1000000 ∧ (locked 0 1000000).time.expected = 50 * 980000 + 1000000
    ∧ (after (.syncInEdge 1020001) (locked 0 1000000)).getF F.tbStatusIgnored = 1
    ∧ (after (.syncInEdge 979999) (locked 0 1000000)).time.lastEdge = some 979999
    ∧ (locked 0 1000000).time.missed = 0 ∧ (locked 1 1000000).time.missed ≠ 0
    ∧ after .substituteBeatStart (locked 0 1000000) = locked 0 1000000
    ∧ (at_ [(F.tbStatusSubst, 1)]).isSet F.tbStatusSubst = true ∧ (locked 0 1000000).time.lastEdge = none
    ∧ (qualify (List.replicate 63 1000000) 1010000).length = 64 ∧ (qualify (List.replicate 63 1000000) 1010001).length = 1
    ∧ (after (.tick []) { State.reset with time := { tick := 62 } }).time.tick = 63
    ∧ (after (.scheduledAction 0) State.reset).time.answered = 4 ∧ (after (.scheduledAction 1) State.reset).time.scheduled = [1]
    := by decide +kernel

/-- A cluster of a domain that is on, CLC active. -/
def cluster (c : Nat) (v : Clc) (l : List (Field × Nat)) : State :=
  { at_ ([(F.domDStatusState (72 + c), 2)] ++ l) with clcs := [(c, v)], boot := { active := [0] } }

theorem wit_ClusterClocks : ((after (.pllLock 11) (cluster 11 { pllReq := true, div := 1 } [])).clc 11).pllLocked = true
    ∧ ((after (.pllLockTimeout 11) (cluster 11 { pllReq := true } [])).clc 11).retried = true
    ∧ bitOf ((after (.pllLockTimeout 11) (cluster 11 { pllReq := true, retried := true } [])).getF F.clcEvtPllFail) 11 = true
    ∧ (cluster 0 {} []).clc 0 = {} ∧ (cluster 0 {} []).clusterOn 0 = true ∧ State.reset.clusterOn 0 = false
    ∧ ((after (.dividerRampStep 0) (cluster 0 { ramping := true, steps := [.divide 7, .toRef] } [])).clc 0).div = 7
    ∧ ((after (.dividerRampStep 0) (cluster 0 { ramping := true, steps := [.toPll], pllFreq := 900 } [])).clc 0).onRef = false
    ∧ ((after (.dividerRampStep 0) (cluster 0 { ramping := true, steps := [.toPll], pllFreq := 900 } [])).getF (F.clcCFreqRun 0)) = 900
    := by decide +kernel

/-- A cluster whose rail permits a frequency that its grant allows. -/
def asked (mhz : Nat) (v : Clc) : State :=
  { cluster 0 v [(F.railFpermPerm 0 0, mhz)] with applied := Store.write resetOf [] (F.clcCFreqLimit 0).key mhz }

theorem wit_ClusterRetarget : ((after (.dividerRampStep 0) (asked 900 { ramping := true, steps := [.toRef] })).clc 0).pllFreq = 900
    ∧ ((after (.pllLock 0) (asked 500 { pllReq := true, pllFreq := 900 })).clc 0).pllFreq = 500
    ∧ ((after (.clusterFreqRetarget 0) (asked 500 { pllReq := true, pllFreq := 900 })).clc 0).pllFreq = 500
    ∧ (asked 399 {}).freqTarget 0 = 399 ∧ (asked 900 {}).freqTarget 0 = 900
    ∧ (asked 900 {}).isActive 0 = true ∧ (asked 900 {}).freqRequest 0 = 900
    ∧ ((after (.clusterFreqRetarget 0) (asked 900 { ramping := true })).clc 0).again = true
    ∧ after (.clusterFreqRetarget 0) (asked 900 { failedFor := some 900 }) = asked 900 { failedFor := some 900 }
    ∧ ((after (.clusterFreqRetarget 0) (asked 900 {})).clc 0).pllReq = true
    ∧ ((after (.clusterFreqRetarget 0) (asked 900 { onRef := false, pllFreq := 901 })).clc 0).target = 900
    ∧ ((after (.clusterFreqRetarget 0) (asked 900 { onRef := false, pllFreq := 900, again := true })).clc 0).again = false
    := by decide +kernel

/-- The rails at a stage of their start, all four converters fitted. -/
def starting (st : StartStage) (i : Nat) (l : List (Field × Nat)) : State :=
  { at_ l with supply := { stage := st, index := i, sinceEn := 20000 }, boot := { cal := [(1, List.replicate 6 0 ++ [15, 0])] } }

theorem wit_RailStart : (starting .converters 0 []).fitted = 15
    ∧ ((List.range 4).find? fun i => bitOf (starting .converters 0 [(F.railcBcStatusEn, 7)]).fitted i
        && !bitOf ((starting .converters 0 [(F.railcBcStatusEn, 7)]).getF F.railcBcStatusEn) i) = some 3
    ∧ (after .bcEnNext (starting .converters 0 [(F.railcBcStatusEn, 7)])).getF F.railcBcStatusEn = 15
    ∧ State.reset.supply.stage ≠ .converters ∧ State.reset.supply.sinceEn < 256
    ∧ beatsOf 20000 ((starting .converters 0 []).getF F.tbSyncFreqUsed) ≤ 20000
    ∧ (after .bcPgRise (starting .converters 0 [])).supply.reads = [(0, 1), (1, 1), (2, 1), (3, 1)]
    ∧ (after .bcStartTimeout (starting .converters 0 [(F.railcBcStatusEn, 15)])).isSet F.railcBcEvtPgTimeout = true
    ∧ (starting .ramping 7 []).startingRail = 3
    ∧ (after (.pgoodSet 3) ((starting .ramping 7 [(F.railStatusOn 3, 1), (F.railStatusSeqState 3, 1)]).setRail 3
        fun r => { r with pgBeats := 16 })).supply.stage = .done
    ∧ after (.pgoodSet 7) (starting .ramping 7 []) = starting .ramping 7 []
    ∧ (after (.railStartTimeout 3) ((starting .ramping 7 []).setRail 3 fun r => { r with rampDone := true, startBeats := 1000 })).supply.stage = .failing
    ∧ ([7, 4, 6, 5, 0, 1, 2, 3].reverse.find? fun k =>
        (starting .failing 0 [(F.railStatusOn 7, 1), (F.railStatusOn 4, 1)]).isSet (F.railStatusOn k)) = some 4
    ∧ (after .railShutdownStep (starting .failing 0 [(F.railStatusOn 7, 1)])).isSet (F.railStatusOn 7) = false
    ∧ (after .railShutdownStep (starting .failing 0 [(F.railcBcStatusEn, 7)])).supply.stage = .off
    ∧ State.reset.pins.pwrOff = false ∧ after .railShutdownStep State.reset = State.reset := by decide +kernel

theorem wit_ConverterReads :
    (after (.converterReadDone 3 .readVin none) { State.reset with supply := { fails := [(3, 2)] } }).getF F.railcBcEvtStale = 8
    ∧ (after (.converterReadDone 3 .readVin (some 0xE960#16)) State.reset).getF (F.telBcVVin 3) = 44000
    ∧ (after (.converterReadDone 3 .statusWord (some 1)) State.reset).getF F.railcBcEvtFault = 8
    ∧ (after (.converterReadDone 3 .readTemperature1 (some 0)) State.reset).getF (F.telBcItTemp 3) = 0
    ∧ ((List.range 4).filter (bitOf State.reset.fitted)) = []
    ∧ ((starting .converters 0 [(F.railcBcStatusPg, 1)]).isSet F.railcBcStatusPg = true)
    ∧ (starting .idle 0 []).supply.pollConv = 0
    ∧ (after .converterPoll { starting .idle 0 [] with supply := { pollConv := 3, pollCmd := 4 } }).supply.pollCmd = 0
    ∧ (after .bcPgFall (starting .done 8 [(F.railStatusOn 7, 1)])).isSet F.railcBcEvtPgLost = true
    ∧ (after .bcPgFall (starting .done 8 [])).isSet F.railcBcEvtPgLost = false := by decide +kernel

/-- A rail that settles at 500 mV. -/
def settling (k : Nat) (r : Rail) (l : List (Field × Nat)) : State :=
  (at_ ([(F.railStatusSeqState k, 5), (F.railVposPosition k, 2000), (F.railVposCmd k, 2000)] ++ l)).setRail k fun _ => r

/-- Rail 0 derating, its first phase on at a temperature. -/
def hot (temp : Nat) : State :=
  (ending (up [(phaseStateF 0, 2), (phaseTempF 0, temp), (F.railcDerateKFrac 0, 16)]) (intervalKey 10 0) 0).setRail 0
    fun r => { r with derating := true, cool := 9 }

theorem wit_RailSequencer : (after (.settled 7) (settling 7 { bandTicks := 4 } [(F.railVcmdStatus 7, 1)])).getF (F.railVcmdStatus 7) = 0xA
    ∧ (after (.seqTimeout 7) (settling 7 { settleBeats := 65535 } [(F.railVcmdStatus 7, 1)])).getF (F.railVcmdStatus 7) = 6
    ∧ after (.settled 7) (settling 7 {} []) = settling 7 {} []
    ∧ (after (.settled 7) (settling 7 { bandTicks := 4, vsetNext := some 9 } [(F.railVcmdStatus 7, 1)])).getF (F.railVcmdStatus 7) = 1
    ∧ State.reset.getF (F.railStatusSeqState 0) ≠ 5 ∧ after (.railVsetWrite .flp 3 0) State.reset = State.reset
    ∧ (after (.railVsetWrite .host 4 0x0107FFFF#32) (up [])).getF (F.railVcmdStatus 4) = 4
    ∧ (after (.railVsetWrite .flp 4 (BitVec.ofNat 32 ((up []).appliedF (F.railVlimMin 4)))) (up [])).getF (F.railVcmdStatus 4) = 1
    ∧ (after (.railVsetWrite .host 4 (BitVec.ofNat 32 ((up []).appliedF (F.railVlimMin 4)))) (up [(F.gctlModeCurrent, 2)])).getF (F.railVcmdStatus 4) = 8
    ∧ after (.couplingRaiseEnd 3) State.reset = State.reset
    ∧ (after (.couplingRaiseEnd 3) (State.reset.setRail 3 fun r => { r with cplLast := some (2 ^ 47 + 1) })).rail 3 = {}
    ∧ isAfter 48 (5 + State.reset.appliedF F.clcCplHold) State.reset.beat = true
    ∧ State.reset.running 0 = false ∧ (hot 0x7FFF).ends (intervalKey 10 0) = true ∧ (up []).ends (intervalKey 10 0) = false ∧ (hot 0x7FFF).running 0 = true ∧ ((hot 0x7FFF).rail 0).derating = true
    ∧ (after (.derateEvaluation 0) (hot 0x7FFF)).getF (F.railcDerateKFrac 0) = 14
    ∧ (after (.derateEvaluation 0) (hot 0xFF00)).getF (F.railcDerateKFrac 0) = 16
    ∧ ((hot 0xFF00).enabledPhases 0) = [0] := by decide +kernel

/-! ### Rail protection and telemetry, droop, notices, power, links -/

/-- Rail 7 on, its two phases ACTIVE. -/
def railOn (l : List (Field × Nat)) : State :=
  at_ ([(F.railStatusOn 7, 1), (phaseStateF 42, 2), (phaseStateF 43, 2)] ++ l)

/-- The same, some counts of its detections at their ends. -/
def counting (r : Rail) : State := (railOn [(F.railStatusOvHold 7, 1)]).setRail 7 fun _ => r

theorem wit_RailProtection : (railOn []).isSet (F.railStatusOn 7) = true ∧ State.reset.isSet (F.railStatusOn 7) = false
    ∧ ((after (.overvoltageDetect 7) (counting { ovTicks := 2 })).phase 43).pwm = .low
    ∧ after (.overvoltageDetect 7) (counting { ovTicks := 1 }) = counting { ovTicks := 1 }
    ∧ (after (.overshootDetect ⟨7, 9999⟩) (railOn [])).isSet (F.railStatusTrunc 7) = true
    ∧ after (.overshootDetect ⟨7, 0⟩) (railOn []) = railOn []
    ∧ (after (.truncationRelease ⟨7, 0⟩) (railOn [(F.railStatusTrunc 7, 1)])).isSet (F.railStatusTrunc 7) = false
    ∧ bitOf ((after (.undervoltageDetect 7) (counting { uvBeats := 64 })).getF (F.railEvt 7)) 6 = true
    ∧ ((after (.railOverLimit 7) (counting { overBeats := 4 })).rail 7).pldrag.isSome = true
    ∧ (railOn []).phaseState 43 ≠ 0 ∧ (counting {}).isSet (F.railStatusOvHold 7) = true
    ∧ bitOf ((after (.stageHot 43) ((railOn []).setPhase 43 fun p => { p with hotBeats := 16 })).getF (F.railEvt 7)) 9 = true
    ∧ (after (.railFault 7) (counting { ovBeats := 8 })).isSet (F.railStatusRailFault 7) = true
    ∧ ((after (.pldragRelease 7) (counting { pldrag := some 9, dragCool := 64 })).rail 7).pldragRising = true
    ∧ after (.pldragRelease 7) (counting { pldrag := some 9 }) = counting { pldrag := some 9 }
    ∧ [(100 : Int), 600001].length = phaseCount 7 ∧ (railOn []).phaseState (firstPhase 7 + 1) = 2
    ∧ imonInRange 600000 = true ∧ imonInRange 600001 = false
    ∧ 1 ≤ ((railOn []).setPhase 43 fun p => { p with outOfRange := 1 }).phases.length
    ∧ (after (.tmonConversion 43 1699) (railOn [])).getF (phaseTempF 43) = 8792
    ∧ (after (.tmonConversion 43 1700) (railOn [])).getF (phaseTempF 43) = 0x8000
    ∧ (after (.tmonConversion 43 2000) ((railOn []).setPhase 43 fun p => { p with stage := 1 })).phaseState 43 = 5
    := by decide +kernel

/-- Rail 7 with sums in its windows. -/
def summed : State := State.reset.setRail 7 fun r =>
  { r with sumShort := [8, 16, 24, 8], sumLong := [80, 16, 24, 8], lenShort := 8, lenLong := 8 }

theorem wit_RailTelemetry : (summed.rail 7).sumShort = [8, 16, 24, 8] ∧ (summed.rail 7).sumLong = [80, 16, 24, 8]
    ∧ (after (.telemetryShortWindow 7) summed).getF (F.telIShort 7) = 2
    ∧ (after (.telemetryLongWindow 7) summed).getF (F.telVLong 7) = 10
    ∧ (after (.telClearPeak 7 1) (at_ [(F.telVPeakMax 7, 9)])).getF (F.telVPeakMax 7) = 0
    ∧ after (.telClearPeak 7 2) State.reset = State.reset := by decide +kernel

/-- All cores of cluster 11 on, DROOP and CAP active, with a core power agent. -/
def cores (x : Cpa) (l : List (Field × Nat)) : State :=
  { up ((List.range 6).map (fun g => (F.domDStatusState (66 + g), 2)) ++ [(F.domDStatusState 83, 2)] ++ l) with
    cpas := [(287, x)], boot := { rom := false, active := [3, 4] } }

/-- The detector of core 287 with an offset of 16 (0.25 mV), under a V_ref of 100 mV. -/
def staged : State :=
  let s := (cores {} []).setRail 3 fun r => { r with vref := 400 }
  { s with boot := { s.boot with cal := [(3, List.replicate 1732 0 ++ [16, 0, 0, 0])] } }

theorem wit_DroopAgents : (cores {} []).coreOn 287 = true ∧ State.reset.coreOn 287 = false
    ∧ (cores {} []).droopDepth 287 0 = 0 ∧ staged.droopDepth 287 0 = 96
    ∧ (cores {} []).appliedF F.clcThreshNotice ≤ 255 ∧ (cores {} []).appliedF F.clcThreshHard ≤ 255
    ∧ ((after (.hardCrossing 287 0) ((cores {} []).setRail 3 fun r => { r with vref := 1020 })).cpa 287).hard = .hold
    ∧ (after (.noticeCrossing 287 0) ((cores {} []).setRail 3 fun r => { r with vref := 1020 })).getF (F.cpaCntBDeepest 287) = 255
    ∧ ((after (.shoeHoldExpiry 287) (cores { shoe := .hold } [])).cpa 287).shoe = .ramp
    ∧ ((after (.shoeRampStep 287) (cores { shoe := .ramp, shoeReq := 31 } [])).cpa 287).shoe = .clear
    ∧ ((after (.hardHoldExpiry 287) (cores { hard := .hold } [])).cpa 287).hard = .ramp
    ∧ ((after (.hardRampStep 287) (cores { hard := .ramp, keep := 14 } [])).cpa 287).keep = 15
    ∧ (after (.cpaCounterClear 287 1) (cores {} [(F.cpaCntBHard 287, 3)])).getF (F.cpaCntBHard 287) = 0
    ∧ (after (.dragOverrideWrite .host 287 5) (cores {} [])).getF (F.cpaDragOvrSlots 287) = 5
    ∧ after (.dragOverrideWrite .mdp 287 5) (cores {} []) = cores {} [] := by decide +kernel

theorem wit_NoticesAndRamps : (cores {} []).isActive 3 = true ∧ (cores {} []).appliedF F.clcFfEn ≤ 1
    ∧ ({ cores {} [] with applied := [(F.clcFfEn.key, 1)] } : State).appliedF F.clcFfEn ≠ 0
    ∧ (after (.loadNotice 287 15 4 9 0) (cores {} [])).getF (F.clcCLnAccepted 11) = 1
    ∧ (after (.loadNotice 287 15 4 9 15) { cores { queue := List.replicate 4 ⟨1, 1⟩ } [] with applied := [(F.clcFfEn.key, 1)] }).getF
      (F.clcCLnRefused 11) = 1
    ∧ (cores {} []).clusterOn 11 = true ∧ State.reset.clusterOn 11 = false
    ∧ ((rotation 11 ((cores { queue := [⟨1, 1⟩] } []).clc 11).lastTake).filter fun n =>
        !((cores { queue := [⟨1, 1⟩] } []).cpa n).queue.isEmpty).take 4 = [287]
    ∧ ((after (.issueWindowStart 287 [1, 9, 3, 4]) (cores {} [])).cpa 287).issue = 9
    ∧ (((rotation 11 ((cores {} []).clc 11).lastShare).filter (cores {} []).isRamping).length = 24)
    ∧ (sumNat (((List.range 24).map (264 + ·)).map fun n => ((after (.didtPeriod 11) (cores {} [])).cpa n).share)
      = (cores {} []).appliedF F.clcDidtBudget)
    ∧ (cores { swait := 1, filler := true } [(F.gctlModeCurrent, 2)]).filling 287 = true ∧ (cores {} []).filling 287 = false
    ∧ ({ cores {} [] with applied := [(F.clcFillDecay.key, 1)] } : State).appliedF F.clcFillDecay ≠ 0 := by decide +kernel

/-- Rail 3 recalibrates: energies of a period in pJ. -/
def calibrating (m d : Nat) (skip : Bool) : State :=
  { (ending (cores {} []) (intervalKey 5 3) 0).setRail 3 fun r => { r with calM := m, calD := d, calSkip := skip, calPart := false } with
    applied := [(F.pwrCalctlCalEn.key, 1)] }

theorem wit_MetersAndCap : (cores {} []).coreOn 287 = true ∧ (calibrating 4000000000 1 false).running 0 = true
    ∧ (calibrating 4000000000 1 false).isActive 4 = true ∧ (calibrating 4000000000 1 false).appliedF F.pwrCalctlCalEn ≠ 0
    ∧ ((calibrating 4000000000 1 false).rail 3).calPart = false ∧ 4 * 1000000000 ≤ 4000000000
    ∧ ((calibrating 3999999999 1 false).rail 3).calM < 4000000000
    ∧ (after (.recalibrationPeriod 3) (calibrating 3999999999 1 false)).getF (F.pwrCalKSkipped 3) = 1
    ∧ (after (.recalibrationPeriod 3) (calibrating 4000000000 1 true)).getF (F.pwrCalKSkipped 3) = 1
    ∧ after (.recalibrationPeriod 3) State.reset = State.reset ∧ (calibrating 9 9 false).ends (intervalKey 5 3) = true
    ∧ ((after (.recalibrationPeriod 3) { calibrating 9 9 false with boot := { rom := false } }).rail 3).calM = 0
    ∧ State.reset.meterEnds 287 = false ∧ (cores { ticks := 0 } []).meterEnds 287 = true
    ∧ (cores {} []).lawDie = true ∧ (after .flpCapUpdate (cores {} [(F.pwrCapnowHost, 9)])).getF F.pwrCapnowForce = 9
    ∧ (after .flpCapUpdate (cores {} [(F.pwrCapnowHost, 9), (F.mbxHostAbsent, 1), (F.pwrProfBHostAbsentCap, 8)])).getF
      F.pwrCapnowForce = 8
    ∧ (after (.capOverrideWrite .flp 5) (cores {} [])).getF F.pwrOvrSlots = 5
    ∧ after (.capOverrideWrite .mgp 5) (cores {} []) = cores {} [] := by decide +kernel

/-- An X4 of four dies, its links started. -/
def x4 (l : List (Field × Nat)) (k : Links) : State :=
  { up l with boot := { rom := false, cal := [(1, [1, 0, 0, 0, 1, 4])], active := [4] }, links := k }

theorem wit_Budgets : (cores {} []).isActive 4 = true ∧ (cores {} []).clusterOn 11 = true ∧ (cores {} []).links.distributed = false
    ∧ (ending (cores {} []) (intervalKey 0 11) 16).fires (intervalKey 0 11) 16 = true
    ∧ (after (.coreGrantFrame 11) (ending (cores {} []) (intervalKey 0 11) 16)).getF (F.cpaGrantCeil 287) = 32
    ∧ (ending (cores {} []) (intervalKey 0 11) 15).fires (intervalKey 0 11) 16 = false
    ∧ (after .dieBudgetFrame (ending (cores {} []) (intervalKey 1 0) 16)).cap.before.isSome = true
    ∧ ({ cores {} [] with links := { distributed := true } } : State).minSlots ≤ 32
    ∧ ({ cores {} [] with links := { budgeted := true }, cap := { before := some (1, 1, 1) } } : State).isX4 = false
    ∧ (x4 [(F.idConfigLeader, 1)] { ruled := true }).isX4 = true ∧ (x4 [(F.idConfigLeader, 1)] { ruled := true }).isLeader = true
    ∧ (x4 [(F.idConfigLeader, 1)] { ruled := true }).running 0 = true ∧ (x4 [] {}).dies = 4
    ∧ after .flpDieBudgetWrite (x4 [] {}) = x4 [] {} := by decide +kernel

/-- Frames: an identity of a die, a report, a grant; the die is die 0 and port 2 leads to die 3. -/
def identity (b4 : Byte) : List Byte := makeFrame 3 7 (b4 :: List.replicate 9 0)
def report : List Byte := makeFrame 4 7 (0 :: 0x83 :: List.replicate 24 0)
def grant : List Byte := makeFrame 5 7 ([0, 0, 1, 2, 3, 4] ++ List.replicate 20 0)

theorem wit_InterDieLinks : byteAt (identity 0xE0) 0 = 0xA5 ∧ (x4 [] { started := true }).peerOf 2 = 3
    ∧ (x4 [] { started := true }).isSet F.gctlStatusStrapFault = false
    ∧ testFrame [3, 5] (identity 0xE0) = .valid ∧ testFrame [3, 4] report = .valid ∧ testFrame [3, 5] grant = .valid
    ∧ testFrame [3, 5] report = .badVersion ∧ testFrame [3, 5] [0xA5, 0x23, 15] = .badLength
    ∧ testFrame [3, 5] [0xA5, 0x23, 16, 1] = .badCrc
    ∧ (after (.identityFrame 2 (identity 0xE0)) (x4 [] { started := true })).isSet (F.budIdlPPeerLeader 2) = true
    ∧ (after (.identityFrame 2 (identity 0x20)) (x4 [] { started := true })).isSet F.gctlErrStrapFault = true
    ∧ (after (.reportFrame 2 report) (x4 [(F.idConfigLeader, 1)] { started := true })).getF (F.budLdSMode 3) = 3
    ∧ (after (.grantFrame 2 grant) (x4 [] { started := true, lost := true })).getF F.budDiebReceived = 0x0102
    ∧ (after (.grantFrame 2 [0xA5, 0x25, 32, 1]) (x4 [] { started := true })).getF (F.budIdlPCrc 2) = 1
    ∧ (x4 [(F.idConfigLeader, 1), (F.budLdSState 3, 2), (F.budLdSMissed 3, 255)] {}).appliedF F.budCfgReportTo ≤ 255
    ∧ (after (.dieLost 3) (x4 [(F.idConfigLeader, 1), (F.budLdSState 3, 2), (F.budLdSMissed 3, 255)] {})).getF (F.budLdSState 3) = 3
    ∧ after (.dieLost 3) (x4 [] {}) = x4 [] {}
    ∧ (after .leaderIdentityTimeout (x4 [] { started := true, identityEnd := some 0 })).links.lost = true
    ∧ (after .leaderLost (x4 [] { followed := true, missed := 255 })).isSet F.budStatusAutonomous = true
    ∧ after .leaderLost (x4 [] {}) = x4 [] {} := by decide +kernel

/-- A P-frame with a grant. -/
def pFrameOf (hi lo : Byte) : List Byte := makeFrame 2 7 ([0, 0, hi, lo] ++ List.replicate 10 0)
/-- The package budget port in a state. -/
def port_ (st : Nat) (l : List (Field × Nat)) : State := up ([(F.budStatusPbpState, st), (F.idConfigLeader, 1)] ++ l)

theorem wit_PackageBudgetPort : (up []).getF F.budStatusPbpState = 0 ∧ after (.pFrame (pFrameOf 1 2)) (up []) = up []
    ∧ byteAt (pFrameOf 1 2) 0 = 0xA5 ∧ testFrame [2] (pFrameOf 1 2) = .valid ∧ testFrame [2] (identity 0xE0) = .badVersion
    ∧ testFrame [2] [0xA5, 0x22, 15] = .badLength ∧ testFrame [2] [0xA5, 0x22, 20, 1] = .badCrc
    ∧ (after (.pFrame (pFrameOf 1 2)) (port_ 1 [])).getF F.budStatusPbpState = 2
    ∧ (after (.pFrame (pFrameOf 1 2)) (port_ 1 [])).getF F.pwrLimBPGrant = 0x0102
    ∧ (after (.pFrame (pFrameOf 255 255)) (port_ 1 [])).cap.pgrant = none
    ∧ (after .pbpSilent { port_ 2 [] with links := { silentDue := true } }).getF F.budStatusPbpState = 1
    ∧ (port_ 2 []).appliedF F.budCfgSilentTo ≤ 255 ∧ 1 ≤ (port_ 2 []).appliedF F.budCfgSilentTo
    ∧ (after .packageFrame (ending (port_ 2 []) (intervalKey 3 0) 16)).getF F.budPbpSeqQuiet = 1
    ∧ (after .packageFrame (ending (port_ 2 [(F.budPbpSeqQuiet, (port_ 2 []).appliedF F.budCfgSilentTo - 1)]) (intervalKey 3 0) 16)).links.silentDue = true
    ∧ after .packageFrame (port_ 2 []) = port_ 2 []
    ∧ (port_ 2 []).isLeader = true ∧ (port_ 2 []).isX4 = false ∧ (x4 [(F.idConfigLeader, 1)] {}).isX4 = true
    ∧ (up []).isLeader = false := by decide +kernel

/-! ### Temperatures, the trip record, the cooling model, domains -/

/-- A diode whose voltages rise by a step, in µV. -/
def diode (d : Nat) : Diode := { v1 := 600000, v2 := 600000 + d, v3 := 600000 + 2 * d }
/-- All channels enabled in force. -/
def sensing (l : List (Field × Nat)) : State :=
  { at_ l with applied := Store.write resetOf (Store.write resetOf (Store.write resetOf [] F.thmChEnLoMask.key 0xFFFFFFFF)
      F.thmChEnHiMask.key 0xFFFFFFFF) F.thmNtcEnMask.key 0xFF }

/-- Unit 31 is in conversion. -/
def slot31 (l : List (Field × Nat)) : State := { sensing l with therm := { unitNow := some 31 } }

/-- Thermistors with beta 3435 and 10 kilohms, calibration applied. -/
def thermistors : State :=
  { sensing [(F.thmStatusCalApplied, 1)] with
    therm := { cal := List.replicate 0x110 0 ++ (List.replicate 8 [0x10, 0x27, 0x6B, 0x0D]).flatten } }

theorem wit_ThermalConversions : (sensing []).chanEnabled 63 = true ∧ (sensing []).chanEnabled 71 = true
    ∧ ({ State.reset with applied := [(F.thmChEnHiMask.key, 0)] } : State).chanEnabled 63 = false
    ∧ diodeWhole (diode 35902) = true ∧ (sensing []).diodeReading 63 (diode 35902) = 1600
    ∧ (sensing []).rateOk 63 1600 = true ∧ (sensing [(F.thmChState 63, 0)]).getF (F.thmChState 63) = 0
    ∧ (slot31 []).unitDue = some 31 ∧ (sensing []).unitDue ≠ some 31
    ∧ (after (.diodeConversionDone 31 (diode 35902) (diode 35902)) (slot31 [(F.thmChState 63, 0)])).getF (F.thmChReading 63) = 1600
    ∧ (after (.diodeConversionDone 31 (diode 35902) { v1 := 600000, v2 := 600000, v3 := 636001 }) (slot31 [(F.thmChState 63, 0)])).getF (F.thmChState 63) = 1
    ∧ ((after (.diodeConversionDone 31 (diode 35902) (diode 35902)) (slot31 [(F.thmChState 63, 2)])).chan 63).good = 1
    ∧ after (.diodeConversionDone 31 (diode 35902) (diode 35902)) (sensing []) = sensing []
    ∧ (sensing []).appliedF F.thmPlausBrokenN ≤ 9
    ∧ (sensing []).tripLimit 0 ≤ (sensing []).diodeReading 0 (diode 47110) ∧ (sensing []).trip.armed = true
    ∧ 20000 < 900000 ∧ (thermistors.ntcBeta 7, thermistors.ntcR25 7) = (3435, 10000)
    ∧ -2560 ≤ thermistors.ntcReading 7 900000 ∧ thermistors.ntcReading 7 900000 ≤ 9600
    ∧ (after (.thermistorConversionDone 7 900000) thermistors).getF (F.thmNtcRState 7) = 0
    ∧ (after (.thermistorConversionDone 7 20000) thermistors).getF (F.thmNtcRState 7) = 1
    ∧ (after (.thermistorConversionDone 7 1780000) thermistors).getF (F.thmNtcRState 7) = 1 := by decide +kernel

/-- A cluster whose readings are new, throttled or not. -/
def throttled (active fhw p d : Nat) : State :=
  { at_ [(F.thmCltActive 11, active), (F.thmCltFHw 11, fhw), (F.clcCFreqRun 11, fhw), (F.thmPairPProt 11, p), (F.thmStkProt 5, d)] with
    therm := { pairsNew := [11], bandDue := [5] }, intervals := [(intervalKey 4 0, { len := 100, count := 1 })] }

theorem wit_ThrottleAndBands : (throttled 0 1600 6000 1600).begins (intervalKey 4 0) = true
    ∧ State.reset.begins (intervalKey 4 0) = false ∧ (throttled 0 1600 6000 1600).therm.pairsNew.contains 11 = true
    ∧ (throttled 0 1600 6000 1600).clusterBlind 11 = false ∧ (throttled 0 1600 6000 1600).getF (F.thmCltCause 11) ≠ 3
    ∧ readingOf ((throttled 0 1600 6000 1600).getF (F.thmPairPProt 11)) = some 6000
    ∧ readingOf ((throttled 0 1600 6000 1600).getF (F.thmStkProt (11 / 2))) = some 1600
    ∧ toSigned 16 (State.reset.getF F.thmLimALogicThrottle) ≤ 7000 ∧ 1600 < toSigned 16 (State.reset.getF F.thmLimBDramThrottle)
    ∧ (after .thermalFrame (throttled 0 1600 7000 1600)).isSet (F.thmCltActive 11) = true
    ∧ (after .thermalFrame (throttled 1 1590 1600 1600)).isSet (F.thmCltActive 11) = false
    ∧ ((after (.throttleDividerStep 11) (cluster 11 { thermDiv := 3 } [])).clc 11).div = 1
    ∧ State.reset.therm.bandDue.contains 5 = false
    ∧ Store.read (fun _ => 0) (after (.bandUpd 5) (throttled 0 1600 1600 1600)).therm.pulses 5 = 1
    ∧ (after (.bandUpd 5) (withF (throttled 0 1600 1600 1600) [(F.modelBandSForced 5, 1)])).getF (F.modelBandSRef 5) = 2
    := by decide +kernel

/-- The trip path at a stage, with a record to write. -/
def tripping (st : TripStage) (slot : Nat) (retried : Bool) : State :=
  { State.reset with trip := { taken := true, stage := st, slot := slot, retried := retried, record := List.replicate 56 0 } }

theorem wit_TripRecord : (tripping .aborting 0 false).erasedFrom eventSlots 0 = some 0
    ∧ (after .tripFlashAbortDone (tripping .aborting 0 false)).trip.stage = .programming
    ∧ ({ tripping .aborting 0 false with flash := { bytes := [(0x900000, 0)] } } : State).erasedFrom eventSlots 0 = some 1
    ∧ State.reset.trip.stage ≠ .aborting ∧ State.reset.trip.stage ≠ .programming ∧ State.reset.trip.stage ≠ .reading
    ∧ (after (.tripRecordReadbackDone false 9) (tripping .reading 4095 false)).trip.slot = 0
    ∧ (after (.tripRecordReadbackDone false 9) (tripping .reading 4095 true)).getF F.thmStatusRec = 3
    ∧ recordOk 0x50455A43 pendingRecord = true
    ∧ recordOk 0x50455A43 (({ tripping .reading 0 false with
        flash := { bytes := stored 0x900000 pendingRecord } } : State).slotBytes 0) = true
    ∧ (after .tripPwrOffTimeout (tripping .reading 0 false)).pins.pwrOff = true
    ∧ after .tripPwrOffTimeout State.reset = State.reset := by decide +kernel

/-- A region of event records with no erased slot. -/
@[irreducible] def fullBytes (base : Nat) : Store Byte := (List.range eventSlots).map fun i => (base + 64 * i, 0)
theorem full_slots (s : State) (j base : Nat) (h : j < eventSlots) (e : s.boot.layout.evtOff = base)
    (hb : s.flash.bytes = fullBytes base) : s.slotErased j = false := by
  have hm : ((base + 64 * j, 0) : Nat × Byte) ∈ fullBytes base := by
    unfold fullBytes
    refine List.mem_map.mpr ?_
    refine ⟨j, ?_, ?_⟩
    · exact List.mem_range.mpr h
    · exact rfl
  rw [State.slotErased, e, hb, List.all_eq_false]
  exact ⟨_, hm, by simp⟩

def fullRegion : State := { tripping .aborting 0 false with flash := { bytes := fullBytes 0x900000 } }

theorem wit_NoErasedSlot (n : Nat) : ∀ k, fullRegion.erasedFrom n k = none := by
  induction n with
  | zero => intro k; rfl
  | succ n ih =>
    intro k
    rw [State.erasedFrom, full_slots fullRegion _ _ (Nat.mod_lt _ (by decide)) rfl rfl]
    exact ih (k + 1)

/-- The thermal model at work, the MDP running. -/
def cooling (st : Nat) (m : Model) (l : List (Field × Nat)) : State := { up ((F.modelStatusState, st) :: l) with model := m }

/-- FP32 by hand: 3/2 is 0x3FC00000; 1/10 lies above 0x3DCCCCCC; 1 + 2 × 3 is 7, fused or not; a zero sum is a
zero; 7 is 448/64. -/
theorem test_fp32 : fp32OfRatio 3 2 = 0x3FC00000 ∧ fp32Floor (2 ^ 149 / 10) = 0x3DCCCCCC
    ∧ fp32OfRatio (-3) 2 = 0xBFC00000 ∧ fp32OfRatio 0 64 = 0
    ∧ (∀ b, fp32MacWith b 0x3F800000 0x40000000 0x40400000 = 0x40E00000)
    ∧ (∀ d, fp32Sum 0 d % 2 ^ 31 = 0) ∧ scaledOfFp32 0x40E00000 = 448
    ∧ fp32Units 0x7F7FFFFF = some ((2 ^ 24 - 1) * 2 ^ 253) ∧ fp32Units 0x7F800000 = none := by
  refine ⟨by decide +kernel, by decide +kernel, by decide +kernel, by decide +kernel, by decide +kernel, fun d => ?_,
    by decide +kernel, by decide +kernel, by decide +kernel⟩
  simp only [fp32Sum, if_true]
  split <;> rfl

theorem wit_CoolingModel : (cooling 0 {} []).modelState = 0 ∧ (cooling 2 {} []).model.latched = none
    ∧ (ending (cooling 2 {} []) (intervalKey 2 0) 48).fires (intervalKey 2 0) 48 = true
    ∧ (after .modelStep (ending (cooling 2 {} []) (intervalKey 2 0) 48)).model.latched = some ([], [], [none])
    ∧ (after .modelStep (ending (cooling 3 { latched := some ([], [], []) } []) (intervalKey 2 0) 48)).getF F.modelTimingOverruns = 1
    ∧ (after .modelStep (ending (cooling 0 {} []) (intervalKey 2 0) 48)).model.steps = 1 ∧ after .modelStep (cooling 2 {} []) = cooling 2 {} []
    ∧ (cooling 2 { latched := some ([], [], []) } [(F.modelStatusSettleLeft, 1)]).badWords 7 (modelWords []) = []
    ∧ ({ cooling 3 { latched := some ([], [], []), coef := [1, 0] } [] with
        ecc := { errors := [(7 * 2 ^ 18, 3 * 2 ^ 40 + 1)] } } : State).badWords 7 (modelWords [1, 0]) = [0]
    ∧ (after .modelLoadDone (cooling 1 {} [])).getF (F.modelLimCLim 11) = 1600 := by decide +kernel

theorem wit_CoolingModelRest : after .modelLoadDone State.reset = State.reset ∧ (cooling 2 { fresh := true } []).running 1 = true
    ∧ (after .mdpStepResponse (cooling 2 { fresh := true } [])).model.fresh = false
    ∧ (cooling 0 { fresh := true } []).modelState ≠ 2
    ∧ tachFreq [⟨10000, 50⟩, ⟨10000, 49⟩] = 800 ∧ tachFreq [⟨2000001, 50⟩] = 0
    ∧ (after (.flowCoeffRewrite [⟨10000, 50⟩]) (cooling 2 {} [])).getF F.modelFlowScale = 4096
    ∧ (after (.flowCoeffRewrite [⟨10000, 50⟩]) (cooling 2 {} [])).getF F.thmFlowFreq = 1600
    ∧ (after (.flowCoeffRewrite []) (cooling 2 { loaded := true, scale := 0 } [])).model.scale = 4096
    ∧ (after (.flowCoeffRewrite []) (cooling 2 { loaded := true, scale := 0, latched := some ([], [], []) } [])).model.flowDue = true
    ∧ ({ cooling 2 { flowSince := some 0 } [] with time := { beat := 1000000 } } : State).flowSettled = true
    ∧ ({ cooling 2 {} [] with applied := [(F.modelFlowCfgTachEn.key, 1)] } : State).appliedF F.modelFlowCfgTachEn ≠ 0
    ∧ (after .modelCoeffRewrite (cooling 2 { loaded := true, rewrite := true } [])).model.rewrite = false
    ∧ after .modelCoeffRewrite State.reset = State.reset
    ∧ (cooling 2 {} []).model.frames = 0 ∧ after .rthSample (cooling 2 {} []) = cooling 2 {} []
    ∧ (after .rthSample (ending (cooling 2 { bad := true } []) (intervalKey 7 0) 0)).model.bad = false
    ∧ openDivNat 38 8000 8 = 1000 ∧ (cooling 2 {} []).appliedF F.modelRthCfgPMin ≤ 20000 := by decide +kernel

theorem wit_ModelReset : ({ cooling 3 { latched := some ([], [], []), coef := [1, 0] } [] with
    ecc := { errors := [(7 * 2 ^ 18, 0x11)] } } : State).readModel.1 = false := by decide +kernel

/-- A domain in a sequence. -/
def dom (v : Dom) (l : List (Field × Nat)) : State := { up l with doms := [(95, v)] }

/-- Entry 10 of the voter map names master 5 as voter 4. -/
def voting : State :=
  { State.reset with applied := Store.write resetOf (Store.write resetOf (Store.write resetOf [] (F.domHvmapJValid 10).key 1)
      (F.domHvmapJMasterId 10).key 5) (F.domHvmapJVoter 10).key 4 }

/-- A session of channel 0 whose replies go to channel 27, with every class. -/
def subscribed : State := up [(F.mbxSesAOpen 0, 1), (F.mbxSesAReply 0, 27), (F.mbxSesAClasses 0, 255)]

theorem wit_DomainsAndEvents :
    (after (.domainAck 95 false true) (dom { late := some (false, true) } [(F.domDStatusState 95, 5)])).getF F.domEvt = 2
    ∧ (after (.domainAck 95 false true) (dom { seq := .offOn, step := 1, waited := 65535 } [])).getF F.domEvt = 6
    ∧ domState (dom { seq := .offOn, step := 1 } []) 95 ≠ 5
    ∧ ((after (.domainAck 95 false true) (dom { seq := .offOn, step := 1 } [])).dom 95).acked = true
    ∧ after (.domainAck 95 true true) (dom { seq := .offOn, step := 1 } []) = dom { seq := .offOn, step := 1 } []
    ∧ domState (after (.domainAckTimeout 95) (dom { seq := .onOff, step := 2, swOn := true, waited := 65535 } [])) 95 = 5
    ∧ ((after (.domainAckTimeout 95) (dom { seq := .retOn, step := 2, swOn := true, waited := 65535 } [])).dom 95).toOn = true
    ∧ after (.domainAckTimeout 95) (dom {} []) = dom {} []
    ∧ State.reset.hostVoter 5 = none ∧ (after (.domainVoteSet 5 95) State.reset).getF F.domEvt = 1
    ∧ voting.hostVoter 5 = some 4 ∧ (after (.domainVoteSet 5 95) voting).getF (F.domDVoteMask 95) = 16
    ∧ ((after (.domainRetry ⟨.dbgacc, 95⟩) (dom {} [(F.domDStatusState 95, 5)])).dom 95).retry = true
    ∧ after (.domainRetry ⟨.dbgacc, 95⟩) (dom {} []) = dom {} [] ∧ (after (.domainRetry ⟨.host 5, 95⟩) (dom {} [])).getF F.domEvt = 1
    ∧ responseTo 0x0800C 9 = some ⟨4, true, some 0⟩ ∧ responseTo 0x0800C 8 = none
    ∧ bitOf ((up [(F.railEvt 0, 512)]).word 0x0800C) 9 = true
    ∧ ((after (.flpEventResponse 0x0800C#20 9) (up [(F.railEvt 0, 512)])).rail 0).derating = true
    ∧ (after (.flpEventResponse 0x0E004#20 4) (up [(F.modelEvt, 16)])).getF F.logHeadSeq = 1
    ∧ subscribed.subscribers 27 0 ≠ [] := by decide +kernel

/-! ### Health, calibration copies, re-characterisation -/

/-- The MDP running, tag 6 with RATIO0 of core 0 one half. -/
def aged (h : Health) (l : List (Field × Nat)) : State :=
  { up ((F.domDStatusState 0, 2) :: l) with
    boot := { rom := false, cal := [(6, List.replicate 0x24 0 ++ [0, 0, 128, 0])] }, health := h }

theorem wit_HealthMeasures : State.reset.running 1 = false ∧ (aged {} []).running 1 = true ∧ (aged {} []).hasTag 6 = true
    ∧ (aged {} []).coreOn 0 = true ∧ (aged {} []).coreOn 287 = false
    ∧ [(4, 10)][0]? = some (4, 10) ∧ 10 * (aged {} []).ratio0 0 ≠ 0
    ∧ (openDiv 43 (1000000 * (10 * 2 ^ 23) - 1000000 * (4 * 2 ^ 24)) (10 * 2 ^ 23)).toNat = 200000
    ∧ (aged { steady := [0, 71] } []).health.steady.Nodup ∧ (∀ d ∈ (aged { steady := [0, 71] } []).health.steady, d < 72)
    ∧ (ending (aged {} []) (intervalKey 12 0) 0).ends (intervalKey 12 0) = true
    ∧ (after .emUsageUpdate (ending (aged { steady := [0] } []) (intervalKey 12 0) 0)).getF (F.hlthStressNSec 3) = 1
    ∧ (after .emUsageUpdate (ending (aged { steady := [0] } []) (intervalKey 12 0) 0)).getF (F.hlthStressNSec 4) = 0
    ∧ (aged {} []).ends (intervalKey 8 0) = false ∧ (ending (aged {} []) (intervalKey 8 0) 0).ends (intervalKey 8 0) = true
    ∧ (ending (aged {} []) (intervalKey 9 0) 0).ends (intervalKey 9 0) = true ∧ after .lifePrediction (aged {} []) = aged {} []
    ∧ Store.read (fun _ => (0, 0)) (aged { iSum := [(7, (9, 3))] } []).health.iSum 7 = (9, 3)
    ∧ State.reset.appliedF (F.railIlimLimit 7) ≠ 0
    ∧ (aged {} [(F.hlthStressNSec 0, 604800), (F.hlthAgeNDNow 0, 30000)]).getF (F.hlthStressNSec 0) = 604800
    ∧ lifeHours 31536000 52631 30000 16 = 74222 ∧ lifeHours 604800 30000 30000 16 = 0
    ∧ State.reset.checkRequest { channel := 30, stamp := 0, words := [0x20640000], minor := 1 } = none
    ∧ servesB (ask 0x64 [287] []) 0x64 = true ∧ status (after .healthRead (ask 0x64 [287] [])) = 0
    ∧ status (after .healthRead (ask 0x64 [288] [])) = 4 ∧ status (after .healthRead (ask 0x64 [2 ^ 30 + 8] [])) = 4
    ∧ status (after .healthRead (ask 0x64 [2 ^ 31 + 43] [])) = 0 := by decide +kernel

/-- A copy of a kind being written, the MGP running. -/
def copying (kind : CopyKind) (due : List CopyKind) (l : List (Field × Nat)) : State :=
  { up l with health := { copy := some { kind := kind, slot := 1, sections := [(9, [9])] }, due := due } }

/-- What a commit refused leaves of a copy. -/
def spent (kind : CopyKind) : State :=
  Outcome.after (execCalibrationCopyCommit false (copying kind [] [])) (copying kind [] [])

theorem wit_CalibrationCopies : (copying .persist [] []).health.copy ≠ none ∧ (copying .persist [] []).running 2 = true
    ∧ (after .calibrationPersist (ending (copying .baseline [] []) (intervalKey 11 0) 0)).health.due = [.persist]
    ∧ (after .calibrationPersist (ending (copying .baseline [.persist] []) (intervalKey 11 0) 0)).health.due = [.persist]
    ∧ (up []).health.copy = none ∧ State.reset.running 2 = false ∧ after .calibrationPersist State.reset = State.reset
    ∧ ({ up [] with model := { learned := some 7 } } : State).model.learned ≠ none ∧ (up []).model.learned = none
    ∧ after .rthBaselineCopy (up []) = up []
    ∧ servesB (ask 0x63 [] []) 0x63 = true ∧ (ask 0x63 [] []).mailbox.awaitCopy = none
    ∧ after (.calibrationCopyCommit true) (copying .fmax [] []) = copying .fmax [] []
    ∧ (copying .relearn [] []).flash.tripOwned = false
    ∧ ({ copying .relearn [] [] with flash := { tripOwned := true } } : State).flash.tripOwned = true
    ∧ bitOf ((spent .persist).getF F.hlthEvt) 0 = true ∧ (spent .relearn).health.copy = none := by decide +kernel

/-- A re-characterisation in a state, of cluster 11. -/
def sweep (st : Nat) (m : Fmax) (l : List (Field × Nat)) : State :=
  { up ([(F.hlthFmaxState, st), (F.hlthFmaxCluster, 11), (F.hlthTestCluster, 11), (F.hlthTestFreq, 1000),
      (F.domDStatusState 66, 2), (F.domDStatusState 83, 2), (F.hlthFmaxMask, 0xFFF)] ++ l) with health := { fmax := m } }

/-- Its first record on its way to flash. -/
def begun_ (l : List (Field × Nat)) : State :=
  { sweep 1 {} l with flash := { work := [(.fmaxRecord, .program 0x900000 [1])] } }

theorem wit_FmaxStart : servesB (ask 0x60 [0] []) 0x60 = true
    ∧ status (after .fmaxStart (ask 0x60 [0] [(F.gctlModeCurrent, 2)])) = 8
    ∧ status (after .fmaxStart (ask 0x60 [0] [(F.gctlModeCurrent, 3), (F.hlthFmaxState, 1)])) = 2
    ∧ status (after .fmaxStart (ask 0x60 [0] [(F.gctlModeCurrent, 4)])) = 0
    ∧ (after .fmaxStart (ask 0x60 [0] [(F.gctlModeCurrent, 3), (F.domDStatusState 71, 2)])).getF F.hlthFmaxCluster = 11
    ∧ (begun_ []).jobCmds .fmaxRecord ≠ [] ∧ (after .fmaxBeginRecordDone (begun_ [])).health.fmax.begun = true
    ∧ (sweep 1 {} []).jobCmds .fmaxRecord = [] ∧ (sweep 1 {} []).beatReached 0 = true ∧ (sweep 1 {} []).beatReached 1 = false
    ∧ (after .fmaxBeginRecordDone (sweep 1 {} [])).getF F.hlthFmaxLastStatus = 7
    ∧ after .fmaxBeginRecordDone (up []) = up []
    ∧ (sweep 1 { begun := true } []).clusterQuiet 11 = true
    ∧ ({ sweep 1 { begun := true } [] with sync := { outstanding := [8 * 287] } } : State).clusterQuiet 11 = false
    ∧ (after .clusterOffline (sweep 1 { begun := true } [])).getF F.hlthFmaxState = 2
    ∧ (after .fmaxQuietTimeout (sweep 1 { begun := true } [])).getF F.hlthFmaxState = 4
    ∧ after .fmaxQuietTimeout (up []) = up [] := by decide +kernel

/-- A step in progress, some cores passing. -/
def stepping (spoilt : Bool) (l : List (Field × Nat)) : State :=
  sweep 2 { begun := true, inStep := true, spoilt := spoilt, passing := [264, 287], step := 25, badEnd := if spoilt then some 0 else none } l

theorem wit_FmaxSweep : ({ sweep 2 {} [(F.railStatusSettled 3, 1)] with
      clcs := [(11, { onRef := false, pllFreq := 1000 })] } : State).isSet (F.railStatusSettled 3) = true
    ∧ (after .fmaxStepBegin { sweep 2 {} [(F.railStatusSettled 3, 1)] with
        clcs := [(11, { onRef := false, pllFreq := 1000 })] }).health.fmax.inStep = true
    ∧ after .fmaxStepBegin (sweep 2 {} []) = sweep 2 {} []
    ∧ (after (.fmaxStepDone 0x800000#24) (stepping false [])).health.fmax.passing = [287]
    ∧ (after (.fmaxStepDone 0x800000#24) (stepping false [])).getF F.hlthTestFreq = 1025
    ∧ (after (.fmaxStepDone 0) (stepping false [])).getF F.hlthFmaxState = 3 ∧ (stepping false []).selectedFrom 12 = []
    ∧ (stepping false [(F.hlthTestCluster, 0)]).selectedFrom 1 = [11]
    ∧ after (.fmaxStepDone 1) (stepping true []) = stepping true []
    ∧ (after .fmaxStepInvalidTimeout (stepping true [])).getF F.hlthFmaxState = 4
    ∧ after .fmaxStepInvalidTimeout (stepping false []) = stepping false []
    ∧ (copying .fmax [] [(F.hlthFmaxState, 3)]).flash.tripOwned = false
    ∧ (after (.fmaxCommit false) (copying .fmax [] [(F.hlthFmaxState, 3)])).getF F.hlthFmaxLastStatus = 7
    ∧ after (.fmaxCommit true) (up []) = up []
    ∧ (after .fmaxEnd (sweep 4 {} [])).getF F.hlthFmaxState = 0 ∧ after .fmaxEnd (up []) = up []
    ∧ (after .fmaxAbort (ask 0x61 [] [(F.hlthFmaxState, 3)])).getF F.hlthFmaxLastStatus = 5
    ∧ status (after .fmaxAbort (ask 0x61 [] [(F.hlthFmaxState, 4)])) = 2
    ∧ servesB (ask 0x62 [] []) 0x62 = true ∧ status (after .fmaxStatus (ask 0x62 [] [])) = 0 := by decide +kernel

/-! ### The sync fabric -/

/-- The request of engine 6 of core 287 for its object 47, taken at tick 0, at the head of the batch in tick 2. -/
def requested (op opf arg : Nat) : SyncReq :=
  { core := 287, eng := 6, at_ := 0, beat := 0, tick := 0, khz := 1000, ctx := 0, op := op,
    word := op * 2 ^ 27 + nativeFields 13823 + opf, arg := arg }
def fabric (o : SyncObj) (op opf arg : Nat) : State :=
  { up [(F.domDStatusState 71, 2)] with
    boot := { rom := false, active := [5] }, time := { tick := 2 }
    sync := { objs := [(13823, o)], batch := [requested op opf arg], outstanding := [2302] } }

/-- With what an operation of an engine (8 × core + engine) is to complete: status and value. -/
def toEnd (s : State) (e : Nat) : Option (Nat × Option Nat) :=
  (s.sync.dues.find? fun d => engineOf d.core d.eng == e).map fun d => (d.status, d.value)

/-- What the operation leaves; how it ends. -/
def applied (o : SyncObj) (op opf arg : Nat) : State := after (syncCommand op) (fabric o op opf arg)
def ended (o : SyncObj) (op opf arg : Nat) : Option (Nat × Option Nat) := toEnd (applied o op opf arg) 2302

/-- The premises that each operation shares. -/
abbrev premises (o : SyncObj) (op opf arg : Nat) : Bool :=
  let s := fabric o op opf arg
  s.past 0 && s.syncActive && !bitOf (requested op opf arg).word 3 && requestOk op (requested op opf arg).word arg 287
    && flatOf (requested op opf arg).word 287 == some 13823 && !isPackage 13823 && (List.range 4).all (fun i => s.errorAt 0 (4 * 13823 + i) == 0)

theorem wit_SyncOperations : premises {} 1 3 0 = true ∧ premises {} 2 4 65535 = true ∧ premises {} 3 0 9 = true
    ∧ premises {} 4 0 0 = true ∧ premises {} 5 0 0 = true ∧ premises {} 6 0 0 = true ∧ premises {} 7 0 (2 ^ 31 + 9) = true
    ∧ premises {} 8 0 0 = true ∧ premises {} 12 0 (2 ^ 31 - 1) = true ∧ premises {} 16 0 0 = true
    ∧ (ended { kind := 1, faulted := true } 4 0 0).map (·.1) = some 7 ∧ (ended {} 4 0 0).map (·.1) = some 2
    ∧ (ended { kind := 2 } 4 0 0).map (·.1) = some 4 ∧ ended { kind := 1, value := 9 } 1 0 0 = some (0, some 9)
    ∧ ended { kind := 2, parts := 3, arr := 2 } 1 3 0 = some (0, some 0x30002)
    ∧ ended { kind := 1, faulted := true } 1 2 0 = some (0, some (2 ^ 28)) ∧ (applied { gen := 7 } 2 4 3).obj 13823
      = { kind := 4, parts := 3, gen := 7, last := (fabric {} 2 4 3).signaller (fabric {} 2 4 3).dieId 287 6 }
    ∧ ended { kind := 1, value := 2 ^ 20 - 1 } 3 0 1 = some (0, some (2 ^ 20 - 1))
    ∧ ((applied { kind := 1, value := 2 ^ 20 - 1 } 3 0 1).obj 13823).overflow = true
    ∧ ended { kind := 1, value := 1 } 4 0 0 = some (0, some 0) ∧ (applied { kind := 1 } 4 0 0).sync.records.length = 1
    ∧ (ended { kind := 1 } 5 0 0).map (·.1) = some 1 ∧ (ended { kind := 3, value := 1 } 5 0 0).map (·.1) = some 0
    ∧ (ended { kind := 2, parts := 2, gen := 5 } 7 0 (2 ^ 31 + 4)).map (·.1) = some 2
    ∧ ended { kind := 2, parts := 2, gen := 5 } 7 0 (2 ^ 31 + 5) = some (0, some 5)
    ∧ ((applied { kind := 2, parts := 1, gen := 65535 } 7 0 0).obj 13823).gen = 0 := by decide +kernel

theorem wit_SyncOperationsRest :
    (applied { kind := 2, parts := 2, arr := 1 } 6 0 0).sync.releases.length = 1
    ∧ ended { kind := 3, value := 1 } 8 0 0 = some (0, some 1) ∧ ended { kind := 3 } 8 0 0 = some (0, some 1)
    ∧ (fabric { kind := 3 } 8 0 0).nextDie 13823 11 = none ∧ ended { kind := 3, value := 1 } 9 0 0 = some (0, some 0)
    ∧ ended { kind := 3, value := 1 } 10 0 0 = some (0, some 1) ∧ ended { kind := 3, value := 1 } 11 0 0 = some (0, some 0)
    ∧ bitOf ((applied { kind := 3 } 11 0 0).cpa 287).swait 6 = true
    ∧ ended { kind := 4, value := 4 } 12 0 5 = some (0, some 9)
    ∧ (ended { kind := 4, value := 1 } 12 0 (2 ^ 31 - 1)).map (·.1) = some 2
    ∧ (ended { kind := 4, value := 4, value2 := 1 } 13 0 4).map (·.1) = some 4
    ∧ ended { kind := 4, value := 4, value2 := 1 } 13 0 3 = some (0, some 4)
    ∧ ended { kind := 4, value := 4 } 14 0 4 = some (0, some 4) ∧ (applied { kind := 4, value := 4 } 14 0 5).sync.records.length = 1
    ∧ ended { kind := 4, value2 := 4 } 15 0 4 = some (0, some 4)
    ∧ ((applied { kind := 4, value := 7, value2 := 3, parts := 1 } 16 0 0).obj 13823).value = 4
    ∧ (fabric {} 4 0 0).freeRecord = some 0 ∧ (fabric {} 2 0 0).objHeld 13823 = false
    ∧ ({ fabric {} 2 0 0 with sync := { releases := [⟨13823, 9, 0, false, []⟩] } } : State).objHeld 13823 = true := by
  decide +kernel

/-- All 65,536 waiter records in use. -/
def oneWaiter : Waiter :=
  { rid := 0, flat := 0, op := 4, core := 0, eng := 0, slot := none, ctx := 0, beat := 0, tick := 0, arg := 0, deadline := 0 }
def pool (s : State) (n : Nat) : State := { s with sync := { s.sync with records := List.replicate n oneWaiter } }

theorem pool_full (s : State) (n : Nat) (hn : 65536 ≤ n) : (pool s n).freeRecord = none := by
  refine if_pos ?_
  simp only [pool, List.length_append, List.length_map, List.length_replicate]
  exact Nat.le_trans hn (Nat.le_add_right _ _)

theorem wit_FullPool (s : State) : (pool s 65536).freeRecord = none := pool_full s 65536 (Nat.le_refl _)

/-- Core 287 bound to context 1, which is ACTIVE, with a translation of its page 5. -/
def bound (l : List (Field × Nat)) (y : Sync) : State :=
  { up ([(F.domDStatusState 71, 2), (F.syncCorectxCtx 287, 1), (F.syncCtxAState 1, 1), (F.syncPagePMapped 0, 1),
      (F.syncPagePCtx 0, 1), (F.syncPagePVpn 0, 5), (F.xltEntryValid 0 127, 1), (F.xltEntryFlat 0 127, 18431)] ++ l) with
    boot := { rom := false, active := [5] }, sync := y }

/-- A VIRT word: an operation on VID 5 × 128 + 127. -/
def virtWord (op : Nat) : Word := BitVec.ofNat 32 (op * 2 ^ 27 + 2 ^ 26 + (5 * 128 + 127) * 16)

theorem wit_SyncRequests : (bound [] {}).coreOn 287 = true ∧ (bound [] {}).takenNow 11 = 0 ∧ (bound [] {}).syncActive = true
    ∧ (bound [] {}).lateF (F.syncCorectxCtx 287) = 1 ∧ (bound [] {}).admission 1 = none
    ∧ (bound [(F.syncCtxAState 1, 2)] {}).admission 1 = some 5 ∧ (bound [(F.syncCtxAState 1, 3), (F.syncCtxACause 1, 2)] {}).admission 1 = some 7
    ∧ after (.syncRequestTaken 287 6 0x20000000 0) (bound [] { outstanding := [2302] }) = bound [] { outstanding := [2302] }
    ∧ (bound [] {}).fabricRuns = true ∧ parked.fabricRuns = false
    ∧ (toEnd (after (.syncRequestTaken 287 6 0x20000000 0) (up [(F.domDStatusState 71, 2)])) 2302).map (·.1) = some 2
    ∧ (toEnd (after (.syncRequestTaken 287 6 0x00000000 0) (bound [] {})) 2302).map (·.1) = some 4
    ∧ (toEnd (after (.syncRequestTaken 287 6 0x90000000 0) (bound [] {})) 2302).map (·.1) = some 4
    ∧ (after (.syncRequestTaken 287 6 0x20000000 0) (bound [] { taken := [(11, 4)] })).sync.presented.length = 1
    ∧ (bound [] { dues := [⟨287, 6, 0, some 9, 0⟩], outstanding := [2302] }).deliverDue.scplOf 2302 = some (0, 9)
    ∧ (after (.syncRequestTaken 287 6 0x20000000 0) (bound [] {})).sync.batch.length = 1
    ∧ bitsOf (virtWord 4).toNat 4 22 = 767 ∧ (bound [] {}).pageOf 1 5 = some 0 ∧ (bound [(F.syncPagePVpn 0, 6)] {}).pageOf 1 5 = none
    ∧ (bound [] {}).errorAt 2 63 = 0
    ∧ ((after (.syncRequestTaken 287 6 (virtWord 4) 0) (bound [] {})).sync.batch.map (·.word)) = [4 * 2 ^ 27 + nativeFields 18431]
    ∧ (toEnd (after (.syncRequestTaken 287 6 (virtWord 4) 0) (bound [(F.xltEntryValid 0 127, 0)] {})) 2302).map (·.1) = some 4
    := by decide +kernel

/-- A posted wait on slot 31, and a COLLECT of some slots. -/
def posted_ (o : SyncObj) (slot : Nat) : State :=
  { fabric o 4 8 (31 * 65536) with sync := { (fabric o 4 8 (31 * 65536)).sync with slots := [(73695, slot)].filter fun p => p.2 != 0 } }
def collecting (mask slot : Nat) : State :=
  { fabric {} 17 0 mask with sync := { (fabric {} 17 0 mask).sync with
      batch := [{ requested 17 0 mask with word := 17 * 2 ^ 27 }], slots := [(73695, slot)] } }

/-- A wait refused at a tick, polled. -/
def polled (fault : Bool) (at_ : Nat) : State :=
  let p : Poll := { core := 287, eng := 6, flat := 0, op := 4, word := 0x20000000, argw := 0, gen := 0, ctx := 1, beat := 0,
                    deadline := 0, at_ := at_, fault := fault }
  { bound [] { polls := [p] } with time := { beat := 100 } }

theorem wit_SyncRequestsRest : requestOk 4 (requested 4 8 (31 * 65536)).word (31 * 65536) 287 = true
    ∧ postSlot (requested 4 8 (31 * 65536)).word (31 * 65536) = some 31 ∧ (posted_ {} 0).slotState 287 6 31 = 0
    ∧ (posted_ {} 1).slotState 287 6 31 = 1 ∧ requestOk 3 (requested 3 1 0).word 0 287 = false
    ∧ toEnd (after .syncWait (posted_ { kind := 1, value := 1 } 0)) 2302 = some (0, some 1)
    ∧ toEnd (after .syncWait (posted_ { kind := 1 } 0)) 2302 = some (0, some 0)
    ∧ (after .syncWait (posted_ { kind := 1 } 0)).slotState 287 6 31 = 1
    ∧ (toEnd (after .syncWait (posted_ { kind := 1 } 1)) 2302).map (·.1) = some 4
    ∧ requestOk 17 (17 * 2 ^ 27) (2 ^ 31) 287 = true
    ∧ toEnd (after .syncCollect (collecting (2 ^ 31) 3)) 2302 = some (7, some (2 ^ 31))
    ∧ (after .syncCollect (collecting (2 ^ 31) 1)).sync.collects.length = 1
    ∧ (toEnd (after .syncCollect (collecting 1 1)) 2302).map (·.1) = some 4
    ∧ (polled false 0).sync.polls.length = 1 ∧ (polled false 0).reached ((0 + max 1 ((polled false 0).appliedF F.syncPollInterval)) % 2 ^ 54) = true
    ∧ (after (.syncPollReissue 287 6) (polled false 0)).getF F.syncFullPolls = 1
    ∧ ((after (.syncPollReissue 287 6) (polled true 0)).scplOf 2302).map (·.1) = some 7
    ∧ after (.syncPollReissue 287 6) (polled true (2 ^ 20)) = polled true (2 ^ 20)
    ∧ after (.syncPollReissue 287 6) (up []) = up [] := by decide +kernel

/-! ### Releases and contexts -/

/-- A barrier with a release at a tick, and a waiter of the generation before. -/
def waiterOf (op arg : Nat) : Waiter := { oneWaiter with flat := 18431, op := op, arg := arg, core := 287, eng := 6 }
def releasing (at_ : Nat) (coupled : Bool) : State :=
  { up [] with boot := { rom := false, active := [5] }, time := { beat := 10 }, sync := { objs := [(18431, { kind := 2, gen := 5, rel := 4 })]
                                                                                          releases := [⟨18431, at_, 64, coupled, []⟩]
                                                                                          records := [waiterOf 6 4] } }

theorem wit_SyncReleases : ((releasing 640 true).sync.records.map (·.rid)).Nodup
    ∧ (releasing 640 true).releasedRecords 18431 5 = [waiterOf 6 4] ∧ State.reset.releaseOf 18431 = none
    ∧ (releasing 641 true).reached 641 = false ∧ (releasing 640 true).reached 640 = true
    ∧ after (.barrierRelease 18431) (releasing 641 false) = releasing 641 false
    ∧ ((after (.barrierRelease 18431) (releasing 640 false)).obj 18431).rel = 5
    ∧ (after (.barrierRelease 18431) (releasing 640 false)).sync.records = []
    ∧ ((after (.barrierRelease 18431) (releasing 640 true)).sync.records.map (·.due.isSome)) = [true]
    ∧ ((after (.couplingNotice 18431) (releasing 704 true)).rail 3).cplNext = true
    ∧ after (.couplingNotice 18431) (releasing 705 true) = releasing 705 true
    ∧ after (.couplingNotice 18431) (releasing 703 true) = releasing 703 true
    ∧ (after (.clusterRelease 11) { releasing 640 true with sync := { records := [{ waiterOf 6 4 with due := some 640, coupled := true }] } }).sync.records = []
    := by decide +kernel

/-- The leader, which hosts the package objects, and its first words of messages to die 0. -/
def hosting (y : Sync) : State :=
  { up [(F.idConfigLeader, 1)] with
    boot := { rom := false, active := [5] }, applied := [(F.syncPkgHost.key, 1)], time := { beat := 10 }, sync := y }
def word0 (type : Nat) : Word := BitVec.ofNat 32 (msgWord0 type 3 0 287 6 511)
def forwarded : Forward := { req := requested 4 0 0, flat := 18431, rid := none, slot := none, sent := 600 }

/-- What a message that came in at tick 639 does when it is applied. -/
def told (type w1 w2 : Nat) (s : State) : State := s.applyMsg 639 [(word0 type).toNat, w1, w2, 0]

theorem wit_SyncMessages : (hosting {}).hosting = true ∧ (hosting {}).portRuns = true ∧ parked.portRuns = false
    ∧ (at_ [(F.gctlStatusStrapFault, 1)]).portRuns = false ∧ State.reset.syncActive = false ∧ (up []).hosting = false
    ∧ (after (.opreq (word0 1) 7 8 9) (hosting {})).sync.inbox = [(640, [(word0 1).toNat, 7, 8, 9])]
    ∧ after (.opreq (word0 2) 7 8 9) (hosting {}) = hosting {}
    ∧ argsOk 4 0 1 = false ∧ ((told 1 0x20000000 1 (hosting {})).sync.outbox.map fun a => a.getD 1 0) = [4]
    ∧ ((told 1 0x20000000 0 State.reset).sync.outbox.map fun a => a.getD 1 0) = [2]
    ∧ (told 2 0 0 (hosting { forwards := [forwarded] })).getF F.syncPkgLatLast = 39 ∧ told 2 0 0 (hosting {}) = hosting {}
    ∧ (hosting { records := [waiterOf 4 0] }).waiting 18431 4 = [waiterOf 4 0] ∧ (hosting {}).waiting 18431 4 = []
    ∧ (told 3 0x20000000 0 (hosting { records := [waiterOf 4 0] })).sync.records.map (·.due) = [some 641]
    ∧ (told 3 0x20000000 0 (hosting {})).sync.outbox.length = 1
    ∧ (told 3 0x60000000 0 (hosting { records := [waiterOf 10 0] })).sync.records.map (·.fate) = [(7, none)]
    ∧ (told 4 0x80000000 0 (hosting { pkgWaits := [⟨511, 3, 4, 0⟩] })).sync.pkgWaits = []
    ∧ ((told 5 0x20000000 0 (hosting { objs := [(18431, { kind := 1, value := 2 })] })).obj 18431).value = 3
    ∧ ((told 5 0x30000000 0 (hosting { objs := [(18431, { kind := 3 })] })).obj 18431).value = 1
    := by decide +kernel

/-- Context 1023 in a state, the fabric active. -/
def context (st : Nat) (l : List (Field × Nat)) (y : Sync) : State :=
  { up ([(F.syncCtxAState 1023, st)] ++ l) with boot := { rom := false, active := [5] }, sync := y }

theorem wit_SyncContexts : (context 0 [] {}).isSet F.syncCtxResBusy = false ∧ (context 0 [] {}).syncActive = true
    ∧ (after (.ctxCreate 1023) (up [])).getF F.syncCtxResStatus = 2
    ∧ (context 0 [(F.syncCtxArgArg, 60000)] {}).wdMs = some 60000 ∧ (context 0 [(F.syncCtxArgArg, 60001)] {}).wdMs = none
    ∧ (after (.ctxCreate 1023) (context 0 [(F.syncCtxArgArg, 60000)] {})).getF (F.syncCtxAState 1023) = 1
    ∧ (after (.ctxCreate 1023) (context 0 [(F.syncCtxArgArg, 9)] {})).getF F.syncCtxResStatus = 4
    ∧ (after (.ctxCreate 1023) (context 3 [] {})).getF F.syncCtxResStatus = 2
    ∧ (after (.ctxDestroy 0) (context 3 [] {})).getF F.syncCtxResStatus = 8
    ∧ (context 3 [(F.syncCorectxCtx 287, 1023)] {}).boundTo 1023 = 1 ∧ (context 3 [] {}).boundTo 1023 = 0
    ∧ (context 3 [] {}).recordsOf 1023 = 0 ∧ (context 3 [] { records := [{ waiterOf 4 0 with ctx := 1023 }] }).recordsOf 1023 = 1
    ∧ (after (.ctxAbort 1023) (context 1 [] {})).sync.walks.length = 1
    ∧ (after (.ctxAbort 1023) (context 0 [] {})).getF F.syncCtxResStatus = 2
    ∧ (after (.ctxResume 1023) (context 3 [] {})).getF (F.syncCtxAState 1023) = 1
    ∧ (after (.ctxResume 1023) (context 1 [] {})).getF F.syncCtxResStatus = 2
    ∧ (after (.ctxSetWd 1023) (context 1 [(F.syncCtxArgArg, 2 ^ 31 + 10)] {})).getF (F.syncCtxAAutoFault 1023) = 1
    ∧ (after (.abortWalkEnd 1023) { context 2 [] { walks := [⟨1023, 1024, true, 0⟩] } with time := { beat := 17 } }).getF
      F.syncCtxResStatus = 10
    ∧ after (.abortWalkEnd 1023) (context 2 [] { walks := [⟨1023, 1023, true, 0⟩] })
      = context 2 [] { walks := [⟨1023, 1023, true, 0⟩] } := by decide +kernel

/-- A waiter of context 1023 at the begin of a sweep. -/
def sweeping (l : List (Field × Nat)) : State :=
  ending (context 1 l { records := [{ waiterOf 4 0 with ctx := 1023 }] }) (intervalKey 6 0) 0

theorem wit_SyncBindings : (after (.corectxWrite 287 1023) (context 1 [] {})).getF (F.syncCorectxCtx 287) = 1023
    ∧ after (.corectxWrite 287 1023) (context 0 [] {}) = context 0 [] {}
    ∧ (after (.translationEntryWrite 131071 0x80007FFF#32) (context 1 [(F.syncPagePMapped 1023, 1)] {})).getF (F.xltEntryFlat 1023 127)
      = 0x7FFF
    ∧ after (.translationEntryWrite 131071 0x80007FFF#32) (context 1 [] {}) = context 1 [] {}
    ∧ (context 1 [] { records := [{ waiterOf 4 0 with ctx := 1023 }] }).expired 0 = true
    ∧ (context 1 [] {}).expired 1 = false
    ∧ (sweeping []).begins (intervalKey 6 0) = true ∧ (context 1 [] {}).begins (intervalKey 6 0) = false
    ∧ (after .watchdogSweep (sweeping [])).sync.records.map (·.fired) = [true]
    ∧ (after .watchdogSweep (sweeping [(F.syncCtxAAutoFault 1023, 1)])).sync.records.map (·.fate) = [(7, none)]
    ∧ (after (.wdqPop 1) (context 1 [] { hostQ := [⟨true, false, 1, 2, 3, 4, 5, 6, 7⟩] })).sync.hostQ = []
    ∧ (after .mgpWdqReport (context 1 [] { mgpQ := [⟨true, false, 1, 2, 3, 4, 5, 6, 7⟩] })).sync.mgpQ = []
    ∧ after .mgpWdqReport (context 1 [] {}) = context 1 [] {} ∧ after .mgpWdqReport State.reset = State.reset
    ∧ (after (.debugSelect 18431) (context 1 [] {})).getF F.dbgStatusBusy = 1
    ∧ after .debugSnapshot (context 1 [] { dbgAt := some 0 }) = context 1 [] { dbgAt := some 0 }
    ∧ (after .debugSnapshot { context 1 [(F.dbgSelObject, 13823)] { dbgAt := some 0 } with time := { tick := 1 } }).getF F.dbgStatusValid = 1
    := by decide +kernel

/-- Page 0 mapped for VPN 5 of context 1023. -/
def mapped : State :=
  context 1 [(F.syncPagePMapped 0, 1), (F.syncPagePCtx 0, 1023), (F.syncPagePVpn 0, 5), (F.syncCtxArgArg, 5)] {}

theorem wit_SyncPages : (mapped.pagesOf 1023).find? (fun p => mapped.getF (F.syncPagePVpn p) == 5) = some 0
    ∧ (context 1 [] {}).pagesOf 1023 = [] ∧ (context 1 [] {}).isSet (F.syncPagePMapped 0) = false
    ∧ (after (.ctxUnmap 1023) mapped).getF (F.syncPagePMapped 0) = 0 ∧ (after (.ctxMap 1023) mapped).getF F.syncCtxResStatus = 2
    := by decide +kernel

/-- Every page mapped. -/
@[irreducible] def allPages (n : Nat) : Store Nat := (List.range n).map fun p => ((F.syncPagePMapped p).key, 1)

theorem read_ones (d : Nat → Nat) (k : Nat) : ∀ l : Store Nat, (∀ x ∈ l, x.2 = 1) → (∃ x ∈ l, x.1 = k) → Store.read d l k = 1 := by
  intro l
  induction l with
  | nil => intro _ h; obtain ⟨x, hx, _⟩ := h; cases hx
  | cons y l ih =>
    intro h1 h2
    unfold Store.read
    split
    · exact h1 y List.mem_cons_self
    · rename_i hk
      refine ih (fun x hx => h1 x (List.mem_cons_of_mem y hx)) ?_
      obtain ⟨x, hx, e⟩ := h2
      cases hx with
      | head => exact absurd e.symm hk
      | tail _ hx => exact ⟨x, hx, e⟩

theorem wit_NoPageFree (p : Nat) (h : p < 1024) :
    ({ State.reset with fields := allPages 1024 } : State).isSet (F.syncPagePMapped p) = true := by
  have r : Store.read resetOf (allPages 1024) (F.syncPagePMapped p).key = 1 := by
    refine read_ones _ _ _ ?_ ?_
    · unfold allPages
      intro x hx
      obtain ⟨i, _, e⟩ := List.mem_map.mp hx
      exact e ▸ rfl
    · unfold allPages
      refine ⟨((F.syncPagePMapped p).key, 1), ?_, rfl⟩
      refine List.mem_map.mpr ⟨p, ?_, rfl⟩
      exact List.mem_range.mpr h
  show (Store.read resetOf (allPages 1024) (F.syncPagePMapped p).key != 0) = true
  rw [r]
  rfl

/-! ### Ill-formed operands, the block as a whole -/

theorem test_wf_refuses : (Instr.misalignedAccess 4 4).wf = false ∧ (Instr.tick [1, 2, 3, 4, 5, 6, 7]).wf = false
    ∧ (Instr.imonConversion 7 [0]).wf = false ∧ (Instr.issueWindowStart 3 [1, 2, 3]).wf = false
    ∧ (Instr.issueWindowStart 3 [33, 2, 3, 4]).wf = false ∧ (Instr.meterInterval 3 [1] 0).wf = false
    ∧ (Instr.ageingMeasurement [(1, 2)]).wf = false ∧ (Instr.nvBridgeTx (List.replicate 256 0) none).wf = false
    ∧ (Instr.jtagBypass 0).wf = false
    ∧ (Instr.jtagExtest (some { pwmData := List.replicate 45 true })).wf = false
    ∧ (Instr.jtagSamplePreload { pwmEnable := List.replicate 45 true } {}).wf = false := by decide +kernel

theorem test_wf_admits : (Instr.misalignedAccess 4 8).wf = true ∧ (Instr.tick [1, 2, 3, 4, 5, 6, 7, 8]).wf = true
    ∧ (Instr.imonConversion 7 [0, 1]).wf = true ∧ (Instr.issueWindowStart 3 [32, 2, 3, 4]).wf = true
    ∧ (Instr.nvBridgeTx (List.replicate 255 0) none).wf = true ∧ (Instr.jtagBypass 0x3F).wf = true := by decide +kernel

theorem wit_UnreachableChannels : 28 ≤ (28 : Fin 32).val ∧ channelOf 0x317FC = some 31
    ∧ (after (.mailboxGo (.host 5) 28) State.reset).port.error = true
    ∧ (0x3027C#20).toNat = 0x30200 + 4 * 31 ∧ State.reset.word 0x3027C = 0xFFFFFFFF
    ∧ (after (.registerWrite 5 0x3027C#20 0) State.reset).word 0x3027C = 0xFFFFFFFF := by decide +kernel

/-- A command runs, the trip outputs asserted; the queue's front goes first. -/
theorem wit_TripLatchAndBeatCount : ({ State.reset with pins := { thermTrip := true, pwrOff := true } } : State).pins.thermTrip = true
    ∧ (after (.tick []) { State.reset with pins := { thermTrip := true, pwrOff := true } }).pins.pwrOff = true
    ∧ (∀ n x, Instr.tick [] ≠ .coldReset n x) := by
  refine ⟨by decide +kernel, by decide +kernel, ?_⟩
  intro n x h
  cases h

theorem test_step_front : step { State.reset with pending := [.tick [], .xtalDelayEnd] }
    = exec (.tick []) { State.reset with pending := [.xtalDelayEnd] } := rfl
theorem test_step_idle : step State.reset = .next State.reset := rfl
theorem wit_StepKeepsCanonical : State.reset.Canonical ∧ State.reset.pending = [] := by decide +kernel
theorem test_decode_none : decodeTableWord 32 0 = none ∧ State.reset.withFetchWord 32 0 = State.reset := ⟨rfl, rfl⟩

/-! ### Further clauses of the statements -/

theorem wit_PmbusLatched : bitOf ({ pageDie with pmbus := { page := 8, latched := [(44, 1)] } } : State).pmByte 6 = true
    ∧ bitOf ({ at_ [(F.railStatusOn 0, 1), (F.railStatusPgood 0, 1)] with pmbus := { latched := [(36, 3)] } } : State).pmWord 11 = true
    ∧ (after (.pmPage (some 8) none) parked).pmbus.ack = false ∧ (after (.nvBridgeTx [1] none) parked).pmbus.ack = false
    ∧ (after (.nvBridgeRx true) parked).pmbus.ack = false ∧ (after (.nvBrakeWrite 0x4252#16 none) parked).pmbus.ack = false
    ∧ (after (.pmClearFaults (some 1)) parked).pmbus.ack = false ∧ (after .pmReadVin parked).pmbus.ack = false := by decide +kernel

theorem wit_BrakeReserved : (after (.brakeDoorbellSet 0x42520005#32) State.reset).getF F.mbxBrakeStatDoorbell = 1
    ∧ (after (.brakeDoorbellClr 0x4252FFFE#32) (at_ [(F.mbxBrakeStatDoorbell, 1)])).getF F.mbxBrakeStatDoorbell = 0
    ∧ after (.brakeNRelease 99) State.reset = State.reset := by decide +kernel

/-- BC_EN[3] scanned high. -/
def scanned : State :=
  Outcome.after (execJtagExtest (some { outputs := List.replicate 15 false ++ [true], pwmEnable := List.replicate 44 true }) State.reset) State.reset

theorem wit_DebugScan : scanned.boundaryPin 15 = .high ∧ scanned.pwmPin 43 = .highZ
    ∧ (after (.jtagExtest (some { pwmEnable := List.replicate 44 true })) State.reset).pwmPin 43 = .low
    ∧ ({ State.reset with pins := { thermTrip := true } } : State).thermTripPin = some false := by decide +kernel

/-- An X4 whose binding table is not locked, or names master 5 for every channel. -/
def unlocked : State := withF unbound [(F.mbxBindCtlLock, 0)]

theorem wit_MailboxGates : (after (.mailboxWordWrite (.host 5) 16 0 7) State.reset).getF (F.mbxChCtlRejects 16) = 1
    ∧ (after (.mailboxDone (.host 5) 15) State.reset).getF (F.mbxChCtlRejects 15) = 1
    ∧ (after (.mailboxGo (.host 5) 15) { State.reset with mailbox := { clearedAt := some 0 } }).channelFull 15 = false
    ∧ State.reset.mailbox.clearedAt ≠ some State.reset.now
    ∧ unbound.packageX4 = true ∧ State.reset.packageX4 = false ∧ unlocked.hostGate 5 0 = .error ∧ unbound.channelsDown = false
    ∧ (after (.mailboxWordWrite (.host 5) 0 0 7) unbound).getF (F.mbxChCtlRejects 0) = 1
    ∧ ({ at_ [(F.gctlStatusDebugEn, 1)] with jtag := { instr := 16 } } : State).debugAccess = true := by decide +kernel

theorem wit_RequestFails :
    (posted 0 0x2F010000 session).checkRequest ((posted 0 0x2F010000 session).requestIn 0) = some (3, [])
    ∧ (posted 0 0x2F010000 []).checkRequest ((posted 0 0x2F010000 []).requestIn 0) = none
    ∧ status (after .mgpTakeMessage (posted 0 0x20990000 session)) = 4
    ∧ (after .mgpTakeMessage (posted 0 0x20990000 session)).channelFull 0 = false
    ∧ (after .mgpTakeMessage (posted 0 0x20990000 session)).mailbox.request = none := by decide +kernel

/-- A full queue whose second message is a notification. -/
def mixedQueue : State :=
  { at_ [(F.mbxChCtlState 16, 1)] with
    mailbox := { queue := oneQueued true :: { oneQueued false with words := [7] } :: List.replicate 62 (oneQueued true) } }

theorem wit_QueueDrops : mixedQueue.mailbox.queue = [oneQueued true] ++ { oneQueued false with words := [7] } :: List.replicate 62 (oneQueued true)
    ∧ (mixedQueue.send (oneQueued false)).mailbox.queue.length = 64
    ∧ (mixedQueue.send (oneQueued false)).mailbox.queue.map (·.isReply) = List.replicate 63 true ++ [false]
    ∧ (mixedQueue.send (oneQueued false)).getF F.mbxQueueDropped = 1 ∧ (mixedQueue.send (oneQueued false)).getF F.mbxQueueDepth = 64
    := by decide +kernel

/-- OPEN on channel 28; SET_CAP while a check is busy. -/
def open28 : State :=
  { at_ [(F.fwPStatusState 2, 2)] with mailbox := { request := some { request 1 [1] with channel := 28, reply := 29 } } }

theorem wit_OpenBeyond : open28.mailbox.request.any (fun r => r.opcode == 1 && decide (16 ≤ r.channel)) = true
    ∧ (after .sessionOpen open28).getF (F.mbxMsgWord 29 1) / 2 ^ 24 = 0 ∧ (after .sessionOpen open28).sessionOn 0 = false
    ∧ status (after .setCap (ask 0x10 [100] (leads [(F.gctlStatusCheckBusy, 1)]))) = 1 := by decide +kernel

/-- A record to mirror, EVT_NEXT at the first slot; a pending trip record in the sector after it. -/
def mirroring (b : Store Byte) (trip : Bool) : State :=
  { withF (logged 5) [(F.logEvtNextValid, 1)] with flash := { (logged 5).flash with bytes := b, tripOwned := trip } }

theorem wit_MirrorInto : (mirroring [] false).mirrorSlot = some 0 ∧ (mirroring [] false).mirrorBlocked = false
    ∧ (mirroring [] false).sectorsOwed.1 = []
    ∧ (after (.mirrorRecord true) (mirroring [] false)).getF F.logMirrorMirrored = 1
    ∧ (after (.mirrorRecord true) (mirroring [] false)).getF F.logEvtNextOffset = 64
    ∧ (after (.mirrorRecord true) (mirroring [] true)).getF F.logMirrorFailed = 1
    ∧ ({ logged 5 with logRam := { (logged 5).logRam with inSecond := 16 } } : State).inSecond = 16 := by decide +kernel

theorem wit_MirrorBlocked : (mirroring (stored 0x901000 pendingRecord) false).sectorsOwed.1 = [1]
    ∧ (mirroring (stored 0x901000 pendingRecord) false).mirrorBlocked = true
    ∧ (after (.mirrorRecord true) (mirroring (stored 0x901000 pendingRecord) false)).getF F.logMirrorSkipped = 1 := by decide +kernel

/-- Restarted in the present tick for cause 7; a watch of ALIVE that still runs. -/
def restarted : State :=
  { withF (up [(F.fwPStatusState 2, 1), (F.fwPStatusCause 2, 7)]) [] with procs := { restartAt := [(2, some 0)], aliveEnd := [(1, 9)] } }

theorem wit_ProcessorsAgain : restarted.restarting 2 = true ∧ (up []).restarting 2 = false
    ∧ (after (.processorRestart .host 2 0x52530001#32) restarted).getF (F.fwPStatusCause 2) = 2
    ∧ restarted.beatReached (Store.read (fun _ => 0) restarted.procs.aliveEnd 1) = false
    ∧ after (.aliveTimeout 1) restarted = restarted
    ∧ (up []).beatReached (Store.read (fun _ => 0) (up []).procs.aliveEnd 1) = true
    ∧ ((after (.aliveIncrement 1) (up [])).procs.aliveEnd) = [(1, 100000)]
    ∧ (after (.processorReloadDone 1) (up [(F.fwPStatusState 1, 1), (F.fwUpdState, 4)])).getF (F.fwPStatusCause 1) = 5 := by
  decide +kernel

theorem wit_NotHalted : (after .park (withF drained [(F.gctlStatusHalt, 1)])).isSet F.domStatusParked = false
    ∧ after (.wakeReset 0 0) (withF (asleep 255) [(F.gctlStatusHalt, 1)]) ≠ State.reset
    ∧ (withF (asleep 255) [(F.gctlStatusHalt, 1)]).isSet F.gctlStatusHalt = true
    ∧ (after (.bootStep1 (sfdp true 32)) State.reset).flash.quadMode = .m144
    ∧ (romAt 2 [] []).isSet F.clkStatusPllLock = false ∧ (romAt 2 [] []).fdiv25 = 4 := by decide +kernel

/-- A switch to profile 7 that all subsystems have passed, or that SYNC's is refused; the ROM's values due. -/
def switching : State :=
  { State.reset with boot := { rom := false, passed := List.range 7, switchTo := some 7, applyDue := true, staging := List.replicate 64 1 } }
def refusing : State :=
  { up [] with boot := { rom := false, toCheck := [0], switchTo := some 7 }, mailbox := { awaitProfile := some (request 0x12 [7]) } }

theorem wit_Switches : (after .stagedApply switching).getF F.gctlProfileActive = 7
    ∧ (after .stagedApply switching).getF F.gctlEnable = 127 ∧ (after .stagedApply switching).getF F.mbxHbToMs = 0x0101
    ∧ (refusing.setF F.gctlStatusLastCheck 0).check [0] refusing.boot.staging 0 = some 0xA4
    ∧ status (after .consistencyCheckDone refusing) = 2 ∧ (after .consistencyCheckDone refusing).boot.switchTo = none
    ∧ (after .stagedApply { State.reset with boot := { rom := false, byRom := true, passed := [3], applyDue := true } }).getF F.gctlEnable = 8
    := by decide +kernel

theorem wit_WindowReads : (0x70010#20).toNat < 0x80000 ∧ State.reset.gateAt 5 0x70010 = .pass ∧ parked.gateAt 5 0x31000 = .error
    ∧ channelOf 0x31000 = some 0 ∧ isPair 0x31000 = false ∧ isPair 0x30FFC = false
    ∧ unbound.gateAt 5 0x31000 = .unbound ∧ (after (.read64LowWord 5 0x31000#20) unbound).getF (F.mbxChCtlRejects 0) = 1
    ∧ State.reset.isSet (F.syncPagePMapped 0) = false ∧ (after (.read64LowWord 5 0x80000#20) State.reset).port.value = 0
    ∧ State.reset.leaderOnly 0x70010 = false ∧ State.reset.live 0x70010 = []
    ∧ (after (.read64LowWord 5 0x70010#20) (at_ [(F.logCfgIntSev, 5)])).port.value = (at_ [(F.logCfgIntSev, 5)]).shown 0x70010
    ∧ (fieldsAt 0x70010).Pairwise (fun a b => a.1.lo + a.1.width ≤ b.1.lo ∨ b.1.lo + b.1.width ≤ a.1.lo) := by decide +kernel

theorem wit_LockEnds : (cluster 0 { pllReq := true, lockEnd := 9 } []).beatReached 9 = false
    ∧ after (.pllLockTimeout 0) (cluster 0 { pllReq := true, lockEnd := 9 } []) = cluster 0 { pllReq := true, lockEnd := 9 } []
    ∧ ((after (.pllLockTimeout 0) (cluster 0 { pllReq := true } [])).clc 0).lockEnd = 20
    ∧ (starting .converters 0 []).supply.stage = .converters
    ∧ ({ starting .converters 0 [] with boot := {} } : State).fitted = 0
    ∧ (after .bcPgRise { starting .converters 0 [] with boot := {} }).supply.stage = .ready := by decide +kernel

theorem wit_Fillers : (cores { swait := 1 } [(F.gctlModeCurrent, 2)]).fillerMode = true
    ∧ (cores { swait := 1 } [(F.gctlModeCurrent, 2)]).cpa 287 = { swait := 1 } ∧ (cores {} []).fillerMode = false
    ∧ (after (.issueWindowStart 287 [1, 9, 3, 4]) (cores { swait := 1, average := [(0, 30)] } [(F.gctlModeCurrent, 2), (F.cpaFillWindows 287, 9)])).getF
      (F.cpaFillSlots 287) = 3
    ∧ (after (.issueWindowStart 287 [1, 9, 3, 4]) (cores { swait := 1 } [(F.gctlModeCurrent, 2), (F.cpaFillWindows 287, 9)])).getF
      (F.cpaFillWindows 287) = 1
    ∧ (after (.clcNoticeTake 11) (cores { queue := [⟨1, 1⟩] } [])).noticesTaken 11 = 1 := by decide +kernel

theorem wit_LinkTimes : (x4 [] { identityEnd := some 9 }).links.identityEnd.any (x4 [] { identityEnd := some 9 }).beatReached = false
    ∧ (x4 [] {}).links.identityEnd.any (x4 [] {}).beatReached = false
    ∧ (after .leaderIdentityTimeout (x4 [(F.idConfigLeader, 1)] { identityEnd := some 0 })).links = {}
    ∧ (after (.grantFrame 2 grant) (x4 [] { started := true, followed := true, missed := 255 })).links.lost = false
    ∧ (port_ 2 []).owedFrames.getF F.budStatusPbpState = 2
    ∧ (after .pbpSilent { port_ 2 [] with links := { silentDue := true } }).getF F.budStatusPbpState = 1 := by decide +kernel

theorem wit_RailsGone : (∀ k < 8, State.reset.isSet (F.railStatusOn k) = false)
    ∧ (after .modelStep { ending (cooling 3 {} []) (intervalKey 2 0) 48 with pins := { pwrOff := true } }).model.latched = none
    ∧ (ending (cooling 3 {} []) (intervalKey 2 0) 48).fires (intervalKey 2 0) 48 = true
    ∧ ((after .tripFlashAbortDone (withF (tripping .aborting 0 false) [(F.tbStatusSubst, 1)])).trip.record.getD 26 0) = 8
    ∧ ((after .tripFlashAbortDone (withF (tripping .aborting 0 false) [(F.tbStatusSubst, 0)])).trip.record.getD 26 0) = 0 := by decide +kernel

theorem wit_FirstRatio : ({ aged {} [] with boot := { rom := false } } : State).ratio0 0 = 0
    ∧ (after (.ageingMeasurement [(4, 8)]) { ending (aged {} []) (intervalKey 8 0) 0 with boot := { rom := false } }).ratio0 0 = 2 ^ 23
    ∧ (after (.ageingMeasurement [(4, 8)]) (ending (aged {} []) (intervalKey 8 0) 0)).ratio0 0 = (aged {} []).ratio0 0
    ∧ (copying .persist [] []).copyFits { kind := .persist, slot := 1, sections := [(9, [9])] } = true
    ∧ ({ copying .persist [] [] with boot := { layout := layoutOf [] } } : State).copyFits
      { kind := .persist, slot := 1, sections := [(9, [9])] } = false
    ∧ bitOf ((spent .baseline).getF F.hlthEvt) 0 = true := by decide +kernel

/-- A sweep at its second group, with a record that it examines now. -/
def midSweep (pos : Nat) : State := context 1 [] { sweep := some { pos := pos }, records := [{ waiterOf 4 0 with ctx := 1023, rid := 64 }] }

theorem wit_Sweep : (midSweep 1).sweepTick.sync.records.map (·.fired) = [true] ∧ (midSweep 2).sweepTick.sync.records.map (·.fired) = [false]
    ∧ (midSweep 2).sweepTick.sync.sweep.map (·.pos) = some 3 ∧ (midSweep 1023).sweepTick.sync.sweep = none
    ∧ ((midSweep 1).sync.records.map (·.rid)).Nodup ∧ (midSweep 1).errorAt 1 128 = 0
    ∧ (after .watchdogSweep (sweeping [])).sync.sweep.map (·.pos) = some 1 := by decide +kernel

theorem wit_ForwardsVoid : (told 2 0 0 (hosting { forwards := [{ forwarded with void := true }] })).sync = {}
    ∧ (polled false 0).sync.presented = [] ∧ (polled false 0).takenNow 11 = 0 ∧ (polled false 0).offline 11 = false
    ∧ (after (.syncPollReissue 287 6) (polled false 0)).sync.polls.map (·.queued) = [true]
    ∧ (after (.syncPollReissue 287 6) (polled false 0)).takenNow 11 = 1
    ∧ (releasing 640 true).errorAt 1 0 = 0
    ∧ (after .syncCollect (collecting (2 ^ 31) 1)).getF F.syncOpsCount = 1 := by decide +kernel


/-- Two notifications and a reply wait, the host absent, channel 16 EMPTY. -/
def threeQueued : State :=
  { up [] with mailbox := { queue := [oneQueued false, { oneQueued false with words := [7] }, { oneQueued true with absent := true, words := [8] }] } }

theorem wit_QueueOrder : nextFor 16 threeQueued.mailbox.queue = some { oneQueued true with absent := true, words := [8] }
    ∧ (after (.outboundQueueDrain 16) threeQueued).getF (F.mbxMsgWord 16 0) = 9
    ∧ (after (.outboundQueueDrain 16) threeQueued).mailbox.queue = [oneQueued false, { oneQueued false with words := [7] }]
    ∧ (posted 0 0x2F010000 []).sessionOn 0 = false ∧ ((posted 0 0x2F010000 []).requestIn 0).reply = 16 := by decide +kernel

end Sys2Proof.Tests
end

section
/-! PROOFS. Chapter 14, replies and the outbound queue: what messages, trace records and log records change of the register
fields, which message leaves the queue or is dropped from it, and the statement of O10. -/
namespace Sys2Proof.Machine

/-! ### What a change of the state leaves of the register fields -/

/-- Off the fields of a list, `t` reads as `s`: what `State.Frame` says of register fields. -/
def State.ReadsOff (s t : State) (l : List Field) : Prop := ∀ f : Field, (∀ g ∈ l, f.key ≠ g.key) → t.getF f = s.getF f

namespace State.ReadsOff

variable {s t u : State} {l l' : List Field}

theorem refl (s : State) (l : List Field) : s.ReadsOff s l := fun _ _ => rfl

theorem of_fields_eq (h : s.ReadsOff t l) (e : u.fields = t.fields) : s.ReadsOff u l := fun f hf => by
  rw [← h f hf, State.getF, State.getF, e]

theorem mono (h : s.ReadsOff t l) (hl : ∀ g ∈ l, g ∈ l') : s.ReadsOff t l' := fun f hf => h f fun g hg => hf g (hl g hg)

/-- A write of a field of the list; of `incF`, `addF`, `orF` and `raise` too, which are such writes. -/
theorem setF (h : s.ReadsOff t l) {f : Field} (hf : f ∈ l) (v : Nat) : s.ReadsOff (t.setF f v) l := fun g hg => by
  rw [State.getF_setF_ne t v (hg f hf), h g hg]

theorem when {c : Bool} {f : State → State} (h : s.ReadsOff t l) (hf : ∀ u, s.ReadsOff u l → s.ReadsOff (f u) l) :
    s.ReadsOff (t.when c f) l := by
  unfold State.when
  split
  · exact hf t h
  · exact h

theorem forEach {α : Type} {f : State → α → State} (h : s.ReadsOff t l) (xs : List α)
    (hf : ∀ u, s.ReadsOff u l → ∀ x ∈ xs, s.ReadsOff (f u x) l) : s.ReadsOff (t.forEach xs f) l := by
  induction xs generalizing t with
  | nil => exact h
  | cons x xs ih =>
    exact ih (hf t h x List.mem_cons_self) fun u hu y hy => hf u hu y (List.mem_cons_of_mem x hy)

/-- A functional write of a protected word changes one field: the memory's count of cancelled write-backs, R447. -/
theorem eccWrite (h : s.ReadsOff t l) {m : Nat} (hm : F.mpMWbCancelled m ∈ l) (w : Nat) : s.ReadsOff (t.eccWrite m w) l := by
  unfold State.eccWrite
  exact when (when (h.of_fields_eq rfl) fun u hu => hu.setF hm _) fun u hu => hu.of_fields_eq rfl

theorem writeLogWords (h : s.ReadsOff t l) (hm : F.mpMWbCancelled 6 ∈ l) (first n : Nat) :
    s.ReadsOff (t.writeLogWords first n) l :=
  h.forEach _ fun _ hu w _ => hu.eccWrite hm w

theorem putTrace (h : s.ReadsOff t l) (hm : F.mpMWbCancelled 6 ∈ l) (i : Nat) (r : TraceRec) :
    s.ReadsOff (t.putTrace i r) l := by
  unfold State.putTrace
  refine writeLogWords ?_ hm _ _
  exact h.of_fields_eq rfl

theorem placeTrace (h : s.ReadsOff t l) (hm : F.mpMWbCancelled 6 ∈ l) (n i : Nat) (r : TraceRec) :
    s.ReadsOff (t.placeTrace n i r) l := by
  induction n generalizing t i r with
  | zero => exact h.putTrace hm i r
  | succ n ih =>
    simp only [State.placeTrace]
    split
    · exact ih (h.putTrace hm i _) _ _
    · exact h.putTrace hm i r

/-- A trace record, R430, changes the registers of `traceFields`. -/
theorem trace (h : s.ReadsOff t l) (hl : ∀ g ∈ traceFields, g ∈ l) (src point data0 data1 : Nat) :
    s.ReadsOff (t.trace src point data0 data1) l := by
  have hm : F.mpMWbCancelled 6 ∈ l := hl _ (by simp [traceFields])
  unfold State.trace
  split
  · exact h
  · split
    · exact h.setF (hl F.logTrStatDropped (by simp [traceFields])) _
    · exact ((h.placeTrace hm _ _ _).setF (hl F.logTrHeadIndex (by simp [traceFields])) _).setF
        (hl F.logTrHeadTseq (by simp [traceFields])) _

/-- A log record, R423, changes the registers of `logFields`. -/
theorem log (h : s.ReadsOff t l) (hl : ∀ g ∈ logFields, g ∈ l) (src sev code : Nat) (data : List Nat) :
    s.ReadsOff (t.log src sev code data) l := by
  have hm : F.mpMWbCancelled 6 ∈ l := hl _ (by simp [logFields])
  have hevt : F.logEvt ∈ l := hl _ (by simp [logFields])
  have overwrite (u : State) (hu : s.ReadsOff u l) : s.ReadsOff u.logOverwrite l :=
    when ((hu.setF (hl F.logTailSeq (by simp [logFields])) _).setF (hl F.logStatOverwritten (by simp [logFields])) _)
      fun v hv => (hv.setF hevt _).of_fields_eq rfl
  have hroom := h.when (c := decide (logCapacity ≤ t.logCount)) overwrite
  unfold State.log
  refine when (when (setF (writeLogWords ?_ hm _ _) (hl F.logHeadSeq (by simp [logFields])) _) fun u hu => hu.setF hevt _)
    fun u hu => hu.setF hevt _
  exact hroom.of_fields_eq rfl

end State.ReadsOff

/-- A frame, from the parts that are kept and the register fields that read as before. -/
theorem State.Kept.frame {s t : State} {ps : List Part} {l : List Field}
    (hk : s.Kept (fun x => decide (x ∈ Part.fields :: ps)) t) (hr : s.ReadsOff t l) : s.Frame t ps l :=
  ⟨hk.1, fun x hx hf => hk.2.2 x (by simp [hx, hf]), hr⟩

/-! ### Bits of words -/

theorem bitOf_setBit_zero (n : Nat) : bitOf (setBit n 0 % 2 ^ 32) 0 = true := by
  simp only [setBit, bitOf, beq_iff_eq]
  split <;> omega

theorem bitOf_or_two_pow_three (n : Nat) : bitOf ((n ||| 2 ^ 3) % 2 ^ 4) 3 = true := by
  have h : ((n ||| 2 ^ 3) % 2 ^ 4).testBit 3 = true := by
    rw [Nat.testBit_mod_two_pow, Nat.testBit_or, Nat.testBit_two_pow_self]; simp
  rw [Nat.testBit_eq_decide_div_mod_eq] at h
  simpa [bitOf] using h

/-! ### Messages, R385 -/

theorem length_padWords (w : List Nat) : (padWords w).length = max 8 w.length := by
  rw [padWords, List.length_append, List.length_replicate]; omega

theorem getD_padWords (w : List Nat) {i : Nat} (h : i < w.length) : (padWords w).getD i 0 = w.getD i 0 := by
  simp [padWords, List.getElem?_append_left h]

/-- A header word fits 32 bits, and its fields stand where Table 14.2 has them. -/
theorem headerWord_fields {minor opcode seq n : Nat} (hminor : minor < 16) (hopcode : opcode < 256) (hseq : seq < 256)
    (hn : n ≤ 16) : headerWord minor opcode seq n 0 < 2 ^ 32
    ∧ bitsOf (headerWord minor opcode seq n 0) 28 4 = 2 ∧ bitsOf (headerWord minor opcode seq n 0) 24 4 = minor
    ∧ bitsOf (headerWord minor opcode seq n 0) 16 8 = opcode ∧ bitsOf (headerWord minor opcode seq n 0) 8 8 = seq
    ∧ bitsOf (headerWord minor opcode seq n 0) 4 4 = n - 8 ∧ bitsOf (headerWord minor opcode seq n 0) 0 4 = 0 := by
  simp only [headerWord, bitsOf]
  omega

/-- Each index of a channel's words has a register of its own. -/
theorem msgWord_key_inj (ch i j : Nat) : (F.mbxMsgWord ch i).key = (F.mbxMsgWord ch j).key ↔ i = j := by
  simp only [Field.key]; omega

/-- What the message words of a channel read once a list of words has been written into them from index `n` on. -/
theorem State.getF_msgWord_forEach (s : State) (ch i n : Nat) (words : List Nat) :
    (s.forEach (words.zipIdx n) fun s wi => s.setF (F.mbxMsgWord ch wi.2) wi.1).getF (F.mbxMsgWord ch i)
      = if n ≤ i ∧ i < n + words.length then words.getD (i - n) 0 % 2 ^ 32 else s.getF (F.mbxMsgWord ch i) := by
  induction words generalizing s n with
  | nil => rw [if_neg (by simp only [List.length_nil]; omega)]; rfl
  | cons w ws ih =>
    refine (ih (s.setF (F.mbxMsgWord ch n) w) (n + 1)).trans ?_
    rw [State.getF_setF, List.length_cons]
    by_cases hi : i = n
    · subst hi
      rw [if_neg (by omega), if_pos rfl, if_pos (by omega), Nat.sub_self]; rfl
    · rw [if_neg (mt (msgWord_key_inj ch i n).1 hi)]
      by_cases hin : n + 1 ≤ i ∧ i < n + 1 + ws.length
      · rw [if_pos hin, if_pos (by omega), show i - n = (i - (n + 1)) + 1 by omega]; rfl
      · rw [if_neg hin, if_neg (by omega)]

/-- The words of a message lie from index 0 on. -/
theorem State.getF_msgWord_of_lt (s : State) {ch i : Nat} {words : List Nat} (h : i < words.length) :
    (s.forEach words.zipIdx fun s wi => s.setF (F.mbxMsgWord ch wi.2) wi.1).getF (F.mbxMsgWord ch i)
      = words.getD i 0 % 2 ^ 32 := by
  rw [State.getF_msgWord_forEach, if_pos (by omega), Nat.sub_zero]

/-- The registers that a message of `n` words changes: its channel's STATE, the host's event, the words. -/
def messageFields (ch n : Nat) : List Field := [F.mbxChCtlState ch, F.mbxHevtFull] ++ (List.range n).map (F.mbxMsgWord ch)

theorem State.writeMsg_readsOff (s : State) (ch : Nat) (words : List Nat) :
    s.ReadsOff (s.writeMsg ch words) (messageFields ch words.length) := by
  unfold State.writeMsg
  refine State.ReadsOff.when (State.ReadsOff.setF (State.ReadsOff.forEach (.refl s _) _ fun u hu x hx => hu.setF ?_ _) ?_ _)
    fun u hu => hu.setF ?_ _
  · have hlt : x.2 < words.length := by simpa only [Nat.add_zero, Nat.zero_add] using List.snd_lt_of_mem_zipIdx hx
    exact List.mem_append_right _ (List.mem_map.2 ⟨x.2, List.mem_range.2 hlt, rfl⟩)
  · exact List.mem_append_left _ List.mem_cons_self
  · exact List.mem_append_left _ (List.mem_cons_of_mem _ List.mem_cons_self)

theorem State.writeMsg_mailbox (s : State) (ch : Nat) (words : List Nat) : (s.writeMsg ch words).mailbox = s.mailbox :=
  (State.writeMsg_kept (pp := fun x => decide (x ∈ [Part.fields])) (fun x => by cases x <;> decide) s ch words (.refl s)).2.2
    .mailbox (by decide)

/-- A message written into a channel makes it FULL, R375. -/
theorem State.channelFull_writeMsg (s : State) (ch : Nat) (words : List Nat) : (s.writeMsg ch words).channelFull ch = true := by
  have hne : (F.mbxChCtlState ch).key ≠ F.mbxHevtFull.key := by simp only [Field.key]; omega
  unfold State.writeMsg State.when
  split
  · simp [State.channelFull, State.isSet, State.raise, State.orF, State.getF_setF_ne _ _ hne]
  · simp [State.channelFull, State.isSet]

theorem State.getF_msgWord_writeMsg (s : State) (ch : Nat) (words : List Nat) {i : Nat} (h : i < words.length) :
    (s.writeMsg ch words).getF (F.mbxMsgWord ch i) = words.getD i 0 % 2 ^ 32 := by
  have hstate : (F.mbxMsgWord ch i).key ≠ (F.mbxChCtlState ch).key := by simp only [Field.key]; omega
  have hevent : (F.mbxMsgWord ch i).key ≠ F.mbxHevtFull.key := by simp only [Field.key]; omega
  unfold State.writeMsg State.when
  split
  · refine (State.getF_setF_ne _ _ hevent).trans ?_
    rw [State.getF_setF_ne _ _ hstate, State.getF_msgWord_of_lt _ h]
  · rw [State.getF_setF_ne _ _ hstate, State.getF_msgWord_of_lt _ h]

/-! ### Replies, R385, R387 -/

/-- The words of the reply to a request, before they are filled up. -/
def replyWords (r : Request) (status reason : Nat) (data : List Nat) : List Nat :=
  headerWord r.minor r.opcode (bitsOf (r.word 0) 8 8) (max 8 (data.length + 2)) 0
    :: (status * 2 ^ 24 + reason * 2 ^ 16 + r.channel) :: data

theorem State.reply_of_quiet (s : State) {r : Request} (reason : Nat) (data : List Nat) (h : bitOf (r.word 0) 0 = true) :
    s.reply r 0 reason data = s := by
  have hq : bitOf (r.words.getD 0 0) 0 = true := h
  simp only [State.reply, hq, beq_self_eq_true, Bool.and_self, if_true]

/-- A message is written at once into a channel that is EMPTY and for which nothing waits that must leave first. -/
theorem State.send_of_empty (s : State) {m : OutMsg} (hempty : s.channelFull m.channel = false)
    (hwaits : ∀ q ∈ s.mailbox.queue, q.channel = m.channel → q.isReply = false ∧ m.isReply = true) :
    s.send m = s.writeMsg m.channel m.words := by
  have hblocked : (s.mailbox.queue.any fun q => q.channel == m.channel && (q.isReply || !m.isReply)) = false := by
    rw [List.any_eq_false]
    intro q hq
    by_cases hc : q.channel = m.channel
    · simp [hwaits q hq hc]
    · simp [hc]
  have hstate : s.isSet (F.mbxChCtlState m.channel) = false := hempty
  simp only [State.send, hblocked, hstate, Bool.or_self, Bool.false_eq_true, if_false]

/-- A reply that is neither suppressed nor held back is its words, written into its channel, and a trace record. -/
theorem State.reply_of_empty (s : State) {r : Request} {status : Nat} (reason : Nat) (data : List Nat)
    (hloud : ¬ (status = 0 ∧ bitOf (r.word 0) 0 = true)) (hempty : s.channelFull r.reply = false)
    (hwaits : ∀ q ∈ s.mailbox.queue, q.channel = r.reply → q.isReply = false) :
    s.reply r status reason data = (s.writeMsg r.reply (padWords (replyWords r status reason data))).trace 3 177 r.channel
      (status * 2 ^ 24 + reason * 2 ^ 16 + r.channel) := by
  have hq : (status == 0 && bitOf (r.words.getD 0 0) 0) = false := by
    simpa [Request.word] using hloud
  have hsend := s.send_of_empty (m := { channel := r.reply, isReply := true, words := padWords (replyWords r status reason data) })
    hempty fun q hq hc => ⟨hwaits q hq hc, rfl⟩
  rw [← hsend]
  simp only [State.reply, hq, Bool.false_eq_true, if_false]
  rfl

theorem length_padWords_replyWords (r : Request) (status reason : Nat) (data : List Nat) :
    (padWords (replyWords r status reason data)).length = max 8 (data.length + 2) := by
  rw [length_padWords]; rfl

/-- A register below those of the trace ring keeps its value in a trace record. -/
theorem State.getF_trace (s : State) (src point data0 data1 : Nat) {f : Field} (hf : f.key < 32 * 0x60000) :
    (s.trace src point data0 data1).getF f = s.getF f := by
  refine State.ReadsOff.refl s traceFields |>.trace (fun _ h => h) src point data0 data1 f fun g hg => ?_
  simp only [traceFields, List.mem_cons, List.not_mem_nil, or_false] at hg
  rcases hg with rfl | rfl | rfl | rfl <;> simp only [Field.key] at hf ⊢ <;> omega

section
variable {s : State} {r : Request} {status : Nat} {data : List Nat}
  (hloud : ¬ (status = 0 ∧ bitOf (r.word 0) 0 = true)) (hempty : s.channelFull r.reply = false)
  (hwaits : ∀ q ∈ s.mailbox.queue, q.channel = r.reply → q.isReply = false)
include hloud hempty hwaits

theorem State.channelFull_reply (hreply : r.reply < 32) (reason : Nat) :
    (s.reply r status reason data).channelFull r.reply = true := by
  rw [s.reply_of_empty reason data hloud hempty hwaits, State.channelFull, State.isSet,
    State.getF_trace _ _ _ _ _ (by simp only [Field.key]; omega)]
  exact State.channelFull_writeMsg _ _ _

theorem State.getF_msgWord_reply (hdata : data.length ≤ 14) (hreply : r.reply < 32) (reason : Nat) {i : Nat}
    (hi : i < max 8 (data.length + 2)) : (s.reply r status reason data).getF (F.mbxMsgWord r.reply i)
      = (padWords (replyWords r status reason data)).getD i 0 % 2 ^ 32 := by
  rw [s.reply_of_empty reason data hloud hempty hwaits, State.getF_trace _ _ _ _ _ (by simp only [Field.key]; omega),
    State.getF_msgWord_writeMsg _ _ _ (by rwa [length_padWords_replyWords])]

/-- R385: what a reply written at once holds. -/
theorem State.reply_words {reason : Nat} (hdata : data.length ≤ 14) (hreply : r.reply < 32) (hminor : r.minor < 16)
    (hstatus : status < 256) (hreason : reason < 256) (hch : r.channel < 32) (hwords : ∀ d ∈ data, d < 2 ^ 32) :
    (s.reply r status reason data).getF (F.mbxMsgWord r.reply 0)
        = headerWord r.minor r.opcode (bitsOf (r.word 0) 8 8) (max 8 (data.length + 2)) 0
    ∧ (s.reply r status reason data).getF (F.mbxMsgWord r.reply 1) = status * 2 ^ 24 + reason * 2 ^ 16 + r.channel
    ∧ ∀ i < data.length, (s.reply r status reason data).getF (F.mbxMsgWord r.reply (i + 2)) = data.getD i 0 := by
  have word {i : Nat} (hi : i < data.length + 2) (hfit : (replyWords r status reason data).getD i 0 < 2 ^ 32) :
      (s.reply r status reason data).getF (F.mbxMsgWord r.reply i) = (replyWords r status reason data).getD i 0 := by
    rw [State.getF_msgWord_reply hloud hempty hwaits hdata hreply reason (by omega), getD_padWords _ hi,
      Nat.mod_eq_of_lt hfit]
  refine ⟨word (by omega) ?_, word (by omega) ?_, fun i hi => word (by omega) ?_⟩
  · exact (headerWord_fields hminor (Nat.mod_lt _ (by decide)) (Nat.mod_lt _ (by decide)) (by omega)).1
  · show status * 2 ^ 24 + reason * 2 ^ 16 + r.channel < 2 ^ 32
    omega
  · show data.getD i 0 < 2 ^ 32
    rw [List.getD_eq_getElem?_getD, List.getElem?_eq_getElem hi, Option.getD_some]
    exact hwords _ (List.getElem_mem hi)

/-- Beside its message and its trace record, a reply changes nothing. -/
theorem State.reply_frame (hdata : data.length ≤ 14) (reason : Nat) : s.Frame (s.reply r status reason data) [.logRam, .ecc]
    ([F.mbxChCtlState r.reply, F.mbxHevtFull] ++ traceFields ++ (List.range 16).map (F.mbxMsgWord r.reply)) := by
  rw [s.reply_of_empty reason data hloud hempty hwaits]
  refine State.Kept.frame ?_ ?_
  · exact State.trace_kept (fun x => by cases x <;> decide) _ _ _ _ _
      (State.writeMsg_kept (fun x => by cases x <;> decide) _ _ _ (.refl s))
  · refine State.ReadsOff.trace ((s.writeMsg_readsOff _ _).mono fun g hg => ?_) (by simp +contextual) _ _ _ _
    rw [length_padWords_replyWords, messageFields, List.mem_append, List.mem_map] at hg
    rcases hg with hg | ⟨i, hi, rfl⟩
    · exact List.mem_append_left _ (List.mem_append_left _ hg)
    · exact List.mem_append_right _ (List.mem_map.2 ⟨i, by rw [List.mem_range] at hi ⊢; omega, rfl⟩)

end

/-! ### Requests -/

theorem State.requestIn_word_zero (s : State) (ch : Nat) : (s.requestIn ch).word 0 = s.getF (F.mbxMsgWord ch 0) := by
  have h : 0 < min (8 + bitsOf (s.getF (F.mbxMsgWord ch 0)) 4 4) 16 := by omega
  simp [Request.word, State.requestIn, h]

/-- The reply channel of a request is `State.replyChannel` of its opcode. -/
theorem State.requestIn_reply (s : State) (ch : Nat) :
    (s.requestIn ch).reply = s.replyChannel ch (s.requestIn ch).opcode (s.getF (F.mbxMsgWord ch 2)) := by
  rw [Request.opcode, State.requestIn_word_zero]; rfl

/-- R387: the reply to an OPEN goes to the channel it names, where that is a reply channel. -/
theorem State.requestIn_reply_of_open (s : State) {ch : Nat} (h28 : ch ≠ 28) (h30 : ch ≠ 30) (hop : (s.requestIn ch).opcode = 1) :
    (s.requestIn ch).reply = if 16 ≤ s.getF (F.mbxMsgWord ch 2) / 2 ^ 24 ∧ s.getF (F.mbxMsgWord ch 2) / 2 ^ 24 ≤ 27
      then s.getF (F.mbxMsgWord ch 2) / 2 ^ 24 else 16 + ch % 12 := by
  rw [State.requestIn_reply, State.replyChannel, if_neg (by omega), if_pos hop]

/-- R387: the reply to any other request goes to the channel of its session. -/
theorem State.requestIn_reply_of_not_open (s : State) {ch : Nat} (h28 : ch ≠ 28) (h30 : ch ≠ 30)
    (hop : (s.requestIn ch).opcode ≠ 1) :
    (s.requestIn ch).reply = if s.sessionOn ch then s.getF (F.mbxSesAReply ch) else 16 + ch % 12 := by
  rw [State.requestIn_reply, State.replyChannel, if_neg (by omega), if_neg hop]

/-! ### The outbound queue, R391 -/

theorem dropFirst_append (p : OutMsg → Bool) {a : List OutMsg} (ha : ∀ x ∈ a, p x = false) {m : OutMsg} (hm : p m = true)
    (b : List OutMsg) : dropFirst p (a ++ m :: b) = a ++ b := by
  induction a with
  | nil => simp [dropFirst, hm]
  | cons x a ih =>
    simp [dropFirst, ha x List.mem_cons_self, ih fun y hy => ha y (List.mem_cons_of_mem x hy)]

theorem dropFirst_subset (p : OutMsg → Bool) (q : List OutMsg) : ∀ x ∈ dropFirst p q, x ∈ q := by
  induction q with
  | nil => simp [dropFirst]
  | cons m q ih =>
    intro x hx
    simp only [dropFirst] at hx
    split at hx
    · exact List.mem_cons_of_mem m hx
    · rcases List.mem_cons.1 hx with rfl | hx
      · exact List.mem_cons_self
      · exact List.mem_cons_of_mem m (ih x hx)

theorem length_dropFirst {p : OutMsg → Bool} {q : List OutMsg} (h : q.any p = true) :
    (dropFirst p q).length = q.length - 1 := by
  obtain ⟨m, hm⟩ := Option.isSome_iff_exists.1 (List.find?_isSome.2 (List.any_eq_true.1 h))
  obtain ⟨hp, a, b, rfl, ha⟩ := List.find?_eq_some_iff_append.1 hm
  rw [dropFirst_append p (fun x hx => by simpa using ha x hx) hp]
  simp

/-- The queue as a message finds it that joins: at 64 the oldest notification, or else the oldest reply, has been dropped. -/
def madeRoom (q : List OutMsg) : List OutMsg :=
  if 64 ≤ q.length then (if q.any (!·.isReply) then dropFirst (!·.isReply) q else q.tail) else q

theorem madeRoom_of_room {q : List OutMsg} (h : q.length < 64) : madeRoom q = q := by
  rw [madeRoom, if_neg (by omega)]

theorem madeRoom_of_notification {a b : List OutMsg} {m : OutMsg} (hlen : (a ++ m :: b).length = 64)
    (ha : ∀ x ∈ a, x.isReply = true) (hm : m.isReply = false) : madeRoom (a ++ m :: b) = a ++ b := by
  rw [madeRoom, if_pos (Nat.le_of_eq hlen.symm), if_pos (by simp [hm]), dropFirst_append _ (fun x hx => by simp [ha x hx]) (by simp [hm])]

theorem madeRoom_of_replies {q : List OutMsg} (hlen : q.length = 64) (h : ∀ x ∈ q, x.isReply = true) :
    madeRoom q = q.tail := by
  have hany : q.any (!·.isReply) = false := List.any_eq_false.2 fun x hx => by simp [h x hx]
  rw [madeRoom, if_pos (Nat.le_of_eq hlen.symm), hany, if_neg Bool.false_ne_true]

theorem madeRoom_subset (q : List OutMsg) : ∀ x ∈ madeRoom q, x ∈ q := by
  intro x hx
  rw [madeRoom] at hx
  split at hx
  · split at hx
    · exact dropFirst_subset _ q x hx
    · exact List.mem_of_mem_tail hx
  · exact hx

theorem length_madeRoom_of_full {q : List OutMsg} (hlen : q.length = 64) : (madeRoom q).length = 63 := by
  rw [madeRoom, if_pos (Nat.le_of_eq hlen.symm)]
  split
  case isTrue h => rw [length_dropFirst h, hlen]
  case isFalse => rw [List.length_tail, hlen]

theorem State.enqueue_queue (s : State) (m : OutMsg) :
    (s.enqueue m).mailbox.queue = madeRoom s.mailbox.queue ++ [{ m with absent := s.isSet F.mbxHostAbsent }] := by
  unfold State.enqueue State.when madeRoom
  by_cases h : 64 ≤ s.mailbox.queue.length
  · simp only [h, decide_true, if_true]; rfl
  · simp only [h, decide_false, Bool.false_eq_true, if_false]; rfl

/-- The registers that a message changes that joins the queue. -/
def queueFields : List Field := [F.mbxQueueDepth, F.mbxQueueDropped, F.mbxMevt]

theorem State.enqueue_readsOff (s : State) (m : OutMsg) : s.ReadsOff (s.enqueue m) queueFields := by
  unfold State.enqueue
  refine State.ReadsOff.when (State.ReadsOff.setF ?_ (by simp [queueFields]) _) fun u hu =>
    (hu.setF (f := F.mbxQueueDropped) (by simp [queueFields]) _).setF (f := F.mbxMevt) (by simp [queueFields]) _
  exact (State.ReadsOff.refl s _).of_fields_eq rfl

theorem State.enqueue_depth (s : State) (m : OutMsg) :
    (s.enqueue m).getF F.mbxQueueDepth = ((madeRoom s.mailbox.queue).length + 1) % 2 ^ 7 := by
  have hkeys : F.mbxQueueDepth.key ≠ F.mbxMevt.key ∧ F.mbxQueueDepth.key ≠ F.mbxQueueDropped.key := by decide
  unfold State.enqueue State.when madeRoom
  by_cases h : 64 ≤ s.mailbox.queue.length
  · simp only [h, decide_true, if_true, State.raise, State.orF, State.incF, State.addF, State.satF,
      State.getF_setF_ne _ _ hkeys.1, State.getF_setF_ne _ _ hkeys.2, State.getF_setF_self]
  · simp only [h, decide_false, Bool.false_eq_true, if_false, State.getF_setF_self]

/-- A message that joins a full queue is counted in DROPPED, and raises QUEUE_DROP. -/
theorem State.enqueue_of_full (s : State) (m : OutMsg) (h : 64 ≤ s.mailbox.queue.length) :
    bitOf ((s.enqueue m).getF F.mbxMevt) 3 = true
    ∧ (s.enqueue m).getF F.mbxQueueDropped = min (s.getF F.mbxQueueDropped + 1) (2 ^ F.mbxQueueDropped.width - 1) := by
  have hkeys : F.mbxQueueDropped.key ≠ F.mbxMevt.key ∧ F.mbxQueueDropped.key ≠ F.mbxQueueDepth.key := by decide
  have hfit : min (s.getF F.mbxQueueDropped + 1) (2 ^ 16 - 1) < 2 ^ 16 := by omega
  simp only [State.enqueue, State.when, h, decide_true, if_true]
  refine ⟨?_, ?_⟩
  · rw [State.raise, State.orF, State.getF_setF_self]
    exact bitOf_or_two_pow_three _
  · rw [State.raise, State.orF, State.getF_setF_ne _ _ hkeys.1, State.incF, State.addF, State.satF, State.getF_setF_self,
      State.getF_setF_ne _ _ hkeys.2]
    exact Nat.mod_eq_of_lt hfit

/-- A message sent joins the queue, or is written at once. -/
theorem State.send_eq (s : State) (m : OutMsg) : s.send m = s.enqueue m ∨ s.send m = s.writeMsg m.channel m.words := by
  unfold State.send
  dsimp only
  split
  · exact .inl rfl
  · exact .inr rfl

theorem State.send_of_full (s : State) {m : OutMsg} (h : s.channelFull m.channel = true) : s.send m = s.enqueue m := by
  have hstate : s.isSet (F.mbxChCtlState m.channel) = true := h
  simp only [State.send, hstate, Bool.true_or, if_true]

/-! ### Absence -/

/-- The host is absent, and every message in the queue has waited while it was. -/
def State.QueueAway (s : State) : Prop := s.isSet F.mbxHostAbsent = true ∧ ∀ q ∈ s.mailbox.queue, q.absent = true

@[simp] theorem State.getF_mapMail (s : State) (g : Mailbox → Mailbox) (f : Field) : (s.mapMail g).getF f = s.getF f := rfl

namespace State.QueueAway

variable {s t : State}

theorem of_same (h : s.QueueAway) (hq : t.mailbox.queue = s.mailbox.queue)
    (ha : t.getF F.mbxHostAbsent = s.getF F.mbxHostAbsent) : t.QueueAway := by
  obtain ⟨habsent, hall⟩ := h
  exact ⟨by rw [State.isSet, ha]; exact habsent, by rw [hq]; exact hall⟩

theorem enqueue (h : s.QueueAway) (m : OutMsg) : (s.enqueue m).QueueAway := by
  obtain ⟨habsent, hall⟩ := h
  refine ⟨?_, fun q hq => ?_⟩
  · rw [State.isSet, s.enqueue_readsOff m F.mbxHostAbsent (by decide)]
    exact habsent
  · rw [State.enqueue_queue, List.mem_append, List.mem_singleton] at hq
    rcases hq with hq | rfl
    · exact hall q (madeRoom_subset _ q hq)
    · exact habsent

theorem writeMsg (h : s.QueueAway) (ch : Nat) (words : List Nat) : (s.writeMsg ch words).QueueAway := by
  refine h.of_same ?_ (s.writeMsg_readsOff ch words F.mbxHostAbsent ?_)
  · rw [State.writeMsg_mailbox]
  · simp only [messageFields, List.mem_append, List.mem_cons, List.not_mem_nil, or_false, List.mem_map]
    rintro g ((rfl | rfl) | ⟨i, -, rfl⟩) <;> simp only [Field.key] <;> omega

theorem send (h : s.QueueAway) (m : OutMsg) : (s.send m).QueueAway := by
  rcases s.send_eq m with e | e <;> rw [e]
  · exact h.enqueue m
  · exact h.writeMsg _ _

theorem notifyOn (h : s.QueueAway) (ch opcode minor : Nat) (data : List Nat) : (s.notifyOn ch opcode minor data).QueueAway := by
  unfold State.notifyOn
  refine send ?_ _
  exact h.of_same rfl rfl

theorem log (h : s.QueueAway) (src sev code : Nat) (data : List Nat) : (s.log src sev code data).QueueAway := by
  have hk := State.log_kept (pp := fun x => decide (x ∈ [Part.fields, .logRam, .ecc])) (fun x => by cases x <;> decide)
    s src sev code data (.refl s)
  refine h.of_same (congrArg Mailbox.queue (hk.2.2 .mailbox (by decide))) ?_
  exact (State.ReadsOff.refl s logFields).log (fun _ hg => hg) src sev code data F.mbxHostAbsent (by decide)

theorem latchPm (h : s.QueueAway) (page reg bits : Nat) : (s.latchPm page reg bits).QueueAway := by
  have hk := State.latchPm_kept (pp := fun x => decide (x ∈ [Part.pmbus, .pins])) (fun x => by cases x <;> decide)
    s page reg bits (.refl s)
  exact h.of_same (congrArg Mailbox.queue (hk.2.2 .mailbox (by decide)))
    (State.ReadsOff.of_fields_eq (.refl s []) (hk.2.2 .fields (by decide)) _ (by simp))

theorem forEach {α : Type} (h : s.QueueAway) (l : List α) {f : State → α → State}
    (hf : ∀ u : State, u.QueueAway → ∀ x, (f u x).QueueAway) : (s.forEach l f).QueueAway := by
  induction l generalizing s with
  | nil => exact h
  | cons x l ih => exact ih (hf s h x)

theorem when {c : Bool} {f : State → State} (h : s.QueueAway) (hf : ∀ u : State, u.QueueAway → (f u).QueueAway) :
    (s.when c f).QueueAway := by
  unfold State.when
  split
  · exact hf s h
  · exact h

theorem notify (h : s.QueueAway) (cls opcode : Nat) (data : List Nat) : (s.notify cls opcode data).QueueAway := by
  unfold State.notify
  split
  · exact h
  · refine forEach (h.when fun u hu => ?_) _ fun u hu ch => ?_
    · exact hu.of_same rfl rfl
    · split
      · exact hu
      · exact hu.notifyOn _ _ _ _

theorem settleFleet (h : s.QueueAway) : s.settleFleet.QueueAway := by
  unfold State.settleFleet
  dsimp only
  split
  · exact h
  · refine notify (latchPm ?_ _ _ _) _ _ _
    exact h.of_same rfl rfl

end State.QueueAway

/-- R393: from the begin of an absence on, every message in the queue has waited while the host was absent. -/
theorem State.beginAbsence_queueAway (s : State) : s.beginAbsence.QueueAway := by
  unfold State.beginAbsence
  refine State.QueueAway.settleFleet ?_
  refine State.QueueAway.when ?_ fun u hu => hu.log _ _ _ _
  refine ⟨?_, fun q hq => ?_⟩
  · simp [State.isSet, State.getF_setF, Field.key]
  · obtain ⟨m, -, rfl⟩ := List.mem_map.1 hq
    rfl

/-! ### The drain -/

/-- R391: the message that leaves next on a channel, and its place in the queue. -/
theorem nextFor_eq_some {ch : Nat} {q : List OutMsg} {m : OutMsg} (h : nextFor ch q = some m) :
    ∃ a b, q = a ++ m :: b ∧ dropFirst (· == m) q = a ++ b
      ∧ (∀ x ∈ a, x.channel = ch → m.isReply = true ∧ x.isReply = false)
      ∧ ((∃ x ∈ q, x.channel = ch ∧ x.isReply = true) → m.isReply = true) := by
  have place {p : OutMsg → Bool} (hp : ∀ x, p x = true → x.channel = ch) (hf : q.find? p = some m)
      (hm : ∀ x, x.channel = ch → p x = false → m.isReply = true ∧ x.isReply = false) :
      ∃ a b, q = a ++ m :: b ∧ dropFirst (· == m) q = a ++ b
        ∧ ∀ x ∈ a, x.channel = ch → m.isReply = true ∧ x.isReply = false := by
    obtain ⟨hpm, a, b, rfl, ha⟩ := List.find?_eq_some_iff_append.1 hf
    have hfirst : ∀ x ∈ a, p x = false := fun x hx => by simpa using ha x hx
    have hne : ∀ x ∈ a, (x == m) = false := fun x hx =>
      beq_false_of_ne fun e => Bool.false_ne_true ((hfirst x hx).symm.trans (e ▸ hpm))
    exact ⟨a, b, rfl, dropFirst_append _ hne (beq_self_eq_true m) b, fun x hx hc => hm x hc (hfirst x hx)⟩
  unfold nextFor at h
  split at h
  case h_1 r hr =>
    cases h
    obtain ⟨-, hreply⟩ : m.channel = ch ∧ m.isReply = true := by simpa using List.find?_some hr
    obtain ⟨a, b, hq, hdrop, ha⟩ := place (fun x hx => (by simpa using hx : x.channel = ch ∧ _).1) hr
      fun x hc hx => ⟨hreply, by simpa [hc] using hx⟩
    exact ⟨a, b, hq, hdrop, ha, fun _ => hreply⟩
  case h_2 hr =>
    have hnone : ∀ x ∈ q, x.channel = ch → x.isReply = false := by simpa using hr
    obtain ⟨a, b, hq, hdrop, ha⟩ := place (by simp) h fun x hc hx => by simp [hc] at hx
    exact ⟨a, b, hq, hdrop, ha, fun ⟨x, hx, hc, hreply⟩ => absurd (hnone x hx hc) (by simp [hreply])⟩

/-- OUTBOUND_QUEUE_DRAIN: the next message leaves the queue, and is written. -/
theorem exec_outboundQueueDrain {s : State} {ch : Fin 32} {m : OutMsg} (hruns : s.running 2 = true)
    (hempty : s.channelFull ch.val = false) (hnext : nextFor ch.val s.mailbox.queue = some m) :
    exec (.outboundQueueDrain ch) s = .next
      (((s.mapMail fun v => { v with queue := dropFirst (· == m) v.queue }).setF F.mbxQueueDepth
        (dropFirst (· == m) s.mailbox.queue).length).writeMsg ch.val (queuedWords m)) := by
  show execOutboundQueueDrain ch s = _
  simp only [execOutboundQueueDrain, hruns, hempty, hnext, Bool.not_true, Bool.or_self, Bool.false_eq_true, if_false]
  rfl

theorem bitOf_queuedWords_of_absent (m : OutMsg) (habsent : m.absent = true) (hwords : m.words ≠ []) :
    bitOf ((queuedWords m).getD 0 0 % 2 ^ 32) 0 = true := by
  obtain ⟨h, l, e⟩ := List.exists_cons_of_ne_nil hwords
  simp only [queuedWords, e, habsent, if_true, List.getD_cons_zero]
  exact bitOf_setBit_zero h

theorem length_queuedWords (m : OutMsg) : (queuedWords m).length = m.words.length := by
  unfold queuedWords
  split <;> simp_all

/-! ### The statement -/

/-- Settles O10: a reply written at once by the words it writes, a message on a FULL channel by the room made in the queue,
the drain by the place of the message that leaves next. -/
theorem repliesAndQueue : Obligations.RepliesAndQueue := by
  unfold Obligations.RepliesAndQueue
  refine ⟨fun s ch => ?_, fun s r status reason data => ?_, fun s => ?_⟩
  · intro r named
    refine ⟨fun h => ?_, fun h => ?_, fun h28 h30 => ⟨fun hop => ?_, fun hop => ?_⟩⟩
    · simp only [r, State.requestIn, h, if_true]
    · simp only [r, State.requestIn_reply, State.replyChannel, h, if_true]
    · have hr : r.reply = if 16 ≤ named ∧ named ≤ 27 then named else 16 + ch % 12 := s.requestIn_reply_of_open h28 h30 hop
      exact ⟨fun hlo hhi => by rw [hr, if_pos ⟨hlo, hhi⟩], fun hout => by rw [hr, if_neg (by omega)]⟩
    · exact s.requestIn_reply_of_not_open h28 h30 hop
  · refine ⟨fun hquiet => s.reply_of_quiet reason data hquiet, ?_⟩
    intro hloud hempty hwaits hdata hreply hminor hstatus hreason hch hwords t h
    obtain ⟨hword0, hword1, hword2⟩ :=
      State.reply_words hloud hempty hwaits hdata hreply hminor hstatus hreason hch hwords
    obtain ⟨-, hversion, hmin, hop, hseq, hlen, hflags⟩ :=
      headerWord_fields (opcode := r.opcode) (seq := bitsOf (r.word 0) 8 8) (n := max 8 (data.length + 2)) hminor
        (Nat.mod_lt _ (by decide)) (Nat.mod_lt _ (by decide)) (by omega)
    rw [← hword0] at hversion hmin hop hseq hlen hflags
    exact ⟨State.channelFull_reply hloud hempty hwaits hreply reason, hversion, hmin, hop, hseq, hlen, hflags, hword1,
      hword2, State.reply_frame hloud hempty hwaits hdata reason⟩
  · refine ⟨s.beginAbsence_queueAway.2, fun m hfull hroom => ?_, fun m hfull hlen => ?_, fun ch m hruns hempty hnext => ?_⟩
    · rw [s.send_of_full hfull, State.enqueue_queue, State.enqueue_depth, madeRoom_of_room hroom]
      exact ⟨rfl, Nat.mod_eq_of_lt (by omega)⟩
    · obtain ⟨hevent, hdropped⟩ := s.enqueue_of_full m (Nat.le_of_eq hlen.symm)
      rw [s.send_of_full hfull, State.enqueue_queue, State.enqueue_depth]
      refine ⟨hevent, by simp [length_madeRoom_of_full hlen], hdropped, by simp [length_madeRoom_of_full hlen], ?_, ?_⟩
      · intro a q b e ha hq
        rw [e] at hlen ⊢
        rw [madeRoom_of_notification hlen ha hq]
      · intro hall
        rw [madeRoom_of_replies hlen hall]
    · obtain ⟨a, b, hqueue, hdrop, hfirst, hreplies⟩ := nextFor_eq_some hnext
      refine ⟨_, exec_outboundQueueDrain hruns hempty hnext, State.channelFull_writeMsg _ _ _, ?_, ?_, hreplies, ?_, ?_⟩
      · rw [State.writeMsg_mailbox]; rfl
      · exact ⟨a, b, hqueue, by rw [State.writeMsg_mailbox]; exact hdrop, hfirst⟩
      · intro habsent hwords
        rw [State.getF_msgWord_writeMsg _ _ _ (by rw [length_queuedWords]; exact List.length_pos_iff.2 hwords)]
        exact bitOf_queuedWords_of_absent m habsent hwords
      · exact fun i hi _ => State.getF_msgWord_writeMsg _ _ _ hi

end Sys2Proof.Machine
end

section
/-! PROOFS. Chapter 14, the channels that the host fabric does not reach: what their binding entries show to a read, and the
refutation of O57. -/
namespace Sys2Proof.Machine

/-- The channels that the host fabric does not reach, R381. -/
theorem unreachable_cases {ch : Nat} (h28 : 28 ≤ ch) (h32 : ch < 32) : ch = 28 ∨ ch = 29 ∨ ch = 30 ∨ ch = 31 := by omega

/-- The binding entry of a channel has two fields, MASTER_B over MASTER_A, which host software cannot write, R379. -/
theorem fieldsAt_binding {ch : Nat} (h28 : 28 ≤ ch) (h32 : ch < 32) :
    (fieldsAt (0x30200 + 4 * ch)).map (fun r => (r.1.lo, r.1.width, r.1.acc)) = [(16, 16, .ro), (0, 16, .ro)] := by
  obtain rfl | rfl | rfl | rfl := unreachable_cases h28 h32 <;> decide +kernel

theorem State.word_binding (s : State) {ch : Nat} (h28 : 28 ≤ ch) (h32 : ch < 32) :
    s.word (0x30200 + 4 * ch) = s.getF (F.mbxChBindMasterB ch) * 2 ^ 16 + s.getF (F.mbxChBindMasterA ch) := by
  have h := congrArg (List.map fun p : Nat × Nat × Access =>
    if p.2.2 = .wo then 0 else s.getF ⟨0x30200 + 4 * ch, p.1, p.2.1⟩ * 2 ^ p.1) (fieldsAt_binding h28 h32)
  rw [List.map_map] at h
  refine (congrArg sumNat h).trans ?_
  simp [sumNat]

theorem State.shown_binding (s : State) {ch : Nat} (h28 : 28 ≤ ch) (h32 : ch < 32) :
    s.shown (0x30200 + 4 * ch)
      = s.getF (F.mbxChBindMasterB ch) % 2 ^ 16 * 2 ^ 16 + s.getF (F.mbxChBindMasterA ch) % 2 ^ 16 := by
  have hoff : s.windowOff (0x30200 + 4 * ch) = false := by
    obtain rfl | rfl | rfl | rfl := unreachable_cases h28 h32 <;> rfl
  have hlead : s.leaderOnly (0x30200 + 4 * ch) = false := by
    obtain rfl | rfl | rfl | rfl := unreachable_cases h28 h32 <;> exact Bool.and_false _
  have hlive : s.live (0x30200 + 4 * ch) = [] := by
    obtain rfl | rfl | rfl | rfl := unreachable_cases h28 h32 <;> rfl
  have h := congrArg (List.map fun p : Nat × Nat × Access =>
    if p.2.2 = .wo then 0 else s.getF ⟨0x30200 + 4 * ch, p.1, p.2.1⟩ % 2 ^ p.2.1 * 2 ^ p.1) (fieldsAt_binding h28 h32)
  rw [List.map_map] at h
  simp only [State.shown, hoff, hlead, hlive, Bool.or_self, Bool.false_eq_true, if_false]
  refine (congrArg sumNat h).trans ?_
  simp [sumNat]

theorem State.hostRead_binding (s : State) (m : Nat) {ch : Nat} (h28 : 28 ≤ ch) (h32 : ch < 32) :
    s.hostRead m (0x30200 + 4 * ch) = s.complete (s.shown (0x30200 + 4 * ch)) false := by
  obtain rfl | rfl | rfl | rfl := unreachable_cases h28 h32 <;> rfl

/-- R381: a read of the binding entry of a channel that the host fabric does not reach answers 0xFFFFFFFF, and changes nothing
but the port, where the register's word is 0xFFFFFFFF and its two fields hold no more than their 16 bits. -/
theorem completes_read_binding_of_fits {s : State} (m : Master) {off : Offset} {ch : Nat} (h28 : 28 ≤ ch) (h32 : ch < 32)
    (hoff : off.toNat = 0x30200 + 4 * ch) (hA : s.getF (F.mbxChBindMasterA ch) < 2 ^ 16)
    (hB : s.getF (F.mbxChBindMasterB ch) < 2 ^ 16) (hword : s.word off.toNat = 0xFFFFFFFF) :
    ∀ c ∈ [Instr.read64LowWord m off, .read64HighWord m off], Completes c s fun t =>
      t.port.value = 0xFFFFFFFF ∧ t.port.error = false ∧ s.Frame t [.port] [] := by
  have hshown : s.shown off.toNat = 0xFFFFFFFF := by
    rw [hoff, s.word_binding h28 h32] at hword
    rw [hoff, s.shown_binding h28 h32, Nat.mod_eq_of_lt hA, Nat.mod_eq_of_lt hB, hword]
  have hread : s.hostRead m.toNat off.toNat = s.complete 0xFFFFFFFF false := by
    rw [← hshown, hoff, s.hostRead_binding _ h28 h32]
  have haligned : ¬ off.toNat % 4 ≠ 0 := by omega
  have hexec : execRead64LowWord m off s = .next (s.complete 0xFFFFFFFF false) := by
    rw [execRead64LowWord, if_neg haligned, hread]
  have hframe : s.Frame (s.complete 0xFFFFFFFF false) [.port] [] :=
    (State.complete_kept (fun x => by cases x <;> decide) s _ _ (.refl s)).frame fun _ _ => rfl
  simp only [List.forall_mem_cons, List.not_mem_nil, false_imp_iff, implies_true, and_true]
  exact ⟨⟨_, hexec, rfl, rfl, hframe⟩, ⟨_, hexec, rfl, rfl, hframe⟩⟩

/-- The state after reset meets the hypotheses of `completes_read_binding_of_fits`. -/
theorem completes_read_binding_reset : Completes (.read64LowWord 5 0x3027C#20) State.reset fun t =>
    t.port.value = 0xFFFFFFFF ∧ t.port.error = false ∧ State.reset.Frame t [.port] [] :=
  completes_read_binding_of_fits 5 (off := 0x3027C#20) (ch := 31) (by decide) (by decide) (by decide)
    (by decide +kernel) (by decide +kernel) (by decide +kernel) _ (by simp)

/-- After reset, but the 16-bit field MASTER_A of channel 28's binding entry holds a value of 32 bits, and MASTER_B holds 0.
No write brings it about, since `State.setF` cuts a value to its field's width. -/
def overwideBinding : State :=
  { State.reset with fields := [((F.mbxChBindMasterA 28).key, 0xFFFFFFFF), ((F.mbxChBindMasterB 28).key, 0)] }

/-- The register file is canonical. The register's word is the sum of what its fields hold, uncut, while a read shows each field cut to its width. -/
theorem overwideBinding_word_and_read : overwideBinding.Canonical
    ∧ overwideBinding.word 0x30270 = 0xFFFFFFFF
    ∧ (Outcome.after (exec (.read64LowWord 5 0x30270#20) overwideBinding) overwideBinding).port.value = 0xFFFF := by
  decide +kernel

/-- Refutes O57, in its last clause: where a binding field of channel 28 holds more than its width, `State.word` is
0xFFFFFFFF and the read answers 0xFFFF. With fields that fit, `completes_read_binding_of_fits` has the clause. -/
theorem not_unreachableChannels : ¬ Obligations.UnreachableChannels := by
  unfold Obligations.UnreachableChannels
  rintro ⟨-, -, hbind⟩
  obtain ⟨-, hword, hread⟩ := overwideBinding_word_and_read
  obtain ⟨t, ht, hvalue, -, -⟩ := (hbind overwideBinding 5 0x30270#20 0 28 (by decide) (by decide) (by decide)).2
    hword (.read64LowWord 5 0x30270#20) (by simp)
  rw [ht] at hread
  exact absurd (hvalue.symm.trans hread) (by decide)

end Sys2Proof.Machine
end
